-- ==== Sys2Proof/Word.lean ====
section
/-!
DEFINITION. The words of the machine and their plainest arithmetic (R4, R10, R125).
-/
namespace Sys2Proof

/-- A byte of memory. -/
abbrev Byte := BitVec 8
/-- A 32-bit word: half of a pair, a literal, a tile element. -/
abbrev Half := BitVec 32
/-- A 64-bit scalar register or queue word (R125, R29). -/
abbrev Word := BitVec 64
/-- The 2,048 bits of a v or o register or latch (R125). -/
abbrev Vec := BitVec 2048
/-- The 128 bits of a predicate register (R125). -/
abbrev Pred := BitVec 128
/-- A 5-bit format tag (R147). -/
abbrev Tag := BitVec 5

/-- The two's-complement reading of the low `n` bits of `x`. -/
def toSigned (n x : Nat) : Int :=
  let y := x % 2 ^ n
  if n = 0 then 0 else if y < 2 ^ (n - 1) then (y : Int) else (y : Int) - (2 ^ n : Nat)

/-- The `n`-bit natural number congruent to the integer `x` modulo 2^n. -/
def ofSigned (n : Nat) (x : Int) : Nat := (x % ((2 ^ n : Nat) : Int)).toNat

/-- R10: `sext(x, n)` to 64 bits. -/
def sext64 (n x : Nat) : Word := BitVec.ofInt 64 (toSigned n x)

/-- R10: `zext(x, n)` to 64 bits. -/
def zext64 (n x : Nat) : Word := BitVec.ofNat 64 (x % 2 ^ n)

/-- Bits hi:lo of a natural number. -/
def bits (x hi lo : Nat) : Nat := x / 2 ^ lo % 2 ^ (hi + 1 - lo)

/-- Bit `i` of a natural number. -/
def bit (x i : Nat) : Bool := x.testBit i

/-- 1 or 0. -/
def b2n (b : Bool) : Nat := if b then 1 else 0

/-- `x` with bits hi:lo replaced by `v`. -/
def putBits (x hi lo v : Nat) : Nat :=
  x - bits x hi lo * 2 ^ lo + v % 2 ^ (hi + 1 - lo) * 2 ^ lo

/-- Quotient rounded up. -/
def ceilDiv (a b : Nat) : Nat := (a + b - 1) / b

end Sys2Proof
end

