-- ==== Sys2Proof/Machine/Flags.lean ====
section
/-!
DEFINITION. The FLAGS bits (Table Core-4).
-/
namespace Sys2Proof.Machine

def fNV : Byte := 0x01
def fDZ : Byte := 0x02
def fOF : Byte := 0x04
def fUF : Byte := 0x08
def fNX : Byte := 0x10
def fSAT : Byte := 0x20
def fISC : Byte := 0x40
def fIDZ : Byte := 0x80

/-- The flag when the condition holds. -/
def flagIf (b : Bool) (f : Byte) : Byte := if b then f else 0

end Sys2Proof.Machine
end

