-- ==== Sys2Proof/Syntax.lean ====
section
/-!
DEFINITION. The instructions of the Balaz as syntax: one constructor of `Instr` for each row of
spec/opcode_table.json: the native instructions (R41, R42), and the steps that the device's other agents take
(95_what_each_step_holds), which the table lists beside them.
-/
namespace Sys2Proof

/-! ## Operands (R23, R24, R29) -/

/-- A scalar source (Table Instruction-4): a register, a latch, z, lit or a queue port. -/
inductive SSrc where
  | s (n : Fin 32) | la | lc | z | lit | q (n : Fin 16)
  deriving DecidableEq, Repr

/-- A scalar destination: a register, z (discard) or a queue port. -/
inductive SDst where
  | s (n : Fin 32) | z | q (n : Fin 16)
  deriving DecidableEq, Repr

/-- A scalar register read and written (R35), or z. -/
inductive SAcc where
  | s (n : Fin 32) | z
  deriving DecidableEq, Repr

/-- A vector source: v, o, a latch, z, lit or lane. -/
inductive VSrc where
  | v (n : Fin 32) | o (n : Fin 8) | la | lc | z | lit | lane
  deriving DecidableEq, Repr

/-- A vector destination: v, o or z. -/
inductive VDst where
  | v (n : Fin 32) | o (n : Fin 8) | z
  deriving DecidableEq, Repr

/-- An even vector code, naming a register and the one after it (R190 E). -/
inductive VPair where
  | v (n : Fin 16) | o (n : Fin 4)
  deriving DecidableEq, Repr

/-- A predicate register field p0-p7 (R180). -/
abbrev PReg := Fin 8

/-- USE of an atomic (Table Instruction-8). -/
inductive AUse where
  | unpaired | commutative | nonOrdering | quantum | speculative
  deriving DecidableEq, Repr

/-- ORDER of an atomic or kind of a release (Table Instruction-8). -/
inductive AOrder where
  | rlx | acq | rel | acqRel | seq
  deriving DecidableEq, Repr

/-- The attributes of a lone atomic (R36). -/
structure AAttr where
  use : AUse
  order : AOrder
  scope : Fin 16
  deriving DecidableEq, Repr

/-- The creation literal of spawn and spawnk (Table Task-2). -/
structure Creation where
  matrix : Bool
  dlevel : Option (Fin 8)
  gang : Fin 5
  prio : Option (Fin 32)
  deriving DecidableEq, Repr

/-- Kind of a fence (R353). -/
inductive FenceKind where
  | acq | rel | acqRel | seq
  deriving DecidableEq, Repr

inductive LdSize where
  | s8 | n8 | s16 | n16 | s32 | n32 | d64
  deriving DecidableEq, Repr

inductive AcqSize where
  | s32 | n32 | d64
  deriving DecidableEq, Repr

inductive StSize where
  | b8 | b16 | b32 | b64
  deriving DecidableEq, Repr

/-- 32 or 64 bits. -/
inductive W2 where
  | w32 | w64
  deriving DecidableEq, Repr

/-- The formats of famo (R363). -/
inductive FFmt where
  | bf16 | f32 | f64 | bf16x2 | f32x2
  deriving DecidableEq, Repr

/-- The two forms of an atomic: returning (D destination, A address, B value) and no-return (D value, A address). -/
inductive AForm where
  | ret (d : SDst) (a b : SSrc)
  | nr (d a : SSrc)
  deriving DecidableEq, Repr

/-- The three widths of compare-and-swap; .128 names even registers (R35). -/
inductive CasForm where
  | w32 (d : SAcc) (a b : SSrc)
  | w64 (d : SAcc) (a b : SSrc)
  | w128 (d : Fin 16) (a : SSrc) (b : Fin 16)
  deriving DecidableEq, Repr

/-- mst / mldt layout (Table Matrix-6): FORM 0 f32, 1 bf16, 2 s32, and STRIDE. -/
structure TileLayout where
  form : Fin 3
  stride : Fin 14
  deriving DecidableEq, Repr

/-! ## Parameters of the device's own steps -/

/-- A 64-bit value as a translation names it: a scalar register by its number, the record's ARGS, a constant, or the
k-th word that waits in a queue port. -/
inductive TVal where
  | reg (n : Nat) | args | const (v : Nat) | port (p k : Nat)
  deriving DecidableEq, Repr

/-- One `.xfer` of a communication step (R85). -/
structure Xfer where
  dest : TVal
  src : TVal
  len : Nat
  ch : Nat
  deriving DecidableEq, Repr

/-- A `dom0 X0 Y0 W H` clause (R406): the LAUNCH section it belongs to, counted from 0, and its rectangle. -/
structure Dom0 where
  launch : Nat
  x0 : Nat
  y0 : Nat
  width : Nat
  height : Nat
  deriving DecidableEq, Repr

/-- Where an object is to be loaded, and the `dom0` clauses of its launches. -/
structure LoadPlace where
  base : Nat
  dom0 : List Dom0
  deriving DecidableEq, Repr

/-- A region entry: the VPC offset of an operation, and CODEOFF of its body. -/
structure RegionEntry where
  off : Nat
  body : Nat
  deriving DecidableEq, Repr

/-- The kinds of access a home slice serves (Table Die-4). -/
inductive HomeKind where
  | load | store | atomic | engineWrite | engineRead
  deriving DecidableEq, Repr

/-- The modify operations an atomic unit performs (R372, R373, R375). -/
inductive RmwOp where
  | add | and | or | xor | smin | smax | nmin | nmax | swap
  | fadd (f : FFmt) | fmin (f : FFmt) | fmax (f : FFmt)
  | cas (expected : Nat)
  deriving DecidableEq, Repr

/-- Places an uncorrectable error can strike (Table Failures-7). -/
inductive ErrPlace where
  | cleanLine (pa : Nat)
  | memory (pa : Nat)
  | scratch (core line : Nat)
  | register (core slot code : Nat)
  | recordLine (pa : Nat)
  | dieState (die : Nat)
  | matrixAcc (core : Nat)
  | transEntry (die base : Nat)
  | paramEntry (die addr : Nat)
  | pageEntry (die ctx va : Nat)
  deriving DecidableEq, Repr

/-- Where a start fails (Table Package-4), if it does. -/
inductive StartFail where
  | bist | fuse | hbm | ddr | link | auth | rollback
  deriving DecidableEq, Repr

/-- The requests on which supervisor and host steps carry an argument block (Table Dispatch-8). -/
structure Req where
  ctx : Nat
  arg0 : Nat
  arg1 : Nat
  /-- address of the request block, whose STATUS the request writes (Table Dispatch-7). -/
  block : Nat
  deriving DecidableEq, Repr


/-! ## The instructions -/

/-- The instructions of the Balaz, one constructor per row of spec/opcode_table.json. -/
inductive Instr where
  -- control transfer (R168)
  | br (off : BitVec 18) | brpAny (off : BitVec 18) | brpAll (off : BitVec 18) | brpNone (off : BitVec 18)
  | brsZ (off : BitVec 18) | brsNz (off : BitVec 18) | brsLt (off : BitVec 18) | brsGe (off : BitVec 18)
  | call (off : BitVec 18) | callr (d : SDst) (a : SSrc) | jmpr (a : SSrc) | ret (a : SSrc)
  | loop (off : BitVec 18)
  -- task level (R104)
  | spawn (d : SDst) (a b : SSrc) (cr : Creation) | spawnk (d : SDst) (a b : SSrc) (cr : Creation)
  | retire (a b : SSrc) | susp (a : SSrc) | suspon (a b : SSrc)
  | phase (l : Fin 8) | parrive (d : SDst) (l : Fin 8) | pwait (l : Fin 8) (b : SSrc)
  -- cluster (R283)
  | gfuse (d : SDst) (a b : SSrc) | gsplit (d : SDst)
  | evwait (l : Fin 64) | evsig (l : Fin 64) (b : SSrc)
  | barr (d : SDst) (g : Fin 16) | bwait (g : Fin 16) (b : SSrc) | bmask (g : Fin 16) (b : SSrc)
  | oarr (d : SDst) (l : Fin 8) (b : SSrc) | owait (l : Fin 8) (b : SSrc)
  | xwait (ch : Fin 4) (b : SSrc) | fence (k : FenceKind) (scope : Fin 16) | tfence
  | qstat (d : SDst) (p : Fin 16) | chbind (d : SDst) (n : Fin 8) (b : SSrc)
  -- core memory (R225)
  | ld (sz : LdSize) (d : SDst) (a : SSrc) (imm : BitVec 6)
  | ldx (sz : LdSize) (d : SDst) (a b : SSrc)
  | ldAcq (sz : AcqSize) (d : SDst) (a : SSrc) (scope : Fin 16)
  | st (sz : StSize) (d a : SSrc) (imm : BitVec 6)
  | stx (sz : StSize) (d a b : SSrc)
  | stRel (sz : StSize) (d a : SSrc) (scope : Fin 16)
  | vld (d : VDst) (a : SSrc) (tag : Tag) | vlds (d : VDst) (base : Fin 16) (tag : Tag)
  | vst (d : VSrc) (a : SSrc) (imm : BitVec 6) | vsts (d : VSrc) (base : Fin 16)
  | vgath (w : W2) (d : VDst) (a : SSrc) (b : VSrc) | vscat (w : W2) (d : VSrc) (a : SSrc) (b : VSrc)
  | ldfe64 (d : SDst) (a : SSrc) | ldfe64c (d : SDst) (a : SSrc)
  | ldfeV (d : VDst) (a : SSrc) (tag : Tag) | ldfeVc (d : VDst) (a : SSrc) (tag : Tag)
  | stfe64 (d a : SSrc) (imm : BitVec 6) | stfeV (d : VSrc) (a : SSrc) (imm : BitVec 6)
  | fecl (a b : SSrc) | feset (a b : SSrc)
  -- atomics (R363)
  | amoAdd (w : W2) (f : AForm) (at_ : Option AAttr) | amoAnd (w : W2) (f : AForm) (at_ : Option AAttr)
  | amoOr (w : W2) (f : AForm) (at_ : Option AAttr) | amoXor (w : W2) (f : AForm) (at_ : Option AAttr)
  | amoSmin (w : W2) (f : AForm) (at_ : Option AAttr) | amoSmax (w : W2) (f : AForm) (at_ : Option AAttr)
  | amoNmin (w : W2) (f : AForm) (at_ : Option AAttr) | amoNmax (w : W2) (f : AForm) (at_ : Option AAttr)
  | amoSwap (w : W2) (d : SDst) (a b : SSrc) (at_ : Option AAttr)
  | famoFadd (t : FFmt) (f : AForm) (at_ : Option AAttr) | famoFmin (t : FFmt) (f : AForm) (at_ : Option AAttr)
  | famoFmax (t : FFmt) (f : AForm) (at_ : Option AAttr)
  | cas (f : CasForm) (at_ : Option AAttr)
  -- die memory (R321, R220)
  | cflush (d : SDst) (a b : SSrc) | cwb (d : SDst) (a b : SSrc) | cinv (d : SDst) (a b : SSrc)
  | tcinv (d : SDst) (a b : SSrc) | spalloc (d : SDst) (a b : SSrc) | spfree (d : SDst) (a b : SSrc)
  | tdecl (d : SDst) (a b : SSrc) | tundecl (d : SDst) (a b : SSrc) | tfwd (d : SDst) (a b : SSrc)
  -- system (R182)
  | csrr (d : SDst) (num : BitVec 12) | csrw (num : BitVec 12) (d : SSrc)
  | csrs (num : BitVec 12) (d : SSrc) | csrc (num : BitVec 12) (d : SSrc)
  | trap (n : BitVec 12) | eret (a : SSrc) | nopC
  -- scalar (R175)
  | add (d : SDst) (a b : SSrc) | sub (d : SDst) (a b : SSrc) | mul (d : SDst) (a b : SSrc)
  | mulhS (d : SDst) (a b : SSrc) | mulhN (d : SDst) (a b : SSrc) | divS (d : SDst) (a b : SSrc)
  | divN (d : SDst) (a b : SSrc) | remS (d : SDst) (a b : SSrc) | remN (d : SDst) (a b : SSrc)
  | and (d : SDst) (a b : SSrc) | or (d : SDst) (a b : SSrc) | xor (d : SDst) (a b : SSrc)
  | andn (d : SDst) (a b : SSrc) | shl (d : SDst) (a b : SSrc) | shr (d : SDst) (a b : SSrc)
  | sar (d : SDst) (a b : SSrc) | rot (d : SDst) (a b : SSrc) | minS (d : SDst) (a b : SSrc)
  | maxS (d : SDst) (a b : SSrc) | minN (d : SDst) (a b : SSrc) | maxN (d : SDst) (a b : SSrc)
  | clz (d : SDst) (a : SSrc) | popc (d : SDst) (a : SSrc) | sel (d : SDst) (a b : SSrc)
  | mov (d : SDst) (a : SSrc) | lea (d : SDst) (a b : SSrc) | sext (d : SDst) (a b : SSrc)
  | zext (d : SDst) (a b : SSrc) | add32 (d : SDst) (a b : SSrc) | sub32 (d : SDst) (a b : SSrc)
  | mul32 (d : SDst) (a b : SSrc)
  | addi (d : SDst) (a : SSrc) (imm : BitVec 6) | andi (d : SDst) (a : SSrc) (imm : BitVec 6)
  | ori (d : SDst) (a : SSrc) (imm : BitVec 6) | xori (d : SDst) (a : SSrc) (imm : BitVec 6)
  | shli (d : SDst) (a : SSrc) (imm : BitVec 6) | shri (d : SDst) (a : SSrc) (imm : BitVec 6)
  | sari (d : SDst) (a : SSrc) (imm : BitVec 6)
  | setEq (d : SDst) (a b : SSrc) | setNe (d : SDst) (a b : SSrc) | setLt (d : SDst) (a b : SSrc)
  | setGe (d : SDst) (a b : SSrc) | setLtn (d : SDst) (a b : SSrc) | setGen (d : SDst) (a b : SSrc)
  | pand (d a b : PReg) | por (d a b : PReg) | pxor (d a b : PReg) | pnot (d a : PReg)
  | pset (d : PReg) (a : SSrc) (mode : Fin 3) | pget (d : SDst) (a : PReg) (mode : Fin 3)
  -- vector (R190)
  | vadd (d : VDst) (a b : VSrc) | vsub (d : VDst) (a b : VSrc) | vmul (d : VDst) (a b : VSrc)
  | vmulh (d : VDst) (a b : VSrc) | vand (d : VDst) (a b : VSrc) | vor (d : VDst) (a b : VSrc)
  | vxor (d : VDst) (a b : VSrc) | vshl (d : VDst) (a b : VSrc) | vshr (d : VDst) (a b : VSrc)
  | vsar (d : VDst) (a b : VSrc) | vmin (d : VDst) (a b : VSrc) | vmax (d : VDst) (a b : VSrc)
  | vabs (d : VDst) (a : VSrc) | vmad (d : VDst) (a b : VSrc) | vpopc (d : VDst) (a : VSrc)
  | vdot (d : VDst) (a b : VSrc)
  | vcmpEq (d : PReg) (a b : VSrc) | vcmpNe (d : PReg) (a b : VSrc) | vcmpLt (d : PReg) (a b : VSrc)
  | vcmpGe (d : PReg) (a b : VSrc) | vsel (d : VDst) (a b : VSrc)
  | fadd (d : VDst) (a b : VSrc) | fsub (d : VDst) (a b : VSrc) | fmul (d : VDst) (a b : VSrc)
  | fma (d : VDst) (a b : VSrc) | fms (d : VDst) (a b : VSrc) | fnma (d : VDst) (a b : VSrc)
  | fnms (d : VDst) (a b : VSrc) | fmin (d : VDst) (a b : VSrc) | fmax (d : VDst) (a b : VSrc)
  | fabs (d : VDst) (a : VSrc) | fneg (d : VDst) (a : VSrc) | fdiv (d : VDst) (a b : VSrc)
  | fsqrt (d : VDst) (a : VSrc) | frcp (d : VDst) (a : VSrc) | frsq (d : VDst) (a : VSrc)
  | fexp2 (d : VDst) (a : VSrc) | flog2 (d : VDst) (a : VSrc) | fclass (d : VDst) (a : VSrc)
  | fcmpEq (d : PReg) (a b : VSrc) | fcmpLt (d : PReg) (a b : VSrc) | fcmpLe (d : PReg) (a b : VSrc)
  | fcmpUn (d : PReg) (a b : VSrc)
  | cvt (d : VDst) (a : VSrc) (b : SSrc) | cvtq (d : VPair) (a : VSrc) (b : SSrc)
  | cvtdq (d : VDst) (a : VPair) (b : SSrc)
  | vbcast (d : VDst) (a : VSrc) (b : SSrc) | vshuf (d : VDst) (a b : VSrc)
  | vslideUp (d : VDst) (a : VSrc) (b : SSrc) | vslideDn (d : VDst) (a : VSrc) (b : SSrc)
  | vext (d : SDst) (a : VSrc) (b : SSrc) | vins (d : VDst) (a : VSrc) (b : SSrc)
  | vcmpr (d : VDst) (a : VSrc) | vlane (d : VDst) (a b : SSrc)
  | vredAdd (d : SDst) (a : VSrc) | vredMin (d : SDst) (a : VSrc) | vredMax (d : SDst) (a : VSrc)
  | vredAnd (d : SDst) (a : VSrc) | vredOr (d : SDst) (a : VSrc)
  | fredAdd (d : SDst) (a : VSrc) | fredMin (d : SDst) (a : VSrc) | fredMax (d : SDst) (a : VSrc)
  | vtag (d : VDst) (a : VSrc) (b : SSrc) | vtagq (d : SDst) (a : VSrc)
  -- matrix (R240)
  | mzero (t : Fin 16) (s32 : Bool) | mlda (n : Fin 4) (a : SSrc) | mldb (a : SSrc)
  | mring (code : Fin 5) | mma (t : Fin 16) (a : SSrc) (p : Fin 64) | mband (n : Fin 5) (a : SSrc)
  | mst (t : Fin 16) (a : SSrc) (l : TileLayout) | mldt (t : Fin 16) (a : SSrc) (l : TileLayout)
  | mfence | mchk (d : SDst) | nopA
  -- steps of the core's surroundings
  -- faults of fetch and of lowering; step boundaries
  | unassignedOpcode (aslot : Bool) (op : BitVec 9)
  | loweredFaultReached (core slot : Nat) (translate : Bool) (id cap : Nat)
  | stepCommOpen (core slot : Nat) (xs : List Xfer)
  | stepComputeOpen (core slot : Nat)
  | trapqRidxAdvance (die : Nat) (ridx : Word)
  | trapqbaseWrite (die ctx : Nat) (base : Word)
  | savebaseWrite (ctx : Nat) (base : Word)
  | quantWrite (core slot : Nat) (v : Word)
  | inboxstWrite (core : Nat) (v : Word)
  | csrWrite (core slot : Nat) (num : BitVec 12) (v : Word)
  | resultDelivery (core slot id : Nat)
  | blockedOperationFinish (ctx idx : Nat)
  | recordPickup (die core slot ctx idx : Nat)
  | holdExpiry (core slot : Nat)
  | eviction (core slot : Nat)
  | wake (ctx idx : Nat)
  | timerWake (ctx idx : Nat)
  -- the dispatcher
  | readyRecordMove (ctx idx src dst : Nat)
  | keyReserve (ctx idx : Nat)
  | launchAccept (q : Nat)
  | launchStart (l : Nat)
  | launchComplete (l : Nat)
  | gangPlace (die ctx idx leader slot : Nat)
  | gangDrain (die cluster ctx idx : Nat)
  | gangTimeout (ctx idx : Nat)
  | gfuseDecide (cluster leader size : Nat) (tag : Word)
  | gfuseTimeout (core slot : Nat)
  | classifyWindow (l ops bytes : Nat)
  | resume (r : Req) | terminate (r : Req) | qreg (r : Req) | qunreg (r : Req) | setparam (r : Req)
  -- the engines
  | packetAccept (die : Nat)
  | queueSlotServe (q : Nat)
  | copy (op : Nat) | copySegment (op : Nat) | gather (op : Nat) | scatter (op : Nat)
  | gatherRowLand (op k : Nat) | coll (op : Nat) | collChunk (inst : Nat) | waitid (op : Nat)
  | marker (op : Nat) | operationComplete (op : Nat) | scaleoutSegmentAck (op : Nat) (ok : Bool)
  -- memory
  | homeRequest (agent pa : Nat) (k : HomeKind)
  | engineBufferMerge (die line : Nat)
  | atomicAtHome (ctx ea w : Nat) (op : RmwOp) (v : Nat)
  | proxyAtomic (n : Nat)
  | lineMigration (line slice : Nat) | migrationEnd (line : Nat)
  | probeTimeout (core : Nat)
  | pageWalk (die ctx : Nat) (va : Word)
  | translationBuild (die handle : Nat) (at_ : RegionEntry)
  -- cluster and domains
  | portWordDelivery (n : Nat)
  | phase0Publish (core nbr : Nat)
  | barrierObjectArrival (ctx dom weight : Nat)
  | domainFlip (ctx dom : Nat)
  | releaseWindow (core slot : Nat)
  | eventPageLoad (core slot cluster line : Nat)
  | eventPageStore (ctx cluster line : Nat)
  -- matrix unit
  | mringReceive (core : Nat)
  | mstStorePerform (core n : Nat)
  | matrixIdle (core : Nat)
  | matrixStartGrant (die : Nat)
  -- package
  | powerArbiterTick (draws temps : List Nat)
  | thermalShutdown
  | dieLoss (die : Nat)
  | uncorrectableError (p : ErrPlace)
  | correctableError (unit : Nat)
  | cxlLinkFailure
  | hostSnoop (pa : Nat)
  | hostRecallTimeout (pa : Nat)
  | peerLoss (m : Nat)
  | peerArrivalMessage (dev ctx dom : Nat)
  | coldStart (fail : Option StartFail) | warmStart (fail : Option StartFail)
  | recoveryImageWrite (image : List Byte)
  | attest (nonce : List Byte) (buf : Nat)
  | keyInstall (id : Nat)
  -- loader
  | loadObject (ctx : Nat) (image : List Byte) (place : LoadPlace)
  | unloadObject (handle : Nat)
  -- core state window (R510)
  | ownerWrite (core line : Nat) (h : Word) | feWrite (core line : Nat) (v : Byte)
  | bindHolderWrite (core n : Nat) (h : Word) | bindRouteWrite (core n : Nat) (r : Word)
  -- contexts, peers, host
  | contextDestroy (ctx : Nat)
  | peerProbe (pa : Nat) (inval : Bool)
  | peerReturn (m : Nat)
  | hostConditionRead (vec : Nat)
  deriving DecidableEq, Repr

/-- A pair (R12-R14): two instructions side by side, or one with the 32-bit literal LIT. `pe` is the predicate that
the A-slot names and whether it is negated (R13). -/
inductive Pair where
  | normal (gap : Fin 8) (sw : Bool) (c a : Instr) (pe : Option (Fin 8 × Bool))
  | lone (gap : Fin 8) (sw : Bool) (i : Instr) (lit : Half)
  deriving DecidableEq, Repr

/-- Why a pair does not decode (R22 steps 1-3): the trap, with the slot and what INFO names (Table Traps-1). -/
inductive Reject where
  | illop (aslot : Bool) (op : Nat)
  | illpair (aslot : Bool)
  | illopnd (aslot : Bool) (field : Nat)
  /-- a step of the device has no encoding. -/
  | noEncoding
  deriving DecidableEq, Repr

end Sys2Proof
end

