-- ==== Sys2Proof/Machine/Uses.lean ====
section
/-!
DEFINITION. What each instruction names: its operands in the order D, A, B with the role of each (R23, R24, R30,
R34), the implicit ones of Table Scalar-1, and the legality of an operand in its place (R22 step 3): what the
decoder checks, and what the issue checks and the meanings read.
-/
namespace Sys2Proof.Machine

/-- A use of an operand: its field (0 D, 1 A, 2 B) and the code read or written. `port`: the destination may name
a queue port. -/
inductive Use where
  | rs (f : Nat) (x : SSrc) | rv (f : Nat) (x : VSrc) | rp (f : Nat) (p : Fin 8)
  | ws (f : Nat) (x : SDst) (port : Bool) | wv (f : Nat) (x : VDst) | wp (f : Nat) (p : Fin 8)
  deriving DecidableEq, Repr

/-- The low register of an even pair (R35). -/
def evenS (g : Fin 16) : SSrc := .s ⟨2 * g.val, by omega⟩
/-- The high register of an even pair. -/
def oddS (g : Fin 16) : SSrc := .s ⟨2 * g.val + 1, by omega⟩

end Sys2Proof.Machine

namespace Sys2Proof
open Machine

/-- A vector destination read as a source (R35). -/
def VDst.src : VDst → VSrc
  | .v n => .v n | .o n => .o n | .z => .z

def SAcc.src : SAcc → SSrc
  | .s n => .s n | .z => .z
def SAcc.dst : SAcc → SDst
  | .s n => .s n | .z => .z

def VPair.lo : VPair → VDst
  | .v n => .v ⟨2 * n.val, by omega⟩ | .o n => .o ⟨2 * n.val, by omega⟩
def VPair.hi : VPair → VDst
  | .v n => .v ⟨2 * n.val + 1, by omega⟩ | .o n => .o ⟨2 * n.val + 1, by omega⟩

def AForm.isRet : AForm → Bool
  | .ret _ _ _ => true | .nr _ _ => false
def AForm.uses : AForm → List Use
  | .ret d a b => [.ws 0 d false, .rs 1 a, .rs 2 b]
  | .nr d a => [.rs 0 d, .rs 1 a]
def CasForm.uses : CasForm → List Use
  | .w32 d a b => [.rs 0 d.src, .ws 0 d.dst false, .rs 1 a, .rs 2 b]
  | .w64 d a b => [.rs 0 d.src, .ws 0 d.dst false, .rs 1 a, .rs 2 b]
  | .w128 d a b => [.rs 0 (evenS d), .rs 0 (oddS d), .ws 0 (.s ⟨2 * d.val, by omega⟩) false,
      .ws 0 (.s ⟨2 * d.val + 1, by omega⟩) false, .rs 1 a, .rs 2 (evenS b), .rs 2 (oddS b)]

end Sys2Proof

namespace Sys2Proof.Machine

/-- The operands an instruction names, in the order in which ports are taken (R30). An accumulated D is read before
it is written. -/
def uses : Instr → List Use
  | .brpAny _ => [.rp 0 0]
  | .brpAll _ => [.rp 0 0]
  | .brpNone _ => [.rp 0 0]
  | .brsZ _ => [.rs 0 .la]
  | .brsNz _ => [.rs 0 .la]
  | .brsLt _ => [.rs 0 .la]
  | .brsGe _ => [.rs 0 .la]
  | .call _ => [.ws 0 (.s 31) false]
  | .callr d a => [.ws 0 d true, .rs 1 a]
  | .jmpr a => [.rs 1 a]
  | .ret a => [.rs 1 a]
  | .loop _ => [.rs 0 (.s 30), .ws 0 (.s 30) false]
  | .spawn d a b _ => [.ws 0 d true, .rs 1 a, .rs 2 b]
  | .spawnk d a b _ => [.ws 0 d true, .rs 1 a, .rs 2 b]
  | .retire a b => [.rs 1 a, .rs 2 b]
  | .susp a => [.rs 1 a]
  | .suspon a b => [.rs 1 a, .rs 2 b]
  | .parrive d _ => [.ws 0 d true]
  | .pwait _ b => [.rs 2 b]
  | .gfuse d a b => [.ws 0 d false, .rs 1 a, .rs 2 b]
  | .gsplit d => [.ws 0 d false]
  | .evsig _ b => [.rs 2 b]
  | .barr d _ => [.ws 0 d false]
  | .bwait _ b => [.rs 2 b]
  | .bmask _ b => [.rs 2 b]
  | .oarr d _ b => [.ws 0 d false, .rs 2 b]
  | .owait _ b => [.rs 2 b]
  | .xwait _ b => [.rs 2 b]
  | .qstat d _ => [.ws 0 d false]
  | .chbind d _ b => [.ws 0 d false, .rs 2 b]
  | .ld _ d a _ => [.ws 0 d false, .rs 1 a]
  | .ldx _ d a b => [.ws 0 d false, .rs 1 a, .rs 2 b]
  | .ldAcq _ d a _ => [.ws 0 d false, .rs 1 a]
  | .st _ d a _ => [.rs 0 d, .rs 1 a]
  | .stx _ d a b => [.rs 0 d, .rs 1 a, .rs 2 b]
  | .stRel _ d a _ => [.rs 0 d, .rs 1 a]
  | .vld d a _ => [.wv 0 d, .rs 1 a]
  | .vlds d g _ => [.wv 0 d, .rs 1 (evenS g), .rs 1 (oddS g)]
  | .vst d a _ => [.rv 0 d, .rs 1 a]
  | .vsts d g => [.rv 0 d, .rs 1 (evenS g), .rs 1 (oddS g)]
  | .vgath _ d a b => [.wv 0 d, .rs 1 a, .rv 2 b]
  | .vscat _ d a b => [.rv 0 d, .rs 1 a, .rv 2 b]
  | .ldfe64 d a => [.ws 0 d false, .rs 1 a]
  | .ldfe64c d a => [.ws 0 d false, .rs 1 a]
  | .ldfeV d a _ => [.wv 0 d, .rs 1 a]
  | .ldfeVc d a _ => [.wv 0 d, .rs 1 a]
  | .stfe64 d a _ => [.rs 0 d, .rs 1 a]
  | .stfeV d a _ => [.rv 0 d, .rs 1 a]
  | .fecl a b => [.rs 1 a, .rs 2 b]
  | .feset a b => [.rs 1 a, .rs 2 b]
  | .amoAdd _ f _ => f.uses
  | .amoAnd _ f _ => f.uses
  | .amoOr _ f _ => f.uses
  | .amoXor _ f _ => f.uses
  | .amoSmin _ f _ => f.uses
  | .amoSmax _ f _ => f.uses
  | .amoNmin _ f _ => f.uses
  | .amoNmax _ f _ => f.uses
  | .amoSwap _ d a b _ => [.ws 0 d false, .rs 1 a, .rs 2 b]
  | .famoFadd _ f _ => f.uses
  | .famoFmin _ f _ => f.uses
  | .famoFmax _ f _ => f.uses
  | .cas f _ => f.uses
  | .cflush d a b => [.ws 0 d false, .rs 1 a, .rs 2 b]
  | .cwb d a b => [.ws 0 d false, .rs 1 a, .rs 2 b]
  | .cinv d a b => [.ws 0 d false, .rs 1 a, .rs 2 b]
  | .tcinv d a b => [.ws 0 d false, .rs 1 a, .rs 2 b]
  | .spalloc d a b => [.ws 0 d false, .rs 1 a, .rs 2 b]
  | .spfree d a b => [.ws 0 d false, .rs 1 a, .rs 2 b]
  | .tdecl d a b => [.ws 0 d false, .rs 1 a, .rs 2 b]
  | .tundecl d a b => [.ws 0 d false, .rs 1 a, .rs 2 b]
  | .tfwd d a b => [.ws 0 d false, .rs 1 a, .rs 2 b]
  | .csrr d _ => [.ws 0 d true]
  | .csrw _ d => [.rs 0 d]
  | .csrs _ d => [.rs 0 d]
  | .csrc _ d => [.rs 0 d]
  | .eret a => [.rs 1 a]
  | .add d a b => [.ws 0 d true, .rs 1 a, .rs 2 b]
  | .sub d a b => [.ws 0 d true, .rs 1 a, .rs 2 b]
  | .mul d a b => [.ws 0 d true, .rs 1 a, .rs 2 b]
  | .mulhS d a b => [.ws 0 d true, .rs 1 a, .rs 2 b]
  | .mulhN d a b => [.ws 0 d true, .rs 1 a, .rs 2 b]
  | .divS d a b => [.ws 0 d true, .rs 1 a, .rs 2 b]
  | .divN d a b => [.ws 0 d true, .rs 1 a, .rs 2 b]
  | .remS d a b => [.ws 0 d true, .rs 1 a, .rs 2 b]
  | .remN d a b => [.ws 0 d true, .rs 1 a, .rs 2 b]
  | .and d a b => [.ws 0 d true, .rs 1 a, .rs 2 b]
  | .or d a b => [.ws 0 d true, .rs 1 a, .rs 2 b]
  | .xor d a b => [.ws 0 d true, .rs 1 a, .rs 2 b]
  | .andn d a b => [.ws 0 d true, .rs 1 a, .rs 2 b]
  | .shl d a b => [.ws 0 d true, .rs 1 a, .rs 2 b]
  | .shr d a b => [.ws 0 d true, .rs 1 a, .rs 2 b]
  | .sar d a b => [.ws 0 d true, .rs 1 a, .rs 2 b]
  | .rot d a b => [.ws 0 d true, .rs 1 a, .rs 2 b]
  | .minS d a b => [.ws 0 d true, .rs 1 a, .rs 2 b]
  | .maxS d a b => [.ws 0 d true, .rs 1 a, .rs 2 b]
  | .minN d a b => [.ws 0 d true, .rs 1 a, .rs 2 b]
  | .maxN d a b => [.ws 0 d true, .rs 1 a, .rs 2 b]
  | .clz d a => [.ws 0 d true, .rs 1 a]
  | .popc d a => [.ws 0 d true, .rs 1 a]
  | .sel d a b => [.ws 0 d true, .rs 1 a, .rs 2 b]
  | .mov d a => [.ws 0 d true, .rs 1 a]
  | .lea d a b => [.ws 0 d true, .rs 1 a, .rs 2 b]
  | .sext d a b => [.ws 0 d true, .rs 1 a, .rs 2 b]
  | .zext d a b => [.ws 0 d true, .rs 1 a, .rs 2 b]
  | .add32 d a b => [.ws 0 d true, .rs 1 a, .rs 2 b]
  | .sub32 d a b => [.ws 0 d true, .rs 1 a, .rs 2 b]
  | .mul32 d a b => [.ws 0 d true, .rs 1 a, .rs 2 b]
  | .addi d a _ => [.ws 0 d true, .rs 1 a]
  | .andi d a _ => [.ws 0 d true, .rs 1 a]
  | .ori d a _ => [.ws 0 d true, .rs 1 a]
  | .xori d a _ => [.ws 0 d true, .rs 1 a]
  | .shli d a _ => [.ws 0 d true, .rs 1 a]
  | .shri d a _ => [.ws 0 d true, .rs 1 a]
  | .sari d a _ => [.ws 0 d true, .rs 1 a]
  | .setEq d a b => [.ws 0 d true, .rs 1 a, .rs 2 b]
  | .setNe d a b => [.ws 0 d true, .rs 1 a, .rs 2 b]
  | .setLt d a b => [.ws 0 d true, .rs 1 a, .rs 2 b]
  | .setGe d a b => [.ws 0 d true, .rs 1 a, .rs 2 b]
  | .setLtn d a b => [.ws 0 d true, .rs 1 a, .rs 2 b]
  | .setGen d a b => [.ws 0 d true, .rs 1 a, .rs 2 b]
  | .pand d a b => [.wp 0 d, .rp 1 a, .rp 2 b]
  | .por d a b => [.wp 0 d, .rp 1 a, .rp 2 b]
  | .pxor d a b => [.wp 0 d, .rp 1 a, .rp 2 b]
  | .pnot d a => [.wp 0 d, .rp 1 a]
  | .pset d a _ => [.wp 0 d, .rs 1 a]
  | .pget d a _ => [.ws 0 d true, .rp 1 a]
  | .vadd d a b => [.wv 0 d, .rv 1 a, .rv 2 b]
  | .vsub d a b => [.wv 0 d, .rv 1 a, .rv 2 b]
  | .vmul d a b => [.wv 0 d, .rv 1 a, .rv 2 b]
  | .vmulh d a b => [.wv 0 d, .rv 1 a, .rv 2 b]
  | .vand d a b => [.wv 0 d, .rv 1 a, .rv 2 b]
  | .vor d a b => [.wv 0 d, .rv 1 a, .rv 2 b]
  | .vxor d a b => [.wv 0 d, .rv 1 a, .rv 2 b]
  | .vshl d a b => [.wv 0 d, .rv 1 a, .rv 2 b]
  | .vshr d a b => [.wv 0 d, .rv 1 a, .rv 2 b]
  | .vsar d a b => [.wv 0 d, .rv 1 a, .rv 2 b]
  | .vmin d a b => [.wv 0 d, .rv 1 a, .rv 2 b]
  | .vmax d a b => [.wv 0 d, .rv 1 a, .rv 2 b]
  | .vabs d a => [.wv 0 d, .rv 1 a]
  | .vmad d a b => [.rv 0 d.src, .wv 0 d, .rv 1 a, .rv 2 b]
  | .vpopc d a => [.wv 0 d, .rv 1 a]
  | .vdot d a b => [.rv 0 d.src, .wv 0 d, .rv 1 a, .rv 2 b]
  | .vcmpEq d a b => [.wp 0 d, .rv 1 a, .rv 2 b]
  | .vcmpNe d a b => [.wp 0 d, .rv 1 a, .rv 2 b]
  | .vcmpLt d a b => [.wp 0 d, .rv 1 a, .rv 2 b]
  | .vcmpGe d a b => [.wp 0 d, .rv 1 a, .rv 2 b]
  | .vsel d a b => [.wv 0 d, .rv 1 a, .rv 2 b]
  | .fadd d a b => [.wv 0 d, .rv 1 a, .rv 2 b]
  | .fsub d a b => [.wv 0 d, .rv 1 a, .rv 2 b]
  | .fmul d a b => [.wv 0 d, .rv 1 a, .rv 2 b]
  | .fma d a b => [.rv 0 d.src, .wv 0 d, .rv 1 a, .rv 2 b]
  | .fms d a b => [.rv 0 d.src, .wv 0 d, .rv 1 a, .rv 2 b]
  | .fnma d a b => [.rv 0 d.src, .wv 0 d, .rv 1 a, .rv 2 b]
  | .fnms d a b => [.rv 0 d.src, .wv 0 d, .rv 1 a, .rv 2 b]
  | .fmin d a b => [.wv 0 d, .rv 1 a, .rv 2 b]
  | .fmax d a b => [.wv 0 d, .rv 1 a, .rv 2 b]
  | .fabs d a => [.wv 0 d, .rv 1 a]
  | .fneg d a => [.wv 0 d, .rv 1 a]
  | .fdiv d a b => [.wv 0 d, .rv 1 a, .rv 2 b]
  | .fsqrt d a => [.wv 0 d, .rv 1 a]
  | .frcp d a => [.wv 0 d, .rv 1 a]
  | .frsq d a => [.wv 0 d, .rv 1 a]
  | .fexp2 d a => [.wv 0 d, .rv 1 a]
  | .flog2 d a => [.wv 0 d, .rv 1 a]
  | .fclass d a => [.wv 0 d, .rv 1 a]
  | .fcmpEq d a b => [.wp 0 d, .rv 1 a, .rv 2 b]
  | .fcmpLt d a b => [.wp 0 d, .rv 1 a, .rv 2 b]
  | .fcmpLe d a b => [.wp 0 d, .rv 1 a, .rv 2 b]
  | .fcmpUn d a b => [.wp 0 d, .rv 1 a, .rv 2 b]
  | .cvt d a b => [.wv 0 d, .rv 1 a, .rs 2 b]
  | .cvtq d a b => [.wv 0 d.lo, .wv 0 d.hi, .rv 1 a, .rs 2 b]
  | .cvtdq d a b => [.wv 0 d, .rv 1 a.lo.src, .rv 1 a.hi.src, .rs 2 b]
  | .vbcast d a b => [.wv 0 d, .rv 1 a, .rs 2 b]
  | .vshuf d a b => [.wv 0 d, .rv 1 a, .rv 2 b]
  | .vslideUp d a b => [.wv 0 d, .rv 1 a, .rs 2 b]
  | .vslideDn d a b => [.wv 0 d, .rv 1 a, .rs 2 b]
  | .vext d a b => [.ws 0 d true, .rv 1 a, .rs 2 b]
  | .vins d a b => [.wv 0 d, .rv 1 a, .rs 2 b]
  | .vcmpr d a => [.wv 0 d, .rv 1 a]
  | .vlane d a b => [.wv 0 d, .rs 1 a, .rs 2 b]
  | .vredAdd d a => [.ws 0 d true, .rv 1 a]
  | .vredMin d a => [.ws 0 d true, .rv 1 a]
  | .vredMax d a => [.ws 0 d true, .rv 1 a]
  | .vredAnd d a => [.ws 0 d true, .rv 1 a]
  | .vredOr d a => [.ws 0 d true, .rv 1 a]
  | .fredAdd d a => [.ws 0 d true, .rv 1 a]
  | .fredMin d a => [.ws 0 d true, .rv 1 a]
  | .fredMax d a => [.ws 0 d true, .rv 1 a]
  | .vtag d a b => [.wv 0 d, .rv 1 a, .rs 2 b]
  | .vtagq d a => [.ws 0 d true, .rv 1 a]
  | .mlda _ a => [.rs 1 a]
  | .mldb a => [.rs 1 a]
  | .mma _ a _ => [.rs 1 a]
  | .mband _ a => [.rs 1 a]
  | .mst _ a _ => [.rs 1 a]
  | .mldt _ a _ => [.rs 1 a]
  | .mchk d => [.ws 0 d false]
  | _ => []

/-- The vector operands from which the operation type is taken (R191): A, then B, then D where read. `none` for an
instruction that takes no t. -/
def typed : Instr → Option (List VSrc)
  | .vadd _ a b | .vsub _ a b | .vmul _ a b | .vmulh _ a b | .vand _ a b | .vor _ a b | .vxor _ a b | .vshl _ a b
  | .vshr _ a b | .vsar _ a b | .vmin _ a b | .vmax _ a b | .vsel _ a b | .fadd _ a b | .fsub _ a b | .fmul _ a b
  | .fmin _ a b | .fmax _ a b | .fdiv _ a b | .vshuf _ a b => some [a, b]
  | .vcmpEq _ a b | .vcmpNe _ a b | .vcmpLt _ a b | .vcmpGe _ a b | .fcmpEq _ a b | .fcmpLt _ a b | .fcmpLe _ a b
  | .fcmpUn _ a b => some [a, b]
  | .vmad d a b | .vdot d a b | .fma d a b | .fms d a b | .fnma d a b | .fnms d a b => some [a, b, d.src]
  | .vabs _ a | .vpopc _ a | .fabs _ a | .fneg _ a | .fsqrt _ a | .frcp _ a | .frsq _ a | .fexp2 _ a | .flog2 _ a
  | .fclass _ a | .vcmpr _ a | .vredAdd _ a | .vredMin _ a | .vredMax _ a | .vredAnd _ a | .vredOr _ a
  | .fredAdd _ a | .fredMin _ a | .fredMax _ a | .vtagq _ a => some [a]
  | .cvt _ a _ | .cvtq _ a _ | .vbcast _ a _ | .vslideUp _ a _ | .vslideDn _ a _ | .vext _ a _ | .vins _ a _ =>
    some [a]
  | .cvtdq _ a _ => some [a.lo.src]
  | _ => none

/-- The operand carries a tag that can name the operation type (R191). -/
def VSrc.named : VSrc → Bool
  | .v _ | .o _ | .la | .lc => true
  | .z | .lit | .lane => false

/-- Instructions that take attributes from LIT in a lone pair (R27, R36, R39, R104). -/
def takesAttr : Instr → Bool
  | .spawn _ _ _ _ | .spawnk _ _ _ _ | .fence _ _ => true
  | .amoAdd _ _ _ | .amoAnd _ _ _ | .amoOr _ _ _ | .amoXor _ _ _ | .amoSmin _ _ _ | .amoSmax _ _ _ | .amoNmin _ _ _
  | .amoNmax _ _ _ | .amoSwap _ _ _ _ _ | .famoFadd _ _ _ | .famoFmin _ _ _ | .famoFmax _ _ _ | .cas _ _ => true
  | _ => false

/-- Some operand names lit. -/
def namesLit (i : Instr) : Bool :=
  (uses i).any fun u => match u with
    | .rs _ .lit => true
    | .rv _ .lit => true
    | _ => false

/-- R148: the valid format tags. -/
def tagValid (t : Tag) : Bool := decide (t.toNat ≤ 16) || decide (29 ≤ t.toNat)

/-- R29: ports that may be read. -/
def portReads (n : Nat) : Bool := n = 0 || n = 4 || n = 5 || decide (8 ≤ n)
/-- R29: ports that may be written. -/
def portWrites (n : Nat) : Bool := (decide (1 ≤ n) && decide (n ≤ 5)) || decide (8 ≤ n)

/-- A use of an operand code that R22 step 3 refuses whatever the state. -/
def badUse (lone attrLit : Bool) : Use → Option Nat
  | .rs f .lit => if lone && !attrLit then none else some f
  | .rv f .lit => if lone && !attrLit then none else some f
  | .rs f (.q n) => if portReads n.val then none else some f
  | .ws f (.q n) port => if port && portWrites n.val then none else some f
  | _ => none

/-- R131: the number is in the CSR map. -/
def csrNumber (n : Nat) : Bool :=
  n ∈ [0, 1, 0x10, 0x11, 0x12, 0x20, 0x38, 0x39, 0x40, 0x41, 0x54, 0x55, 0x60, 0x61, 0x62, 0x70, 0x80, 0x81, 0x90]
  || (0x30 ≤ n && n ≤ 0x37) || (0x50 ≤ n && n ≤ 0x53) || (0x58 ≤ n && n ≤ 0x5F) || (0xC0 ≤ n && n ≤ 0xFF)

/-- R131: Access S. -/
def csrSuper (n : Nat) : Bool := 0xC0 ≤ n && n ≤ 0xFF

/-- R131: Access RW or S: not marked RO. -/
def csrWritable (n : Nat) : Bool :=
  n ∈ [0x10, 0x11, 0x12, 0x20, 0x38, 0x80] || (0x58 ≤ n && n ≤ 0x5F) || csrSuper n

/-- The atomic's operation class for Table Instruction-9: commutative, quantum, speculative permitted. -/
def usesAllowed : Instr → AUse → Bool
  | _, .unpaired => true
  | _, .nonOrdering => true
  | .amoAdd _ _ _, .commutative | .amoAnd _ _ _, .commutative | .amoOr _ _ _, .commutative
  | .amoXor _ _ _, .commutative | .amoSmin _ _ _, .commutative | .amoSmax _ _ _, .commutative
  | .amoNmin _ _ _, .commutative | .amoNmax _ _ _, .commutative | .famoFmin _ _ _, .commutative
  | .famoFmax _ _ _, .commutative => true
  | .amoAdd _ _ _, .quantum => true
  | .amoSwap _ _ _ _ _, .speculative | .cas _ _, .speculative => true
  | _, _ => false

/-- R37 for one attribute literal: a use on relaxed order only, the orders of a no-return form, the permitted uses;
and R36, R38: attributes stand in a lone pair and nowhere else. -/
def attrOk (lone nr : Bool) (i : Instr) : Option AAttr → Bool
  | none => !lone
  | some x => lone && (x.use == .unpaired || x.order == .rlx)
      && !(nr && (x.order == .acq || x.order == .acqRel || x.order == .seq)) && usesAllowed i x.use

def creationOk (lone : Bool) (c : Creation) : Bool :=
  (c.dlevel != some 0) && (lone || c == ⟨false, none, 0, none⟩)

/-- Field limits other than operand codes (R22 step 3): the field refused, if any. -/
def badField (lone : Bool) (i : Instr) : Option Nat :=
  let no (b : Bool) (f : Nat) : Option Nat := if b then none else some f
  match i with
  | .spawn _ _ _ c | .spawnk _ _ _ c => no (creationOk lone c) 3
  | .parrive _ l | .pwait l _ | .oarr _ l _ | .owait l _ => no (decide (1 ≤ l.val)) 1
  | .amoAdd _ f x | .amoAnd _ f x | .amoOr _ f x | .amoXor _ f x | .amoSmin _ f x | .amoSmax _ f x | .amoNmin _ f x
  | .amoNmax _ f x | .famoFadd _ f x | .famoFmin _ f x | .famoFmax _ f x => no (attrOk lone (!f.isRet) i x) 3
  | .amoSwap _ _ _ _ x | .cas _ x => no (attrOk lone false i x) 3
  | .vld _ _ t | .vlds _ _ t | .ldfeV _ _ t | .ldfeVc _ _ t => no (tagValid t) 2
  | .vsts d _ => no (VSrc.named d) 0
  | .csrr _ n => no (csrNumber n.toNat) 1
  | .csrw n _ | .csrs n _ | .csrc n _ => no (csrNumber n.toNat && (csrWritable n.toNat || n.toNat == 0x55)) 1
  | .mring c => no (decide (1 ≤ c.val)) 1
  | .mst _ _ l | .mldt _ _ l => no (decide (1 ≤ l.stride.val) || l.form == 1) 2
  | _ => match typed i with
    | some vs => no (vs.any VSrc.named) 1
    | none => none

/-- The first field that R22 step 3 refuses whatever the state (field numbers of Table Traps-1). -/
def firstBad (lone : Bool) (i : Instr) : Option Nat :=
  match (uses i).findSome? (badUse lone (takesAttr i)) with
  | some f => some f
  | none => badField lone i

end Sys2Proof.Machine
end

