-- ==== Sys2Proof/WellFormed.lean ====
section
/-!
DEFINITION. Which instructions and pairs the encoding admits (R15-R17, R22 steps 1-3, R40). `wf lone i`: `i` may
stand in a lone pair (or, with false, in a slot of a normal pair).
-/
namespace Sys2Proof

/-- Every operand and field of `i` is one that its place admits. -/
def wf (lone : Bool) (i : Instr) : Bool := (Machine.firstBad lone i).isNone

/-- Instructions of the A class that take no predicate (R17, R193, R240). -/
def unpredicable : Instr → Bool
  | .mzero _ _ | .mlda _ _ | .mldb _ | .mring _ | .mma _ _ _ | .mband _ _ | .mst _ _ _ | .mldt _ _ _ | .mfence
  | .mchk _ | .cvtq _ _ _ | .vtag _ _ _ => true
  | _ => false

end Sys2Proof
end

