-- ==== Sys2Proof/Decode.lean ====
section
/-!
DEFINITION. Words to instructions and back: the operand codes (Table Instruction-4), the attribute and creation
literals (Tables Instruction-8, Task-2), the opcode map (R41, R42), pairs (R12-R17, R40), and the encoder. Decoding
is total: what does not decode is rejected with the trap of R22 steps 1-3. Where one slot breaks step 3 in several
fields, the lowest field in the order D, A, B, LIT is reported (log 15).
-/
namespace Sys2Proof

/-! ## Operand codes -/

def SSrc.enc : SSrc → Nat
  | .s n => n.val | .la => 40 | .lc => 41 | .z => 42 | .lit => 43 | .q n => 48 + n.val
def SSrc.dec (c : Nat) : Option SSrc :=
  if h : c < 32 then some (.s ⟨c, h⟩)
  else if c = 40 then some .la
  else if c = 41 then some .lc
  else if c = 42 then some .z
  else if c = 43 then some .lit
  else if h : 48 ≤ c ∧ c < 64 then some (.q ⟨c - 48, by omega⟩)
  else none

def SDst.enc : SDst → Nat
  | .s n => n.val | .z => 42 | .q n => 48 + n.val
def SDst.dec (c : Nat) : Option SDst :=
  if h : c < 32 then some (.s ⟨c, h⟩)
  else if c = 42 then some .z
  else if h : 48 ≤ c ∧ c < 64 then some (.q ⟨c - 48, by omega⟩)
  else none

def SAcc.enc : SAcc → Nat
  | .s n => n.val | .z => 42
def SAcc.dec (c : Nat) : Option SAcc :=
  if h : c < 32 then some (.s ⟨c, h⟩) else if c = 42 then some .z else none

def VSrc.enc : VSrc → Nat
  | .v n => n.val | .o n => 32 + n.val | .la => 40 | .lc => 41 | .z => 42 | .lit => 43 | .lane => 44
def VSrc.dec (c : Nat) : Option VSrc :=
  if h : c < 32 then some (.v ⟨c, h⟩)
  else if h : 32 ≤ c ∧ c < 40 then some (.o ⟨c - 32, by omega⟩)
  else if c = 40 then some .la
  else if c = 41 then some .lc
  else if c = 42 then some .z
  else if c = 43 then some .lit
  else if c = 44 then some .lane
  else none

def VDst.enc : VDst → Nat
  | .v n => n.val | .o n => 32 + n.val | .z => 42
def VDst.dec (c : Nat) : Option VDst :=
  if h : c < 32 then some (.v ⟨c, h⟩)
  else if h : 32 ≤ c ∧ c < 40 then some (.o ⟨c - 32, by omega⟩)
  else if c = 42 then some .z
  else none

def VPair.enc : VPair → Nat
  | .v n => 2 * n.val | .o n => 32 + 2 * n.val
def VPair.dec (c : Nat) : Option VPair :=
  if h : c < 32 ∧ c % 2 = 0 then some (.v ⟨c / 2, by omega⟩)
  else if h : 32 ≤ c ∧ c < 40 ∧ c % 2 = 0 then some (.o ⟨(c - 32) / 2, by omega⟩)
  else none

def FenceKind.code : FenceKind → Nat
  | .acq => 0 | .rel => 1 | .acqRel => 2 | .seq => 3
def FenceKind.dec : Nat → Option FenceKind
  | 0 => some .acq | 1 => some .rel | 2 => some .acqRel | 3 => some .seq | _ => none
def LdSize.code : LdSize → Nat
  | .s8 => 0 | .n8 => 1 | .s16 => 2 | .n16 => 3 | .s32 => 4 | .n32 => 5 | .d64 => 6
def AcqSize.code : AcqSize → Nat
  | .s32 => 0 | .n32 => 1 | .d64 => 2
def StSize.code : StSize → Nat
  | .b8 => 0 | .b16 => 1 | .b32 => 2 | .b64 => 3
def W2.code : W2 → Nat
  | .w32 => 0 | .w64 => 1
def FFmt.code : FFmt → Nat
  | .bf16 => 0 | .f32 => 1 | .f64 => 2 | .bf16x2 => 3 | .f32x2 => 4
def TileLayout.enc (l : TileLayout) : Nat := 16 * l.form.val + l.stride.val

def AForm.encD : AForm → Nat
  | .ret d _ _ => d.enc | .nr d _ => d.enc
def AForm.encA : AForm → Nat
  | .ret _ a _ => a.enc | .nr _ a => a.enc
def AForm.encB : AForm → Nat
  | .ret _ _ b => b.enc | .nr _ _ => 0
def CasForm.code : CasForm → Nat
  | .w32 _ _ _ => 0 | .w64 _ _ _ => 1 | .w128 _ _ _ => 2
def CasForm.encD : CasForm → Nat
  | .w32 d _ _ => d.enc | .w64 d _ _ => d.enc | .w128 d _ _ => 2 * d.val
def CasForm.encA : CasForm → Nat
  | .w32 _ a _ => a.enc | .w64 _ a _ => a.enc | .w128 _ a _ => a.enc
def CasForm.encB : CasForm → Nat
  | .w32 _ _ b => b.enc | .w64 _ _ b => b.enc | .w128 _ _ b => 2 * b.val

/-- The parts of an 18-bit offset (R33). -/
def offD (o : BitVec 18) : Nat := o.toNat / 4096
def offA (o : BitVec 18) : Nat := o.toNat / 64 % 64
def offB (o : BitVec 18) : Nat := o.toNat % 64
def mkOff (d a b : Nat) : BitVec 18 := BitVec.ofNat 18 (4096 * d + 64 * a + b)
/-- The 12-bit number in A:B (R182, R185). -/
def mkNum (a b : Nat) : BitVec 12 := BitVec.ofNat 12 (64 * a + b)

/-! ## Literals -/

def AUse.code : AUse → Nat
  | .unpaired => 0 | .commutative => 1 | .nonOrdering => 2 | .quantum => 3 | .speculative => 4
def AUse.dec : Nat → Option AUse
  | 0 => some .unpaired | 1 => some .commutative | 2 => some .nonOrdering | 3 => some .quantum
  | 4 => some .speculative | _ => none
def AOrder.code : AOrder → Nat
  | .rlx => 0 | .acq => 1 | .rel => 2 | .acqRel => 3 | .seq => 4
def AOrder.dec : Nat → Option AOrder
  | 0 => some .rlx | 1 => some .acq | 2 => some .rel | 3 => some .acqRel | 4 => some .seq | _ => none

/-- Table Instruction-8. -/
def AAttr.enc (x : AAttr) : Nat := 128 * x.use.code + 16 * x.order.code + x.scope.val

/-- R36, R37: the attribute literal of a lone atomic; none in a normal pair. -/
def attr (lit : Option Half) : Except Nat (Option AAttr) :=
  match lit with
  | none => .ok none
  | some l =>
    if 1024 ≤ l.toNat then .error 3
    else match AUse.dec (l.toNat / 128 % 8), AOrder.dec (l.toNat / 16 % 8) with
      | some u, some o => .ok (some ⟨u, o, ⟨l.toNat % 16, by omega⟩⟩)
      | _, _ => .error 3

/-- Table Task-2. -/
def Creation.enc (c : Creation) : Nat :=
  (match c.prio with | none => 0 | some p => 32 + p.val) + 64 * c.gang.val
  + (match c.dlevel with | none => 0 | some l => 512 + 2048 * l.val) + (if c.matrix then 16384 else 0)

/-- R107: the creation literal, 0 in a normal pair. -/
def creation (lit : Option Half) : Except Nat Creation :=
  let l := (lit.getD 0).toNat
  if 32768 ≤ l then .error 3
  else if h : 5 ≤ l / 64 % 8 then .error 3
  else if 2 ≤ l / 512 % 4 then .error 3
  else if l / 512 % 4 = 0 ∧ l / 2048 % 8 ≠ 0 then .error 3
  else if l / 32 % 2 = 0 ∧ l % 32 ≠ 0 then .error 3
  else .ok { matrix := l / 16384 % 2 = 1,
             dlevel := if l / 512 % 4 = 0 then none else some ⟨l / 2048 % 8, by omega⟩,
             gang := ⟨l / 64 % 8, by omega⟩,
             prio := if l / 32 % 2 = 0 then none else some ⟨l % 32, by omega⟩ }

/-! ## Fields (an error names the field) -/

def zeroF (f x : Nat) : Except Nat Unit := if x = 0 then .ok () else .error f
def ssrc (f c : Nat) : Except Nat SSrc := match SSrc.dec c with | some x => .ok x | none => .error f
def sdst (f c : Nat) : Except Nat SDst := match SDst.dec c with | some x => .ok x | none => .error f
def sacc (f c : Nat) : Except Nat SAcc := match SAcc.dec c with | some x => .ok x | none => .error f
def vsrc (f c : Nat) : Except Nat VSrc := match VSrc.dec c with | some x => .ok x | none => .error f
def vdst (f c : Nat) : Except Nat VDst := match VDst.dec c with | some x => .ok x | none => .error f
def vpair (f c : Nat) : Except Nat VPair := match VPair.dec c with | some x => .ok x | none => .error f
def fin (n f x : Nat) : Except Nat (Fin n) := if h : x < n then .ok ⟨x, h⟩ else .error f
/-- An even scalar register s0-s30, by half its number. -/
def even (f c : Nat) : Except Nat (Fin 16) :=
  if h : c < 32 ∧ c % 2 = 0 then .ok ⟨c / 2, by omega⟩ else .error f
def tagF (b : Nat) : Except Nat Tag := if b < 32 then .ok (BitVec.ofNat 5 b) else .error 2
/-- Channel 8-15 of `chbind`. -/
def chan (a : Nat) : Except Nat (Fin 8) := if h : 8 ≤ a ∧ a < 16 then .ok ⟨a - 8, by omega⟩ else .error 1
/-- `mzero`: tag 10 or 5. -/
def zeroTag (b : Nat) : Except Nat Bool := if b = 10 then .ok false else if b = 5 then .ok true else .error 2
/-- Table Matrix-6. -/
def layout (b : Nat) : Except Nat TileLayout :=
  if h : b / 16 < 3 ∧ b % 16 < 14 then .ok ⟨⟨b / 16, h.1⟩, ⟨b % 16, h.2⟩⟩ else .error 2
def unary (b : Nat) : Except Nat Unit := if b = 42 then .ok () else .error 2

/-! ## Forms (Table Instruction-7, Table Vector-1) -/

def sss (k : SDst → SSrc → SSrc → Instr) (d a b : Nat) : Except Nat Instr := do
  return k (← sdst 0 d) (← ssrc 1 a) (← ssrc 2 b)
def ssz (k : SDst → SSrc → Instr) (d a b : Nat) : Except Nat Instr := do
  let x ← sdst 0 d; let y ← ssrc 1 a; unary b; return k x y
def ssi (k : SDst → SSrc → BitVec 6 → Instr) (d a b : Nat) : Except Nat Instr := do
  return k (← sdst 0 d) (← ssrc 1 a) (BitVec.ofNat 6 b)
def vvv (k : VDst → VSrc → VSrc → Instr) (d a b : Nat) : Except Nat Instr := do
  return k (← vdst 0 d) (← vsrc 1 a) (← vsrc 2 b)
def vvz (k : VDst → VSrc → Instr) (d a b : Nat) : Except Nat Instr := do
  let x ← vdst 0 d; let y ← vsrc 1 a; unary b; return k x y
def pvv (k : PReg → VSrc → VSrc → Instr) (d a b : Nat) : Except Nat Instr := do
  return k (← fin 8 0 d) (← vsrc 1 a) (← vsrc 2 b)
def vvs (k : VDst → VSrc → SSrc → Instr) (d a b : Nat) : Except Nat Instr := do
  return k (← vdst 0 d) (← vsrc 1 a) (← ssrc 2 b)
def svz (k : SDst → VSrc → Instr) (d a b : Nat) : Except Nat Instr := do
  let x ← sdst 0 d; let y ← vsrc 1 a; unary b; return k x y
def amoRet (k : AForm → Option AAttr → Instr) (lit : Option Half) (d a b : Nat) : Except Nat Instr := do
  return k (.ret (← sdst 0 d) (← ssrc 1 a) (← ssrc 2 b)) (← attr lit)
def amoNr (k : AForm → Option AAttr → Instr) (lit : Option Half) (d a b : Nat) : Except Nat Instr := do
  let x ← ssrc 0 d; let y ← ssrc 1 a; zeroF 2 b; return k (.nr x y) (← attr lit)
/-- R39: kind and scope in A and B, or in LIT when lone. -/
def fenceForm (lit : Option Half) (d a b : Nat) : Except Nat Instr := do
  zeroF 0 d
  match lit with
  | none =>
    match FenceKind.dec a with
    | some k => return .fence k (← fin 16 2 b)
    | none => .error 1
  | some l =>
    zeroF 1 a; zeroF 2 b
    if 128 ≤ l.toNat then .error 3
    match l.toNat / 16 with
    | 0 => .error 3
    | k + 1 => match FenceKind.dec k with
      | some k => return .fence k ⟨l.toNat % 16, by omega⟩
      | none => .error 3

/-! ## The opcode map -/

/-- Opcodes 0x0-0x3f (Tables Instruction-10 to Instruction-13). -/
def decTask (op d a b : Nat) (lit : Option Half) : Except Nat Instr :=
  match op with
  | 0x0 => .ok (.br (mkOff d a b))
  | 0x1 => .ok (.brpAny (mkOff d a b))
  | 0x2 => .ok (.brpAll (mkOff d a b))
  | 0x3 => .ok (.brpNone (mkOff d a b))
  | 0x4 => .ok (.brsZ (mkOff d a b))
  | 0x5 => .ok (.brsNz (mkOff d a b))
  | 0x6 => .ok (.brsLt (mkOff d a b))
  | 0x7 => .ok (.brsGe (mkOff d a b))
  | 0x8 => .ok (.call (mkOff d a b))
  | 0x9 => do zeroF 2 b; return .callr (← sdst 0 d) (← ssrc 1 a)
  | 0xa => do zeroF 0 d; zeroF 2 b; return .jmpr (← ssrc 1 a)
  | 0xb => do zeroF 0 d; zeroF 2 b; return .ret (← ssrc 1 a)
  | 0xc => .ok (.loop (mkOff d a b))
  | 0x10 => do return .spawn (← sdst 0 d) (← ssrc 1 a) (← ssrc 2 b) (← creation lit)
  | 0x11 => do return .spawnk (← sdst 0 d) (← ssrc 1 a) (← ssrc 2 b) (← creation lit)
  | 0x12 => do zeroF 0 d; return .retire (← ssrc 1 a) (← ssrc 2 b)
  | 0x13 => do zeroF 0 d; zeroF 2 b; return .susp (← ssrc 1 a)
  | 0x14 => do zeroF 0 d; return .suspon (← ssrc 1 a) (← ssrc 2 b)
  | 0x15 => do zeroF 0 d; zeroF 2 b; return .phase (← fin 8 1 a)
  | 0x16 => do zeroF 2 b; return .parrive (← sdst 0 d) (← fin 8 1 a)
  | 0x17 => do zeroF 0 d; return .pwait (← fin 8 1 a) (← ssrc 2 b)
  | 0x18 => sss .gfuse d a b
  | 0x19 => do zeroF 1 a; zeroF 2 b; return .gsplit (← sdst 0 d)
  | 0x20 => do zeroF 0 d; zeroF 2 b; return .evwait (← fin 64 1 a)
  | 0x21 => do zeroF 0 d; return .evsig (← fin 64 1 a) (← ssrc 2 b)
  | 0x22 => do zeroF 2 b; return .barr (← sdst 0 d) (← fin 16 1 a)
  | 0x23 => do zeroF 0 d; return .bwait (← fin 16 1 a) (← ssrc 2 b)
  | 0x24 => do zeroF 0 d; return .bmask (← fin 16 1 a) (← ssrc 2 b)
  | 0x25 => do return .oarr (← sdst 0 d) (← fin 8 1 a) (← ssrc 2 b)
  | 0x26 => do zeroF 0 d; return .owait (← fin 8 1 a) (← ssrc 2 b)
  | 0x27 => do zeroF 0 d; return .xwait (← fin 4 1 a) (← ssrc 2 b)
  | 0x28 => fenceForm lit d a b
  | 0x29 => do zeroF 0 d; zeroF 1 a; zeroF 2 b; return .tfence
  | 0x2a => do zeroF 2 b; return .qstat (← sdst 0 d) (← fin 16 1 a)
  | 0x2b => do return .chbind (← sdst 0 d) (← chan a) (← ssrc 2 b)
  | _ => .error 9

/-- Opcodes 0x40-0x7f (Tables Instruction-10 to Instruction-13). -/
def decMem (op d a b : Nat) : Except Nat Instr :=
  match op with
  | 0x40 => ssi (.ld .s8) d a b
  | 0x41 => ssi (.ld .n8) d a b
  | 0x42 => ssi (.ld .s16) d a b
  | 0x43 => ssi (.ld .n16) d a b
  | 0x44 => ssi (.ld .s32) d a b
  | 0x45 => ssi (.ld .n32) d a b
  | 0x46 => ssi (.ld .d64) d a b
  | 0x48 => sss (.ldx .s8) d a b
  | 0x49 => sss (.ldx .n8) d a b
  | 0x4a => sss (.ldx .s16) d a b
  | 0x4b => sss (.ldx .n16) d a b
  | 0x4c => sss (.ldx .s32) d a b
  | 0x4d => sss (.ldx .n32) d a b
  | 0x4e => sss (.ldx .d64) d a b
  | 0x50 => do return .ldAcq .s32 (← sdst 0 d) (← ssrc 1 a) (← fin 16 2 b)
  | 0x51 => do return .ldAcq .n32 (← sdst 0 d) (← ssrc 1 a) (← fin 16 2 b)
  | 0x52 => do return .ldAcq .d64 (← sdst 0 d) (← ssrc 1 a) (← fin 16 2 b)
  | 0x54 => do return .st .b8 (← ssrc 0 d) (← ssrc 1 a) (BitVec.ofNat 6 b)
  | 0x55 => do return .st .b16 (← ssrc 0 d) (← ssrc 1 a) (BitVec.ofNat 6 b)
  | 0x56 => do return .st .b32 (← ssrc 0 d) (← ssrc 1 a) (BitVec.ofNat 6 b)
  | 0x57 => do return .st .b64 (← ssrc 0 d) (← ssrc 1 a) (BitVec.ofNat 6 b)
  | 0x58 => do return .stx .b8 (← ssrc 0 d) (← ssrc 1 a) (← ssrc 2 b)
  | 0x59 => do return .stx .b16 (← ssrc 0 d) (← ssrc 1 a) (← ssrc 2 b)
  | 0x5a => do return .stx .b32 (← ssrc 0 d) (← ssrc 1 a) (← ssrc 2 b)
  | 0x5b => do return .stx .b64 (← ssrc 0 d) (← ssrc 1 a) (← ssrc 2 b)
  | 0x5c => do return .stRel .b8 (← ssrc 0 d) (← ssrc 1 a) (← fin 16 2 b)
  | 0x5d => do return .stRel .b16 (← ssrc 0 d) (← ssrc 1 a) (← fin 16 2 b)
  | 0x5e => do return .stRel .b32 (← ssrc 0 d) (← ssrc 1 a) (← fin 16 2 b)
  | 0x5f => do return .stRel .b64 (← ssrc 0 d) (← ssrc 1 a) (← fin 16 2 b)
  | 0x60 => do return .vld (← vdst 0 d) (← ssrc 1 a) (← tagF b)
  | 0x61 => do return .vlds (← vdst 0 d) (← even 1 a) (← tagF b)
  | 0x62 => do return .vst (← vsrc 0 d) (← ssrc 1 a) (BitVec.ofNat 6 b)
  | 0x63 => do zeroF 2 b; return .vsts (← vsrc 0 d) (← even 1 a)
  | 0x64 => do return .vgath .w32 (← vdst 0 d) (← ssrc 1 a) (← vsrc 2 b)
  | 0x65 => do return .vgath .w64 (← vdst 0 d) (← ssrc 1 a) (← vsrc 2 b)
  | 0x66 => do return .vscat .w32 (← vsrc 0 d) (← ssrc 1 a) (← vsrc 2 b)
  | 0x67 => do return .vscat .w64 (← vsrc 0 d) (← ssrc 1 a) (← vsrc 2 b)
  | 0x68 => do zeroF 2 b; return .ldfe64 (← sdst 0 d) (← ssrc 1 a)
  | 0x69 => do zeroF 2 b; return .ldfe64c (← sdst 0 d) (← ssrc 1 a)
  | 0x6a => do return .ldfeV (← vdst 0 d) (← ssrc 1 a) (← tagF b)
  | 0x6b => do return .ldfeVc (← vdst 0 d) (← ssrc 1 a) (← tagF b)
  | 0x6c => do return .stfe64 (← ssrc 0 d) (← ssrc 1 a) (BitVec.ofNat 6 b)
  | 0x6d => do return .stfeV (← vsrc 0 d) (← ssrc 1 a) (BitVec.ofNat 6 b)
  | 0x6e => do zeroF 0 d; return .fecl (← ssrc 1 a) (← ssrc 2 b)
  | 0x6f => do zeroF 0 d; return .feset (← ssrc 1 a) (← ssrc 2 b)
  | _ => .error 9

/-- Opcodes 0x80-0xff (Tables Instruction-10 to Instruction-13). -/
def decAtomic (op d a b : Nat) (lit : Option Half) : Except Nat Instr :=
  match op with
  | 0x80 => amoRet (.amoAdd .w32) lit d a b
  | 0x81 => amoRet (.amoAdd .w64) lit d a b
  | 0x82 => amoRet (.amoAnd .w32) lit d a b
  | 0x83 => amoRet (.amoAnd .w64) lit d a b
  | 0x84 => amoRet (.amoOr .w32) lit d a b
  | 0x85 => amoRet (.amoOr .w64) lit d a b
  | 0x86 => amoRet (.amoXor .w32) lit d a b
  | 0x87 => amoRet (.amoXor .w64) lit d a b
  | 0x88 => amoRet (.amoSmin .w32) lit d a b
  | 0x89 => amoRet (.amoSmin .w64) lit d a b
  | 0x8a => amoRet (.amoSmax .w32) lit d a b
  | 0x8b => amoRet (.amoSmax .w64) lit d a b
  | 0x8c => amoRet (.amoNmin .w32) lit d a b
  | 0x8d => amoRet (.amoNmin .w64) lit d a b
  | 0x8e => amoRet (.amoNmax .w32) lit d a b
  | 0x8f => amoRet (.amoNmax .w64) lit d a b
  | 0x90 => do return .amoSwap .w32 (← sdst 0 d) (← ssrc 1 a) (← ssrc 2 b) (← attr lit)
  | 0x91 => do return .amoSwap .w64 (← sdst 0 d) (← ssrc 1 a) (← ssrc 2 b) (← attr lit)
  | 0x98 => amoNr (.amoAdd .w32) lit d a b
  | 0x99 => amoNr (.amoAdd .w64) lit d a b
  | 0x9a => amoNr (.amoAnd .w32) lit d a b
  | 0x9b => amoNr (.amoAnd .w64) lit d a b
  | 0x9c => amoNr (.amoOr .w32) lit d a b
  | 0x9d => amoNr (.amoOr .w64) lit d a b
  | 0x9e => amoNr (.amoXor .w32) lit d a b
  | 0x9f => amoNr (.amoXor .w64) lit d a b
  | 0xa0 => amoNr (.amoSmin .w32) lit d a b
  | 0xa1 => amoNr (.amoSmin .w64) lit d a b
  | 0xa2 => amoNr (.amoSmax .w32) lit d a b
  | 0xa3 => amoNr (.amoSmax .w64) lit d a b
  | 0xa4 => amoNr (.amoNmin .w32) lit d a b
  | 0xa5 => amoNr (.amoNmin .w64) lit d a b
  | 0xa6 => amoNr (.amoNmax .w32) lit d a b
  | 0xa7 => amoNr (.amoNmax .w64) lit d a b
  | 0xa8 => amoRet (.famoFadd .bf16) lit d a b
  | 0xa9 => amoRet (.famoFadd .f32) lit d a b
  | 0xaa => amoRet (.famoFadd .f64) lit d a b
  | 0xab => amoRet (.famoFadd .bf16x2) lit d a b
  | 0xac => amoRet (.famoFadd .f32x2) lit d a b
  | 0xad => amoRet (.famoFmin .bf16) lit d a b
  | 0xae => amoRet (.famoFmin .f32) lit d a b
  | 0xaf => amoRet (.famoFmin .f64) lit d a b
  | 0xb0 => amoRet (.famoFmin .bf16x2) lit d a b
  | 0xb1 => amoRet (.famoFmin .f32x2) lit d a b
  | 0xb2 => amoRet (.famoFmax .bf16) lit d a b
  | 0xb3 => amoRet (.famoFmax .f32) lit d a b
  | 0xb4 => amoRet (.famoFmax .f64) lit d a b
  | 0xb5 => amoRet (.famoFmax .bf16x2) lit d a b
  | 0xb6 => amoRet (.famoFmax .f32x2) lit d a b
  | 0xb8 => amoNr (.famoFadd .bf16) lit d a b
  | 0xb9 => amoNr (.famoFadd .f32) lit d a b
  | 0xba => amoNr (.famoFadd .f64) lit d a b
  | 0xbb => amoNr (.famoFadd .bf16x2) lit d a b
  | 0xbc => amoNr (.famoFadd .f32x2) lit d a b
  | 0xbd => amoNr (.famoFmin .bf16) lit d a b
  | 0xbe => amoNr (.famoFmin .f32) lit d a b
  | 0xbf => amoNr (.famoFmin .f64) lit d a b
  | 0xc0 => amoNr (.famoFmin .bf16x2) lit d a b
  | 0xc1 => amoNr (.famoFmin .f32x2) lit d a b
  | 0xc2 => amoNr (.famoFmax .bf16) lit d a b
  | 0xc3 => amoNr (.famoFmax .f32) lit d a b
  | 0xc4 => amoNr (.famoFmax .f64) lit d a b
  | 0xc5 => amoNr (.famoFmax .bf16x2) lit d a b
  | 0xc6 => amoNr (.famoFmax .f32x2) lit d a b
  | 0xc8 => do return .cas (.w32 (← sacc 0 d) (← ssrc 1 a) (← ssrc 2 b)) (← attr lit)
  | 0xc9 => do return .cas (.w64 (← sacc 0 d) (← ssrc 1 a) (← ssrc 2 b)) (← attr lit)
  | 0xca => do return .cas (.w128 (← even 0 d) (← ssrc 1 a) (← even 2 b)) (← attr lit)
  | 0xd0 => sss .cflush d a b
  | 0xd1 => sss .cwb d a b
  | 0xd2 => sss .cinv d a b
  | 0xd3 => sss .tcinv d a b
  | 0xd4 => sss .spalloc d a b
  | 0xd5 => sss .spfree d a b
  | 0xd6 => sss .tdecl d a b
  | 0xd7 => sss .tundecl d a b
  | 0xd8 => sss .tfwd d a b
  | 0xe0 => do return .csrr (← sdst 0 d) (mkNum a b)
  | 0xe1 => do return .csrw (mkNum a b) (← ssrc 0 d)
  | 0xe2 => do return .csrs (mkNum a b) (← ssrc 0 d)
  | 0xe3 => do return .csrc (mkNum a b) (← ssrc 0 d)
  | 0xe4 => do zeroF 0 d; return .trap (mkNum a b)
  | 0xe5 => do zeroF 0 d; zeroF 2 b; return .eret (← ssrc 1 a)
  | 0xe6 => do zeroF 0 d; zeroF 1 a; zeroF 2 b; return .nopC
  | _ => .error 9

/-- Opcodes 0x100-0x13f (Tables Instruction-10 to Instruction-13). -/
def decScalar (op d a b : Nat) : Except Nat Instr :=
  match op with
  | 0x100 => sss .add d a b
  | 0x101 => sss .sub d a b
  | 0x102 => sss .mul d a b
  | 0x103 => sss .mulhS d a b
  | 0x104 => sss .mulhN d a b
  | 0x105 => sss .divS d a b
  | 0x106 => sss .divN d a b
  | 0x107 => sss .remS d a b
  | 0x108 => sss .remN d a b
  | 0x109 => sss .and d a b
  | 0x10a => sss .or d a b
  | 0x10b => sss .xor d a b
  | 0x10c => sss .andn d a b
  | 0x10d => sss .shl d a b
  | 0x10e => sss .shr d a b
  | 0x10f => sss .sar d a b
  | 0x110 => sss .rot d a b
  | 0x111 => sss .minS d a b
  | 0x112 => sss .maxS d a b
  | 0x113 => sss .minN d a b
  | 0x114 => sss .maxN d a b
  | 0x115 => ssz .clz d a b
  | 0x116 => ssz .popc d a b
  | 0x117 => sss .sel d a b
  | 0x118 => ssz .mov d a b
  | 0x119 => sss .lea d a b
  | 0x11a => sss .sext d a b
  | 0x11b => sss .zext d a b
  | 0x11c => sss .add32 d a b
  | 0x11d => sss .sub32 d a b
  | 0x11e => sss .mul32 d a b
  | 0x120 => ssi .addi d a b
  | 0x121 => ssi .andi d a b
  | 0x122 => ssi .ori d a b
  | 0x123 => ssi .xori d a b
  | 0x124 => ssi .shli d a b
  | 0x125 => ssi .shri d a b
  | 0x126 => ssi .sari d a b
  | 0x128 => sss .setEq d a b
  | 0x129 => sss .setNe d a b
  | 0x12a => sss .setLt d a b
  | 0x12b => sss .setGe d a b
  | 0x12c => sss .setLtn d a b
  | 0x12d => sss .setGen d a b
  | 0x130 => do return .pand (← fin 8 0 d) (← fin 8 1 a) (← fin 8 2 b)
  | 0x131 => do return .por (← fin 8 0 d) (← fin 8 1 a) (← fin 8 2 b)
  | 0x132 => do return .pxor (← fin 8 0 d) (← fin 8 1 a) (← fin 8 2 b)
  | 0x133 => do let x ← fin 8 0 d; let y ← fin 8 1 a; zeroF 2 b; return .pnot x y
  | 0x134 => do return .pset (← fin 8 0 d) (← ssrc 1 a) (← fin 3 2 b)
  | 0x135 => do return .pget (← sdst 0 d) (← fin 8 1 a) (← fin 3 2 b)
  | _ => .error 9

/-- Opcodes 0x140-0x1a2 (Tables Instruction-10 to Instruction-13). -/
def decVector (op d a b : Nat) : Except Nat Instr :=
  match op with
  | 0x140 => vvv .vadd d a b
  | 0x141 => vvv .vsub d a b
  | 0x142 => vvv .vmul d a b
  | 0x143 => vvv .vmulh d a b
  | 0x144 => vvv .vand d a b
  | 0x145 => vvv .vor d a b
  | 0x146 => vvv .vxor d a b
  | 0x147 => vvv .vshl d a b
  | 0x148 => vvv .vshr d a b
  | 0x149 => vvv .vsar d a b
  | 0x14a => vvv .vmin d a b
  | 0x14b => vvv .vmax d a b
  | 0x14c => vvz .vabs d a b
  | 0x14d => vvv .vmad d a b
  | 0x14e => vvz .vpopc d a b
  | 0x14f => vvv .vdot d a b
  | 0x150 => pvv .vcmpEq d a b
  | 0x151 => pvv .vcmpNe d a b
  | 0x152 => pvv .vcmpLt d a b
  | 0x153 => pvv .vcmpGe d a b
  | 0x154 => vvv .vsel d a b
  | 0x180 => vvv .fadd d a b
  | 0x181 => vvv .fsub d a b
  | 0x182 => vvv .fmul d a b
  | 0x183 => vvv .fma d a b
  | 0x184 => vvv .fms d a b
  | 0x185 => vvv .fnma d a b
  | 0x186 => vvv .fnms d a b
  | 0x187 => vvv .fmin d a b
  | 0x188 => vvv .fmax d a b
  | 0x189 => vvz .fabs d a b
  | 0x18a => vvz .fneg d a b
  | 0x18b => vvv .fdiv d a b
  | 0x18c => vvz .fsqrt d a b
  | 0x18d => vvz .frcp d a b
  | 0x18e => vvz .frsq d a b
  | 0x18f => vvz .fexp2 d a b
  | 0x190 => vvz .flog2 d a b
  | 0x191 => vvz .fclass d a b
  | 0x198 => pvv .fcmpEq d a b
  | 0x199 => pvv .fcmpLt d a b
  | 0x19a => pvv .fcmpLe d a b
  | 0x19b => pvv .fcmpUn d a b
  | 0x1a0 => vvs .cvt d a b
  | 0x1a1 => do return .cvtq (← vpair 0 d) (← vsrc 1 a) (← ssrc 2 b)
  | 0x1a2 => do return .cvtdq (← vdst 0 d) (← vpair 1 a) (← ssrc 2 b)
  | _ => .error 9

/-- Opcodes 0x1a3-0x1ff (Tables Instruction-10 to Instruction-13). -/
def decMove (op d a b : Nat) : Except Nat Instr :=
  match op with
  | 0x1c0 => vvs .vbcast d a b
  | 0x1c1 => vvv .vshuf d a b
  | 0x1c2 => vvs .vslideUp d a b
  | 0x1c3 => vvs .vslideDn d a b
  | 0x1c4 => do return .vext (← sdst 0 d) (← vsrc 1 a) (← ssrc 2 b)
  | 0x1c5 => vvs .vins d a b
  | 0x1c6 => vvz .vcmpr d a b
  | 0x1c7 => do return .vlane (← vdst 0 d) (← ssrc 1 a) (← ssrc 2 b)
  | 0x1c8 => svz .vredAdd d a b
  | 0x1c9 => svz .vredMin d a b
  | 0x1ca => svz .vredMax d a b
  | 0x1cb => svz .vredAnd d a b
  | 0x1cc => svz .vredOr d a b
  | 0x1d0 => svz .fredAdd d a b
  | 0x1d1 => svz .fredMin d a b
  | 0x1d2 => svz .fredMax d a b
  | 0x1d4 => vvs .vtag d a b
  | 0x1d5 => svz .vtagq d a b
  | 0x1e0 => do zeroF 1 a; return .mzero (← fin 16 0 d) (← zeroTag b)
  | 0x1e1 => do zeroF 2 b; return .mlda (← fin 4 0 d) (← ssrc 1 a)
  | 0x1e2 => do zeroF 0 d; zeroF 2 b; return .mldb (← ssrc 1 a)
  | 0x1e3 => do zeroF 0 d; zeroF 2 b; return .mring (← fin 5 1 a)
  | 0x1e4 => do return .mma (← fin 16 0 d) (← ssrc 1 a) (← fin 64 2 b)
  | 0x1e5 => do zeroF 2 b; return .mband (← fin 5 0 d) (← ssrc 1 a)
  | 0x1e6 => do return .mst (← fin 16 0 d) (← ssrc 1 a) (← layout b)
  | 0x1e7 => do return .mldt (← fin 16 0 d) (← ssrc 1 a) (← layout b)
  | 0x1e8 => do zeroF 0 d; zeroF 1 a; zeroF 2 b; return .mfence
  | 0x1e9 => do zeroF 1 a; zeroF 2 b; return .mchk (← sdst 0 d)
  | 0x1ff => do zeroF 0 d; zeroF 1 a; zeroF 2 b; return .nopA
  | _ => .error 9

/-- R43: the opcode is assigned. -/
def assigned (op : Nat) : Bool :=
  !( (0x00D ≤ op && op ≤ 0x00F) || (0x01A ≤ op && op ≤ 0x01F) || (0x02C ≤ op && op ≤ 0x03F) || op == 0x047
  || op == 0x04F || op == 0x053 || (0x070 ≤ op && op ≤ 0x07F) || (0x092 ≤ op && op ≤ 0x097) || op == 0x0B7
  || op == 0x0C7 || (0x0CB ≤ op && op ≤ 0x0CF) || (0x0D9 ≤ op && op ≤ 0x0DF) || (0x0E7 ≤ op && op ≤ 0x0FF)
  || op == 0x11F || op == 0x127 || (0x12E ≤ op && op ≤ 0x12F) || (0x136 ≤ op && op ≤ 0x13F)
  || (0x155 ≤ op && op ≤ 0x17F) || (0x192 ≤ op && op ≤ 0x197) || (0x19C ≤ op && op ≤ 0x19F)
  || (0x1A3 ≤ op && op ≤ 0x1BF) || (0x1CD ≤ op && op ≤ 0x1CF) || op == 0x1D3 || (0x1D6 ≤ op && op ≤ 0x1DF)
  || (0x1EA ≤ op && op ≤ 0x1FE) || 0x200 ≤ op )

/-- One instruction from its opcode and fields; `lit` is LIT in a lone pair. An error names the field refused. -/
def decodeOp (op d a b : Nat) (lit : Option Half) : Except Nat Instr :=
  if op < 0x40 then decTask op d a b lit
  else if op < 0x80 then decMem op d a b
  else if op < 0x100 then decAtomic op d a b lit
  else if op < 0x140 then decScalar op d a b
  else if op < 0x1a3 then decVector op d a b
  else decMove op d a b

/-- A word's opcode (R12). -/
def wordOp (w : Half) : Nat := w.toNat / 2 ^ 18 % 512

/-- One slot's word as an instruction that stands legally in its place. -/
def decodeSlot (w : Half) (lit : Option Half) : Except Nat Instr :=
  match decodeOp (wordOp w) (w.toNat / 4096 % 64) (w.toNat / 64 % 64) (w.toNat % 64) lit with
  | .error f => .error f
  | .ok i => match Machine.firstBad lit.isSome i with
    | some f => .error f
    | none => .ok i

/-- PE, PR and PN of word 1 (R13): the predicate named, or none; an error when they break R17. -/
def decodePred (w : Half) : Except Unit (Option (Fin 8 × Bool)) :=
  if w.toNat / 2 ^ 31 = 1 then .ok (some (⟨w.toNat / 2 ^ 28 % 8, by omega⟩, w.toNat / 2 ^ 27 % 2 = 1))
  else if w.toNat / 2 ^ 27 % 16 = 0 then .ok none else .error ()

/-- A pair from its two words (R12-R17, R22 steps 1-3, C-slot first within a step). -/
def decodePair (w0 w1 : Half) : Except Reject Pair :=
  let gap : Fin 8 := ⟨w0.toNat / 2 ^ 28 % 8, by omega⟩
  let sw : Bool := w0.toNat / 2 ^ 27 % 2 = 1
  if w0.toNat / 2 ^ 31 = 1 then
    if !assigned (wordOp w0) then .error (.illop false (wordOp w0))
    else match decodeSlot w0 (some w1) with
      | .error f => .error (.illopnd false f)
      | .ok i =>
        if Machine.takesAttr i || Machine.namesLit i || w1 == 0 then .ok (.lone gap sw i w1)
        else .error (.illopnd false 3)
  else if !assigned (wordOp w0) then .error (.illop false (wordOp w0))
  else if !assigned (wordOp w1) then .error (.illop true (wordOp w1))
  else if 256 ≤ wordOp w0 then .error (.illpair false)
  else if wordOp w1 < 256 then .error (.illpair true)
  else match decodeSlot w0 none with
    | .error f => .error (.illopnd false f)
    | .ok c => match decodeSlot w1 none with
      | .error f => .error (.illopnd true f)
      | .ok a => match decodePred w1 with
        | .error _ => .error (.illopnd true 4)
        | .ok none => .ok (.normal gap sw c a none)
        | .ok (some p) => if unpredicable a then .error (.illopnd true 4) else .ok (.normal gap sw c a (some p))

/-! ## The encoder -/

/-- The opcode and the D, A and B fields of a native instruction; none for a step of the device. -/
def fields (lone : Bool) : Instr → Option (Nat × Nat × Nat × Nat)
  | .br o => some (0x0, offD o, offA o, offB o)
  | .brpAny o => some (0x1, offD o, offA o, offB o)
  | .brpAll o => some (0x2, offD o, offA o, offB o)
  | .brpNone o => some (0x3, offD o, offA o, offB o)
  | .brsZ o => some (0x4, offD o, offA o, offB o)
  | .brsNz o => some (0x5, offD o, offA o, offB o)
  | .brsLt o => some (0x6, offD o, offA o, offB o)
  | .brsGe o => some (0x7, offD o, offA o, offB o)
  | .call o => some (0x8, offD o, offA o, offB o)
  | .callr d a => some (0x009, SDst.enc d, SSrc.enc a, 0)
  | .jmpr a => some (0xa, 0, SSrc.enc a, 0)
  | .ret a => some (0xb, 0, SSrc.enc a, 0)
  | .loop o => some (0xc, offD o, offA o, offB o)
  | .spawn d a b _ => some (0x10, SDst.enc d, SSrc.enc a, SSrc.enc b)
  | .spawnk d a b _ => some (0x11, SDst.enc d, SSrc.enc a, SSrc.enc b)
  | .retire a b => some (0x012, 0, SSrc.enc a, SSrc.enc b)
  | .susp a => some (0x013, 0, SSrc.enc a, 0)
  | .suspon a b => some (0x014, 0, SSrc.enc a, SSrc.enc b)
  | .phase l => some (0x015, 0, l.val, 0)
  | .parrive d l => some (0x016, SDst.enc d, l.val, 0)
  | .pwait l b => some (0x017, 0, l.val, SSrc.enc b)
  | .gfuse d a b => some (0x018, SDst.enc d, SSrc.enc a, SSrc.enc b)
  | .gsplit d => some (0x019, SDst.enc d, 0, 0)
  | .evwait l => some (0x020, 0, l.val, 0)
  | .evsig l b => some (0x021, 0, l.val, SSrc.enc b)
  | .barr d g => some (0x022, SDst.enc d, g.val, 0)
  | .bwait g b => some (0x023, 0, g.val, SSrc.enc b)
  | .bmask g b => some (0x024, 0, g.val, SSrc.enc b)
  | .oarr d l b => some (0x025, SDst.enc d, l.val, SSrc.enc b)
  | .owait l b => some (0x026, 0, l.val, SSrc.enc b)
  | .xwait ch b => some (0x027, 0, ch.val, SSrc.enc b)
  | .fence k sc => some (0x028, 0, (if lone then 0 else k.code), (if lone then 0 else sc.val))
  | .tfence => some (0x029, 0, 0, 0)
  | .qstat d p => some (0x02A, SDst.enc d, p.val, 0)
  | .chbind d n b => some (0x02B, SDst.enc d, 8 + n.val, SSrc.enc b)
  | .ld z d a i => some (0x040 + z.code, SDst.enc d, SSrc.enc a, i.toNat)
  | .ldx z d a b => some (0x048 + z.code, SDst.enc d, SSrc.enc a, SSrc.enc b)
  | .ldAcq z d a sc => some (0x050 + z.code, SDst.enc d, SSrc.enc a, sc.val)
  | .st z d a i => some (0x054 + z.code, SSrc.enc d, SSrc.enc a, i.toNat)
  | .stx z d a b => some (0x058 + z.code, SSrc.enc d, SSrc.enc a, SSrc.enc b)
  | .stRel z d a sc => some (0x05C + z.code, SSrc.enc d, SSrc.enc a, sc.val)
  | .vld d a t => some (0x060, VDst.enc d, SSrc.enc a, t.toNat)
  | .vlds d g t => some (0x061, VDst.enc d, 2 * g.val, t.toNat)
  | .vst d a i => some (0x062, VSrc.enc d, SSrc.enc a, i.toNat)
  | .vsts d g => some (0x063, VSrc.enc d, 2 * g.val, 0)
  | .vgath w d a b => some (0x064 + w.code, VDst.enc d, SSrc.enc a, VSrc.enc b)
  | .vscat w d a b => some (0x066 + w.code, VSrc.enc d, SSrc.enc a, VSrc.enc b)
  | .ldfe64 d a => some (0x68, SDst.enc d, SSrc.enc a, 0)
  | .ldfe64c d a => some (0x69, SDst.enc d, SSrc.enc a, 0)
  | .ldfeV d a t => some (0x6a, VDst.enc d, SSrc.enc a, t.toNat)
  | .ldfeVc d a t => some (0x6b, VDst.enc d, SSrc.enc a, t.toNat)
  | .stfe64 d a i => some (0x06C, SSrc.enc d, SSrc.enc a, i.toNat)
  | .stfeV d a i => some (0x06D, VSrc.enc d, SSrc.enc a, i.toNat)
  | .fecl a b => some (0x6e, 0, SSrc.enc a, SSrc.enc b)
  | .feset a b => some (0x6f, 0, SSrc.enc a, SSrc.enc b)
  | .amoAdd w f _ => some ((if f.isRet then 0x80 else 0x98) + w.code, f.encD, f.encA, f.encB)
  | .amoAnd w f _ => some ((if f.isRet then 0x82 else 0x9a) + w.code, f.encD, f.encA, f.encB)
  | .amoOr w f _ => some ((if f.isRet then 0x84 else 0x9c) + w.code, f.encD, f.encA, f.encB)
  | .amoXor w f _ => some ((if f.isRet then 0x86 else 0x9e) + w.code, f.encD, f.encA, f.encB)
  | .amoSmin w f _ => some ((if f.isRet then 0x88 else 0xa0) + w.code, f.encD, f.encA, f.encB)
  | .amoSmax w f _ => some ((if f.isRet then 0x8a else 0xa2) + w.code, f.encD, f.encA, f.encB)
  | .amoNmin w f _ => some ((if f.isRet then 0x8c else 0xa4) + w.code, f.encD, f.encA, f.encB)
  | .amoNmax w f _ => some ((if f.isRet then 0x8e else 0xa6) + w.code, f.encD, f.encA, f.encB)
  | .amoSwap w d a b _ => some (0x090 + w.code, SDst.enc d, SSrc.enc a, SSrc.enc b)
  | .famoFadd w f _ => some ((if f.isRet then 0xa8 else 0xb8) + w.code, f.encD, f.encA, f.encB)
  | .famoFmin w f _ => some ((if f.isRet then 0xad else 0xbd) + w.code, f.encD, f.encA, f.encB)
  | .famoFmax w f _ => some ((if f.isRet then 0xb2 else 0xc2) + w.code, f.encD, f.encA, f.encB)
  | .cas f _ => some (0x0C8 + f.code, f.encD, f.encA, f.encB)
  | .cflush d a b => some (0xd0, SDst.enc d, SSrc.enc a, SSrc.enc b)
  | .cwb d a b => some (0xd1, SDst.enc d, SSrc.enc a, SSrc.enc b)
  | .cinv d a b => some (0xd2, SDst.enc d, SSrc.enc a, SSrc.enc b)
  | .tcinv d a b => some (0xd3, SDst.enc d, SSrc.enc a, SSrc.enc b)
  | .spalloc d a b => some (0xd4, SDst.enc d, SSrc.enc a, SSrc.enc b)
  | .spfree d a b => some (0xd5, SDst.enc d, SSrc.enc a, SSrc.enc b)
  | .tdecl d a b => some (0xd6, SDst.enc d, SSrc.enc a, SSrc.enc b)
  | .tundecl d a b => some (0xd7, SDst.enc d, SSrc.enc a, SSrc.enc b)
  | .tfwd d a b => some (0xd8, SDst.enc d, SSrc.enc a, SSrc.enc b)
  | .csrr d n => some (0x0E0, SDst.enc d, n.toNat / 64, n.toNat % 64)
  | .csrw n d => some (0xe1, SSrc.enc d, n.toNat / 64, n.toNat % 64)
  | .csrs n d => some (0xe2, SSrc.enc d, n.toNat / 64, n.toNat % 64)
  | .csrc n d => some (0xe3, SSrc.enc d, n.toNat / 64, n.toNat % 64)
  | .trap n => some (0x0E4, 0, n.toNat / 64, n.toNat % 64)
  | .eret a => some (0x0E5, 0, SSrc.enc a, 0)
  | .nopC => some (0x0E6, 0, 0, 0)
  | .add d a b => some (0x100, SDst.enc d, SSrc.enc a, SSrc.enc b)
  | .sub d a b => some (0x101, SDst.enc d, SSrc.enc a, SSrc.enc b)
  | .mul d a b => some (0x102, SDst.enc d, SSrc.enc a, SSrc.enc b)
  | .mulhS d a b => some (0x103, SDst.enc d, SSrc.enc a, SSrc.enc b)
  | .mulhN d a b => some (0x104, SDst.enc d, SSrc.enc a, SSrc.enc b)
  | .divS d a b => some (0x105, SDst.enc d, SSrc.enc a, SSrc.enc b)
  | .divN d a b => some (0x106, SDst.enc d, SSrc.enc a, SSrc.enc b)
  | .remS d a b => some (0x107, SDst.enc d, SSrc.enc a, SSrc.enc b)
  | .remN d a b => some (0x108, SDst.enc d, SSrc.enc a, SSrc.enc b)
  | .and d a b => some (0x109, SDst.enc d, SSrc.enc a, SSrc.enc b)
  | .or d a b => some (0x10a, SDst.enc d, SSrc.enc a, SSrc.enc b)
  | .xor d a b => some (0x10b, SDst.enc d, SSrc.enc a, SSrc.enc b)
  | .andn d a b => some (0x10c, SDst.enc d, SSrc.enc a, SSrc.enc b)
  | .shl d a b => some (0x10d, SDst.enc d, SSrc.enc a, SSrc.enc b)
  | .shr d a b => some (0x10e, SDst.enc d, SSrc.enc a, SSrc.enc b)
  | .sar d a b => some (0x10f, SDst.enc d, SSrc.enc a, SSrc.enc b)
  | .rot d a b => some (0x110, SDst.enc d, SSrc.enc a, SSrc.enc b)
  | .minS d a b => some (0x111, SDst.enc d, SSrc.enc a, SSrc.enc b)
  | .maxS d a b => some (0x112, SDst.enc d, SSrc.enc a, SSrc.enc b)
  | .minN d a b => some (0x113, SDst.enc d, SSrc.enc a, SSrc.enc b)
  | .maxN d a b => some (0x114, SDst.enc d, SSrc.enc a, SSrc.enc b)
  | .clz d a => some (0x115, SDst.enc d, SSrc.enc a, 42)
  | .popc d a => some (0x116, SDst.enc d, SSrc.enc a, 42)
  | .sel d a b => some (0x117, SDst.enc d, SSrc.enc a, SSrc.enc b)
  | .mov d a => some (0x118, SDst.enc d, SSrc.enc a, 42)
  | .lea d a b => some (0x119, SDst.enc d, SSrc.enc a, SSrc.enc b)
  | .sext d a b => some (0x11a, SDst.enc d, SSrc.enc a, SSrc.enc b)
  | .zext d a b => some (0x11b, SDst.enc d, SSrc.enc a, SSrc.enc b)
  | .add32 d a b => some (0x11c, SDst.enc d, SSrc.enc a, SSrc.enc b)
  | .sub32 d a b => some (0x11d, SDst.enc d, SSrc.enc a, SSrc.enc b)
  | .mul32 d a b => some (0x11e, SDst.enc d, SSrc.enc a, SSrc.enc b)
  | .addi d a i => some (0x120, SDst.enc d, SSrc.enc a, i.toNat)
  | .andi d a i => some (0x121, SDst.enc d, SSrc.enc a, i.toNat)
  | .ori d a i => some (0x122, SDst.enc d, SSrc.enc a, i.toNat)
  | .xori d a i => some (0x123, SDst.enc d, SSrc.enc a, i.toNat)
  | .shli d a i => some (0x124, SDst.enc d, SSrc.enc a, i.toNat)
  | .shri d a i => some (0x125, SDst.enc d, SSrc.enc a, i.toNat)
  | .sari d a i => some (0x126, SDst.enc d, SSrc.enc a, i.toNat)
  | .setEq d a b => some (0x128, SDst.enc d, SSrc.enc a, SSrc.enc b)
  | .setNe d a b => some (0x129, SDst.enc d, SSrc.enc a, SSrc.enc b)
  | .setLt d a b => some (0x12a, SDst.enc d, SSrc.enc a, SSrc.enc b)
  | .setGe d a b => some (0x12b, SDst.enc d, SSrc.enc a, SSrc.enc b)
  | .setLtn d a b => some (0x12c, SDst.enc d, SSrc.enc a, SSrc.enc b)
  | .setGen d a b => some (0x12d, SDst.enc d, SSrc.enc a, SSrc.enc b)
  | .pand d a b => some (0x130, d.val, a.val, b.val)
  | .por d a b => some (0x131, d.val, a.val, b.val)
  | .pxor d a b => some (0x132, d.val, a.val, b.val)
  | .pnot d a => some (0x133, d.val, a.val, 0)
  | .pset d a m => some (0x134, d.val, SSrc.enc a, m.val)
  | .pget d a m => some (0x135, SDst.enc d, a.val, m.val)
  | .vadd d a b => some (0x140, VDst.enc d, VSrc.enc a, VSrc.enc b)
  | .vsub d a b => some (0x141, VDst.enc d, VSrc.enc a, VSrc.enc b)
  | .vmul d a b => some (0x142, VDst.enc d, VSrc.enc a, VSrc.enc b)
  | .vmulh d a b => some (0x143, VDst.enc d, VSrc.enc a, VSrc.enc b)
  | .vand d a b => some (0x144, VDst.enc d, VSrc.enc a, VSrc.enc b)
  | .vor d a b => some (0x145, VDst.enc d, VSrc.enc a, VSrc.enc b)
  | .vxor d a b => some (0x146, VDst.enc d, VSrc.enc a, VSrc.enc b)
  | .vshl d a b => some (0x147, VDst.enc d, VSrc.enc a, VSrc.enc b)
  | .vshr d a b => some (0x148, VDst.enc d, VSrc.enc a, VSrc.enc b)
  | .vsar d a b => some (0x149, VDst.enc d, VSrc.enc a, VSrc.enc b)
  | .vmin d a b => some (0x14a, VDst.enc d, VSrc.enc a, VSrc.enc b)
  | .vmax d a b => some (0x14b, VDst.enc d, VSrc.enc a, VSrc.enc b)
  | .vabs d a => some (0x14c, VDst.enc d, VSrc.enc a, 42)
  | .vmad d a b => some (0x14d, VDst.enc d, VSrc.enc a, VSrc.enc b)
  | .vpopc d a => some (0x14e, VDst.enc d, VSrc.enc a, 42)
  | .vdot d a b => some (0x14f, VDst.enc d, VSrc.enc a, VSrc.enc b)
  | .vcmpEq d a b => some (0x150, d.val, VSrc.enc a, VSrc.enc b)
  | .vcmpNe d a b => some (0x151, d.val, VSrc.enc a, VSrc.enc b)
  | .vcmpLt d a b => some (0x152, d.val, VSrc.enc a, VSrc.enc b)
  | .vcmpGe d a b => some (0x153, d.val, VSrc.enc a, VSrc.enc b)
  | .vsel d a b => some (0x154, VDst.enc d, VSrc.enc a, VSrc.enc b)
  | .fadd d a b => some (0x180, VDst.enc d, VSrc.enc a, VSrc.enc b)
  | .fsub d a b => some (0x181, VDst.enc d, VSrc.enc a, VSrc.enc b)
  | .fmul d a b => some (0x182, VDst.enc d, VSrc.enc a, VSrc.enc b)
  | .fma d a b => some (0x183, VDst.enc d, VSrc.enc a, VSrc.enc b)
  | .fms d a b => some (0x184, VDst.enc d, VSrc.enc a, VSrc.enc b)
  | .fnma d a b => some (0x185, VDst.enc d, VSrc.enc a, VSrc.enc b)
  | .fnms d a b => some (0x186, VDst.enc d, VSrc.enc a, VSrc.enc b)
  | .fmin d a b => some (0x187, VDst.enc d, VSrc.enc a, VSrc.enc b)
  | .fmax d a b => some (0x188, VDst.enc d, VSrc.enc a, VSrc.enc b)
  | .fabs d a => some (0x189, VDst.enc d, VSrc.enc a, 42)
  | .fneg d a => some (0x18a, VDst.enc d, VSrc.enc a, 42)
  | .fdiv d a b => some (0x18b, VDst.enc d, VSrc.enc a, VSrc.enc b)
  | .fsqrt d a => some (0x18c, VDst.enc d, VSrc.enc a, 42)
  | .frcp d a => some (0x18d, VDst.enc d, VSrc.enc a, 42)
  | .frsq d a => some (0x18e, VDst.enc d, VSrc.enc a, 42)
  | .fexp2 d a => some (0x18f, VDst.enc d, VSrc.enc a, 42)
  | .flog2 d a => some (0x190, VDst.enc d, VSrc.enc a, 42)
  | .fclass d a => some (0x191, VDst.enc d, VSrc.enc a, 42)
  | .fcmpEq d a b => some (0x198, d.val, VSrc.enc a, VSrc.enc b)
  | .fcmpLt d a b => some (0x199, d.val, VSrc.enc a, VSrc.enc b)
  | .fcmpLe d a b => some (0x19a, d.val, VSrc.enc a, VSrc.enc b)
  | .fcmpUn d a b => some (0x19b, d.val, VSrc.enc a, VSrc.enc b)
  | .cvt d a b => some (0x1a0, VDst.enc d, VSrc.enc a, SSrc.enc b)
  | .cvtq d a b => some (0x1A1, VPair.enc d, VSrc.enc a, SSrc.enc b)
  | .cvtdq d a b => some (0x1A2, VDst.enc d, VPair.enc a, SSrc.enc b)
  | .vbcast d a b => some (0x1c0, VDst.enc d, VSrc.enc a, SSrc.enc b)
  | .vshuf d a b => some (0x1c1, VDst.enc d, VSrc.enc a, VSrc.enc b)
  | .vslideUp d a b => some (0x1c2, VDst.enc d, VSrc.enc a, SSrc.enc b)
  | .vslideDn d a b => some (0x1c3, VDst.enc d, VSrc.enc a, SSrc.enc b)
  | .vext d a b => some (0x1C4, SDst.enc d, VSrc.enc a, SSrc.enc b)
  | .vins d a b => some (0x1c5, VDst.enc d, VSrc.enc a, SSrc.enc b)
  | .vcmpr d a => some (0x1c6, VDst.enc d, VSrc.enc a, 42)
  | .vlane d a b => some (0x1C7, VDst.enc d, SSrc.enc a, SSrc.enc b)
  | .vredAdd d a => some (0x1c8, SDst.enc d, VSrc.enc a, 42)
  | .vredMin d a => some (0x1c9, SDst.enc d, VSrc.enc a, 42)
  | .vredMax d a => some (0x1ca, SDst.enc d, VSrc.enc a, 42)
  | .vredAnd d a => some (0x1cb, SDst.enc d, VSrc.enc a, 42)
  | .vredOr d a => some (0x1cc, SDst.enc d, VSrc.enc a, 42)
  | .fredAdd d a => some (0x1d0, SDst.enc d, VSrc.enc a, 42)
  | .fredMin d a => some (0x1d1, SDst.enc d, VSrc.enc a, 42)
  | .fredMax d a => some (0x1d2, SDst.enc d, VSrc.enc a, 42)
  | .vtag d a b => some (0x1d4, VDst.enc d, VSrc.enc a, SSrc.enc b)
  | .vtagq d a => some (0x1d5, SDst.enc d, VSrc.enc a, 42)
  | .mzero t z => some (0x1E0, t.val, 0, (if z then 5 else 10))
  | .mlda n a => some (0x1E1, n.val, SSrc.enc a, 0)
  | .mldb a => some (0x1E2, 0, SSrc.enc a, 0)
  | .mring c => some (0x1E3, 0, c.val, 0)
  | .mma t a p => some (0x1E4, t.val, SSrc.enc a, p.val)
  | .mband n a => some (0x1E5, n.val, SSrc.enc a, 0)
  | .mst t a l => some (0x1e6, t.val, SSrc.enc a, l.enc)
  | .mldt t a l => some (0x1e7, t.val, SSrc.enc a, l.enc)
  | .mfence => some (0x1E8, 0, 0, 0)
  | .mchk d => some (0x1E9, SDst.enc d, 0, 0)
  | .nopA => some (0x1FF, 0, 0, 0)
  | _ => none

/-- The instruction is a native one. -/
def native (i : Instr) : Bool := (fields false i).isSome

/-- The opcode of an instruction; 512 for a step of the device. -/
def opcode (i : Instr) : Nat := match fields false i with | some (o, _) => o | none => 512

/-- R12: OP[8] is the class. -/
def isA (i : Instr) : Bool := decide (256 ≤ opcode i)

/-- The literal that a lone pair carries as attributes; the pair's own otherwise. -/
def litOf (i : Instr) (lit : Half) : Half :=
  match i with
  | .spawn _ _ _ c | .spawnk _ _ _ c => BitVec.ofNat 32 c.enc
  | .fence k sc => BitVec.ofNat 32 (16 * (k.code + 1) + sc.val)
  | .amoAdd _ _ x | .amoAnd _ _ x | .amoOr _ _ x | .amoXor _ _ x | .amoSmin _ _ x | .amoSmax _ _ x
  | .amoNmin _ _ x | .amoNmax _ _ x | .amoSwap _ _ _ _ x | .famoFadd _ _ x | .famoFmin _ _ x | .famoFmax _ _ x
  | .cas _ x => match x with | some x => BitVec.ofNat 32 x.enc | none => lit
  | _ => lit

/-- One word from its upper bits and fields. -/
def mkWord (top op d a b : Nat) : Half := BitVec.ofNat 32 (top * 2 ^ 27 + op * 2 ^ 18 + d * 4096 + a * 64 + b)

/-- The word of one instruction with the given upper five bits. -/
def encodeWord (lone : Bool) (top : Nat) (i : Instr) : Half :=
  match fields lone i with
  | some (o, d, a, b) => mkWord top o d a b
  | none => 0

/-- The predicate bits of word 1. -/
def predTop : Option (Fin 8 × Bool) → Nat
  | none => 0
  | some (p, n) => 16 + 2 * p.val + (if n then 1 else 0)

/-- The two words of a pair. -/
def encodePair : Pair → Half × Half
  | .normal g sw c a pe => (encodeWord false (2 * g.val + (if sw then 1 else 0)) c, encodeWord false (predTop pe) a)
  | .lone g sw i lit => (encodeWord true (16 + 2 * g.val + (if sw then 1 else 0)) i, litOf i lit)

/-- The pair admits the encoding: both slots legal in their places and classes, LIT as R40 says. -/
def Pair.wf : Pair → Bool
  | .normal _ _ c a pe => Sys2Proof.wf false c && Sys2Proof.wf false a && native c && native a && !isA c && isA a
      && (pe.isNone || !unpredicable a)
  | .lone _ _ i lit => Sys2Proof.wf true i && native i
      && (if Machine.takesAttr i then lit == litOf i lit else Machine.namesLit i || lit == 0)

/-! ## The host's view -/

/-- The instruction that the decoder reads from a pair whose word 0 is bits 31:0 of `w` and word 1 bits 63:32: the
lone instruction, the C-slot's, or the A-slot's where the C-slot holds `nop`. -/
def decodeTableWord (_nbits w : Nat) : Option Instr :=
  match decodePair (BitVec.ofNat 32 w) (BitVec.ofNat 32 (w / 2 ^ 32)) with
  | .ok (.lone _ _ i _) => some i
  | .ok (.normal _ _ .nopC a _) => some a
  | .ok (.normal _ _ c _ _) => some c
  | .error _ => none

end Sys2Proof
end

