-- ==== Sys2Proof/Config.lean ====
section
/-!
DEFINITION. What an implementation fixes, and the FREE VALUES: opaque constants with no body, for the values
that the manual leaves open. Nothing in Lean can evaluate one. State.freeCtr is the counter they are applied to.
-/
namespace Sys2Proof.Config

/-- R358: whether the n-th speculative atomic fails spuriously (log 2). -/
opaque spuriousFail : Nat → Bool
/-- R371: whether the host refuses the ownership that its n-th proxy atomic needs (log 2). -/
opaque ownershipRefused : Nat → Bool
/-- R398: for an overlapped destination byte of a COPY, whether it holds the source byte as it stood before the
copy or as the copy itself has left it (log 2). -/
opaque overlapLate : Nat → Bool
/-- R499: whether a remote byte of a failed scale-out segment holds the new value (log 2). -/
opaque scaleOutLanded : Nat → Bool
/-- R478: the grant of a compute die at the n-th tick, before the limit on their sum (log 2). -/
opaque powerGrant : Nat → Nat → Nat
/-- R486: the length of the n-th report's signature, before the limit of 1,280 (log 13). -/
opaque signatureLength : Nat → Nat
/-- R486: byte i of the n-th attestation report's signature and digests (log 13). -/
opaque reportByte : Nat → Nat → Byte
/-- R502: the contribution of a collective's member on another device: instance, rank, byte index (log 2). -/
opaque peerByte : Nat → Nat → Nat → Byte
/-- R505: the source of a collective's member on another device faults: instance, rank, first result element of the chunk
(log 2). -/
opaque peerSourceFaults : Nat → Nat → Nat → Bool
/-- R502: a collective's member on another device differs from the others in what they must share: instance, rank (log 2). -/
opaque peerDiffers : Nat → Nat → Bool
/-- R486: byte i of the report's device id, silicon revision and failed-start count, whose layout the manual leaves open: of
the device id and the count (log 13). -/
opaque reportId : Nat → Nat → Nat → Byte
/-- R311-R315: what `gsplit` delivers to a continuation that is in no gang (log 2). -/
opaque loneSplit : Nat → Word
/-- R488, R498: bytes of DDR5 that another device has installed, by its id. -/
opaque remoteDdr : Nat → Nat
/-- R475: what a byte reads as under a key id, by start, id and physical address, where it was stored under another key
(R438, R482) (log 14). -/
opaque wrongKeyByte : Nat → Nat → Nat → Byte

/-- R342: the number of Ethernet tiers that boot firmware discovered, taken modulo 10, and for each radius from 4 on how
many devices it adds: of the switch, beside this one; of a wider radius, beside those of the narrower one (log 81). -/
opaque ethernetTiers : Nat
opaque scopeDevices : Nat → Nat

/-- R431: the Nalfen operation ids that a compute die of this part cannot lower: none (Table Translation-1). -/
def unlowered : List Nat := []

/-- R272: the access size that a trap record names for the range check of a matrix operand (log 2). -/
opaque operandSize : Nat → Nat

/-- R66: the hold time at a blocking point, in cycles. -/
def holdCycles : Nat := 4096
/-- R314: the life of a `gfuse` request, in cycles. -/
def gfuseCycles : Nat := 65536
/-- Cycles of the 1.3 GHz clock in 10 µs (R480). -/
def cycles10us : Nat := 13000
/-- R449: the container revision this generation writes. -/
def containerRev : Nat := 1

end Sys2Proof.Config
end

