-- ==== Sys2Proof/Machine/Sparse.lean ====
section
/-!
DEFINITION. Sparse maps as plain data: lists of (key, value) with the keys strictly rising and no entry equal to the
default, so that equal maps are equal lists. Memory, register files and tables are all of this form.
-/
namespace Sys2Proof.Machine

/-- The value at key `k`; `d` where nothing is listed. -/
def sget {α : Type} (d : α) : List (Nat × α) → Nat → α
  | [], _ => d
  | (a, x) :: m, k => if a = k then x else sget d m k

/-- Insert or replace, keeping the keys in order (no entry is dropped here). -/
def sput {α : Type} : List (Nat × α) → Nat → α → List (Nat × α)
  | [], k, v => [(k, v)]
  | (a, x) :: m, k, v =>
    if k < a then (k, v) :: (a, x) :: m
    else if k = a then (k, v) :: m
    else (a, x) :: sput m k v

/-- Remove a key. -/
def sdel {α : Type} : List (Nat × α) → Nat → List (Nat × α)
  | [], _ => []
  | (a, x) :: m, k => if a = k then sdel m k else (a, x) :: sdel m k

/-- Write: the default removes the entry, so the form stays canonical. -/
def sset {α : Type} [DecidableEq α] (d : α) (m : List (Nat × α)) (k : Nat) (v : α) : List (Nat × α) :=
  if v = d then sdel m k else sput m k v

/-- Keys strictly rising from above `lo`, and no value equal to the default. -/
def swfFrom {α : Type} [DecidableEq α] (d : α) : Nat → List (Nat × α) → Bool
  | _, [] => true
  | lo, (a, x) :: m => decide (lo ≤ a) && decide (x ≠ d) && swfFrom d (a + 1) m

/-- The canonical form. -/
def swf {α : Type} [DecidableEq α] (d : α) (m : List (Nat × α)) : Bool := swfFrom d 0 m

/-- MEMORY IN ITS CANONICAL FORM: addresses strictly rising, no entry equal to the zero that an unlisted address reads
as. -/
def Memory.wf (m : List (Nat × Byte)) : Bool := swf 0 m

/-- `sget` then a function then `sset`. -/
def smod {α : Type} [DecidableEq α] (d : α) (m : List (Nat × α)) (k : Nat) (f : α → α) : List (Nat × α) :=
  sset d m k (f (sget d m k))

/-- Insertion sort. -/
def insertBy {α : Type} (le : α → α → Bool) (x : α) : List α → List α
  | [] => [x]
  | y :: l => if le x y then x :: y :: l else y :: insertBy le x l

def sortBy {α : Type} (le : α → α → Bool) (l : List α) : List α := l.foldr (insertBy le) []

/-- The entries with keys from `a` up to `a + n`. -/
def within {α : Type} (m : List (Nat × α)) (a n : Nat) : List (Nat × α) :=
  m.filter fun c => decide (a ≤ c.1) && decide (c.1 < a + n)

/-- The natural number of the `n` bytes from `a` upward, little-endian (R4). -/
def bytesFrom (m : List (Nat × Byte)) (a : Nat) : Nat → Nat
  | 0 => 0
  | n + 1 => (sget 0 m a).toNat + 256 * bytesFrom m (a + 1) n

/-- `n` little-endian bytes of a sparse byte map from `a` upward, as a natural number (R4). -/
def bytesAt (m : List (Nat × Byte)) (a n : Nat) : Nat := bytesFrom (within m a n) a n

/-- The values at the n keys from `a` upward, in order, of a map whose keys from there on are these alone. -/
def denseFrom {α : Type} (d : α) : List (Nat × α) → Nat → Nat → List α
  | _, _, 0 => []
  | [], a, n + 1 => d :: denseFrom d [] (a + 1) n
  | (k, x) :: m, a, n + 1 => if k = a then x :: denseFrom d m (a + 1) n else d :: denseFrom d ((k, x) :: m) (a + 1) n

/-- The values at the n keys from `a` upward. -/
def dense {α : Type} (d : α) (m : List (Nat × α)) (a n : Nat) : List α := denseFrom d (within m a n) a n

/-- The entries from key `a` upward that a run of values makes. -/
def runOf {α : Type} [DecidableEq α] (d : α) : Nat → List α → List (Nat × α)
  | _, [] => []
  | a, x :: l => if x = d then runOf d (a + 1) l else (a, x) :: runOf d (a + 1) l

/-- The non-zero bytes of a list as entries from address `a` upward. -/
def cells : Nat → List Byte → List (Nat × Byte)
  | _, [] => []
  | a, b :: l => if b = 0 then cells (a + 1) l else (a, b) :: cells (a + 1) l

/-- Write a run of bytes from `a` upward in one pass. -/
def splice (m : List (Nat × Byte)) (a : Nat) (l : List Byte) : List (Nat × Byte) :=
  m.filter (fun c => decide (c.1 < a)) ++ cells a l ++ m.filter (fun c => decide (a + l.length ≤ c.1))

/-- The `n` little-endian bytes of a natural number. -/
def leBytes : Nat → Nat → List Byte
  | 0, _ => []
  | n + 1, v => BitVec.ofNat 8 v :: leBytes n (v / 256)

/-- Write the low `n` bytes of `v` from `a` upward, little-endian (R4). -/
def putBytes (m : List (Nat × Byte)) (a v n : Nat) : List (Nat × Byte) := splice m a (leBytes n v)

/-- The 32-bit words of a run of bytes, little-endian. -/
def halvesOf : List Byte → List Half
  | a :: b :: c :: d :: l => (d ++ c ++ b ++ a) :: halvesOf l
  | _ => []

/-- The natural number of little-endian bytes. -/
def ofBytes : List Byte → Nat
  | [] => 0
  | b :: l => b.toNat + 256 * ofBytes l

end Sys2Proof.Machine
end

