-- ==== Sys2Proof/Machine/State.lean ====
section
/-!
DEFINITION. The state of the device as plain data, the ways a step can stop, and the state after reset.
Sparse maps (Machine/Sparse.lean) hold register files and tables; the comment of each gives its default.
-/
namespace Sys2Proof.Machine

/-- Where a byte is. -/
inductive Place where
  | spad (core off : Nat) | mem (pa mt key : Nat) | scope (off pa : Nat) | event (cl off : Nat) | coreWin (c off : Nat)
  | table (w off : Nat)
  deriving DecidableEq, Repr

/-! ## A slot and what it holds (R123) -/

/-- A vector register or latch: 2,048 bits and a format tag (R125, R128). -/
structure VReg where
  val : Vec
  tag : Tag
  deriving DecidableEq, Repr

/-- Zero, tag raw: what R124 gives a register at pickup. -/
def VReg.zero : VReg := ⟨0, 0⟩

/-- The register files and latches of a slot (Table Core-1). Defaults: zero, tag raw. `v` holds the codes
0-31 (v registers) and 32-39 (o registers). -/
structure Regs where
  s : List (Nat × Word)
  v : List (Nat × VReg)
  p : List (Nat × Pred)
  la : VReg
  lc : VReg
  deriving DecidableEq, Repr

/-- The saved continuation CSRs (Table Core-3). `domm` default 0. -/
structure Csrs where
  flags : Byte
  ftrap : Byte
  fctl : BitVec 3
  chk : BitVec 2
  lead : BitVec 4
  quant : BitVec 16
  /-- TIME as it stood at pickup. -/
  time : Word
  xflast : BitVec 34
  domm : List (Nat × Half)
  deriving DecidableEq, Repr

/-! ## Translations (R426-R431; what the spec leaves to the translator is log 84) -/

/-- A Nalfen register's native place: its kind (0 scalar, 1 vector, 2 predicate, 3 tile), its number there, and its
type's tag. -/
structure NReg where
  kind : Nat
  loc : Nat
  tag : Nat
  deriving DecidableEq, Repr

/-- A live Nalfen register's native place (R275, R428): kind 1 scalar, 2 vector, 3 predicate, 6 tile; `loc` the native
number; `off` its frame slot's offset from FRAME + 64. -/
structure CarryLoc where
  vreg : Nat
  kind : Nat
  loc : Nat
  off : Nat
  deriving DecidableEq, Repr

/-- What is put into a register before a pair of a translation issues: an operand moved, or an immediate. -/
inductive Fill where
  | s (dst : Nat) (v : TVal) (add : Int)
  | v (dst src : Nat)
  | tagged (dst tag : Nat)
  | splat (dst : Nat) (v : TVal) (tag : Nat)
  | p (dst : Nat) (src : Option Nat)
  /-- a predicate that enables at most element 0, as the register, or its complement, does (R211). -/
  | first (dst src : Nat) (neg : Bool)
  deriving DecidableEq, Repr

/-- Where a result of a pair goes instead of the temporary that its words name: a scalar, vector or predicate register;
a scalar that takes element 0 of a vector temporary, or all of a predicate that takes its bit 0 (R211). -/
inductive TMove where
  | s (src dst : Nat) | v (src dst : Nat) | p (src dst : Nat) | elem (src dst tag : Nat) | all (src dst : Nat)
  deriving DecidableEq, Repr

/-- A value passed by a call or a return (R90). -/
inductive TArg where
  | s (v : TVal) | flt (f64 : Bool) (bits : Nat) | v (n : Nat) | p (n : Nat) | z | lane
  deriving DecidableEq, Repr

/-- The condition of a Nalfen branch (Table Scalar-6). -/
inductive TCond where
  | always | pAny (p : Option Nat) | pAll (p : Option Nat) | pNone (p : Option Nat)
  | sZ (v : TVal) | sNz (v : TVal) | sLt (v : TVal) | sGe (v : TVal)
  | loop (n : Option Nat)
  deriving DecidableEq, Repr

/-- What a pair of a translation does beside its words: nothing; a transfer of control (R188); a second attempt, unless
the first did not fail spuriously and its result only moves (R379); a step boundary, the opening of a communication step
with its transfers or of a compute step (R84); a fault, TRANSLATE or PROT (R430, R431). -/
inductive TAct where
  | op
  | br (c : TCond) (target : Nat)
  | call (dst : TVal) (args : List TArg) (dests : List (Option NReg))
  | ret (vals : List TArg)
  | jmpr (dst : TVal)
  | retry (moved : List (Nat × Nat))
  | boundary (xs : Option (List Xfer))
  | fault (translate : Bool)
  deriving DecidableEq, Repr

/-- One native pair of a translation with what the translator keeps of it. -/
structure TPair where
  w0 : Half
  w1 : Half
  /-- VPC offset of the Nalfen operation this pair expands, its id, and the offset of the operation after it. -/
  op : Nat
  id : Nat
  nextOp : Nat
  act : TAct
  fills : List Fill
  moves : List TMove
  /-- the ports it pops beside those its words name. -/
  pops : List Nat
  /-- the final pair of its expansion (R429). -/
  final : Bool
  /-- the operation is a blocking operation (R118). -/
  blocking : Bool
  /-- its access is the linkage read of a `call`, exempt from the sets (R82). -/
  exempt : Bool
  /-- it never flushes subnormals (R211). -/
  noFtz : Bool
  /-- registers live before the operation and after it, with the addresses of their recovery maps (R275). -/
  live : List CarryLoc
  liveAfter : List CarryLoc
  rmap : Nat
  rmapAfter : Nat
  /-- registers carried across it, when blocking (R86, R428). -/
  carry : List CarryLoc
  deriving DecidableEq, Repr

/-- A translation that the engine has built (R427). -/
structure TransSpec where
  handle : Nat
  gen : Nat
  off : Nat
  body : Nat
  base : Nat
  /-- the body's type table as it stood at the build. -/
  types : List Byte
  reads : List (TVal × Nat)
  writes : List (TVal × Nat)
  /-- the frame layout at its entry (R428). -/
  entryLive : List CarryLoc
  pairs : List TPair
  /-- the operations it was built from: offset and length (R432). -/
  srcs : List (Nat × Nat)
  deriving DecidableEq, Repr

/-- A caller waiting for its callee: where it goes on, its registers, and what the return gives it (R90). -/
structure CallFrame where
  handle : Nat
  off : Nat
  body : Nat
  regs : Regs
  dests : List (Option NReg)
  reads : List (TVal × Nat)
  writes : List (TVal × Nat)
  /-- the marks of its poisoned registers (R277). -/
  poisoned : List Nat
  deriving DecidableEq, Repr

/-- Where a result goes. -/
inductive RegDst where
  | none | s (n : Nat) | v (n : Nat) | p (n : Nat)
  deriving DecidableEq, Repr

/-- A result owed to a slot (R139): its place, its value under a bit mask, its flags, its latch, and the cycle
it is delivered (fixed latency: known; variable: unknown until RESULT_DELIVERY). -/
structure Pending where
  id : Nat
  /-- which part it is of one result that goes to several places and is delivered as one: 0, or a later one. -/
  part : Nat
  seq : Nat
  aslot : Bool
  dst : RegDst
  val : Vec
  tag : Tag
  mask : Vec
  flags : Byte
  /-- some true: writes la; some false: writes lc. -/
  latch : Option Bool
  latchVal : VReg
  /-- bits of the latch that are written; a masked vector result keeps the others (R193). -/
  latchMask : Vec
  /-- the latch receives the predicate as written (R181). -/
  latchPred : Bool
  fixed : Bool
  /-- delivery cycle; of a variable-latency result not yet delivered, the last cycle in which it cannot be. -/
  due : Nat
  delivered : Bool
  poison : Bool
  /-- the read of a load or atomic, for which an acquiring fence waits (R353). -/
  memRead : Bool
  /-- the register, and the latch, that it has written already while it is still in the list. -/
  wrote : RegDst
  wroteLatch : Option Bool
  deriving DecidableEq, Repr

/-- What a continuation in its slot waits for (R116, R117, R130, R136). -/
inductive Wait where
  | ports (need : List (Nat × Nat))
  | room | quota | results
  | granules (off cnt : Nat)
  | xfer (ch : Nat) (id : Half)
  | group (cluster g : Nat) (gen : Half)
  | phase (l dom : Nat) (ph : Half)
  | phase0 (c : Half)
  | line (cluster l : Nat) (fired : Option Half) (load : Option SDst)
  | timer (t : Nat)
  | claim (ridx last : Word) (d : SDst) (old : Word)
  | barrHeld (g : Nat) (gen : Half)
  | evFull
  /-- an event unit that was full when the pair came to register (R295): cluster, line, and the load it acts for. -/
  | evRoom (cluster l : Nat) (load : Option SDst)
  | fuse (leader size : Nat) (tag : Word) (d : SDst)
  | flagsOwed | reads | drain
  /-- an `eret` has taken its target and waits for the results owed (R186). -/
  | eret
  | ring
  | mstBusy | startGrant
  | translation
  /-- every result of a translation's pair stands in its register (log 84). -/
  | settled
  /-- the transfers of a communication step, by the core whose channels count them (R84). -/
  | stepXfers (core : Nat) (ids : List (Nat × Half))
  /-- a step boundary's phase, and its packets, each when its turn comes (R84). -/
  | stepPhase
  | stepPush (ts : List (Nat × Nat × Nat × Nat))
  /-- the same wait as a stall in state 3, no blocking point. -/
  | stall (w : Wait)
  | until (cycle : Nat)
  /-- atomics that the continuation has posted to lines of this range (R143). -/
  | posted (ea n : Nat)
  /-- engine operations that the continuation has pushed (R337). -/
  | ownOps
  /-- a result of the pair that has not been delivered; then a number of cycles (R265). -/
  | loaded (id : Nat)
  | delay (n : Nat)
  /-- the pair's matrix work is done, and the continuation retires, or is written back with a wake word (R112, R241). -/
  | retire (a b : Word)
  | away (wake : Nat) (w : Wait)
  | saveFault
  deriving DecidableEq, Repr

/-- A held slot: what it waits for, since when, and whether its pair is still to issue (else it has issued and
the pc has moved on). -/
structure Hold where
  w : Wait
  since : Nat
  reissue : Bool
  /-- what is waited for after it: the matrix unit's completion, the results owed when the pair carried W = 1. -/
  after : List Wait
  deriving DecidableEq, Repr

/-- An entry of the quantum batch (R357), with the place that its checked translation names (R439). -/
structure QEntry where
  ea : Word
  place : Place
  w : Nat
  addend : Word
  deriving DecidableEq, Repr

/-- Membership of a fused gang (R310, R314). -/
structure Gang where
  size : Nat
  index : Nat
  leaderCore : Nat
  leaderSlot : Nat
  transient : Bool
  members : List (Nat × Nat)
  deriving DecidableEq, Repr

/-- The Nalfen program of a slot: the operation it runs or is to enter, and the translation that it runs (R427), by its
base address. -/
structure Virt where
  handle : Nat
  /-- VPC offset of the operation being run or to be entered. -/
  off : Nat
  /-- CODEOFF of the body it belongs to. -/
  body : Nat
  gen : Nat
  base : Nat
  entered : Bool
  /-- where the live registers of the entry stand: 0 in the slot, 1 in the frame, 2 in `vals`. -/
  src : Nat
  /-- registers restored from a container (R280, R451): index, kind, tag, value. -/
  vals : List (Nat × Nat × Nat × Nat)
  /-- the step boundary before the operation has been passed (R84). -/
  passed : Bool
  /-- the calls in force, the innermost first (R90). -/
  calls : List CallFrame
  /-- the sets in force (R81, R82): those of the task body. -/
  reads : List (TVal × Nat)
  writes : List (TVal × Nat)
  deriving DecidableEq, Repr

/-- A continuation resident in a slot (R123, R124). -/
structure Slot where
  ctx : Nat
  idx : Nat
  recVa : Word
  recPa : Nat
  gen : BitVec 16
  prio : Nat
  gang : Nat
  matrix : Bool
  launch : Option Nat
  image : Option Nat
  native : Bool
  virt : Option Virt
  pc : Word
  lastPc : Word
  args : Word
  frame : Word
  dom : Half
  regs : Regs
  csrs : Csrs
  pickup : Nat
  pending : List Pending
  /-- CSR writes of this cycle (R134): number, operation (0 write, 1 set, 2 clear), operand. -/
  csrPend : List (Nat × Nat × Word)
  nextId : Nat
  seq : Nat
  /-- the cycle in which the last pair issued. -/
  issuedAt : Nat
  gapUntil : Nat
  readySince : Nat
  hold : Option Hold
  quantum : List QEntry
  qcount : Nat
  asm : List (Nat × List Word)
  poisoned : List Nat
  /-- a posted write has failed (R371); a non-ordering atomic, for which only `fence.seq` waits (R356). -/
  failedNr : Bool
  failedNor : Bool
  /-- an eviction met a fault of its save: it is not evicted again (R448). -/
  noEvict : Bool
  phase0 : Half
  touched : BitVec 10
  /-- the number of the slot that it stands in, or stood in last. -/
  slotNo : Nat
  gangInfo : Option Gang
  deriving DecidableEq, Repr

/-! ## The matrix unit (R239) -/

/-- A bound A descriptor (Table Matrix-3). -/
structure ADesc where
  addr : Word
  sbase : Word
  k : Nat
  fmt : Nat
  band : BitVec 16
  deriving DecidableEq, Repr

/-- A B tile: data and scale words by byte offset, FMT, K and BAND. -/
structure BTile where
  data : List (Nat × Byte)
  scales : List (Nat × Byte)
  fmt : Nat
  k : Nat
  band : BitVec 16
  deriving DecidableEq, Repr

/-- The incoming ring buffer (R250). -/
inductive Inb where
  | empty | filling | full (t : Option BTile)
  deriving DecidableEq, Repr

/-- How far a tile has come round the ring: it waits for the successor's empty INB, it streams until a cycle, or it is
committed, so that the core now takes its own. -/
inductive RingPhase where
  | waiting | streaming (done : Nat) | committed
  deriving DecidableEq, Repr

/-- A tile on its way round the ring (R251, R257): the sender's context, the successor, the cycles that the stream takes, the
cycle at which the arithmetic is done, and the tile. -/
structure Ring where
  ctx : Nat
  succ : Nat
  len : Nat
  fin : Nat
  tile : Option BTile
  phase : RingPhase
  deriving DecidableEq, Repr

/-- A 16-byte granule of an mst store not yet performed (R260), with the place that its checked translation names (R439)
and the cycle in which its pair retires. -/
structure MstGranule where
  ctx : Nat
  native : Bool
  ea : Word
  place : Place
  due : Nat
  val : BitVec 128
  deriving DecidableEq, Repr

/-! ## A core -/

/-- The binding of a channel port (R291, Table Fabric-6); holder is a record's physical address, 0 none. -/
structure Bind where
  holder : Nat
  /-- context of the holder. -/
  ctx : Nat
  staged : Nat
  dx : Byte
  dy : Byte
  rch : BitVec 3
  deriving DecidableEq, Repr

def Bind.none : Bind := ⟨0, 0, 0, 0, 0, 0⟩

/-- A core's state (R123, R212, R239, R286, R385, R389). -/
structure Core where
  slots : List (Nat × Option Slot)
  lastIssue : Option Nat
  tiles : List (Nat × Half)
  tileTags : List (Nat × Tag)
  adesc : List (Nat × Option ADesc)
  cur : Option BTile
  rpl : Half
  inb : Inb
  /-- the context whose tile stands in INB, or streams into it (R266). -/
  inbCtx : Option Nat
  ring : Option Ring
  mreplay : Half
  mst : List MstGranule
  matIdle : Bool
  /-- accumulator errors that the next `mma` meets: 1 replays it, 2 fail the replay too (R258, R455). -/
  accErr : Nat
  lastMma : Nat
  spad : List (Nat × Byte)
  owner : List (Nat × Nat)
  fe : List (Nat × Byte)
  fifo : List (Nat × List Word)
  /-- words popped from a port in a cycle: the last cycle that popped one, and their number by port (R294). -/
  popped : Nat × List (Nat × Nat)
  bind : List (Nat × Bind)
  inbox : List Word
  ringHead : Nat
  ringCount : Nat
  lost : Half
  xnext : List (Nat × Half)
  xfdone : List (Nat × Half)
  xcomp : List (Nat × Half)
  gsrc : List (Nat × Half)
  /-- rows counted in this cycle, which the counters of `gsrc` take at its end (R183). -/
  gsrcNow : List (Nat × Half)
  spillBase : Word
  spillCtx : Nat
  dreq : Word
  /-- PHASE0 of the level-0 member of this core, with its context and domain, while not retired. -/
  member : Option (Nat × Half)
  count0 : Half
  /-- neighbours' published counts as seen here; default 0. -/
  seen : List (Nat × Half)
  gated : Bool
  dead : Bool
  deriving DecidableEq, Repr

/-- A core after reset. -/
def Core.reset : Core :=
  { slots := [], lastIssue := none, tiles := [], tileTags := [], adesc := [], cur := none, rpl := 0,
    inb := .empty, inbCtx := none, ring := none, mreplay := 0, mst := [], matIdle := true, accErr := 0, lastMma := 0,
    spad := [], owner := [], fe := [], fifo := [], popped := (0, []), bind := [], inbox := [], ringHead := 0, ringCount := 0,
    lost := 0, xnext := [], xfdone := [], xcomp := [], gsrc := [], gsrcNow := [], spillBase := 0, spillCtx := 0, dreq := 0,
    member := none, count0 := 0, seen := [], gated := false, dead := false }

/-! ## Clusters and dies -/

/-- A registration on an event line (R296). -/
structure EvReg where
  line : Nat
  ctx : Nat
  idx : Nat
  gen : BitVec 16
  deriving DecidableEq, Repr

/-- A barrier group (Table Cluster-5). -/
structure Group where
  gen : Half
  mask : BitVec 16
  arrived : BitVec 16
  held : BitVec 16
  pend : Option (BitVec 16)
  deriving DecidableEq, Repr

def Group.reset : Group := ⟨0, 0, 0, 0, none⟩

/-- A pending gfuse request (R314). -/
structure FuseReq where
  core : Nat
  slot : Nat
  ctx : Nat
  leader : Nat
  size : Nat
  tag : Word
  at_ : Nat
  deriving DecidableEq, Repr

/-- A cluster's ring holder, event unit and barrier groups (R289, R295, R300). -/
structure Cluster where
  holder : Option Nat
  counts : List (Nat × Half)
  regs : List EvReg
  groups : List (Nat × Group)
  fuses : List FuseReq
  deriving DecidableEq, Repr

def Cluster.reset : Cluster := ⟨none, [], [], [], []⟩

/-- A record of a context's pool. -/
structure RecId where
  ctx : Nat
  idx : Nat
  deriving DecidableEq, Repr

/-- A key-table entry in use (R416): its holder, none while a die loss keeps it from granting (R453), and its
waiters. -/
structure KeyEntry where
  holder : Option RecId
  waiters : List RecId
  deriving DecidableEq, Repr

/-- A registered trap queue (R441). -/
structure TrapQ where
  base : Word
  ctx : Nat
  log2n : Nat
  deriving DecidableEq, Repr

/-- A trap record held back (R444). -/
structure HeldTrap where
  fatal : Bool
  words : BitVec 512
  deriving DecidableEq, Repr

/-- A cached leaf translation with the physical addresses of the entries it was built from (R439). -/
structure TlbEntry where
  ctx : Nat
  va : Nat
  size : Nat
  leaf : Word
  srcs : List Nat
  deriving DecidableEq, Repr

/-- A 64-byte packet handed to a front-end, with who handed it over (R383). -/
structure Packet where
  words : BitVec 512
  ctx : Nat
  native : Bool
  core : Nat
  /-- queue it came from, if any. -/
  queue : Option Nat
  xid : Half
  port : Nat
  /-- the record that issued it, and its GEN (R70). -/
  by_ : Option (RecId × Nat)
  deriving DecidableEq, Repr

/-- A die's units (R441, R412, R416, R439, R383). Table defaults: empty. -/
structure Die where
  trapqBase : Word
  trapq : Option TrapQ
  held : List HeldTrap
  ovf : Bool
  ready : List (Nat × List RecId)
  keys : List (Nat × Option KeyEntry)
  tlb : List TlbEntry
  /-- parameter-block granules cached (R397): the operation that read each, its address and its bytes. -/
  pcache : List (Nat × Nat × List Byte)
  pushed : List Packet
  lost : Bool
  drain : Option (Nat × RecId)
  /-- records made DIELOST by the loss of this die and not yet terminated: while any is left, the entries of this die's
  key table grant to no one (R453). -/
  lostRecs : List RecId
  sleeping : List Nat
  /-- the registration number of the queue whose turn it is among launches of one PRIO (R411). -/
  turn : Nat
  deriving DecidableEq, Repr

def Die.reset : Die :=
  ⟨0, none, [], false, [], [], [], [], [], false, none, [], [], 0⟩

/-! ## Memory-side state -/

/-- The state of a line outside tiles (Table Die-2). -/
inductive LineSt where
  | inv | shared | excl | modified | multi
  deriving DecidableEq, Repr

/-- A directory entry (R324, R327): sharers by cluster, the owning core, front-ends with write-combining buffers
(die, byte mask and bytes), the holding slice of a migrated line. -/
structure Line where
  st : LineSt
  sharers : BitVec 64
  owner : Option Nat
  bufs : List (Nat × BitVec 128 × BitVec 1024)
  slice : Option Nat
  deriving DecidableEq, Repr

def Line.inv : Line := ⟨.inv, 0, none, [], none⟩

/-- Tile states (Table Die-3). -/
inductive TileSt where
  | ti | ts | te | tm | tf
  deriving DecidableEq, Repr

/-- A declared tile (R328). -/
structure Tile where
  base : Nat
  size : Nat
  ctx : Nat
  st : TileSt
  sharers : BitVec 64
  owner : Option Nat
  target : Option Nat
  deriving DecidableEq, Repr

/-- A context: its ctx-scope CSRs (R131) and save-area state (R447). -/
structure Ctx where
  alive : Bool
  ptbase : Word
  savebase : Word
  scopetab : Word
  cap : Word
  contpool : Word
  saveOk : Bool
  deriving DecidableEq, Repr

def Ctx.none : Ctx := ⟨false, 0, 0, 0, 0, 0, false⟩

/-- A step of a body: the offset of its first operation, its kind, its transfers (bases coded as in the set table). -/
structure StepEntry where
  at_ : Nat
  comm : Bool
  xfers : List (Nat × Nat × Nat × Nat)
  deriving DecidableEq, Repr

/-- A task body of a loaded object (Table Nalfen-9), as the device uses it. -/
structure Body where
  off : Nat
  len : Nat
  spill : Nat
  keys : List (Nat × Nat)
  ops : List Nat
  name : List Byte
  /-- its type table in TYPES, and its carry table in TASKS. -/
  typeOff : Nat
  carryOff : Nat
  ncarry : Nat
  /-- its read and write ranges: base, coded as in the set table, and length (R81). -/
  reads : List (Nat × Nat)
  writes : List (Nat × Nat)
  steps : List StepEntry
  deriving DecidableEq, Repr

/-- A loaded code object (R93-R101). -/
structure CodeObject where
  handle : Nat
  ctx : Nat
  code : Nat
  codeLen : Nat
  codeWrite : Bool
  /-- where TYPES and TASKS stand, with their lengths. -/
  types : Nat × Nat
  tasks : Nat × Nat
  spillMax : Nat
  caps : Word
  /-- the symbols: kind, and the VPC, address or linkage slot that each stands for (R88). -/
  syms : List (Nat × Nat)
  bodies : List Body
  linkage : Option (Nat × Nat)
  deriving DecidableEq, Repr

/-- A launch (R407-R409). -/
structure Launch where
  id : Nat
  queue : Nat
  pkt : Packet
  started : Bool
  done : Bool
  completed : Bool
  live : Nat
  retired : Nat
  timesum : Nat
  accepted : Nat
  firstPickup : Option Nat
  terminated : Bool
  status : Nat
  prev : Option Nat
  /-- operations and fetched bytes counted in the window of R415 that is open, the cycle at which it opened, and the class of
  the last window closed. -/
  ops : Nat
  bytes : Nat
  winAt : Nat
  cls : Option Bool
  deriving DecidableEq, Repr

/-- A registered shared queue (R392). -/
structure Queue where
  id : Nat
  desc : Word
  ctx : Nat
  ring : Nat
  log2n : Nat
  widx : Word
  ridx : Word
  widxPa : Nat
  die : Nat
  target : Nat
  maxprio : Nat
  err : Bool
  /-- the number of the first launch accepted since its last registration has at least this value (R410). -/
  first : Nat
  deriving DecidableEq, Repr

/-- A segment of a copy that crosses the scale-out network (R499): its length, its remote bytes by their key in `mem`,
whether it writes them, and the place of its local side, a physical address or an offset in a core's scratchpad. -/
structure OutSeg where
  n : Nat
  remote : Nat
  toRemote : Bool
  core : Option Nat
  at_ : Nat
  mt : Nat
  key : Nat
  deriving DecidableEq, Repr

/-- An engine operation accepted and not yet complete (R386). -/
structure EngOp where
  id : Nat
  pkt : Packet
  die : Nat
  started : Bool
  /-- every write performed or the operation ended: ready for OPERATION_COMPLETE. -/
  ended : Bool
  status : Nat
  bytes : Nat
  refused : Bool
  /-- gather and scatter rows still to land: (entry, row). -/
  rows : List (Nat × Nat)
  /-- bytes of its group descriptor that a collective has read, until it has read it whole (R396). -/
  param : Option (List Byte)
  failAt : Option Nat
  /-- scale-out segment awaiting its acknowledgement. -/
  outSeg : Option OutSeg
  /-- its completion has been reported; kept only while a collective still reads its packet. -/
  completed : Bool
  deriving DecidableEq, Repr

/-- A collective instance (R502): its group, kind, members posted with (rank, operation). -/
structure Coll where
  id : Nat
  gid : Nat
  inst : Nat
  nmem : Nat
  posted : List (Nat × Nat)
  members : List Nat
  root : Nat
  kind : Nat
  fmt : Nat
  rop : Nat
  count : Nat
  pos : Nat
  live : Bool
  deriving DecidableEq, Repr

/-- A pushed word on its way to a FIFO (R286). -/
structure Flight where
  src : Nat
  core : Nat
  port : Nat
  word : Word
  ctx : Nat
  at_ : Nat
  deriving DecidableEq, Repr

/-- A proxy atomic accepted and not yet carried out (R370), by the proxy of the die `home(pa) div 16`. -/
structure ProxyReq where
  ctx : Nat
  idx : Nat
  core : Nat
  /-- the result to be filled in, for a returning form. -/
  pend : Option Nat
  pa : Nat
  key : Nat
  w : Nat
  op : RmwOp
  v : Nat
  /-- USE speculative: the operation fails spuriously, or not (R358). -/
  spurious : Option Bool
  /-- USE non-ordering: no release waits for it (R356). -/
  nor : Bool
  /-- what the result of a returning quantum add is beyond the old value (R357). -/
  bias : Nat
  deriving DecidableEq, Repr

/-- What a written-back continuation still has to do in its slot once it is picked up (log 72): its pair, which trapped
where it was to be finished for it, or the MCHECK of a register that came in poisoned. -/
inductive Redo where
  | none | pair | poison (r : Nat)
  deriving DecidableEq, Repr

/-- A written-back continuation with an operation to be finished on its behalf (R63): its image and the pair's
words when the pair had not issued. -/
structure Susp where
  ctx : Nat
  idx : Nat
  core : Nat
  img : Slot
  w : Wait
  reissue : Bool
  finished : Bool
  /-- the other members of a placed gang, in index order, with their cores. -/
  others : List (Nat × Slot)
  redo : Redo
  deriving DecidableEq, Repr

/-- A message sent to another device (R506, R507): an upward arrival of domain `dom` at the descriptor at `pa` there, or
the flip of domain `dom` for a child device. -/
structure PeerMsg where
  up : Bool
  dev : Nat
  pa : Nat
  ctx : Nat
  dom : Nat
  deriving DecidableEq, Repr

/-- A barrier object's record of a sender (R306): the phase its arrival counts toward, and the child, on this device
or another. -/
structure Sender where
  ctx : Nat
  dom : Nat
  phase : Nat
  child : Option Nat
  dev : Nat
  deriving DecidableEq, Repr

/-- The package (R472-R486). `counts` maps 0-37 corrected and 38-75 uncorrectable errors, default 0. -/
structure Package where
  running : Bool
  recovery : Bool
  stopped : Bool
  failed : Nat
  warm : Bool
  failCode : Nat
  budget : Nat
  grants : List (Nat × Nat)
  step : Nat
  win : Nat
  counts : List (Nat × Half)
  keys : List (Nat × Bool)
  cxlUp : Bool
  vectors : List Nat
  raised : List Nat
  image : List Byte
  ddrBytes : Nat
  devId : BitVec 21
  startCycle : Nat
  /-- physical ranges that read as decrypted under another key (R482): base, size. -/
  staleKeys : List (Nat × Nat)
  /-- the key id under which each 16-byte unit of memory is stored (R438, R475); default 0. -/
  keyOf : List (Nat × Nat)
  /-- the control word of the ATTEST mailbox (R486). -/
  attest : Nat
  deriving DecidableEq, Repr

/-- The fabric (R487-R508). -/
structure Fabric where
  members : List Nat
  lostPeers : List Nat
  scaleOut : List (Nat × Word)
  /-- peers holding copies of this device's 2 KiB regions (R490). -/
  regions : List (Nat × List Nat)
  msgs : List PeerMsg
  senders : List Sender
  deriving DecidableEq, Repr

/-- The pair being issued (MODEL's own bookkeeping, log 3). -/
structure Issue where
  core : Nat
  slot : Nat
  pc : Word
  npc : Word
  lone : Bool
  lit : Half
  pe : Bool
  pr : Fin 8
  pn : Bool
  aslot : Bool
  /-- the pair's R22 checks have been made: a meaning only acts. -/
  checked : Bool
  /-- the pair has been turned into a hold, a trap or the end of its continuation. -/
  gone : Bool
  /-- pops of the C-slot that the A-slot's reads must skip (R30). -/
  skip : List (Nat × Nat)
  /-- pushes made by the pair so far: A-slot mark, port, word (R31). -/
  pushes : List (Bool × Nat × Word)
  deriving DecidableEq, Repr

def Issue.none : Issue :=
  ⟨0, 0, 0, 8, false, 0, false, 0, false, false, false, false, [], []⟩

/-- What moves next (log 1): a step of the table, the issue of a named slot, or a cycle passing. -/
inductive Move where
  | event (i : Instr)
  | issue (core slot : Nat)
  | tick
  deriving DecidableEq, Repr

/-- THE STATE of the device. -/
structure State where
  now : Nat
  agenda : List Move
  freeCtr : Nat
  issue : Issue
  mem : List Host.Cell
  backing : List Host.Cell
  poison : List (Nat × Bool)
  lines : List (Nat × Line)
  tiles : List Tile
  ctxs : List (Nat × Ctx)
  cores : List (Nat × Core)
  clusters : List (Nat × Cluster)
  dies : List (Nat × Die)
  suspended : List Susp
  objects : List CodeObject
  handleGen : List (Nat × Half)
  translations : List (Nat × Nat × TransSpec)
  launches : List Launch
  nextLaunch : Nat
  /-- timebases of images: start cycle (R146). -/
  images : List (Nat × Nat)
  /-- image of a restored record, by context and index; default none. The image is the context's (log 70). -/
  imageOf : List (Nat × Nat × Nat)
  queues : List Queue
  nextQueue : Nat
  ops : List EngOp
  nextOp : Nat
  /-- the result code and the handle of the last load request (R100). -/
  loaded : Nat × Nat
  colls : List Coll
  collCount : List (Nat × Nat)
  flights : List Flight
  reqs : List ProxyReq
  gangWait : Nat
  gangLimit : Nat
  classThresh : Nat
  /-- records whose latest trap is fatal (R424). -/
  fatal : List RecId
  /-- launch of a record not resident, by context and index. -/
  launchOf : List (RecId × Nat)
  /-- gang records that wait at the head of their chains while no rectangle is free, since when (R421). -/
  gangSince : List (RecId × Nat)
  /-- records that returned to the head of their ready chain after an eviction (R413). -/
  headed : List RecId
  /-- records in state 1 whose key reservation is to go on (R417). -/
  reserving : List RecId
  /-- what a record that is in no slot keeps of its members' programs beside registers (log 86): by record and member. -/
  virtKept : List ((RecId × Nat) × Virt)
  /-- words of recovery maps written so far (R275, log 85). -/
  mapWords : Nat
  /-- transfers of the communication step that a record is in, with their core and the number of calls in force (R84). -/
  stepIds : List (RecId × Nat × Nat × List (Nat × Half))
  /-- records whose container is their own since they were created, with the recovery map of the trap that wrote it
  (R275, R449). -/
  saved : List (RecId × List CarryLoc)
  /-- the creator's die of a record in state 1 (R417). -/
  bornOn : List (RecId × Nat)
  pkg : Package
  fab : Fabric
  deriving DecidableEq, Repr

/-- Why the machine stops with a fault. -/
inductive Fault where
  /-- The module has stopped above 110 °C and nothing is on the agenda that starts it (R479): raised by `step`. Safe:
  the spec gives a stopped module no behaviour before its next cold start. -/
  | moduleStopped
  deriving DecidableEq, Repr

/-- Why a step has no meaning. -/
inductive Refusal where
  /-- An instruction without a meaning yet: raised by `exec`'s refused arms only. Safe. -/
  | notModelled (mnemonic : String)
  deriving DecidableEq, Repr

/-- The package right after a cold start has finished (R482, log 7). -/
def Package.reset : Package :=
  { running := true, recovery := false, stopped := false, failed := 0, warm := false, failCode := 0,
    budget := 4500, grants := [], step := 96, win := 1, counts := [], keys := [], cxlUp := true,
    vectors := [0], raised := [], image := [], ddrBytes := 0, devId := 0, startCycle := 0, staleKeys := [], keyOf := [], attest := 0 }

/-- The state right after reset: a cold start has just entered its running phase (R482): memory zero, no context,
every core idle, every table empty. -/
def State.reset : State :=
  { now := 0, agenda := [], freeCtr := 0, issue := Issue.none, mem := [], backing := [], poison := [],
    lines := [], tiles := [], ctxs := [], cores := [], clusters := [], dies := [], suspended := [],
    objects := [], handleGen := [], translations := [], launches := [], nextLaunch := 0, images := [],
    imageOf := [], queues := [], nextQueue := 0, ops := [], nextOp := 0, loaded := (0, 0), colls := [], collCount := [],
    flights := [], reqs := [], gangWait := 50, gangLimit := 1000, classThresh := 64, fatal := [],
    launchOf := [], gangSince := [], headed := [], reserving := [],
    virtKept := [], mapWords := 0, stepIds := [], saved := [], bornOn := [], pkg := Package.reset,
    fab := ⟨[], [], [], [], [], []⟩ }

end Sys2Proof.Machine
end

