-- ==== Sys2Proof/Machine/Parts.lean ====
section
/-!
DEFINITION. Where things are, the parts of the state, register files, results on their way (R139-R142) and time.
-/
namespace Sys2Proof.Machine

/-! ## Where things are (R3, R68, R249, R285) -/

def coreX (c : Nat) : Nat := c % 64
def coreY (c : Nat) : Nat := c / 64
/-- The compute die of a core (R3). -/
def dieOf (c : Nat) : Nat := coreY c / 8 * 4 + coreX c / 16
/-- The cluster of a core (R68). -/
def clusterOf (c : Nat) : Nat := coreY c / 4 * 16 + coreX c / 4
/-- A core's bit in its cluster's masks (R300). -/
def bitOf (c : Nat) : Nat := coreY c % 4 * 4 + coreX c % 4
/-- The core of a cluster at column x, row y. -/
def coreAt (cl x y : Nat) : Nat := (cl / 16 * 4 + y) * 64 + cl % 16 * 4 + x
/-- The die of a cluster. -/
def dieOfCluster (cl : Nat) : Nat := dieOf (coreAt cl 0 0)
/-- Position in the snake order of the cluster (R249). -/
def ringPos (c : Nat) : Nat :=
  let r := coreY c % 4
  if r % 2 = 0 then 4 * r + coreX c % 4 else 4 * r + 3 - coreX c % 4
/-- The core at a ring position. -/
def ringCore (cl p : Nat) : Nat := let r := p / 4; coreAt cl (if r % 2 = 0 then p % 4 else 3 - p % 4) r
/-- The successor of core `c` in its ring of n (R249, R285). -/
def ringSucc (n c : Nat) : Nat :=
  let p := ringPos c; let b := p - p % n; ringCore (clusterOf c) (b + (p - b + 1) % n)
/-- The predecessor of core `c` in its ring of n. -/
def ringPred (n c : Nat) : Nat :=
  let p := ringPos c; let b := p - p % n; ringCore (clusterOf c) (b + (p - b + n - 1) % n)

/-! ## Parts of the state -/

def State.core (s : State) (c : Nat) : Core := sget Core.reset s.cores c
def State.setCore (s : State) (c : Nat) (x : Core) : State := { s with cores := sput s.cores c x }
def State.modCore (s : State) (c : Nat) (f : Core → Core) : State := s.setCore c (f (s.core c))
def Core.slot (x : Core) (k : Nat) : Option Slot := sget none x.slots k
def State.slot (s : State) (c k : Nat) : Option Slot := (s.core c).slot k
def State.putSlot (s : State) (c k : Nat) (sl : Option Slot) : State :=
  s.modCore c fun x => { x with slots := sput x.slots k sl }
def State.modSlot (s : State) (c k : Nat) (f : Slot → Slot) : State :=
  match s.slot c k with
  | none => s
  | some sl => s.putSlot c k (some (f sl))
def State.die (s : State) (d : Nat) : Die := sget Die.reset s.dies d
def State.modDie (s : State) (d : Nat) (f : Die → Die) : State := { s with dies := sput s.dies d (f (s.die d)) }
def State.clus (s : State) (k : Nat) : Cluster := sget Cluster.reset s.clusters k
def State.modClus (s : State) (k : Nat) (f : Cluster → Cluster) : State :=
  { s with clusters := sput s.clusters k (f (s.clus k)) }
def State.ctx (s : State) (x : Nat) : Ctx := sget Ctx.none s.ctxs x
def State.modCtx (s : State) (x : Nat) (f : Ctx → Ctx) : State := { s with ctxs := sput s.ctxs x (f (s.ctx x)) }
def State.modPkg (s : State) (f : Package → Package) : State := { s with pkg := f s.pkg }
def State.modFab (s : State) (f : Fabric → Fabric) : State := { s with fab := f s.fab }

/-- The slot whose pair issues. -/
def State.cur (s : State) : Option Slot := s.slot s.issue.core s.issue.slot
/-- Change the slot whose pair issues. -/
def State.modCur (s : State) (f : Slot → Slot) : State := s.modSlot s.issue.core s.issue.slot f
/-- A fresh count for a free value (log 2). -/
def State.bump (s : State) : State := { s with freeCtr := s.freeCtr + 1 }

/-- Every occupied slot of the device as (core, slot). -/
def State.occupied (s : State) : List (Nat × Nat) :=
  s.cores.flatMap fun (c, x) => x.slots.filterMap fun (k, o) => if o.isSome then some (c, k) else none

/-- The slot where a record is resident. -/
def State.resident (s : State) (ctx idx : Nat) : Option (Nat × Nat) :=
  s.occupied.find? fun (c, k) => match s.slot c k with
    | some sl => sl.ctx == ctx && sl.idx == idx
    | none => false

/-- Apply a function to every occupied slot. -/
def State.mapSlots (s : State) (f : Nat → Nat → Slot → Slot) : State :=
  { s with cores := s.cores.map fun (c, x) =>
      (c, { x with slots := x.slots.map fun (k, o) => (k, o.map (f c k)) }) }

/-! ## Registers (R23-R28, R125-R128) -/

def Regs.sr (r : Regs) (n : Nat) : Word := sget 0 r.s n
def Regs.vr (r : Regs) (n : Nat) : VReg := sget VReg.zero r.v n
def Regs.pr (r : Regs) (n : Nat) : Pred := sget 0 r.p n

/-- Bits chosen by a mask from the new value, the rest from the old. -/
def mergeBits {n : Nat} (mask new old : BitVec n) : BitVec n := (new &&& mask) ||| (old &&& ~~~mask)

/-- Write the masked bits of a result to its register. -/
def Regs.put (r : Regs) (dst : RegDst) (val mask : Vec) (tag : Tag) : Regs :=
  match dst with
  | .none => r
  | .s n => { r with s := sset 0 r.s n (mergeBits (mask.setWidth 64) (val.setWidth 64) (r.sr n)) }
  | .v n => { r with v := sset VReg.zero r.v n ⟨mergeBits mask val (r.vr n).val, tag⟩ }
  | .p n => { r with p := sset 0 r.p n (mergeBits (mask.setWidth 128) (val.setWidth 128) (r.pr n)) }

/-- The model's number of a register in a slot's list of poisoned ones (R277): s 0-31, v and o 100-139, p 200-207,
la 340, lc 341. -/
def RegDst.code : RegDst → Nat
  | .none => 999 | .s n => n | .v n => 100 + n | .p n => 200 + n

end Sys2Proof.Machine

namespace Sys2Proof
open Machine

def SSrc.reg : SSrc → Option RegDst
  | .s n => some (.s n.val) | _ => none
def VSrc.reg : VSrc → Option RegDst
  | .v n => some (.v n.val) | .o n => some (.v (32 + n.val)) | _ => none
def SDst.reg : SDst → RegDst
  | .s n => .s n.val | _ => .none
def VDst.reg : VDst → RegDst
  | .v n => .v n.val | .o n => .v (32 + n.val) | .z => .none

end Sys2Proof

namespace Sys2Proof.Machine

/-- Element width of a tag in bits (R126, R191; Table Formats-1). -/
def tagWidth (t : Tag) : Nat :=
  match t.toNat with
  | 0 => 64 | 1 => 8 | 2 => 8 | 3 => 16 | 4 => 16 | 5 => 32 | 6 => 32 | 7 => 64 | 8 => 64 | 9 => 64 | 10 => 32
  | 11 => 16 | 12 => 16 | 13 => 8 | 14 => 8 | 15 => 8 | 16 => 32 | _ => 8

/-- Element i of width e. -/
def elem (v : Vec) (e i : Nat) : Nat := (v >>> (i * e)).toNat % 2 ^ e

/-- A register of the elements f 0, f 1, … of width e. -/
def ofElems (e : Nat) (f : Nat → Nat) : Vec :=
  BitVec.ofNat 2048 ((List.range (2048 / e)).foldr (fun i acc => acc * 2 ^ e + f i % 2 ^ e) 0 )

/-- All `n` elements of width e, in index order. -/
def elems (v : Vec) (e : Nat) : List Nat := (List.range (2048 / e)).map (elem v e)

/-- A register from a list of elements of width e. -/
def packElems (e : Nat) (l : List Nat) : Vec :=
  BitVec.ofNat 2048 (l.foldr (fun x acc => acc * 2 ^ e + x % 2 ^ e) 0)

/-- The natural integer tag of a width (R28). -/
def natTag (e : Nat) : Tag := if e = 8 then 2 else if e = 16 then 4 else if e = 32 then 6 else 8

/-! ## Results (R139-R142) -/

/-- A result with nothing in it. -/
def Pending.blank : Pending :=
  { id := 0, part := 0, seq := 0, aslot := false, dst := .none, val := 0, tag := 0, mask := 0, flags := 0, latch := none,
    latchVal := VReg.zero, latchMask := BitVec.allOnes 2048,
    latchPred := false, fixed := true, due := 0, delivered := false, poison := false,
    memRead := false, wrote := .none, wroteLatch := none }

/-- Owe a result to a slot. -/
def Slot.owe (sl : Slot) (p : Pending) : Slot :=
  { sl with pending := sl.pending ++ [{ p with id := sl.nextId, seq := sl.seq }], nextId := sl.nextId + 1 }

/-- Owe one more part of the result owed last: it is delivered with it. -/
def Slot.oweMore (sl : Slot) (part : Nat) (p : Pending) : Slot :=
  { sl with pending := sl.pending ++ [{ p with id := sl.nextId - 1, part := part, seq := sl.seq }] }

/-- The result is still to be delivered and its latency varies. -/
def Pending.owed (p : Pending) : Bool := !p.fixed && !p.delivered

/-- The number of variable-latency results outstanding (R116). -/
def Slot.outstanding (sl : Slot) : Nat := (sl.pending.filter fun p => p.owed && p.part == 0).length

/-- Write a result's latch (R25, R181). -/
def Slot.putLatch (sl : Slot) (p : Pending) : Slot :=
  let v (old : VReg) : VReg := if p.latchPred then
      match p.dst with
      | .p n => ⟨(mergeBits (p.mask.setWidth 128) (p.val.setWidth 128) (sl.regs.pr n)).setWidth 2048, 0⟩
      | _ => p.latchVal
    else ⟨mergeBits p.latchMask p.latchVal.val old.val, p.latchVal.tag⟩
  match p.latch with
  | some true => { sl with regs := { sl.regs with la := v sl.regs.la },
                           poisoned := sl.poisoned.filter (· ≠ 340) ++ (if p.poison then [340] else []) }
  | some false => { sl with regs := { sl.regs with lc := v sl.regs.lc },
                            poisoned := sl.poisoned.filter (· ≠ 341) ++ (if p.poison then [341] else []) }
  | none => sl

/-- Write a result's register (R140, R277). -/
def Slot.putResult (sl : Slot) (p : Pending) : Slot :=
  if p.dst = .none then sl else
  { sl with regs := sl.regs.put p.dst p.val p.mask p.tag,
            poisoned := sl.poisoned.filter (· ≠ p.dst.code) ++ (if p.poison then [p.dst.code] else []) }

def Slot.orFlags (sl : Slot) (f : Byte) : Slot :=
  { sl with csrs := { sl.csrs with flags := sl.csrs.flags ||| f } }

/-- The cycle from which the latch, or an s, p or o register, is readable (R139). -/
def Pending.latchAt (p : Pending) : Nat := if p.fixed then p.due else p.due + 1
/-- The cycle from which the destination is readable. -/
def Pending.regAt (p : Pending) : Nat :=
  match p.dst with
  | .v n => if n < 32 || !p.fixed then p.due + 1 else p.due
  | _ => p.latchAt
/-- The delivery cycle is known. -/
def Pending.timed (p : Pending) : Bool := p.fixed || p.delivered

/-- What is left of a result at the start of cycle n, with the parts readable by then written. -/
def Slot.settle (n : Nat) (sl : Slot) (p : Pending) : Slot × Option Pending :=
  if !p.timed then (sl, some p) else
  let doL := p.latch.isSome && decide (p.latchAt ≤ n)
  let doR := decide (p.dst ≠ .none) && decide (p.regAt ≤ n)
  let sl := if doL then sl.putLatch p else sl
  let sl := if doR then sl.putResult p else sl
  let p := { p with latch := if doL then none else p.latch, dst := if doR then .none else p.dst,
                    wroteLatch := if doL then p.latch else p.wroteLatch, wrote := if doR then p.dst else p.wrote }
  if p.due + 1 ≤ n then (sl.orFlags p.flags, none) else (sl, some p)

/-- The order in which results of one cycle are written, so that what stands is what R20 and R141 say: delivery cycle,
then the pair's order, then the A-slot last. -/
def Pending.before (a b : Pending) : Bool :=
  if a.due ≠ b.due then decide (a.due < b.due)
  else if a.seq ≠ b.seq then decide (a.seq < b.seq)
  else !a.aslot || b.aslot

/-- Insert in that order. -/
def insertPending (p : Pending) : List Pending → List Pending
  | [] => [p]
  | q :: l => if Pending.before p q then p :: q :: l else q :: insertPending p l

/-- What is left of a result's register part where `f` stands: the bits that `f` does not write. -/
def Pending.yieldReg (f p : Pending) : Pending :=
  if p.dst = .none || (p.dst ≠ f.dst && p.dst ≠ f.wrote) then p
  else { p with dst := if p.mask &&& ~~~f.mask = 0 then .none else p.dst, mask := p.mask &&& ~~~f.mask, tag := f.tag }

/-- The same for its latch. -/
def Pending.yieldLatch (f p : Pending) : Pending :=
  if p.latch = none || (p.latch ≠ f.latch && p.latch ≠ f.wroteLatch) then p
  else { p with latch := if f.latchPred || p.latchMask &&& ~~~f.latchMask = 0 then none else p.latch,
                latchMask := p.latchMask &&& ~~~f.latchMask, latchVal := { p.latchVal with tag := f.latchVal.tag } }

/-- A result of variable latency that is delivered in the same cycle as `f`, and before it by R20 and R141, no longer
stands where `f`, which is readable a cycle sooner, was written. -/
def Pending.yieldTo (f p : Pending) : Pending :=
  if f.fixed && p.timed && !p.fixed && decide (p.due = f.due) && p.before f then f.yieldLatch (f.yieldReg p) else p

/-- The results of a list in the order in which they are written, those that no longer stand made void. -/
def inWriteOrder (l : List Pending) : List Pending :=
  (l.map fun p => l.foldl (fun p f => Pending.yieldTo f p) p).foldr insertPending []

/-- The start of cycle n for a slot's results. -/
def Slot.applyResults (n : Nat) (sl : Slot) : Slot :=
  let l := inWriteOrder (sl.pending.filter fun p => p.timed && decide (p.due ≤ n))
  let rest := sl.pending.filter fun p => !(p.timed && decide (p.due ≤ n))
  let (sl', left) := l.foldl (fun (acc : Slot × List Pending) p =>
    let (a, o) := Slot.settle n acc.1 p; (a, acc.2 ++ o.toList)) (sl, [])
  { sl' with pending := left ++ rest }

/-- Deliver and write every result the slot is owed (R274 step 1). -/
def Slot.drain (now : Nat) (sl : Slot) : Slot :=
  let l := sl.pending.map fun p => if p.timed then p else { p with delivered := true, due := now }
  let far := l.foldl (fun m p => max m (p.due + 1)) now
  let sl' := (inWriteOrder l).foldl (fun a p => (Slot.settle far a p).1) sl
  { sl' with pending := [] }

/-- A variable-latency result is delivered in this cycle. -/
def Slot.deliver (now id : Nat) (sl : Slot) : Slot :=
  { sl with pending := sl.pending.map fun p =>
      if p.id = id && p.owed then { p with delivered := true, due := now } else p }

/-! ## Time (R146) -/

def State.imageOfRec (s : State) (ctx idx : Nat) : Option Nat :=
  (s.imageOf.find? fun (c, i, _) => c == ctx && i == idx).map fun (_, _, n) => n

def State.launch (s : State) (l : Nat) : Option Launch := s.launches.find? fun x => x.id == l
def State.modLaunch (s : State) (l : Nat) (f : Launch → Launch) : State :=
  { s with launches := s.launches.map fun x => if x.id == l then f x else x }

/-- The launch a record belongs to. -/
def State.launchOfRec (s : State) (ctx idx : Nat) : Option Nat :=
  (s.launchOf.find? fun (r, _) => r.ctx == ctx && r.idx == idx).map fun (_, l) => l

/-- LTIME of a record: from its launch, its image or the device timebase (R146). -/
def State.ltime (s : State) (launch image : Option Nat) : Nat :=
  match launch with
  | some l => match (s.launch l).bind Launch.firstPickup with
    | some t => s.now - t
    | none => 0
  | none => match image with
    | some i => s.now - sget s.now s.images i
    | none => s.now - s.pkg.startCycle

def State.slotLtime (s : State) (sl : Slot) : Nat := s.ltime sl.launch sl.image

end Sys2Proof.Machine
end

