-- ==== Sys2Proof/Machine/Float.lean ====
section
/-!
DEFINITION. Floating arithmetic (R151-R167, R199-R203, R373): values as exact dyadic numbers, rounded once. A code is a
natural number; every operation answers a code and its FLAGS bits.
-/
namespace Sys2Proof.Machine

/-! ## Formats (Table Formats-3) -/

/-- A floating format: exponent and fraction bits; kind 0 has infinities and NaNs, 1 is e4m3, 2 is e2m1. -/
structure Fmt where
  e : Nat
  f : Nat
  kind : Nat
  deriving DecidableEq, Repr

def F64 : Fmt := ⟨11, 52, 0⟩
def F32 : Fmt := ⟨8, 23, 0⟩
def F16 : Fmt := ⟨5, 10, 0⟩
def BF16 : Fmt := ⟨8, 7, 0⟩
def E4M3 : Fmt := ⟨4, 3, 1⟩
def E5M2 : Fmt := ⟨5, 2, 0⟩
def E2M1 : Fmt := ⟨2, 1, 2⟩

/-- The floating format of a type code (Table Formats-1). -/
def fmtOf (t : Nat) : Fmt :=
  match t % 16 with
  | 9 => F64 | 10 => F32 | 11 => F16 | 12 => BF16 | 13 => E4M3 | 14 => E5M2 | _ => E2M1

def Fmt.bias (F : Fmt) : Int := 2 ^ (F.e - 1) - 1
def Fmt.width (F : Fmt) : Nat := 1 + F.e + F.f
/-- Exponent of the unit of a subnormal. -/
def Fmt.qmin (F : Fmt) : Int := 1 - F.bias - F.f
def Fmt.infCode (F : Fmt) : Nat := (2 ^ F.e - 1) * 2 ^ F.f
/-- The code of the largest finite value. -/
def Fmt.maxCode (F : Fmt) : Nat := match F.kind with | 0 => F.infCode - 1 | 1 => 0x7E | _ => 0x7
/-- The largest finite value as n × 2^q. -/
def Fmt.maxN (F : Fmt) : Nat := match F.kind with | 0 => 2 ^ (F.f + 1) - 1 | 1 => 14 | _ => 3
def Fmt.maxQ (F : Fmt) : Int := match F.kind with | 0 => F.bias - F.f | 1 => 5 | _ => 1
/-- The canonical qNaN; +0 for e2m1. -/
def Fmt.qnan (F : Fmt) : Nat := match F.kind with | 0 => F.infCode + 2 ^ (F.f - 1) | 1 => 0x7F | _ => 0
def Fmt.sign (F : Fmt) (neg : Bool) : Nat := b2n neg * 2 ^ (F.e + F.f)
def Fmt.inf (F : Fmt) (neg : Bool) : Nat := F.sign neg + F.infCode

/-- What a code stands for (R152): (−1)^neg × m × 2^x. -/
inductive FVal where
  | nan (signalling : Bool)
  | inf (neg : Bool)
  | fin (neg : Bool) (m : Nat) (x : Int)
  deriving DecidableEq, Repr

/-- R152; with `ftz`, a subnormal reads as a zero of the same sign (R162). -/
def Fmt.val (F : Fmt) (ftz : Bool) (c : Nat) : FVal :=
  let s := bit c (F.e + F.f)
  let e := c / 2 ^ F.f % 2 ^ F.e
  let f := c % 2 ^ F.f
  if e = 0 then (if ftz then .fin s 0 0 else .fin s f F.qmin)
  else if F.kind = 0 && e = 2 ^ F.e - 1 then (if f = 0 then .inf s else .nan (!bit f (F.f - 1)))
  else if F.kind = 1 && e = 15 && f = 7 then .nan false
  else .fin s (2 ^ F.f + f) (e - F.bias - F.f)

/-! ## Rounding (R159-R162) -/

/-- Compare m × 2^x with n × 2^y. -/
def dlt (m : Nat) (x : Int) (n : Nat) (y : Int) : Bool :=
  let k := min x y
  decide (m * 2 ^ (x - k).toNat < n * 2 ^ (y - k).toNat)

/-- (m + δ) × 2^x as a multiple of 2^q in rounding mode rm, with 0 < δ < 1 when `st` and δ = 0 otherwise; and whether it
is inexact. A value with `st` is given with x < q. -/
def roundAt (rm : Nat) (neg : Bool) (m : Nat) (x : Int) (st : Bool) (q : Int) : Nat × Bool :=
  if q ≤ x then (m * 2 ^ (x - q).toNat, st)
  else
    let sh := (q - x).toNat
    let n := m / 2 ^ sh
    let r := m % 2 ^ sh
    let half := 2 ^ (sh - 1)
    let inex := decide (r ≠ 0) || st
    let up := match rm with
      | 0 => decide (half < r) || (decide (r = half) && (st || decide (n % 2 = 1)))
      | 1 => false
      | 2 => inex && !neg
      | _ => inex && neg
    (n + b2n up, inex)

/-- Table Formats-8, and saturation of e4m3 and e2m1 (R164). -/
def Fmt.overflow (F : Fmt) (rm : Nat) (neg : Bool) : Nat × Byte :=
  if F.kind ≠ 0 then (F.sign neg + F.maxCode, fSAT ||| fNX)
  else
    let toInf := match rm with | 0 => true | 1 => false | 2 => !neg | _ => neg
    (F.sign neg + (if toInf then F.infCode else F.maxCode), fOF ||| fNX)

/-- R159, R161, R162: round an exact value once. -/
def Fmt.round (F : Fmt) (rm : Nat) (ftz : Bool) (neg : Bool) (m : Nat) (x : Int) (st : Bool) : Nat × Byte :=
  if m = 0 then (F.sign neg, 0)
  else
    let qu := (m.log2 : Int) + x - F.f
    let (nu, _) := roundAt rm neg m x st qu
    if dlt F.maxN F.maxQ nu qu then F.overflow rm neg
    else
      let q := max qu F.qmin
      let (n, inex) := roundAt rm neg m x st q
      let tiny := dlt nu qu 1 (1 - F.bias)
      if ftz && n ≠ 0 && n < 2 ^ F.f then (F.sign neg, fUF ||| fNX)
      else (F.sign neg + (q - F.qmin).toNat * 2 ^ F.f + n, flagIf inex fNX ||| flagIf (tiny && inex) fUF)

/-- An outcome before rounding. -/
inductive FX where
  | nan (fl : Byte)
  | inf (neg : Bool) (fl : Byte)
  | zero (neg : Bool)
  | num (neg : Bool) (m : Nat) (x : Int) (st : Bool)
  deriving DecidableEq, Repr

def FX.finish (F : Fmt) (rm : Nat) (ftz : Bool) : FX → Nat × Byte
  | .nan fl => (F.qnan, fl)
  | .inf neg fl => (F.inf neg, fl)
  | .zero neg => (F.sign neg, 0)
  | .num neg m x st => F.round rm ftz neg m x st

/-- R163: the sign of an exact zero sum. -/
def zeroSum (rm : Nat) (negA negB : Bool) : Bool := (negA && negB) || decide (rm = 3)

/-- NV for a signalling NaN among the inputs. -/
def snan : FVal → Byte
  | .nan true => fNV | _ => 0
def FVal.isNan : FVal → Bool
  | .nan _ => true | _ => false
def FVal.neg : FVal → FVal
  | .nan s => .nan s | .inf n => .inf (!n) | .fin n m x => .fin (!n) m x

/-- The exact sum of two values. -/
def addX (rm : Nat) (a b : FVal) : FX :=
  match a, b with
  | .nan _, _ | _, .nan _ => .nan (snan a ||| snan b)
  | .inf s, .inf t => if s = t then .inf s 0 else .nan fNV
  | .inf s, _ => .inf s 0
  | _, .inf t => .inf t 0
  | .fin s m x, .fin t n y =>
    if m = 0 && n = 0 then .zero (zeroSum rm s t)
    else
      let k := if m = 0 then y else if n = 0 then x else min x y
      let u : Int := (if s then -1 else 1) * (m * 2 ^ (x - k).toNat : Nat) + (if t then -1 else 1) * (n * 2 ^ (y - k).toNat : Nat)
      if u = 0 then .zero (zeroSum rm false true) else .num (decide (u < 0)) u.natAbs k false

/-- The exact product as a value: a NaN is reported with NV by the caller. -/
def mulX (a b : FVal) : FX :=
  match a, b with
  | .nan _, _ | _, .nan _ => .nan (snan a ||| snan b)
  | .inf s, .inf t => .inf (s != t) 0
  | .inf s, .fin t n _ => if n = 0 then .nan fNV else .inf (s != t) 0
  | .fin s m _, .inf t => if m = 0 then .nan fNV else .inf (s != t) 0
  | .fin s m x, .fin t n y => if m = 0 || n = 0 then .zero (s != t) else .num (s != t) (m * n) (x + y) false

/-- ±(a × b) ± d, rounded by the caller (Table Vector-5). -/
def fmaX (rm : Nat) (negP negD : Bool) (a b d : FVal) : FX :=
  let d := if negD then d.neg else d
  match mulX a b with
  | .nan fl => .nan (fl ||| snan d)
  | .inf s _ => match d with
    | .nan _ => .nan (snan d)
    | .inf t => if (s != negP) = t then .inf t 0 else .nan fNV
    | .fin _ _ _ => .inf (s != negP) 0
  | .zero s => addX rm (.fin (s != negP) 0 0) d
  | .num s m x _ => addX rm (.fin (s != negP) m x) d

def divX (a b : FVal) : FX :=
  match a, b with
  | .nan _, _ | _, .nan _ => .nan (snan a ||| snan b)
  | .inf _, .inf _ => .nan fNV
  | .inf s, .fin t _ _ => .inf (s != t) 0
  | .fin s _ _, .inf t => .zero (s != t)
  | .fin s m x, .fin t n y =>
    if m = 0 && n = 0 then .nan fNV
    else if n = 0 then .inf (s != t) fDZ
    else if m = 0 then .zero (s != t)
    else
      let k := n.log2 + 80
      .num (s != t) (m * 2 ^ k / n) (x - y - k) (decide (m * 2 ^ k % n ≠ 0))

/-- The integer square root, by halving the number of digits; the fuel is a bound on the bits of the root. -/
def isqrt : Nat → Nat → Nat
  | 0, _ => 0
  | k + 1, n => if n = 0 then 0 else
    let r := 2 * isqrt k (n / 4)
    if (r + 1) * (r + 1) ≤ n then r + 1 else r

def sqrtX (a : FVal) : FX :=
  match a with
  | .nan _ => .nan (snan a)
  | .inf neg => if neg then .nan fNV else .inf false 0
  | .fin neg m x =>
    if m = 0 then .zero neg else if neg then .nan fNV
    else
      let x' := x - 200 - (x % 2)
      let v := m * 2 ^ (200 + (x % 2).toNat)
      let r := isqrt 200 v
      .num false r (x' / 2) (decide (r * r ≠ v))

def rcpX (a : FVal) : FX := divX (.fin false 1 0) a

def rsqX (a : FVal) : FX :=
  match a with
  | .nan _ => .nan (snan a)
  | .inf neg => if neg then .nan fNV else .zero false
  | .fin neg m x =>
    if m = 0 then .inf neg fDZ else if neg then .nan fNV
    else
      let m' := m * 2 ^ (x % 2).toNat
      let x' := (x - x % 2) / 2
      let v := 2 ^ 300 / m'
      let r := isqrt 160 v
      .num false r (-x' - 150) (decide (m' * (r * r) ≠ 2 ^ 300))

/-! ## Transcendentals, correctly rounded (R199): fixed-point series with 400 fraction bits -/

/-- Fraction bits of the series. -/
def pBits : Nat := 400

/-- Σ w^(2k+1) / (2k+1) from index k, in fixed point; `t` is w^(2k+1), `w2` is w². -/
def atanhSum : Nat → Nat → Int → Int → Int
  | 0, _, _, _ => 0
  | n + 1, k, t, w2 => t / (2 * k + 1 : Nat) + atanhSum n (k + 1) (t * w2 / 2 ^ pBits) w2

/-- ln z in fixed point for z = 1 + (num/den): 2 atanh((z − 1)/(z + 1)); z = a/b. -/
def lnFix (a b : Int) : Int :=
  let w := (a - b) * 2 ^ pBits / (a + b)
  2 * atanhSum 130 0 w (w * w / 2 ^ pBits)

def ln2Fix : Int := lnFix 2 1

/-- Σ y^k / k! from index k; `t` is the term of index k. -/
def expSum : Nat → Nat → Nat → Nat → Nat
  | 0, _, _, _ => 0
  | n + 1, k, t, y => t + expSum n (k + 1) (t * y / 2 ^ pBits / (k + 1)) y

/-- 2^(f / 2^pBits) for 0 ≤ f < 2^pBits, in fixed point. -/
def exp2Frac (f : Nat) : Nat := expSum 100 0 (2 ^ pBits) (f * ln2Fix.toNat / 2 ^ pBits)

def exp2X (a : FVal) : FX :=
  match a with
  | .nan _ => .nan (snan a)
  | .inf neg => if neg then .zero false else .inf false 0
  | .fin neg m x =>
    if m = 0 then .num false 1 0 false
    else if (20 : Int) < (m.log2 : Int) + x then .num false 1 (if neg then -100000 else 100000) false
    else if (m.log2 : Int) + x < -200 then
      if neg then .num false (2 ^ 300 - 1) (-300) true else .num false (2 ^ 300) (-300) true
    else
      let v : Int := (if neg then -1 else 1) * (m * 2 ^ (x + pBits).toNat : Nat)
      let n := v / 2 ^ pBits
      let f := (v % 2 ^ pBits).toNat
      if f = 0 then .num false 1 n false
      else .num false (exp2Frac f / 2 ^ 40) (n - pBits + 40) true

def log2X (a : FVal) : FX :=
  match a with
  | .nan _ => .nan (snan a)
  | .inf neg => if neg then .nan fNV else .inf false 0
  | .fin neg m x =>
    if m = 0 then .inf true fDZ else if neg then .nan fNV
    else
      let l := m.log2
      if m = 2 ^ l then
        let n : Int := l + x
        if n = 0 then .zero false else .num (decide (n < 0)) n.natAbs 0 false
      else
        let big := decide (3 * 2 ^ l < 2 * m)
        let e : Int := l + x + (if big then 1 else 0)
        let d : Int := 2 ^ (l + (if big then 1 else 0))
        let v := e * 2 ^ pBits + lnFix m d * 2 ^ pBits / ln2Fix
        .num (decide (v < 0)) (v.natAbs / 2 ^ 40) (40 - pBits) true

/-! ## Minimum, maximum, comparison, class -/

/-- a < b for values that are no NaN; −0 is not below +0 here. -/
def ltV (a b : FVal) : Bool :=
  match a, b with
  | .inf s, .inf t => s && !t
  | .inf s, .fin _ _ _ => s
  | .fin _ _ _, .inf t => !t
  | .fin s m x, .fin t n y =>
    let s := s && m ≠ 0
    let t := t && n ≠ 0
    if s && !t then decide (m ≠ 0) || decide (n ≠ 0)
    else if t && !s then false
    else if s then dlt n y m x else dlt m x n y
  | _, _ => false

def eqV (a b : FVal) : Bool := !a.isNan && !b.isNan && !ltV a b && !ltV b a

def FVal.negative : FVal → Bool
  | .inf s => s | .fin s _ _ => s | .nan _ => false

/-- The code of an operand that takes part as it stands, flushed where FTZ says. -/
def Fmt.keep (F : Fmt) (v : FVal) (c : Nat) : Nat :=
  match v with
  | .fin s m _ => if m = 0 then F.sign s else c
  | _ => c

/-- R201: the smaller (`max` false) or larger operand. -/
def Fmt.minmax (F : Fmt) (mx ftz : Bool) (a b : Nat) : Nat × Byte :=
  let va := F.val ftz a
  let vb := F.val ftz b
  let fl := snan va ||| snan vb
  if va.isNan && vb.isNan then (F.qnan, fl)
  else if va.isNan then (F.keep vb b, fl)
  else if vb.isNan then (F.keep va a, fl)
  else
    let lt := ltV va vb || (eqV va vb && va.negative && !vb.negative)
    (if lt != mx then F.keep va a else F.keep vb b, fl)

/-- R202. -/
def Fmt.fclass (F : Fmt) (c : Nat) : Nat :=
  match F.val false c with
  | .nan s => if s then 256 else 512
  | .inf n => if n then 1 else 128
  | .fin n m _ =>
    if m = 0 then (if n then 8 else 16)
    else if c / 2 ^ F.f % 2 ^ F.e = 0 then (if n then 4 else 32)
    else (if n then 2 else 64)

/-- R200: |a| or −a. -/
def Fmt.signOp (F : Fmt) (clear ftz : Bool) (c : Nat) : Nat × Byte :=
  match F.val ftz c with
  | .nan s => (F.qnan, flagIf s fNV)
  | .inf n => (F.inf (!clear && !n), 0)
  | .fin n m x => let z := !clear && !n
    (if m = 0 then F.sign z else F.sign z + c % 2 ^ (F.e + F.f), (fun _ => 0) x)

/-- R203: kind 0 eq, 1 lt, 2 le, 3 un. -/
def Fmt.cmp (F : Fmt) (k : Nat) (ftz : Bool) (a b : Nat) : Bool × Byte :=
  let va := F.val ftz a
  let vb := F.val ftz b
  let nan := va.isNan || vb.isNan
  let r := match k with
    | 0 => eqV va vb
    | 1 => !nan && ltV va vb
    | 2 => !nan && (ltV va vb || eqV va vb)
    | _ => nan
  (r, if k = 1 || k = 2 then flagIf nan fNV else snan va ||| snan vb)

/-! ## Operations on codes -/

def Fmt.add (F : Fmt) (rm : Nat) (ftz : Bool) (a b : Nat) : Nat × Byte :=
  (addX rm (F.val ftz a) (F.val ftz b)).finish F rm ftz
def Fmt.sub (F : Fmt) (rm : Nat) (ftz : Bool) (a b : Nat) : Nat × Byte :=
  (addX rm (F.val ftz a) (F.val ftz b).neg).finish F rm ftz
def Fmt.mul (F : Fmt) (rm : Nat) (ftz : Bool) (a b : Nat) : Nat × Byte :=
  (mulX (F.val ftz a) (F.val ftz b)).finish F rm ftz
def Fmt.fma (F : Fmt) (negP negD : Bool) (rm : Nat) (ftz : Bool) (a b d : Nat) : Nat × Byte :=
  (fmaX rm negP negD (F.val ftz a) (F.val ftz b) (F.val ftz d)).finish F rm ftz
def Fmt.div (F : Fmt) (rm : Nat) (ftz : Bool) (a b : Nat) : Nat × Byte :=
  (divX (F.val ftz a) (F.val ftz b)).finish F rm ftz
def Fmt.sqrt (F : Fmt) (rm : Nat) (ftz : Bool) (a : Nat) : Nat × Byte := (sqrtX (F.val ftz a)).finish F rm ftz
def Fmt.rcp (F : Fmt) (rm : Nat) (ftz : Bool) (a : Nat) : Nat × Byte := (rcpX (F.val ftz a)).finish F rm ftz
def Fmt.rsq (F : Fmt) (rm : Nat) (ftz : Bool) (a : Nat) : Nat × Byte := (rsqX (F.val ftz a)).finish F rm ftz
def Fmt.exp2 (F : Fmt) (rm : Nat) (ftz : Bool) (a : Nat) : Nat × Byte := (exp2X (F.val ftz a)).finish F rm ftz
def Fmt.log2 (F : Fmt) (rm : Nat) (ftz : Bool) (a : Nat) : Nat × Byte := (log2X (F.val ftz a)).finish F rm ftz

/-- R373: `famo` rounds RNE, never flushes and sets no flag. -/
def Fmt.amo (F : Fmt) (op : Nat) (a b : Nat) : Nat :=
  match op with
  | 0 => (F.add 0 false a b).1
  | 1 => (F.minmax false false a b).1
  | _ => (F.minmax true false a b).1

/-! ## Conversions (R164, R165) -/

/-- Integer type codes 1-8 (Table Formats-1). -/
def isInt (t : Nat) : Bool := decide (1 ≤ t) && decide (t ≤ 8)
def isSigned (t : Nat) : Bool := isInt t && decide (t % 2 = 1)
/-- Bits of a value of a type, e2m1 as 4 (R204). -/
def valBits (t : Nat) : Nat :=
  match t % 16 with
  | 0 => 64 | 1 | 2 => 8 | 3 | 4 => 16 | 5 | 6 => 32 | 7 | 8 => 64 | 9 => 64 | 10 => 32 | 11 | 12 => 16 | 15 => 4 | _ => 8

/-- The formats that FTZ touches (R162). -/
def ftzFmt (t : Nat) : Bool := decide (9 ≤ t) && decide (t ≤ 12)

/-- The value of an integer code. -/
def intVal (t c : Nat) : Int := if isSigned t then toSigned (valBits t) c else (c % 2 ^ valBits t : Nat)

/-- Clamp to the range of an integer type: the code, and whether it was outside. -/
def clampInt (t : Nat) (v : Int) : Nat × Bool :=
  let n := valBits t
  let lo : Int := if isSigned t then -(2 ^ (n - 1)) else 0
  let hi : Int := if isSigned t then 2 ^ (n - 1) - 1 else 2 ^ n - 1
  if v < lo then (ofSigned n lo, true) else if hi < v then (ofSigned n hi, true) else (ofSigned n v, false)

/-- Table Formats-9: one value of type t to type u. -/
def convert (t u rm : Nat) (ftz : Bool) (c : Nat) : Nat × Byte :=
  if isInt t then
    if isInt u then let (r, sat) := clampInt u (intVal t c); (r, flagIf sat fSAT)
    else
      let v := intVal t c
      if v = 0 then (0, 0) else (fmtOf u).round rm (ftz && ftzFmt u) (decide (v < 0)) v.natAbs 0 false
  else
    let F := fmtOf t
    let v := F.val (ftz && ftzFmt t) c
    if isInt u then
      match v with
      | .nan _ => (0, fNV)
      | .inf n =>
        ((clampInt u (if n then -(2 ^ 70) else 2 ^ 70)).1, fSAT)
      | .fin n m x =>
        let (r, inex) := roundAt rm n m x false 0
        let (z, sat) := clampInt u (if n then -(r : Int) else r)
        (z, if sat then fSAT else flagIf inex fNX)
    else if t = u then
      match v with
      | .nan s => if F.kind = 2 then (c, 0) else (F.qnan, flagIf s fNV)
      | _ => (F.keep v c, 0)
    else
      let G := fmtOf u
      match v with
      | .nan s => (G.qnan, if G.kind = 2 then fNV else flagIf s fNV)
      | .inf n => if G.kind = 0 then (G.inf n, 0) else (G.sign n + G.maxCode, fSAT)
      | .fin n m x => if m = 0 then (G.sign n, 0) else G.round rm (ftz && ftzFmt u) n m x false

/-- R154: a micro-scale in integer form, M'' × 2^(E' − 8). -/
def scaleM (c : Nat) : Nat := if c / 32 = 0 then c % 32 else 32 + c % 32
def scaleX (c : Nat) : Int := (if c / 32 = 0 then 1 else (c / 32 : Nat)) - 8

/-- R165: the bound Q of a destination. -/
def quantQ (u : Nat) : Nat := match u % 16 with | 15 => 6 | 13 => 448 | _ => 57344

/-- The smallest micro-scale code from c up with value(c) × Q ≥ m × 2^x; 0xFE when none. -/
def findScale (q m : Nat) (x : Int) : Nat → Nat → Nat
  | 0, _ => 0xFE
  | n + 1, c => if dlt (scaleM c * q) (scaleX c) m x then findScale q m x n (c + 1) else c

/-- The largest magnitude of finite values. -/
def maxMag : List FVal → Nat × Int
  | [] => (0, 0)
  | .fin _ m x :: l => let (n, y) := maxMag l; if dlt n y m x then (m, x) else (n, y)
  | _ :: l => maxMag l

/-- R165: one quotient, rounded RNE with its exponent unbounded above. -/
def quantOne (u ms : Nat) (v : FVal) : Nat × Byte :=
  let G := fmtOf u
  match v with
  | .fin s m x =>
    if m = 0 then (G.sign s, 0)
    else
      let d := scaleM ms
      let t := m * 2 ^ 40 / d
      let y := x - 40 - scaleX ms
      let st := decide (m * 2 ^ 40 % d ≠ 0)
      let q := max ((t.log2 : Int) + y - G.f) G.qmin
      let (n, inex) := roundAt 0 s t y st q
      if dlt G.maxN G.maxQ n q then (G.sign s + G.maxCode, fSAT ||| fNX)
      else (G.sign s + (q - G.qmin).toNat * 2 ^ G.f + n, flagIf inex fNX)
  | _ => (0, 0)

/-- R165: a micro-block: its micro-scale, its codes and its flags. -/
def quantBlock (t u : Nat) (xs : List Nat) : Nat × List Nat × Byte :=
  let vs := xs.map ((fmtOf t).val false)
  if vs.any (fun v => match v with | .fin _ _ _ => false | _ => true) then (0xFF, xs.map fun _ => 0, fNV)
  else
    let (m, x) := maxMag vs
    if m = 0 then (0, vs.map fun v => (fmtOf u).sign v.negative, 0)
    else
      let ms := findScale (quantQ u) m x 254 1
      let r := vs.map (quantOne u ms)
      (ms, r.map Prod.fst, r.foldl (fun a b => a ||| b.2) 0)

/-- R156, R206: element x of scaled type t under micro-scale µ, rounded to type u. Under a micro-scale of 0xFF the flag is
ISC alone, a signalling NaN element's too (log 82). -/
def dequant (t u rm : Nat) (x ms : Nat) : Nat × Byte :=
  let G := fmtOf u
  if ms = 0xFF then (G.qnan, fISC)
  else match (fmtOf t).val false x with
  | .nan s => (G.qnan, flagIf s fNV)
  | .inf n => if ms = 0 then (G.qnan, fNV) else (G.inf n, 0)
  | .fin n m y => if m = 0 || scaleM ms = 0 then (G.sign n, 0)
    else G.round rm false n (m * scaleM ms) (y + scaleX ms) false

end Sys2Proof.Machine
end

