-- ==== Sys2Proof/Machine/Operands.lean ====
section
/-!
DEFINITION. Operands: queue ports (R29-R31, R286, R293), and every form of source as it is read at issue (R19,
R26-R28, R141), the operation type (R191) and the predicate (R17).
-/
namespace Sys2Proof.Machine

/-! ## Queue ports (R286, R293, R389) -/

/-- The words waiting in a core's port. -/
def Core.portWords (x : Core) (n : Nat) : List Word := if n = 0 then x.inbox else sget [] x.fifo n

def Core.binding (x : Core) (n : Nat) : Bind := sget Bind.none x.bind n

/-- The core and port that a push by the record `holder` of core c to port n enters; none for packet ports and unbound
channels. -/
def State.pushTarget (s : State) (c n : Nat) : Option (Nat × Nat) :=
  if n = 4 then some (ringSucc 16 c, 4)
  else if n = 5 then some (ringPred 16 c, 5)
  else if 8 ≤ n then
    let b := (s.core c).binding n
    let tx := (coreX c : Int) + b.dx.toInt
    let ty := (coreY c : Int) + b.dy.toInt
    some ((ty * 64 + tx).toNat, 8 + b.rch.toNat)
  else none

/-- Words in a FIFO or on their way to it. -/
def State.fifoLoad (s : State) (c n : Nat) : Nat :=
  ((s.core c).portWords n).length + (s.flights.filter fun f => f.core == c && f.port == n).length

/-- Free space in the FIFO that a push enters, for a pusher of context `ctx` (R293). -/
def State.pushRoom (s : State) (c n ctx : Nat) : Nat :=
  if 1 ≤ n && n ≤ 3 then 16
  else match s.pushTarget c n with
    | none => 0
    | some (tc, tp) =>
      let b := (s.core tc).binding tp
      if tp < 8 || b.holder = 0 || b.ctx = ctx then 16 - s.fifoLoad tc tp else 0

/-- The index in its port of the word that field f of instruction i reads (R30). -/
def popIndex (s : State) (i : Instr) (f n : Nat) : Nat :=
  sget 0 s.issue.skip n + ((uses i).filter fun u => match u with
    | .rs g (.q m) => decide (g < f) && m.val == n
    | _ => false).length

/-- The ports an instruction pops, with counts. -/
def popsOf (i : Instr) : List (Nat × Nat) :=
  (uses i).foldl (fun acc u => match u with
    | .rs _ (.q m) => sput acc m.val (sget 0 acc m.val + 1)
    | _ => acc) []

/-- The ports an instruction pushes to. -/
def pushesOf (i : Instr) : List Nat :=
  (uses i).filterMap fun u => match u with
    | .ws _ (.q m) _ => some m.val
    | _ => none

/-! ## Operands as read at issue (R19, R26-R28, R141) -/

/-- Scalar source x in field f of instruction i. -/
def readS (s : State) (i : Instr) (f : Nat) (x : SSrc) : Word :=
  match s.cur with
  | none => 0
  | some sl => match x with
    | .s n => sl.regs.sr n.val
    | .la => sl.regs.la.val.setWidth 64
    | .lc => sl.regs.lc.val.setWidth 64
    | .z => 0
    | .lit => sext64 32 s.issue.lit.toNat
    | .q n => ((s.core s.issue.core).portWords n.val).getD (popIndex s i f n.val) 0

def readP (s : State) (n : Nat) : Pred := match s.cur with | none => 0 | some sl => sl.regs.pr n

/-- The tag of a vector source; none for z, lit and lane. -/
def tagOf (s : State) (x : VSrc) : Option Tag :=
  match s.cur with
  | none => none
  | some sl => match x with
    | .v n => some (sl.regs.vr n.val).tag
    | .o n => some (sl.regs.vr (32 + n.val)).tag
    | .la => some sl.regs.la.tag
    | .lc => some sl.regs.lc.tag
    | _ => none

/-- R27: lit as a vector of width e; the upper half of a 64-bit element when the operand's tag is f64. -/
def litElem (e : Nat) (f64 : Bool) (l : Half) : Nat :=
  if e = 64 then (if f64 then l.toNat * 2 ^ 32 else (sext64 32 l.toNat).toNat) else l.toNat % 2 ^ e

/-- Vector source x at width e. -/
def readV (s : State) (e : Nat) (f64 : Bool) (x : VSrc) : Vec :=
  match s.cur with
  | none => 0
  | some sl => match x with
    | .v n => (sl.regs.vr n.val).val
    | .o n => (sl.regs.vr (32 + n.val)).val
    | .la => sl.regs.la.val
    | .lc => sl.regs.lc.val
    | .z => 0
    | .lit => ofElems e fun _ => litElem e f64 s.issue.lit
    | .lane => ofElems e fun i => i

/-- The operation type of an instruction (R191). -/
def opType (s : State) (i : Instr) : Tag :=
  match (typed i).bind fun l => l.find? VSrc.named with
  | some x => (tagOf s x).getD 0
  | none => 0

/-- Whether the A-slot's predicate, for a scalar instruction, holds (R17); true when unpredicated. -/
def predHolds (s : State) : Bool :=
  if s.issue.aslot && s.issue.pe then ((readP s s.issue.pr.val).getLsbD 0) ^^ s.issue.pn else true

/-- Whether element i of width e is enabled (R17). -/
def enabled (s : State) (e i : Nat) : Bool :=
  if s.issue.aslot && s.issue.pe then ((readP s s.issue.pr.val).getLsbD (i * e / 16)) ^^ s.issue.pn else true

end Sys2Proof.Machine
end

