-- ==== Sys2Proof/Machine/Mem.lean ====
section
/-!
DEFINITION. Memory: the physical address map (R473, R487), address translation (R435-R437), the check of an access
(R227), the directory (R322-R330), and the operations that read and write bytes.
-/
namespace Sys2Proof.Machine

/-! ## Traps as values -/

/-- A trap raised: its code, INFO and ADDR (Table Traps-1). -/
structure Trap where
  code : Nat
  info : Nat
  addr : Nat
  fatal : Bool
  deriving DecidableEq, Repr

def ILLOP : Nat := 0x01
def ILLOPND : Nat := 0x02
def ILLPAIR : Nat := 0x03
def TAGFAULT : Nat := 0x04
def STALLCHK : Nat := 0x05
def SETFAULT : Nat := 0x06
def PRIV : Nat := 0x07
def MISALIGN : Nat := 0x10
def XLATE : Nat := 0x11
def PROT : Nat := 0x12
def LOCALRANGE : Nat := 0x13
def ARITH : Nat := 0x18
def TRAPINS : Nat := 0x19
def TRANSLATE : Nat := 0x20
def MCHECK : Nat := 0x28
def DIELOST : Nat := 0x29
def SAVEFAULT : Nat := 0x2A

/-- A trap with INFO alone. -/
def trapInfo (code info : Nat) : Trap := ⟨code, info, 0, false⟩

/-- The kinds of a memory access (R272). -/
inductive Acc where
  | load | store | atomic | fetch
  deriving DecidableEq, Repr

def Acc.code : Acc → Nat
  | .load => 0 | .store => 1 | .atomic => 2 | .fetch => 3

/-- Addresses 0x00FF_FE00_0000_0000 and up, never mapped (R214). -/
def windowBase : Nat := 0x00FFFE0000000000
def localBase : Nat := 0x00FFFF0000000000

/-- The scratchpad window byte at va, as the core and offset it names (R214). -/
def window (core va : Nat) : Option (Nat × Nat) :=
  if localBase ≤ va && va < localBase + 0x1000000 then some (core, va - localBase)
  else if windowBase ≤ va && va < windowBase + 1024 * 2 ^ 21 then
    some ((va - windowBase) / 2 ^ 21, (va - windowBase) % 2 ^ 21)
  else none

def isWindow (va : Nat) : Bool := (window 0 va).isSome

/-- The memory form of INFO (R272). -/
def memInfo (kind : Nat) (va size : Nat) : Nat := kind + (if isWindow va then 8 else 0) + 16 * size

def memTrap (code : Nat) (k : Acc) (va size : Nat) : Trap := ⟨code, memInfo k.code va size, va, false⟩

/-- A PROT that is no memory access: kind 4, INFO 31:16 the opcode (R272). -/
def protTrap (op : Nat) : Trap := ⟨PROT, 4 + op * 65536, 0, false⟩

/-! ## The physical map (R473, R487) -/

/-- What a physical address names. -/
inductive Region where
  | hbm | ddr | peer (m o : Nat) | scaleOut (w o : Nat) | scaleTable (w off : Nat) | coreWin (c off : Nat) | host
  | event (cl off : Nat)
  deriving DecidableEq, Repr

def Region.plain : Region → Bool
  | .hbm | .ddr | .peer _ _ | .host => true
  | _ => false

/-- The populated range that holds pa (R473, R487, R488). -/
def State.region (s : State) (pa : Nat) : Option Region :=
  if pa < 2 ^ 40 then some .hbm
  else if pa < 2 ^ 40 + s.pkg.ddrBytes then some .ddr
  else if 0x0001000000000000 ≤ pa && pa < 0x0001000000000000 + 1024 * 2 ^ 41 then
    let m := (pa - 0x0001000000000000) / 2 ^ 41
    if m = s.pkg.devId.toNat % 1024 || !(s.fab.members.contains m) then none
    else some (.peer m ((pa - 0x0001000000000000) % 2 ^ 41))
  else if 0x0009000000000000 ≤ pa && pa < 0x0009000000000000 + 1279 * 2 ^ 40 then
    some (.scaleOut ((pa - 0x0009000000000000) / 2 ^ 40) ((pa - 0x0009000000000000) % 2 ^ 40))
  else if 0x000DFF0000000000 ≤ pa && pa < 0x000DFF0000000000 + 16 * 1279 then
    some (.scaleTable ((pa - 0x000DFF0000000000) / 16) ((pa - 0x000DFF0000000000) % 16))
  else if 0x000DFF8000000000 ≤ pa && pa < 0x000DFF8000000000 + 1024 * 2 ^ 17 then
    some (.coreWin ((pa - 0x000DFF8000000000) / 2 ^ 17) ((pa - 0x000DFF8000000000) % 2 ^ 17))
  else if 0x000E000000000000 ≤ pa && pa < 0x000F000000000000 then some .host
  else if 0x000FFF0000000000 ≤ pa && pa < 0x000FFF0000040000 then
    some (.event ((pa - 0x000FFF0000000000) / 4096) ((pa - 0x000FFF0000000000) % 4096))
  else none

/-- The home slice of a physical address (R322). -/
def home (pa : Nat) : Nat :=
  let l := pa / 128
  let g (i : Nat) : Nat := l / 2 ^ (7 * i) % 128
  (g 0 ^^^ g 1 ^^^ g 2 ^^^ g 3 ^^^ g 4 ^^^ g 5 ^^^ (g 6 % 8)) % 128

/-- Device memory: HBM4 or DDR5. -/
def State.deviceMem (s : State) (pa : Nat) : Bool :=
  match s.region pa with
  | some .hbm | some .ddr => true
  | _ => false

/-- The tile that holds pa. -/
def State.tileAt (s : State) (pa : Nat) : Option Tile := s.tiles.find? fun t => decide (t.base ≤ pa) && decide (pa < t.base + t.size)

/-- R334: the slice of the near pair of a core that takes the line of pa: slice 2k of its die, k being the core's cluster
within the die, or 2k + 1 where address bit 7 is 1. -/
def nearSlice (core pa : Nat) : Nat :=
  16 * dieOf core + 2 * (coreY core % 8 / 4 * 4 + coreX core % 16 / 4) + pa / 128 % 2

/-- The tile home of a physical base (R328). -/
def tileHome (pa : Nat) : Nat := home (pa / 2 ^ 20 * 2 ^ 20)

/-- The slice that holds the L2 data of the line of pa: the near slice of a forwarded tile, the holding slice of a migrated
line, or home (R327, R334). -/
def State.dataSlice (s : State) (pa : Nat) : Nat :=
  match s.tileAt pa with
  | some t => (match t.target with | some g => nearSlice g pa | none => home pa)
  | none => (sget Line.inv s.lines (pa / 128)).slice.getD (home pa)

/-- An access to pa cannot be completed (R371, R453, R476, R494). -/
def State.unreachable (s : State) (pa : Nat) : Bool :=
  match s.region pa with
  | some (.peer m o) => s.fab.lostPeers.contains m || decide (2 ^ 40 + Config.remoteDdr m ≤ o)
  | some .host => !s.pkg.cxlUp
  | some .hbm | some .ddr =>
    (s.die (home pa / 16)).lost || (s.die (s.dataSlice pa / 16)).lost
  | _ => false

/-! ## Translation (R435-R437) -/

/-- A leaf: page base, page size, permissions, memory type, key id. -/
structure Leaf where
  pa : Nat
  size : Nat
  u : Bool
  x : Bool
  w : Bool
  r : Bool
  mt : Nat
  key : Nat
  deriving DecidableEq, Repr

/-- What a walk finds. -/
inductive Walk where
  | none | poisoned | leaf (l : Leaf) (raw : Nat) (srcs : List Nat)
  deriving DecidableEq, Repr

def State.poisoned (s : State) (a n : Nat) : Bool :=
  s.poison.any fun (b, _) => decide (a ≤ b) && decide (b < a + n)

/-- R326: a front-end's buffer reaches home: the bytes in its mask replace the line's. -/
def mergeBytes (m : List Host.Cell) (base : Nat) (mask : BitVec 128) (val : BitVec 1024) : List Host.Cell :=
  (List.range 128).foldl (fun m i =>
    if mask.getLsbD i then sset 0 m (base + i) ((val >>> (8 * i)).setWidth 8) else m) m

/-- Memory as it is once the write-combining buffers of a line are recalled (R325, R326). -/
def State.lineView (s : State) (line : Nat) : List Host.Cell :=
  (sget Line.inv s.lines line).bufs.foldl (fun m (_, mask, val) => mergeBytes m (line * 128) mask val) s.mem

/-- Memory behind the controllers of this device or of a peer, which store it under key ids (R438, R475). -/
def keyed (pa : Nat) : Bool := decide (pa < 0x0009000000000000)

/-- A byte read under a key id does not come back as it was stored: it was stored under another id (R438), or its key is
gone (R475, R482). -/
def State.stale (s : State) (key a : Nat) : Bool :=
  (keyed a && sget 0 s.pkg.keyOf (a / 16) != key) || s.pkg.staleKeys.any fun (b, n) => decide (b ≤ a) && decide (a < b + n)

/-- No byte reads so under key 0. -/
def State.plain (s : State) : Bool := s.pkg.staleKeys.isEmpty && s.pkg.keyOf.isEmpty

/-- n coherent bytes at pa, inside one line, read under a key id; a free value where they were stored under another key
(R438, R482, log 14). -/
def State.viewBytes (s : State) (pa n key : Nat) : Nat :=
  if s.plain && key == 0 then bytesAt (s.lineView (pa / 128)) pa n
  else (List.range n).foldr (fun i acc =>
    (if s.stale key (pa + i) then Config.wrongKeyByte s.pkg.startCycle key (pa + i)
     else sget 0 (s.lineView (pa / 128)) (pa + i)).toNat + 256 * acc) 0

/-- The 16-byte units of a range that are stored under another key id than `key`. -/
def State.otherKeys (s : State) (pa n key : Nat) : List Nat :=
  ((List.range ((pa + n + 15) / 16 - pa / 16)).map fun i => pa / 16 + i).filter fun u =>
    keyed (16 * u) && sget 0 s.pkg.keyOf u != key

/-- Bytes of a range are written under a key id. A unit stored under another id is read under this one first, so that what
is not written of it keeps a free value; the written bytes read as written. -/
def State.freshen (s : State) (pa n key : Nat) : State :=
  if s.plain && key == 0 then s else
  let us := s.otherKeys pa n key
  { s with pkg := { s.pkg with
      keyOf := us.foldl (fun m u => sset 0 m u key) s.pkg.keyOf,
      staleKeys := (s.pkg.staleKeys ++ us.map fun u => (16 * u, 16)).flatMap fun (b, m) =>
        (if b < pa then [(b, min m (pa - b))] else [])
          ++ (if pa + n < b + m then [(max b (pa + n), b + m - max b (pa + n))] else []) } }

/-- Page size of a leaf at a level. -/
def pageSize : Nat → Nat
  | 2 => 2 ^ 36 | 3 => 2 ^ 26 | _ => 2 ^ 16

/-- One level of the walk (R436). -/
def readEntry (e lvl : Nat) : Option (Nat ⊕ Leaf) :=
  if e % 2 = 0 then none
  else if bits e 55 52 ≠ 0 || bits e 12 7 ≠ 0 || bits e 2 2 ≠ 0 then none
  else if bits e 1 1 = 1 then
    let pa := bits e 51 13 * 2 ^ 13
    if lvl = 1 || bits e 15 13 ≠ 0 || pa % pageSize lvl ≠ 0 || 2 ≤ bits e 57 56 then none
    else some (.inr ⟨pa, pageSize lvl, bit e 6, bit e 5, bit e 4, bit e 3, bits e 57 56, bits e 63 58⟩)
  else if lvl = 4 || bits e 12 3 ≠ 0 || bits e 63 56 ≠ 0 then none
  else some (.inl (bits e 51 13 * 2 ^ 13))

/-- The walk from a table at a level, with the number of levels left (R435, R439). -/
def State.walkFrom (s : State) (va : Nat) : Nat → Nat → List Nat → Walk
  | 0, _, _ => .none
  | n + 1, table, srcs =>
    let lvl := 4 - n
    let ea := table + 8 * (va / 2 ^ (56 - 10 * lvl) % 1024)
    if s.poisoned ea 8 then .poisoned
    else
      let e := s.viewBytes ea 8 0
      match readEntry e lvl with
      | none => .none
      | some (.inr l) => .leaf l e (srcs ++ [ea])
      | some (.inl t) => s.walkFrom va n t (srcs ++ [ea])

/-- The addresses of the translation overflow area (R427), and the device memory behind it, which firmware reserves at
start (log 85): translations in its lower half, recovery maps in its upper half. -/
def overflowBase : Nat := 0x00FFFC0000000000
def overflowSize : Nat := 0x400000000
def overflowMem : Nat := 2 ^ 40 - overflowSize

/-- The leaf of an address of that area: for supervisor code to read and to fetch from. -/
def overflowEntry (va : Nat) : Nat := (overflowMem + (va - overflowBase) / 65536 * 65536) + 0x2B

/-- The walk of an address of a context (R435); the overflow area is no software page table's. -/
def State.walk (s : State) (ctx va : Nat) : Walk :=
  if overflowBase ≤ va && va < overflowBase + overflowSize then
    match readEntry (overflowEntry va) 4 with
    | some (.inr l) => .leaf l (overflowEntry va) []
    | _ => .none
  else s.walkFrom va 4 (s.ctx ctx).ptbase.toNat []

/-- Permissions that a kind of access needs (R437). -/
def Leaf.permits (l : Leaf) (k : Acc) (native : Bool) : Bool :=
  (native || l.u) && (match k with
    | .load => l.r
    | .store => l.w
    | .atomic => l.r && l.w
    | .fetch => l.x)

/-- Who makes an access: its context, level and core. -/
structure Who where
  ctx : Nat
  native : Bool
  core : Nat
  deriving DecidableEq, Repr

def spadLimit : Nat := 0x180000

/-- The line of a core's scratchpad is allocated. -/
def Core.allocated (x : Core) (line : Nat) : Bool := decide (sget 0 x.owner line ≠ 0)

/-! ## The scope table (R342) -/

/-- The devices within each radius from the switch on (R10, R342, R488): the pod holds its populated members, and a wider
radius holds a narrower one; radius 15 is the system. -/
def State.scopeCount (s : State) (n : Nat) : Nat :=
  let pod := 1 + (s.fab.members.filter fun m => m ≠ s.pkg.devId.toNat % 1024).eraseDups.length
  if n = 4 then 1 + Config.scopeDevices 4 % pod
  else min 2097152 (pod + ((List.range (n - 5)).map fun i => Config.scopeDevices (6 + i)).sum)

/-- Entry n of the scope table: KIND, TIER and DEVICES of radius n (Table Model-2, log 81). -/
def State.scopeEntry (s : State) (n : Nat) : Word :=
  let alone := s.fab.members.all (· == s.pkg.devId.toNat % 1024)
  let tiers := if alone then 0 else Config.ethernetTiers % 10
  let kind := if n ≤ 3 then n else if alone then 7 else if n ≤ 5 then n else if n ≤ 5 + tiers then 6 else 7
  let devices := if n ≤ 3 || alone then 1 else s.scopeCount (if kind = 7 then 15 else n)
  BitVec.ofNat 64 (kind + (if kind = 6 then n - 5 else 0) * 2 ^ 8 + devices * 2 ^ 16)

/-- The 128 bytes of the table, as one number. -/
def State.scopeTable (s : State) : Nat :=
  (List.range 16).foldr (fun n acc => (s.scopeEntry n).toNat + acc * 2 ^ 64) 0

/-- The offset of va in the scope table of a context. -/
def State.scopeOffset (s : State) (ctx va : Nat) : Option Nat :=
  let t := (s.ctx ctx).scopetab.toNat
  if t ≠ 0 && t ≤ va && va < t + 128 then some (va - t) else none

/-- The translation of va as a die caches it, with the entries it was built from (R439). -/
def State.cachedLeaf (s : State) (ctx va : Nat) : Option TlbEntry :=
  match s.walk ctx va with
  | .leaf l raw srcs => some ⟨ctx, va / l.size * l.size, l.size, BitVec.ofNat 64 raw, srcs⟩
  | _ => none

/-- A die caches a translation. -/
def State.cacheLeaf (s : State) (d : Nat) (e : TlbEntry) : State :=
  if d < 8 && !(s.die d).tlb.contains e then s.modDie d fun x => { x with tlb := x.tlb ++ [e] } else s

/-- One byte of an access: its place, or the code of the trap (R227). `scalar8`: a naturally aligned 8-byte scalar
access, which alone reaches the event pages, the core state windows and the scale-out table (R299, R487, R510). -/
def State.placeOf (s : State) (w : Who) (k : Acc) (scalar8 : Bool) (va : Nat) : Except Nat Place :=
  if 2 ^ 56 ≤ va then .error XLATE
  else match if k = .fetch then none else window w.core va with
  | some (c, off) =>
    if spadLimit ≤ off || !(s.core c).allocated (off / 128) then .error LOCALRANGE else .ok (.spad c off)
  | none =>
    if windowBase ≤ va then .error XLATE
    else match s.walk w.ctx va with
    | .none => .error XLATE
    | .poisoned => .error MCHECK
    | .leaf l _ _ =>
      let pa := l.pa + va % l.size
      match s.region pa with
      | none => .error XLATE
      | some r =>
        if !l.permits k w.native then .error PROT
        else match r with
        | .scaleOut _ _ => .error PROT
        | .scaleTable i off => if scalar8 && w.native && (k = .load || k = .store) then .ok (.table i off) else .error PROT
        | .coreWin c off => if scalar8 && w.native && (k = .load || k = .store) then .ok (.coreWin c off) else .error PROT
        | .event cl off =>
          if scalar8 && ((k = .load && off < 0x200) || (k = .store && 0x200 ≤ off && off < 0x400)) then
            .ok (.event cl off)
          else .error PROT
        | _ => match if k = .load then s.scopeOffset w.ctx va else none with
          | some o => .ok (.scope o pa)
          | none => .ok (.mem pa l.mt l.key)

/-- The pieces of va .. va+n-1 within 128-byte lines; `fuel` bounds them. All bytes of a piece lie in one page, one
window and one line. -/
def pieces : Nat → Nat → Nat → List (Nat × Nat)
  | 0, _, _ => []
  | fuel + 1, va, n =>
    if n = 0 then [] else
    let m := min n (128 - va % 128)
    (va, m) :: pieces fuel (va + m) (n - m)

def piecesOf (va n : Nat) : List (Nat × Nat) := pieces (n / 128 + 2) va n

/-- R227 without the read and write sets: the trap, if any, of an access of n bytes aligned to al. -/
def State.accessTrap (s : State) (w : Who) (k : Acc) (scalar8 : Bool) (ea n al : Nat) : Option Trap :=
  if ea % al ≠ 0 then some (memTrap MISALIGN k ea n)
  else (piecesOf ea n).findSome? fun (va, _) =>
    match s.placeOf w k scalar8 va with
    | .error c => some (if c = MCHECK then trapInfo MCHECK 2 else memTrap c k va n)
    | .ok _ => none

/-! ## The directory (R324-R330) -/

def State.modTile (s : State) (base : Nat) (f : Tile → Tile) : State :=
  { s with tiles := s.tiles.map fun t => if t.base = base then f t else t }

def clusterBit (k : Nat) : BitVec 64 := BitVec.ofNat 64 (2 ^ (k % 64))

/-- Merge the buffers of a line that satisfy p; the last leaves state I. -/
def State.mergeBufs (s : State) (line : Nat) (p : Nat → Bool) : State :=
  let l := sget Line.inv s.lines line
  let (go, stay) := l.bufs.partition fun (d, _, _) => p d
  if go.isEmpty then s else
  let mem := go.foldl (fun m (_, mask, val) => mergeBytes m (line * 128) mask val) s.mem
  let l' : Line := { l with bufs := stay, st := if stay.isEmpty then .inv else if stay.length = 1 then l.st else .multi }
  { s with mem := mem, lines := sset Line.inv s.lines line l' }

/-- The sharer bit of an agent: its cluster's, for a core; an agent that is no core is in no cluster (R324). -/
def agentBit (a : Nat) : BitVec 64 := if a < 1024 then clusterBit (clusterOf a) else 0

/-- Table Die-2: the state of a line after a request of agent a (a core below 1,024, or front-end 1024 + die). -/
def Line.after (l : Line) (a : Nat) (k : HomeKind) : Line :=
  match k with
  | .load =>
    match l.st with
    | .inv => if a < 1024 then { l with st := .excl, owner := some a, sharers := agentBit a } else { l with st := .shared }
    | .shared => { l with sharers := l.sharers ||| agentBit a }
    | .excl | .modified | .multi =>
      if l.owner = some a then l
      else { l with st := .shared, owner := none,
                    sharers := agentBit a ||| (match l.owner with | some o => agentBit o | none => 0) }
  | .store => { l with st := .modified, owner := some a, sharers := agentBit a }
  | .atomic => { l with st := .inv, owner := none, sharers := 0 }
  | .engineWrite =>
    { l with st := if 2 ≤ l.bufs.length || l.st = .multi then .multi else .modified, owner := none, sharers := 0 }
  | .engineRead =>
    match l.st with
    | .modified => { l with st := .excl }
    | _ => l

/-- Table Die-4. The host and a peer, for which it has no column, count as a core does, in no cluster (log 64). -/
def Tile.after (t : Tile) (c : Nat) (k : HomeKind) : Tile :=
  let b := agentBit c
  match k with
  | .load =>
    match t.st with
    | .ti => { t with st := .te, owner := some c, sharers := b }
    | .ts => { t with sharers := t.sharers ||| b }
    | .te | .tm =>
      if t.owner = some c then t
      else { t with st := .ts, owner := none,
                    sharers := b ||| (match t.owner with | some o => agentBit o | none => 0) }
    | .tf => { t with sharers := t.sharers ||| b }
  | .store => { t with st := .tm, owner := some c, sharers := b, target := none }
  | .atomic | .engineWrite => { t with st := .ti, owner := none, sharers := 0, target := none }
  | .engineRead =>
    match t.st with
    | .tm => { t with st := .te }
    | _ => t

/-! ## Probes (R339) -/

/-- A copy at a core, of an owner or of a core of a recorded cluster. -/
def copyAt (owner : Option Nat) (sharers : BitVec 64) (c : Nat) : Bool :=
  match owner with
  | some o => o == c
  | none => sharers.getLsbD (clusterOf c)

/-- The agents that home probes before it answers agent a: those that a request of this kind invalidates, recalls or makes
write back. -/
def Line.probes (l : Line) (a : Nat) (k : HomeKind) (x : Nat) : Bool :=
  x ≠ a && (if x < 1024 then copyAt l.owner l.sharers x && l.st ≠ .inv &&
      (match k with | .load => l.st ≠ .shared | .engineRead => l.st = .modified | _ => true)
    else k ≠ .engineWrite && l.bufs.any fun b => 1024 + b.1 == x)

def Tile.probes (t : Tile) (a : Nat) (k : HomeKind) (x : Nat) : Bool :=
  decide (x < 1024) && x ≠ a && copyAt t.owner t.sharers x &&
    (match k with | .load => t.st = .te || t.st = .tm | .engineRead => t.st = .tm | _ => true)

/-- Agents of the sleeping lists that are probed wake (R339). -/
def State.wake (s : State) (probed : Nat → Bool) : State :=
  let l := s.dies.flatMap fun x => x.2.sleeping.filter probed
  if l.isEmpty then s else
  l.foldl (fun s a => if a < 1024 then s.modCore a fun x => { x with gated := false } else s)
    { s with dies := s.dies.map fun (d, x) => (d, { x with sleeping := x.sleeping.filter fun a => !probed a }) }

/-- Memory of another device or of the host is never held in a core's array (R213). -/
def State.arrayHolds (s : State) (a pa : Nat) : Bool := decide (1024 ≤ a) || s.deviceMem pa

/-- R323: home accepts a request for the line of pa by agent a, outside or inside a tile. Buffers are recalled first
for every request but an engine write (R325). -/
def State.homeAccept (s : State) (a pa : Nat) (k : HomeKind) : State :=
  match s.region pa with
  | some .hbm | some .ddr | some (.peer _ _) | some .host =>
    match s.tileAt pa with
    | some t => (s.wake (t.probes a k)).modTile t.base fun t => t.after a k
    | none =>
      let s := s.wake ((sget Line.inv s.lines (pa / 128)).probes a k)
      let s := if k = .engineWrite then s else s.mergeBufs (pa / 128) fun _ => true
      if s.arrayHolds a pa then
        { s with lines := sset Line.inv s.lines (pa / 128) ((sget Line.inv s.lines (pa / 128)).after a k) }
      else s
  | _ => s

/-! ## Ranges of lines and tiles -/

/-- A line overlaps pa .. pa+n-1. -/
def lineIn (pa n line : Nat) : Bool := decide (line * 128 < pa + n) && decide (pa < line * 128 + 128)

/-- Recall every write-combining buffer of a range (R325). -/
def State.recallBufs (s : State) (pa n : Nat) : State :=
  s.lines.foldl (fun s (k, _) => if lineIn pa n k then s.mergeBufs k fun _ => true else s) s

/-- The line entries of a range become those that f gives. -/
def State.mapLines (s : State) (pa n : Nat) (f : Line → Line) : State :=
  { s with lines := s.lines.foldl (fun m (k, l) => if lineIn pa n k then sset Line.inv m k (f l) else m) s.lines }

/-- The tiles that overlap a range. -/
def State.mapTiles (s : State) (pa n : Nat) (f : Tile → Tile) : State :=
  { s with tiles := s.tiles.map fun t => if t.base < pa + n && pa < t.base + t.size then f t else t }

/-- The agent number of a unit of the device that keeps no copy. -/
def unitAgent : Nat := 2048

/-- The agents that a kind of request by such a unit probes for the lines and tiles of a range. -/
def State.rangeProbes (s : State) (pa n : Nat) (k : HomeKind) (x : Nat) : Bool :=
  (s.lines.any fun l => lineIn pa n l.1 && l.2.probes unitAgent k x) ||
    s.tiles.any fun t => decide (t.base < pa + n) && decide (pa < t.base + t.size) && t.probes unitAgent k x

/-- A unit of the device writes a range at its home: no copy is left elsewhere (R323, R330). -/
def State.unitWrites (s : State) (pa n : Nat) : State :=
  (((s.wake (s.rangeProbes pa n .atomic)).recallBufs pa n).mapLines pa n fun l => l.after unitAgent .atomic).mapTiles pa n
    fun t => t.after unitAgent .atomic

/-- A unit of the device reads a range: dirty data is written back first, and no permission is granted. -/
def State.unitReads (s : State) (pa n : Nat) : State :=
  (((s.wake (s.rangeProbes pa n .engineRead)).recallBufs pa n).mapLines pa n fun l => l.after unitAgent .engineRead).mapTiles
    pa n fun t => t.after unitAgent .engineRead

/-! ## TOUCHED (R70) -/

/-- Bits of the dies that serve an access from a core to pa: home's, that of the slice which holds the data, and the tile
home's (R327, R328, R334). -/
def State.touchBits (s : State) (core pa : Nat) : BitVec 10 :=
  let one (i : Nat) : BitVec 10 := BitVec.ofNat 10 (2 ^ i)
  let dram := one (home pa / 16) ||| one (s.dataSlice pa / 16) |||
    (match s.tileAt pa with | some t => one (tileHome t.base / 16) | none => 0)
  match s.region pa with
  | some .hbm => dram
  | some .ddr => dram ||| one 9
  | some (.peer _ _) => one (home pa / 16) ||| one 8
  | some .host => one (home pa / 16) ||| one 9
  | some (.event cl _) => one (dieOfCluster cl)
  | some (.coreWin c _) => one (dieOf c)
  | _ => one (dieOf core)

def State.touch (s : State) (c k : Nat) (b : BitVec 10) : State :=
  s.modSlot c k fun sl => { sl with touched := sl.touched ||| b }

/-! ## Bytes -/

/-- Key of a scratchpad byte in the poison map. -/
def spadKey (core off : Nat) : Nat := 2 ^ 60 + core * 2 ^ 21 + off

/-- A cached translation built from an entry that is written is dropped (R439). -/
def State.dropTlb (s : State) (pa n : Nat) : State :=
  { s with dies := s.dies.map fun (d, x) =>
      (d, { x with tlb := x.tlb.filter fun t => !t.srcs.any fun e => decide (e < pa + n) && decide (pa < e + 8) }) }

/-- R394: a plain write reaches a registered queue's WIDX, and the queue stops with ERR. -/
def State.widxWritten (s : State) (pa n : Nat) : State :=
  { s with queues := s.queues.map fun q =>
      if q.widxPa < pa + n && pa < q.widxPa + 8 then { q with err := true } else q }

/-- Clear poison from bytes written in full (R455). -/
def State.unpoison (s : State) (a n : Nat) : State :=
  { s with poison := s.poison.filter fun (b, _) => !(decide (a ≤ b) && decide (b < a + n)) }

/-- The front-ends whose buffers of a line are recalled wake (R339). -/
def State.wakeFronts (s : State) (line : Nat) : State :=
  let l := (sget Line.inv s.lines line).bufs
  if l.isEmpty then s else
  { s with dies := s.dies.map fun (d, x) =>
      (d, { x with sleeping := x.sleeping.filter fun a => !(l.any fun b => 1024 + b.1 == a) }) }

/-- Write n bytes of v at physical address pa, inside one line, under a key id, with all that a write there means (R325,
R394, R438, R439, R455). -/
def State.writePa (s : State) (pa n v : Nat) (key : Nat := 0) : State :=
  let s := ((s.wakeFronts (pa / 128)).mergeBufs (pa / 128) fun _ => true).freshen pa n key
  (({ s with mem := putBytes s.mem pa v n }.dropTlb pa n).widxWritten pa n).unpoison pa n

/-- Write n bytes of v into a core's scratchpad. -/
def State.writeSpad (s : State) (c off n v : Nat) : State :=
  (s.modCore c fun x => { x with spad := putBytes x.spad off v n }).unpoison (spadKey c off) n

/-- The bytes of a place. -/
def State.readPlace (s : State) (p : Place) (n : Nat) : Nat :=
  match p with
  | .spad c off => bytesAt (s.core c).spad off n
  | .mem pa _ key => s.viewBytes pa n key
  | .scope off _ => s.scopeTable / 256 ^ off % 256 ^ n
  | .table w off => if off = 0 then (sget 0 s.fab.scaleOut w).toNat else 0
  | .coreWin c off =>
    let x := s.core c
    if off < 0x80 then
      let b := x.binding (8 + off / 16)
      if off % 16 = 0 then b.holder else b.dx.toNat + 256 * b.dy.toNat + 65536 * b.rch.toNat
    else if off = 0x80 then
      ([4, 5, 8, 9, 10, 11, 12, 13].foldr (fun p acc => acc * 256 + (x.portWords p).length) 0)
    else if off = 0x88 then (x.portWords 14).length + 256 * (x.portWords 15).length
    else if 0x1000 ≤ off && off < 0x1000 + 8 * 12288 then sget 0 x.owner ((off - 0x1000) / 8)
    else if 0x19000 ≤ off && off < 0x19000 + 12288 then
      ((List.range 8).foldr (fun i acc => acc * 256 + (sget (0 : Byte) x.fe (off - 0x19000 + i)).toNat) 0)
    else 0
  | .event _ _ => 0

/-- Some byte of a place is uncorrectable, or the place cannot be reached (R277, R371, R453). -/
def State.placePoisoned (s : State) (p : Place) (n : Nat) : Bool :=
  match p with
  | .spad c off => s.poisoned (spadKey c off) n || (s.die (dieOf c)).lost
  | .mem pa _ _ => s.poisoned pa n || s.unreachable pa
  | .scope _ pa => s.unreachable pa
  | _ => false

/-- Little-endian value of n bytes at va, and whether some byte is poisoned. -/
def State.readVa (s : State) (w : Who) (k : Acc) (va n : Nat) : Nat × Bool :=
  (piecesOf va n).foldr (fun (a, m) (acc : Nat × Bool) =>
    match s.placeOf w k (n = 8) a with
    | .ok p => (s.readPlace p m + acc.1 * 256 ^ m, acc.2 || s.placePoisoned p m)
    | .error _ => (acc.1 * 256 ^ m, acc.2)) (0, false)

/-- Directory and TOUCHED effects of core c's access to a place, for the continuation whose pair issues. -/
def State.effectsAt (s : State) (c : Nat) (h : HomeKind) (p : Place) : State :=
  match p with
  | .mem pa mt _ =>
    let s := if mt = 0 then s.homeAccept c pa h else s
    s.modCur fun sl => { sl with touched := sl.touched ||| s.touchBits c pa }
  | .scope _ pa => s.modCur fun sl => { sl with touched := sl.touched ||| s.touchBits c pa }
  | .spad x _ => s.modCur fun sl => { sl with touched := sl.touched ||| BitVec.ofNat 10 (2 ^ dieOf x) }
  | _ => s

/-- The same for the lines of a range. -/
def State.lineEffects (s : State) (w : Who) (k : Acc) (h : HomeKind) (va n : Nat) : State :=
  (piecesOf va n).foldl (fun s (a, _) =>
    match s.placeOf w k (n = 8) a with
    | .ok p => s.effectsAt w.core h p
    | .error _ => s) s

/-- Write the low n bytes of v at a place, inside one line; `lost` is what happens where it cannot be reached. -/
def State.writePlace (lost : State → State) (s : State) (p : Place) (n v : Nat) : State :=
  match p with
  | .spad c off => if (s.die (dieOf c)).lost then lost s else s.writeSpad c off n v
  | .mem pa mt key =>
    if s.unreachable pa then lost s
    else
      let s := s.writePa pa n v key
      if mt = 1 then { s with backing := putBytes s.backing pa v n } else s
  | .table i off =>
    if off = 0 then
      { s with fab := { s.fab with scaleOut := sset 0 s.fab.scaleOut i (BitVec.ofNat 64 v &&& 0x800FFF00001FFFFF) } }
    else s
  | _ => s

/-- Write the low n bytes of v at va. -/
def State.writeVaWith (lost : State → State) (s : State) (w : Who) (k : Acc) (va n v : Nat) : State :=
  ((piecesOf va n).foldl (fun (acc : State × Nat) (a, m) =>
    (match acc.1.placeOf w k (n = 8) a with
    | .ok p => acc.1.writePlace lost p m acc.2
    | .error _ => acc.1, acc.2 / 256 ^ m)) (s, v)).1

/-- A failed write is held against the continuation whose pair issues (R371). -/
def State.blame (s : State) : State := s.modCur fun sl => { sl with failedNr := true }

/-- A write by the continuation whose pair issues; one that cannot be completed is held against it (R371). -/
def State.writeVa (s : State) (w : Who) (k : Acc) (va n v : Nat) : State := s.writeVaWith State.blame w k va n v

/-- Device accesses at supervisor level to structures of a context (R60): the bytes, or the trap code and address. -/
def State.devRead (s : State) (ctx va n : Nat) : Except (Nat × Nat) Nat :=
  match (piecesOf va n).findSome? fun (a, _) => match s.placeOf ⟨ctx, true, 0⟩ .load false a with
    | .error c => some (c, a) | .ok _ => none with
  | some e => .error e
  | none => .ok (s.readVa ⟨ctx, true, 0⟩ .load va n).1

def State.devWritable (s : State) (ctx va n : Nat) : Option (Nat × Nat) :=
  (piecesOf va n).findSome? fun (a, _) => match s.placeOf ⟨ctx, true, 0⟩ .store false a with
    | .error c => some (c, a) | .ok _ => none

/-- The device's own accesses reach the directory as well (R323). -/
def State.devEffects (s : State) (f : State → Nat → Nat → State) (k : Acc) (ctx va n : Nat) : State :=
  (piecesOf va n).foldl (fun s (a, m) => match s.placeOf ⟨ctx, true, 0⟩ k false a with
    | .ok (.mem pa 0 _) => f s pa m
    | _ => s) s

def State.devWrite (s : State) (ctx va n v : Nat) : State :=
  (s.devEffects State.unitWrites .store ctx va n).writeVaWith id ⟨ctx, true, 0⟩ .store va n v

/-- The bytes, or zero where they cannot be read. -/
def State.devGet (s : State) (ctx va n : Nat) : Nat := (s.readVa ⟨ctx, true, 0⟩ .load va n).1

/-- The key id of a mapped virtual address (R438). -/
def State.keyAt (s : State) (ctx va : Nat) : Nat :=
  match s.walk ctx va with
  | .leaf l _ _ => l.key
  | _ => 0

/-- The physical address of a mapped virtual address. -/
def State.physOf (s : State) (ctx va : Nat) : Option Nat :=
  match s.walk ctx va with
  | .leaf l _ _ => some (l.pa + va % l.size)
  | _ => none

end Sys2Proof.Machine
end

