-- ==== Sys2Proof/Machine/Rmw.lean ====
section
/-!
DEFINITION. Read-modify-writes (R363-R378): the modify operations, the operation at its serialisation point, what a
proxy has accepted (R370, R371), and when it has carried it out (R143, R359).
-/
namespace Sys2Proof.Machine

/-! ## The modify operations (R372-R375) -/

/-- R374: each half of a packed format alone. -/
def famoWord (t : FFmt) (op m v : Nat) : Nat :=
  match t with
  | .bf16 => BF16.amo op m v
  | .f32 => F32.amo op m v
  | .f64 => F64.amo op m v
  | .bf16x2 => BF16.amo op (m % 2 ^ 16) (v % 2 ^ 16) + 2 ^ 16 * BF16.amo op (m / 2 ^ 16) (v / 2 ^ 16)
  | .f32x2 => F32.amo op (m % 2 ^ 32) (v % 2 ^ 32) + 2 ^ 32 * F32.amo op (m / 2 ^ 32) (v / 2 ^ 32)

/-- The new value of w bits, and whether it is written: false only for a `cas` that fails. -/
def rmw (op : RmwOp) (w m v : Nat) : Nat × Bool :=
  match op with
  | .add => ((m + v) % 2 ^ w, true)
  | .and => (m &&& v, true)
  | .or => (m ||| v, true)
  | .xor => (m ^^^ v, true)
  | .smin => (if toSigned w v < toSigned w m then v else m, true)
  | .smax => (if toSigned w m < toSigned w v then v else m, true)
  | .nmin => (min m v, true)
  | .nmax => (max m v, true)
  | .swap => (v, true)
  | .fadd t => (famoWord t 0 m v, true)
  | .fmin t => (famoWord t 1 m v, true)
  | .fmax t => (famoWord t 2 m v, true)
  | .cas e => if m = e then (v, true) else (m, false)

/-! ## At the serialisation point (R366-R369) -/

/-- One read-modify-write at a place, indivisibly: the old value and whether it wrote. `spurious`: a speculative
operation that fails of itself writes nothing. A 64-bit add may reach a queue's WIDX (R394). -/
def State.rmwPlace (s : State) (p : Place) (w : Nat) (op : RmwOp) (v : Nat) (spurious : Bool) : State × Nat × Bool :=
  let n := w / 8
  let m := s.readPlace p n
  let (r, wr) := rmw op w m (v % 2 ^ w)
  let s' := if !wr || spurious then s
    else match p with
    | .spad c off => s.writeSpad c off n r
    | .mem pa mt key =>
      let t := s.writePa pa n r key
      let t := if op = .add && w = 64 then { t with queues := s.queues } else t
      if mt = 1 then { t with backing := putBytes t.backing pa r n } else t
    | _ => s
  (s', m, wr && !spurious)

/-- The status of a speculative operation (R376). -/
def speculativeStatus (spurious wrote : Bool) : Nat := if spurious then 2 else if wrote then 0 else 1

/-- R370: memory for which a proxy carries the atomic out. -/
def State.proxied (s : State) : Place → Bool
  | .mem pa mt _ => mt = 1 || (match s.region pa with | some .host | some (.peer _ _) => true | _ => false)
  | _ => false

/-- Change what a record holds on a core, in its slot there or in the image kept of it; the members of a placed gang stand
on different cores. -/
def State.onRecord (s : State) (core ctx idx : Nat) (f : Slot → Slot) : State :=
  let fix (c : Nat) (sl : Slot) : Slot := if c = core && sl.ctx = ctx && sl.idx = idx then f sl else sl
  { s.mapSlots (fun c _ sl => fix c sl) with
    suspended := s.suspended.map fun u => { u with img := fix u.core u.img, others := u.others.map fun x => (x.1, fix x.1 x.2) } }

/-- Change the parts of an owed result. -/
def Slot.fillPending (id : Nat) (f : Pending → Pending) (sl : Slot) : Slot :=
  { sl with pending := sl.pending.map fun p => if p.id = id then f p else p }

/-- The values that an atomic's old value gives to D and lc: the low word, or the high one in the second part, and lc. -/
def filled (w old : Nat) (status : Option Nat) (poison : Bool) (p : Pending) : Pending :=
  { p with val := BitVec.ofNat 2048 (if p.part = 0 then old % 2 ^ min w 64 else old / 2 ^ 64), poison := poison,
           latchVal := ⟨BitVec.ofNat 2048 (match status with | some n => n | none => old), 0⟩ }

/-- The failure of a no-return atomic is held against its continuation (R371): for its next release, or, of a non-ordering
one, for its next `fence.seq` (R356). -/
def Slot.holdFailure (nor : Bool) (sl : Slot) : Slot :=
  if nor then { sl with failedNor := true } else { sl with failedNr := true }

/-- Perform the operation of a request and fill in its result; what cannot be completed writes nothing, and its result
is poisoned or its failure is held (R371). -/
def State.perform (s : State) (q : ProxyReq) (p : Place) : State :=
  if s.placePoisoned p (q.w / 8) then
    match q.pend with
    | some id => s.onRecord q.core q.ctx q.idx (Slot.fillPending id (filled q.w 0 none true))
    | none => s.onRecord q.core q.ctx q.idx (Slot.holdFailure q.nor)
  else
    let (s, m, wrote) := s.rmwPlace p q.w q.op q.v (q.spurious.getD false)
    match q.pend with
    | none => s
    | some id => s.onRecord q.core q.ctx q.idx (Slot.fillPending id (filled q.w ((m + q.bias) % 2 ^ q.w)
        (q.spurious.map fun sp => speculativeStatus sp wrote) false))

/-- The proxy of an address, the one of the die `home(pa) div 16`, cannot carry an atomic out: its die is lost, or the host
refuses the ownership of the line (R370, R371, R453). -/
def State.proxyFails (s : State) (pa : Nat) : Bool :=
  (s.die (home pa / 16)).lost || (s.region pa = some .host && Config.ownershipRefused s.freeCtr)

/-- The proxy carries a request out. -/
def State.carryOut (s : State) (q : ProxyReq) : State :=
  if s.proxyFails q.pa then
    (match q.pend with
    | some id => s.onRecord q.core q.ctx q.idx (Slot.fillPending id (filled q.w 0 none true))
    | none => s.onRecord q.core q.ctx q.idx (Slot.holdFailure q.nor)).bump
  else (s.perform q (.mem q.pa (if s.deviceMem q.pa then 1 else 0) q.key)).bump

/-- A request stands in front of another: its line is the same, and a proxy takes the atomics to one line in the order in
which it accepted them (R370). -/
def ProxyReq.sameLine (p q : ProxyReq) : Bool := p.pa / 128 == q.pa / 128

/-- The requests chosen are carried out, in order, each behind the earlier ones to its line. -/
def State.carryOutAll (s : State) (mine : ProxyReq → Bool) : State :=
  let go (q : ProxyReq) : Bool := mine q || s.reqs.any fun p => mine p && p.sameLine q
  (s.reqs.filter go).foldl State.carryOut { s with reqs := s.reqs.filter fun q => !go q }

/-- Every atomic that a record has posted is carried out: its release waits for that (R359). For a non-ordering one only
`fence.seq` does, and the end of its stay (R356). -/
def State.acceptReqs (s : State) (ctx idx : Nat) (nor : Bool) : State :=
  if s.reqs.isEmpty then s else s.carryOutAll fun q => q.ctx == ctx && q.idx == idx && (nor || !q.nor)

/-- An access of a record comes after the atomics that it has posted to the same line (R143). -/
def State.acceptLine (s : State) (ctx idx pa : Nat) : State :=
  if s.reqs.isEmpty then s else s.carryOutAll fun q => q.ctx == ctx && q.idx == idx && q.pa / 128 == pa / 128

/-- The same for the lines of a range of addresses. -/
def State.acceptRange (s : State) (ctx idx va n : Nat) : State :=
  if s.reqs.isEmpty then s else
  (piecesOf va n).foldl (fun s (a, _) => match s.physOf ctx a with
    | some pa => s.acceptLine ctx idx pa
    | none => s) s

/-- A request goes to the proxy, or is performed at once at its serialisation point (R367). -/
def State.send (s : State) (q : ProxyReq) (p : Place) : State :=
  if s.proxied p then { s with reqs := s.reqs ++ [q] } else s.perform q p

/-- The physical address of a place in memory. -/
def Place.pa : Place → Nat
  | .mem pa _ _ => pa
  | _ => 0

/-- Its key id. -/
def Place.key : Place → Nat
  | .mem _ _ key => key
  | _ => 0

end Sys2Proof.Machine
end

