-- ==== Sys2Proof/Machine/Records.lean ====
section
/-!
DEFINITION. Trap records and the trap queue (R273, R441-R445), and continuation records, the pool, frames and domain
descriptors in memory (R53-R61, R73, R304), with the ready chains.
-/
namespace Sys2Proof.Machine

/-- The lowest-numbered compute die that is not lost. -/
def State.liveDie (s : State) : Nat := ((List.range 8).find? fun d => !(s.die d).lost).getD 0

/-- A die, or the one that took over its duties (R453). -/
def State.dieFor (s : State) (d : Nat) : Nat := if (s.die d).lost then s.liveDie else d

/-! ## Trap records (R273) and the trap queue (R441-R445) -/

/-- Table Traps-2. -/
def trapRecord (t : Trap) (aslot virt gang : Bool) (member slot core : Nat) (recAddr vpc npc rmap ltime : Nat) :
    BitVec 512 :=
  BitVec.ofNat 512 (t.code + b2n t.fatal * 2 ^ 8 + b2n aslot * 2 ^ 9 + b2n virt * 2 ^ 10 + b2n gang * 2 ^ 11
    + member * 2 ^ 16 + slot * 2 ^ 20 + core * 2 ^ 32 + recAddr % 2 ^ 64 * 2 ^ 64 + vpc % 2 ^ 64 * 2 ^ 128
    + npc % 2 ^ 64 * 2 ^ 192 + t.addr % 2 ^ 64 * 2 ^ 256 + t.info % 2 ^ 64 * 2 ^ 320 + rmap % 2 ^ 64 * 2 ^ 384
    + ltime % 2 ^ 64 * 2 ^ 448)

/-- The free count F of R443. -/
def trapFree (n widx ridx : Nat) : Nat :=
  let d := (widx + 2 ^ 64 - ridx) % 2 ^ 64
  if d ≤ n then n - d else 0

/-- R477: a condition raises its vector, unless it still stands unread. -/
def State.raiseVector (s : State) (v : Nat) : State :=
  s.modPkg fun p => if p.vectors.contains v then p
    else { p with vectors := p.vectors ++ [v], raised := p.raised ++ [v] }

/-- R443: one trap record at a die. The Bool says whether it found a place (a slot of the ring or OVFREC). -/
def State.tryAppend (s : State) (d : Nat) (h : HeldTrap) : State × Bool :=
  match (s.die d).trapq with
  | none => (s, false)
  | some q =>
    let va := q.base.toNat
    let hd := s.devGet q.ctx va 64
    let n := 2 ^ q.log2n
    let widx := bits hd 63 0
    let f := trapFree n widx (bits hd 127 64)
    if (!h.fatal && 4 < f) || (h.fatal && 0 < f) then
      let s := s.devWrite q.ctx (va + 128 + 64 * (widx % n)) 64 h.words.toNat
      (s.devWrite q.ctx va 8 (widx + 1), true)
    else if h.fatal && !(s.die d).ovf then
      let s := s.devWrite q.ctx (va + 64) 64 h.words.toNat
      let s := s.devWrite q.ctx (va + 17) 1 1
      ((s.modDie d fun x => { x with ovf := true }).raiseVector (1 + d), true)
    else (s, false)

/-- PENDING in the header is the number of records held (R442, R443). -/
def State.writePending (s : State) (d : Nat) : State :=
  match (s.die d).trapq with
  | none => s
  | some q => s.devWrite q.ctx (q.base.toNat + 24) 2 (min (s.die d).held.length 65535)

/-- R443: append a trap record, to OVFREC or to the held ones if need be. A record does not overtake one of its own
kind that is held (R444). -/
def State.appendTrap (s : State) (d0 : Nat) (fatal : Bool) (t : BitVec 512) : State :=
  let d := s.dieFor d0
  let h : HeldTrap := ⟨fatal, t⟩
  let behind := (s.die d).held.any fun x => x.fatal == fatal
  let (s', ok) := if behind then (s, false) else s.tryAppend d h
  if ok then s'
  else (s.modDie d fun x => { x with held := x.held ++ [h] }).writePending d

/-- R444: the held records of one kind, in order, until one does not fit. -/
def State.drainKind (d : Nat) (fatal : Bool) : Nat → State → State
  | 0, s => s
  | n + 1, s =>
    match (s.die d).held.find? fun x => x.fatal == fatal with
    | none => s
    | some h =>
      let (s', ok) := s.tryAppend d h
      if ok then drainKind d fatal n ((s'.modDie d fun x => { x with held := x.held.erase h }).writePending d) else s

/-- R444: held fatal records first, then held replayable ones. -/
def State.drainHeld (s : State) (d : Nat) : State :=
  let n := (s.die d).held.length
  (State.drainKind d false n (State.drainKind d true n s)).writePending d

/-! ## The record (Tables Continuation-1, Continuation-2); a record is a 512-bit number -/

def recVpc (r : Nat) : Nat := bits r 63 0
def recFrame (r : Nat) : Nat := bits r 127 64
def recArgs (r : Nat) : Nat := bits r 191 128
def recDom (r : Nat) : Nat := bits r 223 192
def recCtl (r : Nat) : Nat := bits r 239 224
def recPrio (r : Nat) : Nat := bits r 228 224
def recGang (r : Nat) : Nat := bits r 231 229
def recMatrix (r : Nat) : Bool := bit r 232
def recPinned (r : Nat) : Bool := bit r 233
def recState (r : Nat) : Nat := bits r 236 234
def recTouched (r : Nat) : Nat := bits r 255 240
def recKey (r j : Nat) : Nat := bits r (256 + 32 * j + 31) (256 + 32 * j)
def recKeys (r : Nat) : List Nat := [recKey r 0, recKey r 1, recKey r 2, recKey r 3]
def recWake (r : Nat) : Nat := bits r 447 384
def recWakeType (r : Nat) : Nat := bits r 447 444
def recLink (r : Nat) : Nat := bits r 479 448
def recGen (r : Nat) : Nat := bits r 495 480
def recChk (r : Nat) : Nat := bits r 511 496
def setState (r v : Nat) : Nat := putBits r 236 234 v
def setWake (r v : Nat) : Nat := putBits r 447 384 v

/-- The different non-zero keys of a record (R71). -/
def keysOf (r : Nat) : List Nat := (recKeys r).filter (· ≠ 0) |>.eraseDups

/-- One bit of the CRC-16-CCITT register (R56). -/
def crcShift (c : Nat) : Nat := if 0x8000 ≤ c then (c * 2 % 65536) ^^^ 0x1021 else c * 2 % 65536

def crcByte (c b : Nat) : Nat := (List.range 8).foldl (fun c _ => crcShift c) (c ^^^ (b * 256))

/-- CRC-16-CCITT of the low n bytes of r, initial value 0xFFFF (R56). -/
def crc16 (r n : Nat) : Nat := (List.range n).foldl (fun c i => crcByte c (r / 256 ^ i % 256)) 0xFFFF

/-- The record with its CHK as R56 computes it. -/
def sealRec (r : Nat) : Nat := putBits r 511 496 (crc16 r 62)

/-- R60: a page of a context's pool, domain table or frames has lost its translation. A fatal XLATE is appended for the
context; it names the record at index idx (log 72). -/
def State.poolLost (s : State) (ctx idx a : Nat) : State :=
  let t : Trap := ⟨XLATE, memInfo 1 a 64, a, true⟩
  s.appendTrap (dieOf s.issue.core) true (trapRecord t false false false 0 (s.issue.slot % 8) s.issue.core
    ((s.ctx ctx).contpool.toNat + 64 * idx) 0 0 0 (s.ltime none none))

/-- The device writes n bytes of a structure of R60 on behalf of a record. -/
def State.poolWrite (s : State) (ctx idx va n v : Nat) : State :=
  match s.devWritable ctx va n with
  | some (_, a) => s.poolLost ctx idx a
  | none => s.devWrite ctx va n v

def State.recVa (s : State) (ctx idx : Nat) : Nat := (s.ctx ctx).contpool.toNat + 64 * idx
def State.readRec (s : State) (ctx idx : Nat) : Nat := s.devGet ctx (s.recVa ctx idx) 64
def State.writeRec (s : State) (ctx idx r : Nat) : State := s.poolWrite ctx idx (s.recVa ctx idx) 64 (sealRec r)
def State.modRec (s : State) (ctx idx : Nat) (f : Nat → Nat) : State := s.writeRec ctx idx (f (s.readRec ctx idx))
/-- The header of a pool, record 0 (Table Continuation-3); it carries no CHK. -/
def State.pool (s : State) (ctx : Nat) : Nat := s.readRec ctx 0
def State.putPool (s : State) (ctx v : Nat) : State := s.poolWrite ctx 0 (s.recVa ctx 0) 64 v

/-- R59: the head of the free chain, its GEN raised; 0 and FAILS raised when the chain is empty. -/
def State.allocRec (s : State) (ctx : Nat) : State × Nat :=
  let h := s.pool ctx
  let i := bits h 63 32
  if i = 0 then (s.putPool ctx (putBits h 127 96 (min (bits h 127 96 + 1) (2 ^ 32 - 1))), 0)
  else
    let r := s.readRec ctx i
    let s := s.putPool ctx (putBits (putBits h 63 32 (recLink r)) 95 64 (bits h 95 64 - 1))
    (s.writeRec ctx i (putBits (putBits r 495 480 (recGen r + 1)) 479 448 0), i)

/-- R59: back to the head of the free chain, every other field at its Reset value. -/
def State.freeRec (s : State) (ctx i : Nat) : State :=
  let h := s.pool ctx
  let r := s.readRec ctx i
  let base := bits h 191 128 + i * bits h 223 192
  let clean := putBits (putBits (putBits 0 495 480 (recGen r)) 479 448 (bits h 63 32)) 127 64 base
  let s := s.writeRec ctx i clean
  s.putPool ctx (putBits (putBits h 63 32 i) 95 64 (bits h 95 64 + 1))

def State.frameStride (s : State) (ctx : Nat) : Nat := bits (s.pool ctx) 223 192

/-! ## Frames (Table Continuation-4) -/

def State.frameHdr (s : State) (ctx frame : Nat) : Nat := s.devGet ctx frame 64
def State.putFrame (s : State) (ctx idx frame v : Nat) : State := s.poolWrite ctx idx frame 64 v

/-- The header that saves a slot's CSRs, with what it records besides. -/
def frameOf (core spill phase0 waitarg : Nat) (c : Csrs) (time : Nat) : Nat :=
  spill % 2 ^ 32 + phase0 % 2 ^ 32 * 2 ^ 32 + core % 1024 * 2 ^ 64 + waitarg % 2 ^ 64 * 2 ^ 128
  + time % 2 ^ 64 * 2 ^ 192 + c.flags.toNat * 2 ^ 256 + c.ftrap.toNat * 2 ^ 264 + c.fctl.toNat * 2 ^ 272
  + c.chk.toNat * 2 ^ 280 + c.lead.toNat * 2 ^ 288 + c.quant.toNat * 2 ^ 320 + c.xflast.toNat * 2 ^ 352

/-- The CSRs that a frame header saves (R124 step 3). -/
def csrsOfFrame (h : Nat) (domm : List (Nat × Half)) : Csrs :=
  { flags := BitVec.ofNat 8 (bits h 263 256), ftrap := BitVec.ofNat 8 (bits h 271 264),
    fctl := BitVec.ofNat 3 (bits h 279 272), chk := BitVec.ofNat 2 (bits h 287 280),
    lead := BitVec.ofNat 4 (bits h 295 288), quant := BitVec.ofNat 16 (bits h 351 320),
    time := BitVec.ofNat 64 (bits h 255 192), xflast := BitVec.ofNat 34 (bits h 385 352), domm := domm }

/-! ## Domains (R73, R304) -/

def domLevel (d : Nat) : Nat := bits d 130 128
def domParent (d : Nat) : Nat := bits d 127 96
def domMembers (d : Nat) : Nat := bits d 95 64
def domArrived (d : Nat) : Nat := bits d 63 32
def domPhase (d : Nat) : Nat := bits d 31 0
def domUp (d : Nat) : Bool := bit d 131
def domWaitUp (d : Nat) : Bool := bit d 132
def domPdev (d : Nat) : Nat := bits d 180 160

def State.domVa (s : State) (ctx i : Nat) : Nat := bits (s.pool ctx) 319 256 + 64 * i
/-- R60: a place of the pool, a frame or the domain table that the device cannot translate, as the fatal XLATE of the
continuation that it acts for (log 72). -/
def State.hole (s : State) (ctx va n : Nat) : Option Trap :=
  (s.devWritable ctx va n).map fun x => ⟨XLATE, memInfo 1 x.2 64, x.2, true⟩

/-- The same for the pool's header, and for a descriptor. -/
def State.poolHole (s : State) (ctx : Nat) : Option Trap := s.hole ctx (s.recVa ctx 0) 64
def State.domHole (s : State) (ctx i : Nat) : Option Trap :=
  (s.poolHole ctx).orElse fun _ => s.hole ctx (s.domVa ctx i) 64

def State.domain (s : State) (ctx i : Nat) : Nat := s.devGet ctx (s.domVa ctx i) 64
def State.putDomain (s : State) (ctx i v : Nat) : State := s.poolWrite ctx 0 (s.domVa ctx i) 64 v

/-- PARENT as the walk of R73 takes it: 0 when the parent is in another device's table (R305). -/
def State.parentOf (s : State) (d : Nat) : Nat := if domPdev d = s.pkg.devId.toNat then domParent d else 0

/-- The domain chain from DOM (R73): the index at each level met; none when it is not well formed. -/
def State.domChain (s : State) (ctx count : Nat) : Nat → Nat → Nat → Option (List (Nat × Half))
  | 0, _, i => if i = 0 then some [] else none
  | n + 1, lo, i =>
    if i = 0 then some []
    else if count ≤ i then none
    else
      let d := s.domain ctx i
      if domLevel d < lo then none
      else match s.domChain ctx count n (domLevel d + 1) (s.parentOf d) with
        | none => none
        | some l => some ((domLevel d, BitVec.ofNat 32 i) :: l)

/-- R60: the first place of the chain from DOM that has no translation. -/
def State.lostDomain (s : State) (ctx count : Nat) : Nat → Nat → Option Nat
  | 0, _ => none
  | n + 1, i =>
    if i = 0 || count ≤ i then none
    else match s.devWritable ctx (s.domVa ctx i) 64 with
      | some (_, a) => some a
      | none => s.lostDomain ctx count n (s.parentOf (s.domain ctx i))

def State.domms (s : State) (ctx dom : Nat) : Option (List (Nat × Half)) :=
  s.domChain ctx (bits (s.pool ctx) 351 320) 8 0 dom

/-! ## Ready chains (R76, R412) -/

def State.setLink (s : State) (r : RecId) (n : Nat) : State :=
  if recLink (s.readRec r.ctx r.idx) = n then s else s.modRec r.ctx r.idx fun x => putBits x 479 448 n

/-- LINK of the records of a chain: the index of the next one, 0 in the last (R53). -/
def State.linkChain (s : State) : List RecId → State
  | [] => s
  | r :: l => (s.setLink r (match l with | [] => 0 | q :: _ => q.idx)).linkChain l

/-- A record joins the tail (or, after an eviction, the head) of a die's ready chain at its priority. -/
def State.makeReady (s : State) (d prio : Nat) (r : RecId) (head : Bool) : State :=
  let l := sget [] (s.die d).ready prio
  let l := if head then r :: l else l ++ [r]
  (s.modDie d fun x => { x with ready := sput x.ready prio l }).linkChain l

/-- The ready chains that hold a record. -/
def State.chainsOf (s : State) (r : RecId) : List (List RecId) :=
  s.dies.flatMap fun (_, x) => (x.ready.map Prod.snd).filter fun l => l.contains r

/-- The record leaves every ready chain. -/
def State.unchain (s : State) (r : RecId) : State :=
  let ls := s.chainsOf r
  let s := { s with gangSince := s.gangSince.filter (fun x => x.1 ≠ r), headed := s.headed.filter (· ≠ r), dies := s.dies.map fun (d, x) =>
      (d, { x with ready := x.ready.map fun (p, l) => (p, l.filter (· ≠ r)) }) }
  if ls.isEmpty then s else (ls.foldl (fun s l => s.linkChain (l.filter (· ≠ r))) s).setLink r 0

/-- The die whose ready chain holds a record. -/
def State.chainDie (s : State) (r : RecId) : Option Nat :=
  (s.dies.find? fun (_, x) => x.ready.any fun (_, l) => l.contains r).map Prod.fst

end Sys2Proof.Machine
end

