-- ==== Sys2Proof/Machine/Save.lean ====
section
/-!
DEFINITION. The save area (R446-R452): containers as bytes, what each cause writes, and what a restore reads.
-/
namespace Sys2Proof.Machine

/-! ## Translations (R427): the pair a slot runs -/

/-- The translation at a native base address on a die. -/
def State.translationAt (s : State) (base : Nat) : Option TransSpec :=
  (s.translations.find? fun (_, _, t) => t.base == base).map fun (_, _, t) => t

/-- The translation that a slot runs. -/
def State.running (s : State) (sl : Slot) : Option TransSpec := sl.virt.bind fun v => s.translationAt v.base

/-- The pair of a slot's translation at pc. -/
def State.tpair (s : State) (sl : Slot) (pc : Nat) : Option TPair :=
  match sl.virt with
  | none => none
  | some v => if pc < v.base then none else (s.translationAt v.base).bind fun t => t.pairs[(pc - v.base) / 8]?

/-- The first number of the registers that no native file holds: one of a body that declares more than the files have
keeps its value under such a number (log 84). -/
def hiddenReg : Nat := 2 ^ 20

/-! ## Fields -/

/-- A field: TAG, RULE, MEMBER, payload (Table Failures-4). -/
structure Field where
  tag : Nat
  rule : Nat
  member : Nat
  data : List Byte
  deriving DecidableEq, Repr

def pad8 (l : List Byte) : List Byte := l ++ List.replicate ((8 - l.length % 8) % 8) 0

def Field.bytes (f : Field) : List Byte :=
  leBytes 8 (f.tag + f.rule * 2 ^ 16 + f.member * 2 ^ 28 + f.data.length * 2 ^ 32) ++ pad8 f.data

/-- R449: header and fields. -/
def containerBytes (cause members recAddr : Nat) (fs : List Field) : List Byte :=
  let body := fs.flatMap Field.bytes
  leBytes 64 (0x56415343 + Config.containerRev * 2 ^ 32 + recAddr * 2 ^ 64 + (64 + body.length) * 2 ^ 128
    + members * 2 ^ 160 + cause * 2 ^ 168) ++ body

def vregBytes (r : Regs) (ns : List Nat) : List Byte :=
  ns.flatMap (fun n => leBytes 256 (r.vr n).val.toNat) ++ ns.map fun n => (r.vr n).tag.setWidth 8

/-- The native registers, latches and CSRs of a slot (Table Failures-5, tags 0x0001-0x0006). `time` is TIME now. -/
def nativeFields (member : Nat) (sl : Slot) (time : Nat) : List Field :=
  let r := sl.regs
  [ ⟨1, 2, member, (List.range 32).flatMap fun n => leBytes 8 (r.sr n).toNat⟩,
    ⟨2, 2, member, vregBytes r (List.range 32)⟩,
    ⟨3, 2, member, vregBytes r ((List.range 8).map (· + 32))⟩,
    ⟨4, 2, member, (List.range 8).flatMap fun n => leBytes 16 (r.pr n).toNat⟩,
    ⟨5, 2, member, leBytes 256 r.la.val.toNat ++ leBytes 256 r.lc.val.toNat
      ++ [r.la.tag.setWidth 8, r.lc.tag.setWidth 8, 0, 0, 0, 0, 0, 0]⟩,
    ⟨6, 1, member, [sl.csrs.flags.toNat, sl.csrs.ftrap.toNat, sl.csrs.fctl.toNat, sl.csrs.chk.toNat,
      sl.csrs.lead.toNat, sl.csrs.quant.toNat, time, sl.csrs.xflast.toNat].flatMap (leBytes 8)⟩ ]

def npcField (member npc : Nat) : Field := ⟨7, 3, member, leBytes 8 npc⟩

/-- R451: the Nalfen registers held in s, v, o and p registers. -/
def virtField (member : Nat) (r : Regs) (live : List CarryLoc) : Field :=
  let held := live.filter fun c => c.kind = 1 || c.kind = 2 || c.kind = 3
  ⟨8, 0, member, leBytes 8 held.length ++ held.flatMap fun c =>
    let (tag, n, v) : Nat × Nat × Nat := match c.kind with
      | 1 => (0, 8, (r.sr c.loc).toNat)
      | 2 => ((r.vr c.loc).tag.toNat, 256, (r.vr c.loc).val.toNat)
      | _ => (0, 16, (r.pr c.loc).toNat)
    leBytes 8 (n + tag * 2 ^ 32 + c.kind * 2 ^ 40 + c.vreg * 2 ^ 44) ++ leBytes n v⟩

/-- Bytes that one line of one 32-element block occupies (R243). -/
def blockBytes (fmt : Nat) : Nat := if fmt = 31 then 16 else if fmt = 12 then 64 else 32
def scaledFmt (fmt : Nat) : Bool := fmt = 31 || fmt = 29

def ADesc.num (d : ADesc) : Nat :=
  d.addr.toNat + d.sbase.toNat * 2 ^ 64 + d.k * 2 ^ 128 + 64 * 2 ^ 144 + d.fmt * 2 ^ 152 + d.band.toNat * 2 ^ 160

/-- The matrix state of an owner (tags 0x0010-0x0012). -/
def matrixFields (member : Nat) (x : Core) : List Field :=
  let tiles := (dense (0 : Half) x.tiles 0 (16 * 4096)).flatMap fun h => leBytes 4 h.toNat
  let tags := (List.range 16).map fun n => (sget (10 : Tag) x.tileTags n).setWidth 8
  let descs := (List.range 4).flatMap fun n => match sget none x.adesc n with
    | none => List.replicate 32 0
    | some d => leBytes 32 d.num
  let cur := match x.cur with
    | none => List.replicate 16 0
    | some t =>
      let nb := ceilDiv t.k 32
      leBytes 16 (t.fmt + t.k * 2 ^ 16 + t.band.toNat * 2 ^ 32 + 2 ^ 64)
        ++ dense 0 t.data 0 (nb * 64 * blockBytes t.fmt)
        ++ (if scaledFmt t.fmt then dense 0 t.scales 0 (nb * 256) else [])
  [⟨0x10, 0, member, tiles ++ tags⟩, ⟨0x11, 0, member, descs ++ cur⟩, ⟨0x12, 2, member, leBytes 8 x.rpl.toNat⟩]

/-! ## Writing -/

def State.stride (s : State) (ctx : Nat) : Nat := bits (s.devGet ctx (s.ctx ctx).savebase.toNat 64) 95 64
def State.containerVa (s : State) (ctx idx : Nat) : Nat := (s.ctx ctx).savebase.toNat + idx * s.stride ctx

/-- Write a run of bytes at va, page by page. -/
def State.devWriteBytes (s : State) (ctx : Nat) : Nat → Nat → List Byte → State
  | 0, _, _ => s
  | n + 1, va, l =>
    if l.isEmpty then s else
    let m := 65536 - va % 65536
    let here := l.take m
    let s := match s.physOf ctx va with
      | some pa =>
        let s := (s.unitWrites pa here.length).freshen pa here.length (s.keyAt ctx va)
        (({ s with mem := splice s.mem pa here }.dropTlb pa here.length).widxWritten pa here.length).unpoison pa here.length
      | none => s
    s.devWriteBytes ctx n (va + m) (l.drop m)

/-- The first address of a run that a supervisor store cannot reach, with the trap code. -/
def State.runFault (s : State) (ctx : Nat) : Nat → Nat → Nat → Option (Nat × Nat)
  | 0, _, _ => none
  | n + 1, va, len =>
    if len = 0 then none else
    match s.devWritable ctx va 1 with
    | some e => some e
    | none => s.runFault ctx n (va + (65536 - va % 65536)) (len - (65536 - va % 65536))

/-- The container of a record is its own; `map` is the recovery map of a trap. -/
def State.markSaved (s : State) (r : RecId) (map : List CarryLoc) : State :=
  { s with saved := s.saved.filter (fun x => x.1 ≠ r) ++ [(r, map)] }

/-- R448: the container of a record; an error is the address at which the save faults. -/
def State.saveContainer (s : State) (ctx idx cause members recAddr : Nat) (fs : List Field) (map : List CarryLoc := []) :
    Except Nat State :=
  let va := s.containerVa ctx idx
  if !(s.ctx ctx).saveOk then .error (s.ctx ctx).savebase.toNat
  else
    let l := containerBytes cause members recAddr fs
    match s.runFault ctx (l.length / 65536 + 2) va l.length with
    | some (_, a) => .error a
    | none => .ok ((s.devWriteBytes ctx (l.length / 65536 + 2) va l).markSaved ⟨ctx, idx⟩ map)

/-! ## Reading -/

def State.devBytes (s : State) (ctx va n : Nat) : List Byte := leBytes n (s.devGet ctx va n)

/-- The fields of a container, from offset `off` to `endOff`. -/
def State.readFields (s : State) (ctx va : Nat) : Nat → Nat → Nat → List Field
  | 0, _, _ => []
  | n + 1, off, endOff =>
    if endOff ≤ off then [] else
    let h := s.devGet ctx (va + off) 8
    let len := bits h 63 32
    ⟨bits h 15 0, bits h 17 16, bits h 31 28, s.devBytes ctx (va + off + 8) len⟩
      :: s.readFields ctx va n (off + 8 + (len + 7) / 8 * 8) endOff

/-- The header of a record's container. -/
def State.containerHdr (s : State) (ctx idx : Nat) : Nat := s.devGet ctx (s.containerVa ctx idx) 64
def hdrMagic (h : Nat) : Nat := bits h 31 0
def hdrRev (h : Nat) : Nat := bits h 47 32
def hdrCause (h : Nat) : Nat := bits h 175 168

def State.containerFields (s : State) (ctx idx : Nat) : List Field :=
  let h := s.containerHdr ctx idx
  s.readFields ctx (s.containerVa ctx idx) (min (bits h 159 128) 4096) 64 (bits h 159 128)

def getField (fs : List Field) (tag member : Nat) : Option (List Byte) :=
  (fs.find? fun f => f.tag == tag && f.member == member).map Field.data

/-- The part's own width for a tag, where it is fixed. -/
def fieldWidth : Nat → Option Nat
  | 1 => some 256 | 2 => some 8224 | 3 => some 2056 | 4 => some 128 | 5 => some 520 | 6 => some 64 | 7 => some 8
  | 9 => some 64 | 0x10 => some 262160 | 0x12 => some 8 | _ => none

/-- R452, Table Failures-6: the fields that a part of another revision takes; none when the restore is refused. -/
def foreignFields (fs : List Field) : Option (List Field) :=
  let known (t : Nat) : Bool := t ∈ [1, 2, 3, 4, 5, 6, 7, 8, 9, 0x10, 0x11, 0x12]
  fs.foldl (fun acc f => match acc with
    | none => none
    | some l =>
      if f.rule = 3 then none
      else if !known f.tag then some l
      else if f.rule = 2 then some l
      else if f.rule = 0 then
        match fieldWidth f.tag with
        | some w => if w = f.data.length then some (l ++ [f]) else none
        | none => some (l ++ [f])
      else match fieldWidth f.tag with
        | some w => if (f.data.drop w).all (· == 0) then
            some (l ++ [{ f with data := f.data.take w ++ List.replicate (w - f.data.length) 0 }]) else none
        | none => some (l ++ [f])) (some [])

def vregsOf (d : List Byte) (k : Nat) (code : Nat) : List (Nat × VReg) :=
  (List.range k).map fun n => (code + n,
    (⟨BitVec.ofNat 2048 (ofBytes ((d.drop (256 * n)).take 256)), (d.getD (256 * k + n) 0).setWidth 5⟩ : VReg))

/-- The register files and latches that the native fields hold. -/
def regsOfFields (fs : List Field) (member : Nat) : Regs :=
  let f (t : Nat) : List Byte := (getField fs t member).getD []
  let word (d : List Byte) (n k : Nat) : Nat := ofBytes ((d.drop (n * k)).take k)
  let l := f 5
  { s := (List.range 32).foldl (fun m n => sset 0 m n (BitVec.ofNat 64 (word (f 1) n 8))) [],
    v := (vregsOf (f 2) 32 0 ++ vregsOf (f 3) 8 32).foldl (fun m (n, x) => sset VReg.zero m n x) [],
    p := (List.range 8).foldl (fun m n => sset 0 m n (BitVec.ofNat 128 (word (f 4) n 16))) [],
    la := ⟨BitVec.ofNat 2048 (word l 0 256), (l.getD 512 0).setWidth 5⟩,
    lc := ⟨BitVec.ofNat 2048 (word l 1 256), (l.getD 513 0).setWidth 5⟩ }

/-- The continuation CSRs that CSRS holds. -/
def csrsOfFields (fs : List Field) (member : Nat) (domm : List (Nat × Half)) : Csrs :=
  let d := (getField fs 6 member).getD []
  let w (n : Nat) : Nat := ofBytes ((d.drop (8 * n)).take 8)
  { flags := BitVec.ofNat 8 (w 0), ftrap := BitVec.ofNat 8 (w 1), fctl := BitVec.ofNat 3 (w 2),
    chk := BitVec.ofNat 2 (w 3), lead := BitVec.ofNat 4 (w 4), quant := BitVec.ofNat 16 (w 5),
    time := BitVec.ofNat 64 (w 6), xflast := BitVec.ofNat 34 (w 7), domm := domm }

/-- The entries of a VIRT field: VREG, kind, tag, value (R451). -/
def virtEntries (d : List Byte) : Nat → Nat → List (Nat × Nat × Nat × Nat)
  | 0, _ => []
  | n + 1, off =>
    let h := ofBytes ((d.drop off).take 8)
    let len := bits h 31 0
    (bits h 63 44, bits h 43 40, bits h 39 32, ofBytes ((d.drop (off + 8)).take len))
      :: virtEntries d n (off + 8 + (len + 7) / 8 * 8)

def virtOf (d : List Byte) : List (Nat × Nat × Nat × Nat) := virtEntries d (ofBytes (d.take 8) % 2 ^ 32) 8

/-- A descriptor of Table Matrix-3 from its 256 bits. -/
def adescOf (d : Nat) : ADesc :=
  ⟨BitVec.ofNat 64 d, BitVec.ofNat 64 (bits d 127 64), bits d 143 128, bits d 156 152, BitVec.ofNat 16 (bits d 175 160)⟩

/-- Restore the matrix state of an owner from its fields (R266); the tiles zero with tag f32 where it holds none. -/
def Core.restoreMatrix (x : Core) (fs : List Field) (member : Nat) : Core :=
  match getField fs 0x10 member with
  | none => { x with tiles := [], tileTags := [], adesc := [], cur := none, rpl := 0 }
  | some d =>
    let tl := runOf 0 0 (halvesOf (d.take 262144))
    let ms := (getField fs 0x11 member).getD []
    let desc (n : Nat) : Option ADesc :=
      let v := ofBytes ((ms.drop (32 * n)).take 32)
      if v = 0 then none else some (adescOf v)
    let h := ofBytes ((ms.drop 128).take 16)
    let fmt := bits h 4 0; let k := bits h 31 16; let nb := ceilDiv k 32
    let cur : Option BTile := if bit h 64 then
        let dat := ms.drop 144
        some ⟨cells 0 (dat.take (nb * 64 * blockBytes fmt)), cells 0 ((dat.drop (nb * 64 * blockBytes fmt)).take (nb * 256)),
          fmt, k, BitVec.ofNat 16 (bits h 47 32)⟩
      else none
    { x with tiles := tl,
             tileTags := (List.range 16).foldl (fun m n => sset 10 m n ((d.getD (262144 + n) 0).setWidth 5)) [],
             adesc := (List.range 4).foldl (fun m n => sset none m n (desc n)) [], cur := cur,
             rpl := BitVec.ofNat 32 (ofBytes ((getField fs 0x12 member).getD [])) }

end Sys2Proof.Machine
end

