-- ==== Sys2Proof/Machine/Ops.lean ====
section
/-!
DEFINITION. The shared operations of a continuation's life: releases (R359), taking an exact trap (R274) and the
fetch at its return (R279 is with RESUME), write-back at a blocking point (R62-R69), and when a wait is over (R116).
-/
namespace Sys2Proof.Machine

def Slot.who (sl : Slot) (core : Nat) : Who := ⟨sl.ctx, sl.native, core⟩

/-- The slots that issue together with a slot. -/
def Slot.crew (sl : Slot) (c k : Nat) : List (Nat × Nat) :=
  match sl.gangInfo with
  | some g => g.members
  | none => [(c, k)]

/-- The slot under whose record a continuation issues: its own, or in a fused gang the leader's (R310, R314). -/
def State.leaderOf (s : State) (sl : Slot) : Slot :=
  match sl.gangInfo with
  | some g => (s.slot g.leaderCore g.leaderSlot).getD sl
  | none => sl

/-! ## Releases (R261, R357, R359) -/

/-- Act for the continuation in slot k of core c. -/
def State.asSlot (s : State) (c k : Nat) (f : State → State) : State :=
  let t := f { s with issue := { s.issue with core := c, slot := k } }
  { t with issue := { t.issue with core := s.issue.core, slot := s.issue.slot } }

/-- The request that an entry of a quantum batch becomes: a no-return add at the place that was checked (R357, R439). -/
def QEntry.request (q : QEntry) (sl : Slot) (c : Nat) : ProxyReq :=
  ⟨sl.ctx, sl.idx, c, none, q.place.pa, q.place.key, q.w, .add, q.addend.toNat, none, false, 0⟩

/-- R357: send one add for each entry of a slot's quantum batch. -/
def State.flushQuantum (s : State) (c k : Nat) : State :=
  match s.slot c k with
  | none => s
  | some sl =>
    let s := s.asSlot c k fun s => sl.quantum.foldl (fun s q =>
      (s.effectsAt c .atomic q.place).send (q.request sl c) q.place) s
    s.modSlot c k fun sl => { sl with quantum := [], qcount := 0 }

/-- The slot of a core's matrix owner (R129). -/
def State.ownerSlot (s : State) (c : Nat) : Option Nat :=
  ((s.core c).slots.find? fun (_, o) => match o with | some sl => sl.matrix | none => false).map Prod.fst

/-- Perform one granule of an earlier `mst` (R260), after the atomics that its continuation has posted to the line
(R143). -/
def State.performGranule (s : State) (c : Nat) (g : MstGranule) : State :=
  s.asSlot c ((s.ownerSlot c).getD 0) fun s =>
    let s := match s.cur with | some sl => s.acceptLine sl.ctx sl.idx g.place.pa | none => s
    (s.effectsAt c .store g.place).writePlace State.blame g.place 16 g.val.toNat

/-- Perform every outstanding `mst` store of a core (R261, R263). -/
def State.flushMst (s : State) (c : Nat) : State :=
  ((s.core c).mst.foldl (fun s g => s.performGranule c g) s).modCore c fun x => { x with mst := [] }

/-- What one continuation has posted is performed: its batch, its `mst` stores, and its atomics at a proxy (R359); the
non-ordering ones where `nor` says so (R356). -/
def State.releaseSlot (s : State) (c k : Nat) (nor : Bool) : State :=
  let s := s.flushQuantum c k
  match s.slot c k with
  | some sl => (if sl.matrix then s.flushMst c else s).acceptReqs sl.ctx sl.idx nor
  | none => s

/-- The same for every member of its gang (R346). -/
def State.releaseCrew (s : State) (c k : Nat) (nor : Bool) : State :=
  match s.slot c k with
  | some sl => (sl.crew c k).foldl (fun s m => s.releaseSlot m.1 m.2 nor) s
  | none => s

/-- A release by the continuation in a slot: what it has posted is performed; every other earlier write is performed
already (log 11). -/
def State.release (s : State) (c k : Nat) : State := s.releaseCrew c k false

/-! ## Leaving a slot -/

/-- R296: the registrations of a record are removed. -/
def State.unregister (s : State) (ctx idx : Nat) : State :=
  { s with clusters := s.clusters.map fun (k, x) =>
      (k, { x with regs := x.regs.filter fun r => !(r.ctx == ctx && r.idx == idx) }) }

/-- Requests to fuse made from a slot are withdrawn. -/
def State.unfuse (s : State) (c k : Nat) : State :=
  s.modClus (clusterOf c) fun x => { x with fuses := x.fuses.filter fun f => !(f.core == c && f.slot == k) }

/-- The pair being issued is no longer this slot's to finish. -/
def State.pairGone (s : State) : State := { s with issue := { s.issue with gone := true } }

/-- R69: what pins a record to a core. A gang's record holds lines and ports on every member's core. -/
def State.pins (s : State) (sl : Slot) (wakeType : Nat) : Bool :=
  wakeType ∈ [2, 4, 5, 6]
  || s.cores.any (fun (_, x) => x.owner.any (fun (_, h) => h = sl.recPa && h ≠ 0)
    || x.bind.any (fun (_, b) => b.holder = sl.recPa && b.holder ≠ 0))
  || sget 0 sl.csrs.domm 0 ≠ 0

/-- TIME of a slot now (R146). -/
def State.slotTime (s : State) (sl : Slot) : Nat := (sl.csrs.time.toNat + (s.now - sl.pickup)) % 2 ^ 64

/-- The VPC of an operation of a slot's object. -/
def Virt.vpc (v : Virt) (off : Nat) : Nat := v.handle * 2 ^ 44 + off % 2 ^ 44

/-- The operand code that INFO gives for a poisoned or stale register (Table Traps-1). -/
def regInfo (code : Nat) : Nat :=
  if code < 100 then code else if code < 200 then code - 100 else if code < 300 then code - 200 + 64
  else code - 300

def State.markFatal (s : State) (r : RecId) (fatal : Bool) : State :=
  { s with fatal := s.fatal.filter (· ≠ r) ++ (if fatal then [r] else []) }

/-- A trap record for a record that is in no slot, or for the device's own failure with it (R55, R60, R453); `g` is the
gang in which the record still stands in its slots. Reserved bits 15:13 of CTL, which check 2 of R55 may have found set,
are zero in the record from then on (log 73). -/
def State.recordTrap (s : State) (d core slot : Nat) (ctx idx : Nat) (t : Trap) (vpc npc ltime : Nat)
    (g : Option Gang := none) : State :=
  let rec5 := fun r => putBits (setWake (setState r 5) 0) 239 237 0
  let s := if (s.devWritable ctx (s.recVa ctx idx) 64).isNone then s.modRec ctx idx rec5 else s
  (s.appendTrap d t.fatal
    (trapRecord t false (decide (2 ^ 44 ≤ vpc)) g.isSome (match g with | some x => x.index | none => 0) slot core
      (s.recVa ctx idx) vpc npc 0 ltime)).markFatal
    ⟨ctx, idx⟩ t.fatal

/-! ## Frames of carried registers (R428) -/

/-- SPILL of a carry set: vectors, predicates, scalars, one tag byte per vector, rounded up to 8 (R428). -/
def spillOf (cs : List CarryLoc) : Nat :=
  let n (k : Nat) : Nat := (cs.filter fun c => c.kind == k).length
  (256 * n 2 + 16 * n 3 + 8 * n 1 + n 2 + 7) / 8 * 8

/-- Where the tag byte of a carried vector stands. -/
def tagOffset (cs : List CarryLoc) (v : CarryLoc) : Nat :=
  let n (k : Nat) : Nat := (cs.filter fun c => c.kind == k).length
  256 * n 2 + 16 * n 3 + 8 * n 1 + (cs.filter fun c => c.kind == 2 && decide (c.vreg < v.vreg)).length

/-- Spill the carried registers of a slot to its frame. -/
def State.spill (s : State) (sl : Slot) (cs : List CarryLoc) : State :=
  cs.foldl (fun s c =>
    let at_ := sl.frame.toNat + 64 + c.off
    match c.kind with
    | 1 => s.poolWrite sl.ctx sl.idx at_ 8 (sl.regs.sr c.loc).toNat
    | 2 => (s.poolWrite sl.ctx sl.idx at_ 256 (sl.regs.vr c.loc).val.toNat).poolWrite sl.ctx sl.idx
        (sl.frame.toNat + 64 + tagOffset cs c) 1 (sl.regs.vr c.loc).tag.toNat
    | 3 => s.poolWrite sl.ctx sl.idx at_ 16 (sl.regs.pr c.loc).toNat
    | _ => s) s

/-- The registers of a recovery map that stand in frame slots: those that no native file holds (KIND 4). -/
def inFrame (cs : List CarryLoc) : List CarryLoc := cs.filter fun c => decide (hiddenReg ≤ c.loc)

/-- The registers of a list of places. -/
def mapVals (map : List CarryLoc) (r : Regs) : List (Nat × Nat × Nat × Nat) :=
  map.filterMap fun c => match c.kind with
    | 1 => some (c.vreg, 1, 0, (r.sr c.loc).toNat)
    | 2 => some (c.vreg, 2, (r.vr c.loc).tag.toNat, (r.vr c.loc).val.toNat)
    | 3 => some (c.vreg, 3, 0, (r.pr c.loc).toNat)
    | _ => none

/-- What no native file holds of a trapping crew's registers stays with what is kept of their programs, for the members
that have no frame and for a frame that is too small (log 86). -/
def State.keepHidden (s : State) (r : RecId) (crew : List (Nat × Nat)) (live : List CarryLoc) : State :=
  { s with virtKept := s.virtKept.map fun x => if x.1.1 ≠ r then x else
      match (crew[x.1.2]?).bind fun m => s.slot m.1 m.2 with
      | some sl => (x.1, { x.2 with vals := mapVals (inFrame live) sl.regs })
      | none => x }

/-- At a trap they are put there, where the frame has room for them. -/
def State.spillHidden (s : State) (sl : Slot) (live : List CarryLoc) : State :=
  let cs := inFrame live
  if s.frameStride sl.ctx < 64 + spillOf cs then s else s.spill sl cs

/-! ## Taking an exact trap (R274) -/

/-- What a trap record says of the pair: resume address and, for a translation, the operation and the map. -/
structure TrapPoint where
  aslot : Bool
  pc : Nat
  npc : Nat
  vpc : Nat
  rmap : Nat
  live : List CarryLoc
  deriving DecidableEq, Repr

/-- The point that the pair at pc leaves; `after` for TRAPINS (R185, R275). -/
def State.trapPoint (s : State) (sl : Slot) (aslot after : Bool) (pc npc : Nat) : TrapPoint :=
  match sl.virt with
  | none => ⟨aslot, pc, if after then npc else pc, 0, 0, []⟩
  | some v =>
    match s.tpair sl pc with
    | none => ⟨aslot, pc, if after then npc else pc, v.vpc v.off, 0, []⟩
    | some t => if after then ⟨aslot, pc, npc, v.vpc t.nextOp, t.rmapAfter, t.liveAfter⟩
        else ⟨aslot, pc, pc, v.vpc t.op, t.rmap, t.live⟩

/-- NPC of the trap record (Table Traps-2): the resume pair, or for a fatal record the last pair issued. -/
def Trap.npc (t : Trap) (sl : Slot) (p : TrapPoint) : Nat :=
  if t.code = TRANSLATE then 0 else if t.fatal then sl.lastPc.toNat else p.npc

/-- TOUCHED of the record that runs: while a gang is fused, its leader's covers every member (R70). -/
def State.gangTouched (s : State) (sl : Slot) : BitVec 10 :=
  match sl.gangInfo with
  | some g => if g.index ≠ 0 then sl.touched else
      g.members.foldl (fun t (mc, mj) => match s.slot mc mj with
        | some x => t ||| x.touched ||| BitVec.ofNat 10 (2 ^ dieOf mc)
        | none => t) sl.touched
  | none => sl.touched

/-- The fields a trap saves for one member (Table Failures-5). -/
def State.trapFields (s : State) (member c : Nat) (sl : Slot) (p : TrapPoint) (owner : Bool) : List Field :=
  nativeFields member sl (s.slotTime sl)
  ++ (if sl.virt.isSome then [virtField member sl.regs (p.live.filter fun x => decide (x.loc < hiddenReg))]
    else [npcField member p.npc])
  ++ (if member = 0 then [⟨9, 0, 0, leBytes 64 (sealRec (putBits (s.readRec sl.ctx sl.idx) 255 240
        (s.gangTouched sl).toNat))⟩] else [])
  ++ (if owner then matrixFields member (s.core c) else [])

/-- What the members of a crew keep of their programs when their record leaves its slots with this VPC (log 86). -/
def State.keepVirt (s : State) (r : RecId) (crew : List (Nat × Nat)) (vpc : Nat) : State :=
  { s with virtKept := s.virtKept.filter (fun x => x.1.1 ≠ r) ++ crew.zipIdx.filterMap fun (m, j) =>
      ((s.slot m.1 m.2).bind Slot.virt).map fun v => ((r, j), { v with
        off := vpc % 2 ^ 44, entered := false, base := 0, src := 1, vals := [], passed := v.passed && v.vpc v.off == vpc }) }

/-- PINNED, TOUCHED and CORE, PHASE0 of the frame header are written with the state (R69, R70). -/
def State.leaveRecord (s : State) (c k : Nat) (sl0 : Slot) (st wake vpc : Nat) : State :=
  let sl := { sl0 with touched := s.gangTouched sl0 }
  let s := match sl0.gangInfo with
    | some g => s.keepVirt ⟨sl.ctx, sl.idx⟩ (if g.transient then [(c, k)] else g.members) vpc
    | none => s.keepVirt ⟨sl.ctx, sl.idx⟩ [(c, k)] vpc
  let pin := s.pins sl (wake / 2 ^ 60)
  let f := fun r => putBits (putBits (putBits (setWake (setState r st) wake) 233 233 (b2n pin)) 255 240 sl.touched.toNat)
    63 0 (if sl.native then recVpc r else vpc)
  s.modRec sl.ctx sl.idx f

/-- The slot is released; its partly assembled packets go with it (R384). -/
def State.freeSlot (s : State) (c k : Nat) : State := (s.unfuse c k).putSlot c k none

/-- R448: the save faulted. The continuation, with its crew, stays resident and is evicted no more, nothing issues from its
slot, and a fatal SAVEFAULT record is appended with the code of the trap being saved, 0 for a write-back; `last` is the last
pair issued. MEMBER of the record is the leader's index, whichever member trapped (log 72). -/
def State.saveFault (s : State) (c k : Nat) (sl : Slot) (code addr : Nat) (p : TrapPoint) (last : Nat) : State :=
  let s := s.leaveRecord c k sl 5 0 p.vpc
  let s := (sl.crew c k).foldl (fun (s : State) (m : Nat × Nat) =>
    s.modSlot m.1 m.2 fun x => { x with hold := some ⟨.saveFault, s.now, true, []⟩, noEvict := true }) s
  let t : Trap := ⟨SAVEFAULT, memInfo 1 addr 64 + code * 2 ^ 40, addr, true⟩
  ((s.appendTrap (dieOf c) true (trapRecord t p.aslot sl.virt.isSome sl.gangInfo.isSome
    (match sl.gangInfo with | some g => g.index | none => 0) k c sl.recVa.toNat p.vpc last p.rmap
    (s.slotLtime sl))).markFatal ⟨sl.ctx, sl.idx⟩ true).unregister sl.ctx sl.idx

/-- What a continuation has sent to a proxy is carried out before a trap saves its results, its batch included (R274,
R357, R371). -/
def State.settleSlot (s : State) (c k : Nat) : State :=
  let s := s.flushQuantum c k
  match s.slot c k with
  | some sl => s.acceptReqs sl.ctx sl.idx true
  | none => s

/-- One continuation, not in a placed gang, traps. -/
def State.trapSlot (s : State) (c k : Nat) (t : Trap) (aslot after : Bool) (pc npc : Nat) : State :=
  match s.slot c k with
  | none => s
  | some sl0 =>
    let s := (s.settleSlot c k).modSlot c k (Slot.drain s.now)
    let sl := { ((s.slot c k).getD sl0) with quantum := [], qcount := 0 }
    let p := s.trapPoint sl aslot after pc npc
    let s := s.unregister sl.ctx sl.idx
    let s := if sl.matrix then s.flushMst c else s
    match s.saveContainer sl.ctx sl.idx 1 1 sl.recVa.toNat (s.trapFields 0 c sl p sl.matrix) p.live with
    | .error a => s.saveFault c k sl t.code a p pc
    | .ok s =>
      let s := ((s.leaveRecord c k sl 5 0 p.vpc).keepHidden ⟨sl.ctx, sl.idx⟩ [(c, k)] p.live).spillHidden sl p.live
      let h := putBits (putBits (s.frameHdr sl.ctx sl.frame.toNat) 79 64 c) 63 32 sl.phase0.toNat
      let s := s.putFrame sl.ctx sl.idx sl.frame.toNat h
      let gi := sl.gangInfo
      let s := s.appendTrap (dieOf c) t.fatal (trapRecord t aslot sl.virt.isSome gi.isSome
        (match gi with | some g => g.index | none => 0) k c sl.recVa.toNat p.vpc
        (t.npc sl p) p.rmap (s.slotLtime sl))
      (s.markFatal ⟨sl.ctx, sl.idx⟩ t.fatal).freeSlot c k

/-- A placed gang traps as one record, every member saved (R316). -/
def State.trapGang (s : State) (c k : Nat) (g : Gang) (t : Trap) (aslot after : Bool) (pc npc : Nat) : State :=
  match s.slot g.leaderCore g.leaderSlot with
  | none => s
  | some lead =>
    let s := g.members.foldl (fun s (mc, mj) => s.settleSlot mc mj) s
    let s := g.members.foldl (fun s (mc, mj) => s.modSlot mc mj (Slot.drain s.now)) s
    let s := s.unregister lead.ctx lead.idx
    let s := if lead.matrix then g.members.foldl (fun s (mc, _) => s.flushMst mc) s else s
    let lead := { ((s.slot g.leaderCore g.leaderSlot).getD lead) with quantum := [], qcount := 0 }
    let p := s.trapPoint lead aslot after pc npc
    let fs := g.members.zipIdx.flatMap fun ((mc, mj), i) => match s.slot mc mj with
      | some sl => s.trapFields i mc sl p lead.matrix
      | none => []
    match s.saveContainer lead.ctx lead.idx 1 g.members.length lead.recVa.toNat fs p.live with
    | .error a => s.saveFault g.leaderCore g.leaderSlot lead t.code a p pc
    | .ok s =>
      let s := ((s.leaveRecord g.leaderCore g.leaderSlot lead 5 0 p.vpc).keepHidden ⟨lead.ctx, lead.idx⟩ g.members
        p.live).spillHidden lead p.live
      let h := putBits (putBits (s.frameHdr lead.ctx lead.frame.toNat) 79 64 g.leaderCore) 63 32 lead.phase0.toNat
      let s := s.putFrame lead.ctx lead.idx lead.frame.toNat h
      let idx := match s.slot c k with
        | some sl => (match sl.gangInfo with | some x => x.index | none => 0)
        | none => 0
      let s := s.appendTrap (dieOf g.leaderCore) t.fatal (trapRecord t aslot lead.virt.isSome true idx g.leaderSlot
        g.leaderCore lead.recVa.toNat p.vpc (t.npc lead p) p.rmap (s.slotLtime lead))
      g.members.foldl (fun s (mc, mj) => s.freeSlot mc mj) (s.markFatal ⟨lead.ctx, lead.idx⟩ t.fatal)

/-- TAKING AN EXACT TRAP (R274, R316): owed results are delivered, the native state goes to the save-area container,
the record takes state 5 with WAKE 0, the trap record is appended to the die's queue, and the slot is released. -/
def State.takeTrap (s : State) (c k : Nat) (t : Trap) (aslot after : Bool) (pc npc : Nat) : State :=
  match s.slot c k with
  | none => s
  | some sl =>
    match sl.gangInfo with
    | none => s.trapSlot c k t aslot after pc npc
    | some g =>
      if g.transient then
        g.members.foldl (fun s (mc, mj) =>
          (s.modSlot mc mj fun x => { x with gangInfo := some { g with index := g.index } }).trapSlot mc mj t aslot after
            pc npc) s
      else s.trapGang c k g t aslot after pc npc

/-- R253: an `mma` that fails its replay has counted it, and the trap leaves the counts (R21). -/
def State.countReplay (s : State) (c : Nat) : State :=
  s.modCore c fun x => { x with
    mreplay := if x.mreplay = BitVec.allOnes 32 then x.mreplay else x.mreplay + 1,
    rpl := if x.rpl = BitVec.allOnes 32 then x.rpl else x.rpl + 1, accErr := 0 }

/-- The pair being issued traps. -/
def State.trapPair (s : State) (t : Trap) (aslot after : Bool) : State :=
  let s := if t.code = MCHECK && t.info % 4 = 0 then s.countReplay s.issue.core else s
  (s.takeTrap s.issue.core s.issue.slot t aslot after s.issue.pc.toNat s.issue.npc.toNat).pairGone

/-! ## Waits (R116) -/

/-- (have − want) mod 2^32 < 2^31 (R116). -/
def reached (have_ want : Half) : Bool := decide ((have_ - want).toNat < 2 ^ 31)

/-- Neighbours of a core inside a rectangle x0, y0, w, h of the grid (R75, R309). -/
def gridNeighbours (c x0 y0 w h : Nat) : List Nat :=
  let x := coreX c; let y := coreY c
  (if x0 < x then [c - 1] else []) ++ (if x + 1 < x0 + w then [c + 1] else [])
  ++ (if y0 < y then [c - 64] else []) ++ (if y + 1 < y0 + h then [c + 64] else [])

/-- PHASE0 of the neighbours of a core, as it sees them. A retired member is left out. -/
def State.neighbourCounts (s : State) (c : Nat) (ctx dom : Nat) : List Half :=
  let d := s.domain ctx dom
  ((gridNeighbours c (bits d 263 256) (bits d 271 264) (bits d 279 272) (bits d 287 280)).filter fun n =>
    sget 0 (s.core c).seen (1024 + n) = 0).map fun n => sget 0 (s.core c).seen n

/-- A record has posted an atomic to a line of n bytes at ea that is not carried out yet (R143). -/
def State.posted (s : State) (ctx idx ea n : Nat) : Bool :=
  !s.reqs.isEmpty && (piecesOf ea n).any fun (a, _) => match s.physOf ctx a with
    | some pa => s.reqs.any fun q => q.ctx == ctx && q.idx == idx && q.pa / 128 == pa / 128
    | none => false

/-- Every granule of cnt from offset off is full (R234). A granule of a line that is not allocated is not (log 74). -/
def Core.granulesFull (x : Core) (off cnt : Nat) : Bool :=
  (List.range cnt).all fun i =>
    let g := off / 16 + i
    x.allocated (g / 8) && (sget (0 : Byte) x.fe (g / 8)).getLsbD (g % 8)

/-- The words of an instruction's ports are there (R30). -/
def State.portsReady (s : State) (c : Nat) (need : List (Nat × Nat)) : Bool :=
  need.all fun (n, k) => decide (k ≤ ((s.core c).portWords n).length)

/-- An engine operation that writes, pushed by a slot's continuation, is not complete (R337). -/
def State.ownOps (s : State) (sl : Slot) : Bool :=
  let mine (p : Packet) : Bool := p.by_ == some (⟨sl.ctx, sl.idx⟩, sl.gen.toNat) && p.words.toNat % 256 ≠ 6
  (s.ops.any fun o => !o.completed && mine o.pkt) || s.dies.any fun (_, d) => d.pushed.any mine

/-- The wait of a continuation that stands (or stood) on core c is over. -/
def State.waitOver (s : State) (c : Nat) (sl : Slot) (w : Wait) : Bool :=
  match w with
  | .ports need => s.portsReady c need
  | .room | .quota | .evFull | .translation => true
  | .settled => sl.pending.isEmpty
  | .startGrant => !(s.core c).matIdle
  | .results | .drain | .eret => decide (sl.issuedAt < s.now) && sl.pending.all fun p => !p.owed && (p.fixed || decide (p.due < s.now))
  | .reads => sl.pending.all fun p => !(p.memRead && p.owed)
  | .flagsOwed => sl.pending.all fun p => if p.fixed then decide (p.due < s.now) else p.flags = 0 || (p.delivered && decide (p.due < s.now))
  | .evRoom cl _ _ => decide ((s.clus cl).regs.length < 256)
  | .granules off cnt => (s.core c).granulesFull off cnt
  | .xfer ch id => reached (sget 0 (s.core c).xfdone ch) (id + 1)
  | .stepXfers k ids => ids.all fun (ch, id) => reached (sget 0 (s.core k).xfdone ch) (id + 1)
  | .stepPhase | .stepPush _ => true
  | .stall w => s.waitOver c sl w
  | .group k g gen => reached (sget Group.reset (s.clus k).groups g).gen gen
  | .barrHeld g gen => (sget Group.reset (s.clus (clusterOf c)).groups g).gen ≠ gen
  | .phase _ dom ph => (s.domHole sl.ctx dom).isNone && reached (BitVec.ofNat 32 (domPhase (s.domain sl.ctx dom))) ph
  | .phase0 want => (s.neighbourCounts c sl.ctx (sget 0 sl.csrs.domm 0).toNat).all fun m => reached m want
  | .line _ _ fired _ => fired.isSome
  | .timer t => decide (t ≤ s.slotLtime sl)
  | .claim ridx last _ _ =>
    match s.queues.find? fun q => q.ctx == sl.ctx && q.ridx == ridx with
    | none => true
    | some q => decide ((last.toNat + 2 ^ 64 - s.devGet q.ctx ridx.toNat 8) % 2 ^ 64 < 2 ^ q.log2n)
  | .fuse _ _ _ _ => sl.gangInfo.isSome
  | .ring => (s.core c).ring.isNone
  | .mstBusy => (s.core c).mst.isEmpty
  | .until t => decide (t ≤ s.now)
  | .posted ea n => !s.posted sl.ctx sl.idx ea n
  | .ownOps => !s.ownOps sl
  | .loaded id => sl.pending.all fun p => p.id ≠ id
  | .delay _ => true
  | .retire _ _ | .away _ _ => (sl.crew c 0).all fun m => m.1 = c || ((s.slot m.1 m.2).bind Slot.hold).isNone
  | .saveFault => false

/-- The waits that are blocking points (Table Task-3); every other is a stall in state 3. -/
def Wait.blocking : Wait → Bool
  | .ports _ | .results | .granules _ _ | .xfer _ _ | .group _ _ _ | .phase _ _ _ | .phase0 _ | .line _ _ _ _
  | .timer _ | .claim _ _ _ _ => true
  | _ => false

/-- The completion of a matrix instruction (R241). -/
def Wait.matrixWork : Wait → Bool
  | .until _ | .ring | .loaded _ | .delay _ => true
  | _ => false

/-- A wait that is tried again in the next cycle, not a condition. -/
def Wait.retried : Wait → Bool
  | .room | .quota | .evFull | .translation => true
  | _ => false

/-- WAKE and WAITARG that a wait writes into the record (Table Continuation-5). -/
def State.wakeOf (s : State) (c : Nat) (sl : Slot) (w : Wait) : Nat × Nat :=
  let ty (n : Nat) : Nat := n * 2 ^ 60
  match w with
  | .ports need =>
    let p := ((need.find? fun (n, k) => decide (((s.core c).portWords n).length < k)).map Prod.fst).getD 0
    (ty 2 + c * 2 ^ 36 + p * 2 ^ 32, 0)
  | .results => (ty 3 + max 1 (min sl.outstanding 255), 0)
  | .granules off cnt => (ty 6 + c * 2 ^ 36 + cnt * 2 ^ 24 + off, 0)
  | .xfer ch id => (ty 5 + c * 2 ^ 36 + ch * 2 ^ 32 + id.toNat, 0)
  | .group k g gen => (ty 1 + k * 2 ^ 48 + g * 2 ^ 44 + gen.toNat, 0)
  | .phase l _ ph => (ty 1 + 2 ^ 59 + l * 2 ^ 56 + ph.toNat, 0)
  | .phase0 want => (ty 1 + 2 ^ 59 + want.toNat, 0)
  | .line k l _ _ => (ty 4 + k * 2 ^ 40 + l, 0)
  | .timer t => (ty 9 + min t (2 ^ 60 - 1), 0)
  | .claim ridx last _ _ => (ty 8 + ridx.toNat % 2 ^ 56, last.toNat)
  | _ => (0, 0)

/-! ## Write-back (R62-R66, R428) -/

/-- Load carried registers from a frame (R124 step 2). -/
def State.refill (s : State) (ctx frame : Nat) (cs : List CarryLoc) (r : Regs) : Regs :=
  cs.foldl (fun r c =>
    let at_ := frame + 64 + c.off
    match c.kind with
    | 1 => { r with s := sset 0 r.s c.loc (BitVec.ofNat 64 (s.devGet ctx at_ 8)) }
    | 2 => { r with v := sset VReg.zero r.v c.loc ⟨BitVec.ofNat 2048 (s.devGet ctx at_ 256),
        BitVec.ofNat 5 (s.devGet ctx (frame + 64 + tagOffset cs c) 1)⟩ }
    | 3 => { r with p := sset 0 r.p c.loc (BitVec.ofNat 128 (s.devGet ctx at_ 16)) }
    | _ => r) r

/-- The pair at which a held slot stands: the one not yet issued, or the one it issued last. -/
def Slot.holdPc (sl : Slot) : Nat :=
  match sl.hold with
  | some h => if h.reissue then sl.pc.toNat else sl.lastPc.toNat
  | none => sl.lastPc.toNat

/-- The pair after the blocking one. -/
def Slot.afterPc (sl : Slot) : Nat :=
  match sl.hold with
  | some h => if h.reissue then (sl.pc.toNat + 8) % 2 ^ 64 else sl.pc.toNat
  | none => sl.pc.toNat

/-- The matrix fields that a member's container holds already. -/
def State.keptMatrix (s : State) (ctx idx member : Nat) : List Field :=
  (s.containerFields ctx idx).filter fun f => 0x10 ≤ f.tag && f.member == member

/-- Put the state of one continuation where its resumption will find it: a native record's whole state in its
container (R515), a Nalfen record's carried registers in its frame (R62), an owner's matrix state, `mat`, in the container
(R266); and the frame header. An error is the address at which a save faulted. -/
def State.storeImage (s : State) (c : Nat) (sl : Slot) (waitarg : Nat) (mat : List Field) : Except Nat State :=
  let time := s.slotTime sl
  if sl.native then
    match s.saveContainer sl.ctx sl.idx 4 1 sl.recVa.toNat (nativeFields 0 sl time ++ [npcField 0 sl.afterPc] ++ mat) with
    | .error a => .error a
    | .ok s => .ok (s.putFrame sl.ctx sl.idx sl.frame.toNat (frameOf c 0 sl.phase0.toNat waitarg sl.csrs time))
  else
    let cs := match s.tpair sl sl.holdPc with | some t => t.carry | none => []
    let saved := if mat.isEmpty then .ok s else s.saveContainer sl.ctx sl.idx 2 1 sl.recVa.toNat mat
    match saved with
    | .error a => .error a
    | .ok s => .ok ((s.spill sl cs).putFrame sl.ctx sl.idx sl.frame.toNat
        (frameOf c (spillOf cs) sl.phase0.toNat waitarg sl.csrs time))

/-- R312: a placed gang's write-back: the leader's carried registers to the frame, every other member's to VIRT
fields, and every member's matrix state when the record has MATRIX. A native gang's whole state goes to the container
(R515). -/
def State.storeGang (s : State) (g : Gang) (lead : Slot) (waitarg : Nat) (mat : Nat → List Field) : Except Nat State :=
  let cs := match s.tpair lead lead.holdPc with | some t => t.carry | none => []
  let fs := g.members.zipIdx.flatMap fun ((mc, mj), i) => match s.slot mc mj with
    | some sl => (if lead.native then nativeFields i sl (s.slotTime sl) ++ [npcField i lead.afterPc]
        else if i = 0 then [] else [virtField i sl.regs cs]) ++ mat i
    | none => []
  match s.saveContainer lead.ctx lead.idx (if lead.native then 4 else 3) g.members.length lead.recVa.toNat fs with
  | .error a => .error a
  | .ok s => .ok ((s.spill lead cs).putFrame lead.ctx lead.idx lead.frame.toNat
      (frameOf g.leaderCore (spillOf cs) lead.phase0.toNat waitarg lead.csrs (s.slotTime lead)))

/-- The image of the continuation in slot k of core c, with its gang's if it leads a placed one, is stored. -/
def State.storeSlot (s : State) (c : Nat) (sl : Slot) (waitarg : Nat) : Except Nat State :=
  match sl.gangInfo with
  | some g => s.storeGang g sl waitarg fun i => match g.members[i]? with
      | some m => if sl.matrix then matrixFields i (s.core m.1) else []
      | none => []
  | none => s.storeImage c sl waitarg (if sl.matrix then matrixFields 0 (s.core c) else [])

/-- The same once more, after an operation has been finished in the image: the matrix state in the container stands. -/
def State.storeAgain (s : State) (c : Nat) (sl : Slot) (waitarg : Nat) : Except Nat State :=
  match sl.gangInfo with
  | some g => s.storeGang g sl waitarg (s.keptMatrix sl.ctx sl.idx)
  | none => s.storeImage c sl waitarg (if sl.native then s.keptMatrix sl.ctx sl.idx 0 else [])

/-- Some register that the write-back of a slot would carry is poisoned (R277): its code. The container of a native record
and the tiles of an owner count like the frame (log 75). -/
def State.slotPoison (s : State) (sl : Slot) : Option Nat :=
  if sl.native then sl.poisoned.head?
  else match s.tpair sl sl.holdPc with
    | none => none
    | some t => sl.poisoned.find? fun p => (sl.matrix && decide (428 ≤ p) && decide (p < 444)) || t.carry.any fun c =>
        (c.kind == 1 && p == c.loc) || (c.kind == 2 && p == 100 + c.loc) || (c.kind == 3 && p == 200 + c.loc)

/-- The first member of a slot's crew that a write-back finds with a poisoned register to carry, or with a posted write that
has failed, with its MCHECK (R277, R312, R316, R371). -/
def State.storeTrap (s : State) (c k : Nat) (sl : Slot) : Option ((Nat × Nat) × Trap) :=
  (sl.crew c k).findSome? fun m => (s.slot m.1 m.2).bind fun x =>
    match s.slotPoison { x with hold := sl.hold, pc := sl.pc, lastPc := sl.lastPc } with
    | some r => some (m, trapInfo MCHECK (2 + regInfo r * 256))
    | none => if x.failedNr then some (m, trapInfo MCHECK 2) else none

/-- Some posted write of a slot, or of a member of its gang, failed (R371); of the non-ordering ones too where `nor` says
so (R356). -/
def State.writesFailed (s : State) (sl : Slot) (nor : Bool) : Bool :=
  let failed (x : Slot) : Bool := x.failedNr || (nor && x.failedNor)
  failed sl || match sl.gangInfo with
    | some g => g.members.any fun m => match s.slot m.1 m.2 with | some x => failed x | none => false
    | none => false

/-- The frame, with the spill area that a write-back fills, or the record of a slot lost its translation (R60): where. -/
def State.lostFrame (s : State) (sl : Slot) : Option Nat :=
  let n := match s.tpair sl sl.holdPc with | some t => spillOf t.carry | none => 0
  ((s.devWritable sl.ctx sl.frame.toNat (64 + n)).orElse fun _ => s.devWritable sl.ctx sl.recVa.toNat 64).map Prod.snd

/-- R60: a fatal XLATE for the record, and its slots are released. Kind 1 and size 64 in INFO, for the device's own failed
access, are the model's choice (log 72). -/
def State.fatalXlate (s : State) (c k : Nat) (sl : Slot) (a : Nat) : State :=
  let t : Trap := ⟨XLATE, memInfo 1 a 64, a, true⟩
  (sl.crew c k).foldl (fun (s : State) (m : Nat × Nat) => s.freeSlot m.1 m.2) ((s.unregister sl.ctx sl.idx).recordTrap (dieOf c) c k sl.ctx sl.idx t
    (match sl.virt with | some v => v.vpc v.off | none => 0) sl.lastPc.toNat (s.slotLtime sl) sl.gangInfo)

/-- The end of the wait gives the continuation something (R63). -/
def Wait.delivers : Wait → Bool
  | .line _ _ _ (some _) | .phase0 _ | .claim _ _ _ _ => true
  | _ => false

/-- WRITE-BACK at a blocking point (R62-R69): state 4 (hold expired, susp, suspon) or 7 (evicted). What the blocking
operation still owes is kept beside the record, to be finished on its behalf (R63). -/
def State.writeBack (s : State) (c k st : Nat) (wake waitarg : Nat) (w : Wait) (reissue : Bool) : State :=
  let s := s.release c k
  let s := (match s.slot c k with | some sl => sl.crew c k | none => []).foldl (fun (s : State) (m : Nat × Nat) =>
    s.modSlot m.1 m.2 fun x => { x with asm := [] }) s
  match s.slot c k with
  | none => s
  | some sl =>
    let p := s.trapPoint sl false true sl.holdPc sl.afterPc
    match s.lostFrame sl with
    | some a => s.fatalXlate c k sl a
    | none =>
    match s.storeTrap c k sl with
    | some (m, t) => s.takeTrap m.1 m.2 t false true sl.holdPc sl.afterPc
    | none =>
      match s.storeSlot c sl waitarg with
      | .error a => s.saveFault c k sl 0 a p sl.lastPc.toNat
      | .ok s =>
        let s := s.leaveRecord c k sl st wake p.vpc
        let image (x : Slot) : Slot := { x with pickup := s.now, csrs := { x.csrs with time := BitVec.ofNat 64 (s.slotTime x) } }
        let others := match sl.gangInfo with
          | some g => g.members.drop 1 |>.filterMap fun (mc, mj) => (s.slot mc mj).map fun x => (mc, image x)
          | none => []
        let img := image sl
        let su : Susp := { ctx := sl.ctx, idx := sl.idx, core := c, img := img, w := w, reissue := reissue,
                           finished := !reissue && sl.pending.isEmpty && others.isEmpty && !w.delivers,
                           others := others, redo := .none }
        let s := { s with suspended := su :: s.suspended.filter fun x => !(x.ctx == sl.ctx && x.idx == sl.idx) }
        (sl.crew c k).foldl (fun (s : State) (m : Nat × Nat) => s.freeSlot m.1 m.2) s

/-- Write back the slot at its hold (R66), with its whole placed gang (R312). -/
def State.writeBackHeld (s : State) (c k st : Nat) : State :=
  match s.slot c k with
  | none => s
  | some sl =>
    match sl.hold with
    | none => s
    | some h =>
      let (wake, arg) := s.wakeOf c sl h.w
      match sl.gangInfo with
      | none => s.writeBack c k st wake arg h.w h.reissue
      | some g =>
        let w : Wait := match (s.slot g.leaderCore g.leaderSlot).bind Slot.hold with
          | some h => h.w | none => .until 0
        s.writeBack g.leaderCore g.leaderSlot st wake arg w h.reissue

/-- A new wait of a slot. The waits its pair has already met stand after it. -/
def Slot.wait (sl : Slot) (now : Nat) (w : Wait) (reissue : Bool) : Slot :=
  { sl with hold := some ⟨w, now, reissue, match sl.hold with
      | some h => if h.reissue || reissue then [] else h.w :: h.after
      | none => []⟩ }

/-- What a slot waits for once its first wait is over. -/
def nextHold (now : Nat) : List Wait → Option Hold
  | [] => none
  | .delay n :: l => some ⟨.until (now + n), now, false, l⟩
  | w :: l => some ⟨w, now, false, l⟩

/-- The continuation waits in its slot. -/
def State.holdSlot (s : State) (c k : Nat) (w : Wait) (reissue : Bool) : State :=
  s.modSlot c k fun sl => sl.wait s.now w reissue

/-- The pair being issued waits before it issues (`reissue`) or after. -/
def State.holdPair (s : State) (w : Wait) (reissue : Bool) : State :=
  let s' := s.holdSlot s.issue.core s.issue.slot w reissue
  if reissue then s'.pairGone else s'

/-! ## The holder of a cluster (R289, R414) -/

/-- A record of a context still stands on, or is pinned to, a core of a cluster. -/
def State.holderStays (s : State) (cl x : Nat) : Bool :=
  (s.occupied.any fun (c, k) => clusterOf c == cl && (match s.slot c k with | some sl => sl.ctx == x | none => false))
  || (List.range (bits (s.pool x) 31 0)).any fun i =>
    let r := s.readRec x i
    i ≠ 0 && recPinned r && recState r ≠ 0 && clusterOf (bits (s.frameHdr x (recFrame r)) 73 64) == cl

/-- The context that holds a cluster now; none when it has been released. -/
def State.holderNow (s : State) (cl : Nat) : Option Nat :=
  match (s.clus cl).holder with
  | none => none
  | some x => if (s.ctx x).alive && s.holderStays cl x then some x else none

end Sys2Proof.Machine
end

