-- ==== Sys2Proof/Machine/Issue.lean ====
section
/-!
DEFINITION. Issue: what each meaning supplies (`Plan`), the checks of R22 in their order, results and their latency
(Table Core-10), pushes and pops, and the run of one instruction. A meaning is `run` of its plan.
-/
namespace Sys2Proof.Machine

/-- What an instruction supplies to the issue rules: the checks that are its own, the wait it may meet before it can
issue, and its effect. Operand codes, ports, stale reads and poison are checked for every instruction alike. -/
structure Plan where
  instr : Instr
  /-- R22 step 3 on values read: the field of Table Traps-1. -/
  bad : State → Option Nat := fun _ => none
  /-- step 4: INFO of PRIV. -/
  priv : State → Option Nat := fun _ => none
  /-- step 6: field, tag found, tag required. -/
  tag : State → Option (Nat × Nat × Nat) := fun _ => none
  /-- step 7. -/
  fault : State → Option Trap := fun _ => none
  /-- what the pair waits for before it issues. -/
  wait : State → Option Wait := fun _ => none
  /-- what the instruction does. -/
  act : State → State

/-! ## Latencies (Table Core-10) -/

/-- The latency that Table Core-10 gives an instruction; none for one that is not in it. -/
def tableLatency (s : State) : Instr → Option Nat
  | .add _ _ _ | .sub _ _ _ | .and _ _ _ | .or _ _ _ | .xor _ _ _ | .andn _ _ _ | .shl _ _ _ | .shr _ _ _
  | .sar _ _ _ | .rot _ _ _ | .minS _ _ _ | .maxS _ _ _ | .minN _ _ _ | .maxN _ _ _ | .clz _ _ | .popc _ _
  | .sel _ _ _ | .mov _ _ | .lea _ _ _ | .sext _ _ _ | .zext _ _ _ | .add32 _ _ _ | .sub32 _ _ _ => some 1
  | .addi _ _ _ | .andi _ _ _ | .ori _ _ _ | .xori _ _ _ | .shli _ _ _ | .shri _ _ _ | .sari _ _ _ => some 1
  | .setEq _ _ _ | .setNe _ _ _ | .setLt _ _ _ | .setGe _ _ _ | .setLtn _ _ _ | .setGen _ _ _ => some 1
  | .mul _ _ _ | .mulhS _ _ _ | .mulhN _ _ _ | .mul32 _ _ _ => some 3
  | .divS _ _ _ | .divN _ _ _ | .remS _ _ _ | .remN _ _ _ => some 18
  | .pand _ _ _ | .por _ _ _ | .pxor _ _ _ | .pnot _ _ | .pset _ _ _ | .pget _ _ _ => some 1
  | .csrr _ _ | .csrw _ _ | .csrs _ _ | .csrc _ _ | .qstat _ _ | .vtag _ _ _ | .vtagq _ _ => some 1
  | .call _ | .callr _ _ => some 1
  | .vadd _ _ _ | .vsub _ _ _ | .vand _ _ _ | .vor _ _ _ | .vxor _ _ _ | .vshl _ _ _ | .vshr _ _ _ | .vsar _ _ _
  | .vmin _ _ _ | .vmax _ _ _ | .vabs _ _ | .vpopc _ _ | .vcmpEq _ _ _ | .vcmpNe _ _ _ | .vcmpLt _ _ _
  | .vcmpGe _ _ _ | .vsel _ _ _ => some 2
  | .vmul _ _ _ | .vmulh _ _ _ | .vmad _ _ _ | .vdot _ _ _ => some 4
  | .fmin _ _ _ | .fmax _ _ _ | .fabs _ _ | .fneg _ _ | .fclass _ _ | .fcmpEq _ _ _ | .fcmpLt _ _ _
  | .fcmpLe _ _ _ | .fcmpUn _ _ _ => some 2
  | .fadd _ _ _ | .fsub _ _ _ | .fmul _ _ _ | .fma _ _ _ | .fms _ _ _ | .fnma _ _ _ | .fnms _ _ _ => some 4
  | .frcp _ _ | .frsq _ _ | .fexp2 _ _ | .flog2 _ _ => some 8
  | .fdiv d a b => some (if opType s (.fdiv d a b) = 9 then 24 else 16)
  | .fsqrt d a => some (if opType s (.fsqrt d a) = 9 then 24 else 16)
  | .cvt _ _ _ => some 3
  | .cvtdq _ _ _ => some 4
  | .cvtq _ _ _ => some 6
  | .vbcast _ _ _ | .vshuf _ _ _ | .vslideUp _ _ _ | .vslideDn _ _ _ | .vext _ _ _ | .vins _ _ _ | .vlane _ _ _ =>
    some 2
  | .vcmpr _ _ => some 3
  | .vredAdd _ _ | .vredMin _ _ | .vredMax _ _ | .vredAnd _ _ | .vredOr _ _ | .fredAdd _ _ | .fredMin _ _
  | .fredMax _ _ => some 8
  | .mchk _ => some 2
  | _ => none

/-- Instructions whose result keeps its fixed latency beside a pop, since it is not what is popped: the link of `callr`
(R171) and the old value of a CSR (R182). -/
def keepsLatency : Instr → Bool
  | .callr _ _ | .csrw _ _ | .csrs _ _ | .csrc _ _ => true
  | _ => false

/-- The latency of a fixed-latency instruction; none for every other. A pop of a queue port is of variable latency
whatever instruction makes it (R139, log 71). -/
def latency (s : State) (i : Instr) : Option Nat :=
  if (popsOf i).isEmpty || keepsLatency i then tableLatency s i else none

/-! ## Results -/

/-- The pair's slot owes itself a result. -/
def State.owe (s : State) (p : Pending) : State := s.modCur fun sl => sl.owe p

/-- A push of the pair (R31): it takes effect when the pair retires. -/
def State.push (s : State) (port : Nat) (w : Word) : State :=
  { s with issue := { s.issue with pushes := s.issue.pushes ++ [(s.issue.aslot, port, w)] } }

/-- Time and latency of the result of instruction i: fixed by Table Core-10, or variable. -/
def pendingOf (s : State) (i : Instr) : Pending :=
  match latency s i with
  | some l => { Pending.blank with aslot := isA i, fixed := true, due := s.now + l }
  | none => { Pending.blank with aslot := isA i, fixed := false, due := s.now }

/-- Deliver a scalar result to D and to the latch of the instruction's class (R25, R126). -/
def giveS (i : Instr) (d : SDst) (v : Word) (flags : Byte) (s : State) : State :=
  let p := { pendingOf s i with dst := d.reg, val := v.setWidth 2048, mask := BitVec.allOnes 2048, flags := flags,
                                latch := some (isA i), latchVal := ⟨v.setWidth 2048, 0⟩ }
  let s := s.owe p
  match d with
  | .q n => s.push n.val v
  | _ => s

/-- The result of a load or atomic: variable latency, perhaps poisoned, and not delivered before cycle now + lag + 1. -/
def giveLoad (i : Instr) (d : SDst) (v : Word) (poison : Bool) (lag : Nat) (s : State) : State :=
  s.owe { pendingOf s i with fixed := false, due := s.now + lag, dst := d.reg, val := v.setWidth 2048, mask := BitVec.allOnes 2048,
                             latch := some (isA i), latchVal := ⟨v.setWidth 2048, 0⟩, poison := poison, memRead := true }

/-- Deliver a vector result, the masked bits only, to D and to la (R193). -/
def giveV (i : Instr) (d : VDst) (v : Vec) (mask : Vec) (tag : Tag) (flags : Byte) (s : State) : State :=
  s.owe { pendingOf s i with dst := d.reg, val := v, tag := tag, mask := mask, flags := flags,
                             latch := some (isA i), latchVal := ⟨v, tag⟩, latchMask := mask }

/-- Deliver a predicate result and la (R181). -/
def giveP (i : Instr) (d : PReg) (v mask : Pred) (flags : Byte) (s : State) : State :=
  s.owe { pendingOf s i with dst := .p d.val, val := v.setWidth 2048, mask := mask.setWidth 2048, flags := flags,
                             latch := some true, latchPred := true }

/-- Element 0 of a value of a type, as 64 bits: sign-extended where the type is signed (R208). -/
def elemWord (t : Tag) (v : Vec) : Word :=
  let e := tagWidth t
  if t = 1 || t = 3 || t = 5 || t = 7 then BitVec.ofInt 64 (BitVec.ofNat e (elem v e 0)).toInt
  else BitVec.ofNat 64 (elem v e 0)

/-- A result that the pair owes goes where it is to go. -/
def Pending.moved (p : Pending) : TMove → Pending
  | .s a b => if p.dst = .s a then { p with dst := .s b } else p
  | .v a b => if p.dst = .v a then { p with dst := .v b } else p
  | .p a b => if p.dst = .p a then { p with dst := .p b } else p
  | .elem a b _ => if p.dst = .v a then { p with
      dst := .s b, val := (elemWord p.tag p.val).setWidth 2048, mask := if p.mask.getLsbD 0 then BitVec.allOnes 2048 else 0 }
    else p
  | .all a b => if p.dst = .p a then { p with
      dst := .p b, val := if p.val.getLsbD 0 then BitVec.allOnes 2048 else 0,
      mask := if p.mask.getLsbD 0 then BitVec.allOnes 2048 else 0 } else p

/-- The first of a list of moves that concerns a result takes it. -/
def Pending.route (p : Pending) (ms : List TMove) : Pending :=
  match ms.find? fun m => p.moved m ≠ p with
  | some m => p.moved m
  | none => p

/-- A result of variable latency that a pair already issued still owes its slot (R63, R299, R393); a translation's goes
where the pair's moves say. -/
def State.lateResult (s : State) (c k : Nat) (d : SDst) (v : Nat) (memRead : Bool) : State :=
  s.modSlot c k fun sl =>
    let ms := match s.tpair sl sl.lastPc.toNat with | some t => t.moves | none => []
    { sl with
      pending := sl.pending ++ [{ Pending.blank with
        id := sl.nextId, seq := sl.seq - 1, dst := d.reg, val := BitVec.ofNat 2048 v, mask := BitVec.allOnes 2048,
        latch := some false, latchVal := ⟨BitVec.ofNat 2048 v, 0⟩, fixed := false, due := s.now, memRead := memRead }.route ms],
      nextId := sl.nextId + 1 }

/-! ## Checks common to every instruction -/

/-- A channel port that the pair's record does not hold (R29): the field that names it. -/
def unbound (s : State) (i : Instr) : Option Nat :=
  match s.cur with
  | none => none
  | some sl =>
    let open_ (n : Nat) : Bool := decide (8 ≤ n) && ((s.core s.issue.core).binding n).holder ≠ (s.leaderOf sl).recPa
    (uses i).findSome? fun u => match u with
      | .rs f (.q n) => if open_ n.val then some f else none
      | .ws f (.q n) _ => if open_ n.val then some f else none
      | _ => none

/-- The instruction names q4 or q5 (R289). -/
def namesRing (i : Instr) : Bool :=
  (uses i).any fun u => match u with
    | .rs _ (.q n) => n.val = 4 || n.val = 5
    | .ws _ (.q n) _ => n.val = 4 || n.val = 5
    | _ => false

/-- The cluster of the issuing core is not held by the continuation's context (R289). -/
def foreignCluster (s : State) : Bool :=
  match s.cur with
  | none => false
  | some sl => (s.clus (clusterOf s.issue.core)).holder ≠ some sl.ctx

/-- A register read whose pending result is not yet readable (R144, item 1): its operand code. -/
def staleRead (s : State) (i : Instr) : Option Nat :=
  match s.cur with
  | none => none
  | some sl =>
    let reg (d : RegDst) (code : Nat) : Option Nat :=
      if sl.pending.any fun p => p.dst = d then some code else none
    let lat (a : Bool) (code : Nat) : Option Nat :=
      if sl.pending.any fun p => p.latch = some a then some code else none
    let one : Use → Option Nat
      | .rs _ (.s n) => reg (.s n.val) n.val
      | .rs _ .la => lat true 40
      | .rs _ .lc => lat false 41
      | .rv _ (.v n) => reg (.v n.val) n.val
      | .rv _ (.o n) => reg (.v (32 + n.val)) (32 + n.val)
      | .rv _ .la => lat true 40
      | .rv _ .lc => lat false 41
      | .rp _ n => reg (.p n.val) (64 + n.val)
      | _ => none
    match (uses i).findSome? one with
    | some c => some c
    | none => if s.issue.aslot && s.issue.pe then reg (.p s.issue.pr.val) (64 + s.issue.pr.val) else none

/-- A register written that a pending result of an earlier pair would reach no earlier (R144, item 2). -/
def overwrite (s : State) (i : Instr) : Option Nat :=
  match s.cur with
  | none => none
  | some sl =>
    let own := match latency s i with | some l => s.now + l | none => s.now + 1
    let hit (d : RegDst) (code : Nat) : Option Nat :=
      if sl.pending.any fun p => p.dst = d && (p.owed || (p.timed && decide (own ≤ p.due))) then some code else none
    (uses i).findSome? fun u => match u with
      | .ws _ (.s n) _ => hit (.s n.val) n.val
      | .wv _ (.v n) => hit (.v n.val) n.val
      | .wv _ (.o n) => hit (.v (32 + n.val)) (32 + n.val)
      | .wp _ n => hit (.p n.val) (64 + n.val)
      | _ => none

/-- A poisoned register that the instruction reads (R277): its model number. -/
def poisonRead (s : State) (i : Instr) : Option Nat :=
  match s.cur with
  | none => none
  | some sl =>
    let has (c : Nat) : Option Nat := if sl.poisoned.contains c then some c else none
    let one : Use → Option Nat
      | .rs _ (.s n) => has n.val
      | .rs _ .la => has 340
      | .rs _ .lc => has 341
      | .rv _ (.v n) => has (100 + n.val)
      | .rv _ (.o n) => has (132 + n.val)
      | .rv _ .la => has 340
      | .rv _ .lc => has 341
      | .rp _ n => has (200 + n.val)
      | _ => none
    match (uses i).findSome? one with
    | some c => some c
    | none => if s.issue.aslot && s.issue.pe then has (200 + s.issue.pr.val) else none

/-! ## Read and write sets (R82) -/

/-- The value of a set's base. -/
def Slot.baseVal (sl : Slot) : TVal → Nat
  | .reg n => (sl.regs.sr n).toNat
  | .args => sl.args.toNat
  | .const v => v
  | .port _ _ => 0

/-- ea .. ea+n-1 lies wholly in one range of a set. -/
def Slot.inSet (sl : Slot) (set : List (TVal × Nat)) (ea n : Nat) : Bool :=
  set.any fun (b, len) => decide (sl.baseVal b ≤ ea) && decide (ea + n ≤ sl.baseVal b + len)

/-- R82: the access breaks the sets of the task body in force. -/
def State.breaksSets (s : State) (k : Acc) (ea n : Nat) : Bool :=
  match s.cur with
  | none => false
  | some sl =>
    match sl.virt with
    | none => false
    | some v =>
      sl.csrs.chk.getLsbD 1 && !(decide (localBase ≤ ea) && decide (ea < localBase + 0x1000000))
      && !(match s.tpair sl sl.pc.toNat with | some t => t.exempt | none => false)
      && !(match k with
        | .load => sl.inSet v.reads ea n
        | .store => sl.inSet v.writes ea n
        | .atomic => sl.inSet v.reads ea n && sl.inSet v.writes ea n
        | .fetch => true)

/-- The whole of access_check (R227). -/
def checkAccess (s : State) (k : Acc) (scalar8 : Bool) (ea n al : Nat) : Option Trap :=
  match s.cur with
  | none => none
  | some sl =>
    match s.accessTrap (sl.who s.issue.core) k scalar8 ea n al with
    | some t => some t
    | none => if s.breaksSets k ea n then some (memTrap SETFAULT k ea n) else none

/-! ## The checks of R22, steps 3 to 7 -/

/-- The trap of one step for one instruction. -/
def Plan.step (p : Plan) (s : State) : Nat → Option Trap
  | 3 => match (unbound s p.instr).orElse fun _ => p.bad s with
    | some f => some (trapInfo ILLOPND f)
    | none => none
  | 4 => (p.priv s).map (trapInfo PRIV)
  | 5 => match s.cur with
    | some sl =>
      if sl.csrs.chk.getLsbD 0 then
        ((staleRead s p.instr).orElse fun _ => overwrite s p.instr).map (trapInfo STALLCHK)
      else none
    | none => none
  | 6 => (p.tag s).map fun (f, found, req) => trapInfo TAGFAULT (f + found * 256 + req * 65536)
  | 7 =>
    match poisonRead s p.instr with
    | some r => some (trapInfo MCHECK (2 + regInfo r * 256))
    | none =>
      if namesRing p.instr && foreignCluster s then some (protTrap (opcode p.instr)) else p.fault s
  | _ => none

/-- What becomes of a pair before it issues. -/
inductive Verdict where
  | go
  | trap (t : Trap) (aslot : Bool)
  | wait (w : Wait)

/-- The first trap of steps 3 to 7 over the slots of a pair, C-slot first within a step. -/
def firstTrap (ps : List (Plan × State × Bool)) : Option (Trap × Bool) :=
  [3, 4, 5, 6, 7].findSome? fun n => ps.findSome? fun (p, s, a) => (p.step s n).map fun t => (t, a)

/-- The ports that a list of instructions pops. -/
def popsOfAll (is : List Instr) : List (Nat × Nat) :=
  is.foldl (fun acc i => (popsOf i).foldl (fun acc (n, k) => sput acc n (sget 0 acc n + k)) acc) []

/-- Where the pushes of a list of instructions on a core go: the port pushed, the FIFO that it enters, and its room. -/
def State.pushList (s : State) (c ctx : Nat) (is : List Instr) : List (Nat × Option (Nat × Nat) × Nat) :=
  (is.flatMap pushesOf).map fun n => (n, s.pushTarget c n, s.pushRoom c n ctx)

/-- Two pushes of one core enter the same FIFO, or the same packet. -/
def samePush (a b : Nat × Option (Nat × Nat) × Nat) : Bool := a.2.1 == b.2.1 && (a.2.1.isSome || a.1 == b.1)

/-- Every port written has room for all of the pushes that enter it (R30, R286). -/
def roomFor (s : State) (is : List Instr) : Bool :=
  match s.cur with
  | none => true
  | some sl =>
    let ps := s.pushList s.issue.core sl.ctx is
    ps.all fun x => decide ((ps.filter (samePush x)).length ≤ x.2.2)

/-- Results of variable latency that a list of instructions would add (R116). -/
def addsVariable (s : State) (is : List Instr) : Nat :=
  (is.filter fun i => (latency s i).isNone && (uses i).any fun u => match u with
    | .ws _ _ _ => true | .wv _ _ => true | .wp _ _ => true | _ => false).length

/-- The matrix instructions (R239-R264). -/
def isMatrix : Instr → Bool
  | .mzero _ _ | .mlda _ _ | .mldb _ | .mring _ | .mma _ _ _ | .mband _ _ | .mst _ _ _ | .mldt _ _ _ | .mfence | .mchk _ => true
  | _ => false

/-- A pair with a matrix instruction that waits is at no blocking point: it is stalled in its slot (R241). -/
def pairWait (is : List Instr) (w : Wait) : Wait := if is.any isMatrix && w.blocking then .stall w else w

/-- The verdict on the slots of a pair (R22, R30, R116, R117). -/
def verdict (s : State) (ps : List (Plan × State × Bool)) : Verdict :=
  let is := ps.map fun (p, _, _) => p.instr
  let portFault := is.any fun i => (unbound s i).isSome || (namesRing i && foreignCluster s)
  if !portFault && !s.portsReady s.issue.core (popsOfAll is) then .wait (pairWait is (.ports (popsOfAll is)))
  else match firstTrap ps with
    | some (t, a) => .trap t a
    | none =>
      if !roomFor s is then .wait .room
      else match s.cur with
        | none => .go
        | some sl =>
          if 255 < sl.outstanding + addsVariable s is then .wait .quota
          else match ps.findSome? fun (p, s, _) => p.wait s with
            | some w => .wait (pairWait is w)
            | none => .go

/-! ## Pops and pushes (R30, R31, R383) -/

/-- A word leaves the spill ring for the inbox (R389). -/
def State.refillInbox (s : State) (c : Nat) : State :=
  let x := s.core c
  if x.ringCount = 0 || 64 ≤ x.inbox.length then s
  else
    let w := s.devGet x.spillCtx (x.spillBase.toNat + 8 * (x.ringHead % 512)) 8
    s.modCore c fun x => { x with inbox := x.inbox ++ [BitVec.ofNat 64 w], ringHead := (x.ringHead + 1) % 512,
                                  ringCount := x.ringCount - 1 }

/-- k words of a port are popped in this cycle. -/
def Core.countPops (now n k : Nat) (x : Core) : Core :=
  { x with popped := if x.popped.1 = now then (now, sput x.popped.2 n (sget 0 x.popped.2 n + k)) else (now, [(n, k)]) }

/-- Pop k words of a port. -/
def State.popPort (s0 : State) (c n k : Nat) : State :=
  let s := s0.modCore c (Core.countPops s0.now n k)
  if n = 0 then
    (List.range k).foldl (fun s _ => s.refillInbox c) (s.modCore c fun x => { x with inbox := x.inbox.drop k })
  else s.modCore c fun x => { x with fifo := sput x.fifo n ((sget [] x.fifo n).drop k) }

/-- The header fields of a packet (Table Engines-1). -/
def pktType (p : BitVec 512) : Nat := bits p.toNat 7 0
def pktChannel (p : BitVec 512) : Nat := bits p.toNat 17 16
def pktNcore (p : BitVec 512) : Nat := bits p.toNat 41 32

/-- The next id of a channel of a core (R385). -/
def State.takeId (s : State) (core ch : Nat) : State × Half :=
  let id := sget 0 (s.core core).xnext ch
  (s.modCore core fun x => { x with xnext := sput x.xnext ch (id + 1) }, id)

/-- A complete packet is handed to the front-end: it takes its id, XFLAST is set, and the pair is a release at scope
15 toward the operation (R361, R383, R385). -/
def State.handPacket (s : State) (c k port : Nat) (ws : List Word) : State :=
  match s.slot c k with
  | none => s
  | some sl =>
    let p : BitVec 512 := BitVec.ofNat 512 (ws.foldr (fun w acc => w.toNat + acc * 2 ^ 64) 0)
    let s := s.release c k
    let (s, id) := s.takeId (pktNcore p) (pktChannel p)
    let s := s.modSlot c k fun sl =>
      { sl with csrs := { sl.csrs with xflast := BitVec.ofNat 34 (pktChannel p * 2 ^ 32 + id.toNat) } }
    s.modDie (dieOf c) fun d => { d with pushed := d.pushed ++ [⟨p, sl.ctx, sl.native, c, none, id, port,
      some (⟨sl.ctx, sl.idx⟩, sl.gen.toNat)⟩] }

/-- One push of a slot takes effect. -/
def State.doPush (s : State) (c k port : Nat) (w : Word) : State :=
  if 1 ≤ port && port ≤ 3 then
    match s.slot c k with
    | none => s
    | some sl =>
      let ws := sget [] sl.asm port ++ [w]
      if ws.length < 8 then s.modSlot c k fun sl => { sl with asm := sput sl.asm port ws }
      else (s.handPacket c k port ws).modSlot c k fun sl => { sl with asm := sput sl.asm port [] }
  else match s.slot c k, s.pushTarget c port with
    | some sl, some (tc, tp) => { s with flights := s.flights ++ [⟨c, tc, tp, w, sl.ctx, s.now⟩] }
    | _, _ => s

/-- The pushes made so far take effect, the C-slot's first. -/
def State.flushPushes (s : State) : State :=
  let ps := s.issue.pushes
  let s := { s with issue := { s.issue with pushes := [] } }
  ((ps.filter fun (a, _, _) => !a) ++ ps.filter fun (a, _, _) => a).foldl
    (fun s (_, port, w) => s.doPush s.issue.core s.issue.slot port w) s

/-- The pops of a pair's instructions. -/
def State.popAll (s : State) (is : List Instr) : State :=
  (popsOfAll is).foldl (fun s (n, k) => s.popPort s.issue.core n k) s

/-! ## The run of one instruction -/

/-- Check and run an instruction by its plan. Inside a pair whose checks are made, it only acts. -/
def Plan.run (p : Plan) (s : State) : State :=
  match s.cur with
  | none => s
  | some _ =>
    if s.issue.checked then p.act s
    else match verdict s [(p, s, false)] with
      | .trap t a => s.trapPair t a false
      | .wait w => s.holdPair w true
      | .go => ((p.act s).flushPushes).popAll [p.instr]

end Sys2Proof.Machine
end

