-- ==== Sys2Proof/Machine/Control.lean ====
section
/-!
DEFINITION. Control transfer (R168-R173), software traps, `tfence`, `eret`, `nop`, fences and `qstat`.
-/
namespace Sys2Proof.Machine

/-! ## Transfers -/

/-- The target of an offset-form transfer (R33, R169). -/
def target (s : State) (off : BitVec 18) : Word := s.issue.pc + off.signExtend 64 * 8

/-- Go on at `t` after this pair (R172). -/
def State.jump (s : State) (t : Word) : State := { s with issue := { s.issue with npc := t } }

/-- R169: an offset-form transfer on a condition. -/
def branch (i : Instr) (off : BitVec 18) (taken : State → Bool) : Plan :=
  { instr := i, act := fun s => if taken s then s.jump (target s off) else s }

/-- R11, R171: an indirect target must be 8-byte aligned. -/
def targetFault (t : Word) : Option Trap :=
  if t.toNat % 8 ≠ 0 then some (memTrap MISALIGN .fetch t.toNat 8) else none

/-- R171: an indirect transfer without a link. -/
def indirect (i : Instr) (a : SSrc) : Plan :=
  { instr := i, fault := fun s => targetFault (readS s i 1 a), act := fun s => s.jump (readS s i 1 a) }

def planBr (off : BitVec 18) : Plan := branch (.br off) off fun _ => true
def planBrpAny (off : BitVec 18) : Plan := branch (.brpAny off) off fun s => readP s 0 ≠ 0
def planBrpAll (off : BitVec 18) : Plan := branch (.brpAll off) off fun s => readP s 0 = BitVec.allOnes 128
def planBrpNone (off : BitVec 18) : Plan := branch (.brpNone off) off fun s => readP s 0 = 0
def planBrsZ (off : BitVec 18) : Plan := branch (.brsZ off) off fun s => readS s (.brsZ off) 0 .la = 0
def planBrsNz (off : BitVec 18) : Plan := branch (.brsNz off) off fun s => readS s (.brsNz off) 0 .la ≠ 0
def planBrsLt (off : BitVec 18) : Plan := branch (.brsLt off) off fun s => (readS s (.brsLt off) 0 .la).getLsbD 63
def planBrsGe (off : BitVec 18) : Plan := branch (.brsGe off) off fun s => !(readS s (.brsGe off) 0 .la).getLsbD 63

def execBr (off : BitVec 18) (s : State) : Host.Outcome State Fault Refusal := .next ((planBr off).run s)
def execBrpAny (off : BitVec 18) (s : State) : Host.Outcome State Fault Refusal := .next ((planBrpAny off).run s)
def execBrpAll (off : BitVec 18) (s : State) : Host.Outcome State Fault Refusal := .next ((planBrpAll off).run s)
def execBrpNone (off : BitVec 18) (s : State) : Host.Outcome State Fault Refusal := .next ((planBrpNone off).run s)
def execBrsZ (off : BitVec 18) (s : State) : Host.Outcome State Fault Refusal := .next ((planBrsZ off).run s)
def execBrsNz (off : BitVec 18) (s : State) : Host.Outcome State Fault Refusal := .next ((planBrsNz off).run s)
def execBrsLt (off : BitVec 18) (s : State) : Host.Outcome State Fault Refusal := .next ((planBrsLt off).run s)
def execBrsGe (off : BitVec 18) (s : State) : Host.Outcome State Fault Refusal := .next ((planBrsGe off).run s)

/-- R169: the return address goes to s31 and lc. -/
def planCall (off : BitVec 18) : Plan :=
  { instr := .call off, act := fun s => (giveS (.call off) (.s 31) (s.issue.pc + 8) 0 s).jump (target s off) }
def execCall (off : BitVec 18) (s : State) : Host.Outcome State Fault Refusal := .next ((planCall off).run s)

/-- R171: the link goes to D and lc. -/
def planCallr (d : SDst) (a : SSrc) : Plan :=
  { instr := .callr d a, fault := fun s => targetFault (readS s (.callr d a) 1 a),
    act := fun s => (giveS (.callr d a) d (s.issue.pc + 8) 0 s).jump (readS s (.callr d a) 1 a) }
def execCallr (d : SDst) (a : SSrc) (s : State) : Host.Outcome State Fault Refusal := .next ((planCallr d a).run s)

def planJmpr (a : SSrc) : Plan := indirect (.jmpr a) a
def execJmpr (a : SSrc) (s : State) : Host.Outcome State Fault Refusal := .next ((planJmpr a).run s)
def planRet (a : SSrc) : Plan := indirect (.ret a) a
def execRet (a : SSrc) (s : State) : Host.Outcome State Fault Refusal := .next ((planRet a).run s)

/-- R169, R170: the counter is a variable-latency result, delivered in the issue cycle of its own pair. -/
def planLoop (off : BitVec 18) : Plan :=
  { instr := .loop off, act := fun s =>
      let n := readS s (.loop off) 0 (.s 30) - 1
      let s := s.owe { pendingOf s (.loop off) with
        dst := .s 30, val := n.setWidth 2048, mask := BitVec.allOnes 2048, latch := some false,
        latchVal := ⟨n.setWidth 2048, 0⟩, delivered := true }
      if n ≠ 0 then s.jump (target s off) else s }
def execLoop (off : BitVec 18) (s : State) : Host.Outcome State Fault Refusal := .next ((planLoop off).run s)

/-! ## nop, trap, tfence, eret -/

/-- R187. -/
def planNopC : Plan := { instr := .nopC, act := id }
def execNopC (s : State) : Host.Outcome State Fault Refusal := .next (planNopC.run s)

/-- R185: TRAPINS, resuming at the pair after. -/
def planTrap (n : BitVec 12) : Plan :=
  { instr := .trap n, act := fun s => s.trapPair (trapInfo TRAPINS n.toNat) false true }
def execTrap (n : BitVec 12) (s : State) : Host.Outcome State Fault Refusal := .next ((planTrap n).run s)

/-- Some FLAGS bit is still owed by an earlier pair (R278). -/
def flagsOwed (s : State) : Bool :=
  match s.cur with
  | none => false
  | some sl => !s.waitOver s.issue.core sl .flagsOwed

/-- R278: FLAGS AND FTRAP. -/
def arith (s : State) : Byte :=
  match s.cur with
  | none => 0
  | some sl => sl.csrs.flags &&& sl.csrs.ftrap

/-- R278. -/
def planTfence : Plan :=
  { instr := .tfence,
    fault := fun s => if flagsOwed s || arith s = 0 then none else some (trapInfo ARITH (arith s).toNat),
    wait := fun s => if flagsOwed s then some .flagsOwed else none,
    act := id }
def execTfence (s : State) : Host.Outcome State Fault Refusal := .next (planTfence.run s)

/-- The continuation runs at supervisor level (R515). -/
def supervisor (s : State) : Bool := match s.cur with | some sl => sl.native | none => false

/-- Some result of variable latency is still owed (R186). -/
def resultsOwed (s : State) : Bool :=
  match s.cur with
  | none => false
  | some sl => !s.waitOver s.issue.core sl .drain

/-- Some write that the continuation, or its gang, has posted has failed, or fails as it is accepted, and is not yet
reported (R371): MCHECK, source 2; `fence.seq` waits for the non-ordering ones too (R356). -/
def failedWrites (s : State) (seq : Bool) : Option Trap :=
  let t := s.releaseCrew s.issue.core s.issue.slot seq
  match t.cur with
  | some x => if t.writesFailed x seq then some (trapInfo MCHECK 2) else none
  | none => none

/-- R186 after its target is taken and the results owed are delivered: the release, and latches of zero. A fixed-latency
result that is delivered later overwrites them, as it would any value (log 17). -/
def State.eretNow (s : State) (c k : Nat) : State :=
  (s.release c k).modSlot c k fun sl =>
    { sl with regs := { sl.regs with la := VReg.zero, lc := VReg.zero },
              poisoned := sl.poisoned.filter fun r => r ≠ 340 && r ≠ 341 }

/-- R186: the target is that of the issue; what is left waits in the slot. -/
def planEret (a : SSrc) : Plan :=
  { instr := .eret a,
    priv := fun s => if supervisor s then none else some 0,
    fault := fun s => (targetFault (readS s (.eret a) 1 a)).orElse fun _ => failedWrites s false,
    act := fun s =>
      let t := readS s (.eret a) 1 a
      (if resultsOwed s then s.holdPair .eret false else s.eretNow s.issue.core s.issue.slot).jump t }
def execEret (a : SSrc) (s : State) : Host.Outcome State Fault Refusal := .next ((planEret a).run s)

/-! ## Fences (R353) -/

def acquires : FenceKind → Bool
  | .rel => false | _ => true
def releases : FenceKind → Bool
  | .acq => false | _ => true

/-- The read of a load or returning atomic is still owed (R353). -/
def readsOwed (s : State) : Bool :=
  match s.cur with
  | none => false
  | some sl => !s.waitOver s.issue.core sl .reads

/-- R353: the batch is flushed; an acquiring kind waits for reads, a releasing one performs earlier `mst` stores. -/
def planFence (k : FenceKind) (scope : Fin 16) : Plan :=
  { instr := .fence k scope,
    fault := fun s => if releases k then failedWrites s (k = .seq) else none,
    wait := fun s => if acquires k && readsOwed s then some .reads else none,
    act := fun s => if releases k then s.releaseCrew s.issue.core s.issue.slot (k = .seq)
                    else s.flushQuantum s.issue.core s.issue.slot }
def execFence (k : FenceKind) (scope : Fin 16) (s : State) : Host.Outcome State Fault Refusal :=
  .next ((planFence k scope).run s)

/-! ## qstat (R294) -/

/-- Free space in the FIFO that a push enters, as it was at the start of the cycle: pushes made since are on their way, and
pops made since are counted (R294). -/
def State.roomAtStart (s : State) (c n ctx : Nat) : Nat :=
  match s.pushTarget c n with
  | none => s.pushRoom c n ctx
  | some (tc, tp) =>
    let came := (s.flights.filter fun f => f.core == tc && f.port == tp && f.at_ == s.now).length
    let x := (s.core tc).popped
    let went := if x.1 = s.now then sget 0 x.2 tp else 0
    let b := (s.core tc).binding tp
    if tp < 8 || b.holder = 0 || b.ctx = ctx then 16 + came - (s.fifoLoad tc tp + went) else 0

/-- Table Cluster-4 for port n of the issuing core. -/
def portStatus (s : State) (n : Nat) : Word :=
  match s.cur with
  | none => 0
  | some sl =>
    let x := s.core s.issue.core
    let b := x.binding n
    let me := (s.leaderOf sl).recPa
    let mine := decide (8 ≤ n) && decide (b.holder = me) && decide (b.holder ≠ 0)
    let other := decide (8 ≤ n) && decide (b.holder ≠ me) && decide (b.holder ≠ 0)
    let room := if 1 ≤ n && n ≤ 3 then 8 - (sget [] sl.asm n).length
      else if n = 4 || n = 5 then s.roomAtStart s.issue.core n sl.ctx
      else if mine then s.roomAtStart s.issue.core n sl.ctx else 0
    let avail := if (1 ≤ n && n ≤ 3) || n = 6 || n = 7 then 0 else (x.portWords n).length
    BitVec.ofNat 64 (b2n other * 2 ^ 33 + b2n mine * 2 ^ 32 + room * 2 ^ 16 + avail)

def planQstat (d : SDst) (p : Fin 16) : Plan :=
  { instr := .qstat d p,
    fault := fun s => if (p.val = 4 || p.val = 5) && foreignCluster s then some (protTrap (opcode (.qstat d p))) else none,
    act := fun s => giveS (.qstat d p) d (portStatus s p.val) 0 s }
def execQstat (d : SDst) (p : Fin 16) (s : State) : Host.Outcome State Fault Refusal :=
  .next ((planQstat d p).run s)

end Sys2Proof.Machine
end

