-- ==== Sys2Proof/Machine/Window.lean ====
section
/-!
DEFINITION. Scratchpad lines and full/empty bits of a core (R217-R224), the core state window (R509, R510), and event
lines (R295-R299), as the operations that instructions, windows and engines share.
-/
namespace Sys2Proof.Machine

/-! ## Scratchpad lines -/

/-- A line is freed: its data and bits are discarded (R223). -/
def State.freeLine (s : State) (c line : Nat) : State :=
  (s.modCore c fun x => { x with
    owner := sset 0 x.owner line 0, fe := sset 0 x.fe line 0,
    spad := x.spad.filter fun (a, _) => a / 128 ≠ line }).unpoison (spadKey c (128 * line)) 128

/-- A line is allocated to a holder: data zero, all eight bits empty (R221). -/
def State.allocLine (s : State) (c line h : Nat) : State :=
  (s.freeLine c line).modCore c fun x => { x with owner := sset 0 x.owner line h }

/-- The full/empty bits of a line take a value. -/
def State.putFe (s : State) (c line : Nat) (v : Byte) : State :=
  s.modCore c fun x => { x with fe := sset 0 x.fe line v }

/-- One granule becomes full or empty. -/
def State.putGranule (s : State) (c g : Nat) (full : Bool) : State :=
  let bitm : Byte := BitVec.ofNat 8 (2 ^ (g % 8))
  let old : Byte := sget 0 (s.core c).fe (g / 8)
  s.putFe c (g / 8) (if full then old ||| bitm else old &&& ~~~bitm)

/-- n granules from granule g become full or empty. -/
def State.putGranules (s : State) (c g : Nat) (full : Bool) : Nat → State
  | 0 => s
  | n + 1 => (s.putGranule c g full).putGranules c (g + 1) full n

/-- Every line that a holder has on a core is freed, and its ports are unbound (R112, R292). -/
def State.unbindPort (s : State) (c n : Nat) : State :=
  s.modCore c fun x => { x with bind := sset Bind.none x.bind n Bind.none, fifo := sput x.fifo n [] }

def State.releaseHolder (s : State) (h : Nat) : State :=
  if h = 0 then s else
  s.cores.foldl (fun s (c, x) =>
    let s := x.owner.foldl (fun s (l, o) => if o = h then s.freeLine c l else s) s
    x.bind.foldl (fun s (n, b) => if b.holder = h then s.unbindPort c n else s) s) s

/-! ## The core state window (R510) -/

/-- The context whose pool holds the record at a physical address; 0 when none does. -/
def State.ctxOfRecord (s : State) (h : Nat) : Nat :=
  ((s.ctxs.find? fun (x, c) =>
    match s.physOf x c.contpool.toNat with
    | none => false
    | some b => decide (b ≤ h) && decide ((h - b) / 64 < bits (s.pool x) 31 0)
        && s.physOf x (s.recVa x ((h - b) / 64)) == some h).map Prod.fst).getD 0

/-- OWNER of a line. -/
def State.writeOwner (s : State) (c line : Nat) (h : Nat) : State :=
  let o := sget 0 (s.core c).owner line
  if 12288 ≤ line then s
  else if h = 0 then (if o = 0 then s else s.freeLine c line)
  else if o = 0 then s.allocLine c line h else s

/-- FE of a line. -/
def State.writeFe (s : State) (c line : Nat) (v : Byte) : State :=
  if line < 12288 && (s.core c).allocated line then s.putFe c line v else s

/-- HOLDER of a binding. -/
def State.writeHolder (s : State) (c n h : Nat) : State :=
  if h = 0 then s.unbindPort c n
  else s.modCore c fun x =>
    let b := x.binding n
    { x with bind := sset Bind.none x.bind n ({ b with staged := h } : Bind) }

/-- A route stays on the grid (R291). -/
def routeOk (c : Nat) (dx dy : Byte) : Bool :=
  let tx := (coreX c : Int) + dx.toInt
  let ty := (coreY c : Int) + dy.toInt
  decide (0 ≤ tx) && decide (tx ≤ 63) && decide (0 ≤ ty) && decide (ty ≤ 15)

/-- Route of a binding: the port is bound to the staged holder. -/
def State.writeRoute (s : State) (c n : Nat) (r : Word) : State :=
  let b := (s.core c).binding n
  let dx : Byte := r.setWidth 8
  let dy : Byte := (r >>> 8).setWidth 8
  if b.staged = 0 || (b.holder ≠ 0 && b.holder ≠ b.staged) || !routeOk c dx dy then s
  else
    let b' : Bind := ⟨b.staged, s.ctxOfRecord b.staged, 0, dx, dy, (r >>> 16).setWidth 3⟩
    s.modCore c fun x => { x with bind := sset Bind.none x.bind n b' }

/-- A supervisor store to offset `off` of core c's window (R509, R510). -/
def State.writeCoreWin (s : State) (c off : Nat) (v : Word) : State :=
  if off < 0x80 then
    if off % 16 = 0 then s.writeHolder c (8 + off / 16) (v &&& 0x000FFFFFFFFFFFC0).toNat
    else s.writeRoute c (8 + off / 16) v
  else if 0x1000 ≤ off && off < 0x1000 + 8 * 12288 then
    s.writeOwner c ((off - 0x1000) / 8) (v &&& 0x000FFFFFFFFFFFC0).toNat
  else if 0x19000 ≤ off && off < 0x19000 + 12288 then
    (List.range 8).foldl (fun s i => s.writeFe c (off - 0x19000 + i) ((v >>> (8 * i)).setWidth 8)) s
  else s

def execOwnerWrite (core line : Nat) (h : Word) (s : State) : Host.Outcome State Fault Refusal :=
  .next (s.writeOwner core line (h &&& 0x000FFFFFFFFFFFC0).toNat)
def execFeWrite (core line : Nat) (v : Byte) (s : State) : Host.Outcome State Fault Refusal :=
  .next (s.writeFe core line v)
def execBindHolderWrite (core n : Nat) (h : Word) (s : State) : Host.Outcome State Fault Refusal :=
  .next (s.writeHolder core n (h &&& 0x000FFFFFFFFFFFC0).toNat)
def execBindRouteWrite (core n : Nat) (r : Word) (s : State) : Host.Outcome State Fault Refusal :=
  .next (s.writeRoute core n r)

/-! ## Event lines (R295-R299) -/

/-- The unit of a cluster holds all 256 registrations it can (R296). -/
def State.unitFull (s : State) (cl : Nat) : Bool := decide (256 ≤ (s.clus cl).regs.length)

/-- A record registers on a line. -/
def State.registerLine (s : State) (cl line ctx idx : Nat) (gen : BitVec 16) : State :=
  s.modClus cl fun x => { x with regs := x.regs ++ [⟨line, ctx, idx, gen⟩] }

/-- The wait of one record on a line is satisfied: in its slot, or where its image is kept. -/
def Wait.fire (cl line : Nat) (count : Half) : Wait → Wait
  | .line k l none d => if k = cl ∧ l = line then .line k l (some count) d else .line k l none d
  | w => w

/-- Those that stand after matrix work of the pair too (R115, R296). -/
def Wait.fireIn (cl line : Nat) (count : Half) : Wait → Wait
  | .away wake w => .away wake (w.fire cl line count)
  | w => w.fire cl line count

def Hold.fire (cl line : Nat) (count : Half) (h : Hold) : Hold :=
  { h with w := h.w.fireIn cl line count, after := h.after.map (Wait.fireIn cl line count) }

def Slot.fire (cl line : Nat) (count : Half) (sl : Slot) : Slot := { sl with hold := sl.hold.map (Hold.fire cl line count) }

/-- R297: line `line` of cluster `cl` fires. -/
def State.fireLine (s : State) (cl line : Nat) : State :=
  let x := s.clus cl
  let n : Half := sget 0 x.counts line + 1
  let hit (ctx idx : Nat) (gen : BitVec 16) : Bool :=
    x.regs.any fun r => r.line == line && r.ctx == ctx && r.idx == idx && r.gen == gen
  let s := s.modClus cl fun x => { x with counts := sset 0 x.counts line n, regs := x.regs.filter fun r => r.line ≠ line }
  let s := s.mapSlots fun _ _ sl =>
    if hit sl.ctx sl.idx sl.gen then sl.fire cl line n else sl
  { s with suspended := s.suspended.map fun u =>
      if hit u.ctx u.idx u.img.gen then { u with
        img := u.img.fire cl line n, w := u.w.fire cl line n, others := u.others.map fun x => (x.1, x.2.fire cl line n) } else u }

/-- The continuation in slot k of core c registers and waits. A wait that it had begun with is over. -/
def State.registerWait (s : State) (c k cl line : Nat) (d : Option SDst) : State :=
  match s.slot c k with
  | none => s
  | some sl =>
    let t := s.registerLine cl line sl.ctx sl.idx sl.gen
    match sl.hold with
    | some ⟨.evRoom _ _ _, _, r, l⟩ => t.modSlot c k fun x => { x with hold := some ⟨.line cl line none d, s.now, r, l⟩ }
    | _ => t.holdSlot c k (.line cl line none d) false

/-- `evwait`, and a load from an event-unit page. The unit takes one operation at a time, and one that finds it full, as
the later members of a gang may, waits for room in its slot (R295, R296). -/
def State.waitLine (s : State) (c k cl line : Nat) (d : Option SDst) : State :=
  if s.unitFull cl then s.holdSlot c k (.evRoom cl line d) false else s.registerWait c k cl line d

/-- EVENT_PAGE_LOAD (R299). -/
def execEventPageLoad (core slot cluster line : Nat) (s : State) : Host.Outcome State Fault Refusal :=
  .next (if s.unitFull cluster || 64 ≤ line then s else s.waitLine core slot cluster line (some .z))

/-- EVENT_PAGE_STORE (R299): it fires only in a cluster that the issuer's context holds (R297). -/
def execEventPageStore (ctx cluster line : Nat) (s : State) : Host.Outcome State Fault Refusal :=
  .next (if s.holderNow cluster = some ctx && line < 64 then s.fireLine cluster line else s)

/-! ## Plain stores, wherever they go -/

/-- Whether an 8-byte access goes to an event-unit page: its cluster and line. -/
def State.eventAt (s : State) (w : Who) (k : Acc) (ea : Nat) : Option (Nat × Nat) :=
  match s.placeOf w k true ea with
  | .ok (.event cl off) => some (cl, off % 0x200 / 8)
  | _ => none

/-- A store of n bytes of v at ea by the continuation whose pair issues: memory, a scratchpad, a core state window, the
scale-out table or an event-unit page. -/
def State.storeVa (s : State) (w : Who) (ea n v : Nat) : State :=
  match s.placeOf w .store (n = 8) ea with
  | .ok (.event cl off) => (s.lineEffects w .store .store ea n).fireLine cl (off % 0x200 / 8)
  | .ok (.coreWin c off) => s.writeCoreWin c off (BitVec.ofNat 64 v)
  | _ => (s.lineEffects w .store .store ea n).writeVa w .store ea n v

end Sys2Proof.Machine
end

