-- ==== Sys2Proof/Machine/CoreMem.lean ====
section
/-!
DEFINITION. Loads, stores and scratchpad management of a core (R220-R236). The access check is R227.
-/
namespace Sys2Proof.Machine

/-- Who issues: the continuation of the pair. -/
def issuer (s : State) : Who :=
  match s.cur with
  | some sl => sl.who s.issue.core
  | none => ⟨0, false, 0⟩

/-- A scalar base plus an offset, modulo 2^64 (R227). -/
def sum (a b : Word) : Nat := (a + b).toNat

/-- imm6 scaled by the access size (R32, R229). -/
def scaled (imm : BitVec 6) (n : Nat) : Word := imm.signExtend 64 * BitVec.ofNat 64 n

/-! ## Scalar loads -/

def LdSize.bytes : LdSize → Nat
  | .s8 | .n8 => 1 | .s16 | .n16 => 2 | .s32 | .n32 => 4 | .d64 => 8
def LdSize.signed : LdSize → Bool
  | .s8 | .s16 | .s32 => true | _ => false
def ldBytes (z : LdSize) : Nat := LdSize.bytes z
def AcqSize.ld : AcqSize → LdSize
  | .s32 => .s32 | .n32 => .n32 | .d64 => .d64
def stBytes : StSize → Nat
  | .b8 => 1 | .b16 => 2 | .b32 => 4 | .b64 => 8

/-- R229: sign or zero extension of a loaded value. -/
def extend (z : LdSize) (v : Nat) : Word :=
  if LdSize.signed z then sext64 (8 * ldBytes z) v else zext64 (8 * ldBytes z) v

/-- R139: a load that the core's own local array serves, its scratchpad or a line that it owns, delivers no sooner than
4 cycles after issue. -/
def ownLag (s : State) (ea : Nat) : Nat :=
  match s.placeOf (issuer s) .load false ea with
  | .ok (.spad c _) => if c = s.issue.core then 3 else 0
  | .ok (.mem pa _ _) => if (sget Line.inv s.lines (pa / 128)).owner = some s.issue.core then 3 else 0
  | _ => 0

/-- A load by the pair: the value and whether it is poisoned, and the traces it leaves. -/
def State.loadVa (s : State) (ea n : Nat) : Nat × Bool := s.readVa (issuer s) .load ea n

/-- R143: an access waits for the atomics that the continuation has posted to the same lines. -/
def postedWait (s : State) (ea n : Nat) : Option Wait :=
  match s.cur with
  | some sl => if s.posted sl.ctx sl.idx ea n then some (.posted ea n) else none
  | none => none

/-- A load from the event-unit page of a cluster that the issuer's context does not hold traps PROT, as `evwait` and a
store to it do (R289, R299, log 90). -/
def eventLoadFault (s : State) (ea : Nat) : Option Trap :=
  match s.eventAt (issuer s) .load ea with
  | some (cl, _) => if s.holderNow cl = some (issuer s).ctx then none else some (memTrap PROT .load ea 8)
  | none => none

/-- The plan of a scalar load at an address (R229, R230, R299). -/
def loadPlan (i : Instr) (z : LdSize) (d : SDst) (ea : State → Nat) : Plan :=
  let n := ldBytes z
  { instr := i,
    fault := fun s => (checkAccess s .load (n = 8) (ea s) n n).orElse fun _ =>
      if n = 8 then eventLoadFault s (ea s) else none,
    wait := fun s => if n = 8 then
        match s.eventAt (issuer s) .load (ea s) with
        | some (cl, _) => if s.unitFull cl then some .evFull else none
        | none => postedWait s (ea s) n
      else postedWait s (ea s) n,
    act := fun s =>
      match (if n = 8 then s.eventAt (issuer s) .load (ea s) else none) with
      | some (cl, line) =>
        (s.lineEffects (issuer s) .load .load (ea s) n).waitLine s.issue.core s.issue.slot cl line (some d)
      | none =>
        let (v, bad) := s.loadVa (ea s) n
        giveLoad i d (extend z v) bad (ownLag s (ea s)) (s.lineEffects (issuer s) .load .load (ea s) n) }

def planLd (z : LdSize) (d : SDst) (a : SSrc) (imm : BitVec 6) : Plan :=
  loadPlan (.ld z d a imm) z d fun s => sum (readS s (.ld z d a imm) 1 a) (scaled imm (ldBytes z))
def execLd (z : LdSize) (d : SDst) (a : SSrc) (imm : BitVec 6) (s : State) : Host.Outcome State Fault Refusal :=
  .next ((planLd z d a imm).run s)

def planLdx (z : LdSize) (d : SDst) (a b : SSrc) : Plan :=
  loadPlan (.ldx z d a b) z d fun s => sum (readS s (.ldx z d a b) 1 a) (readS s (.ldx z d a b) 2 b)
def execLdx (z : LdSize) (d : SDst) (a b : SSrc) (s : State) : Host.Outcome State Fault Refusal :=
  .next ((planLdx z d a b).run s)

/-- R230: the acquire that follows adds nothing to the model's one order of accesses (log 11). -/
def planLdAcq (z : AcqSize) (d : SDst) (a : SSrc) (scope : Fin 16) : Plan :=
  loadPlan (.ldAcq z d a scope) (AcqSize.ld z) d fun s => (readS s (.ldAcq z d a scope) 1 a).toNat
def execLdAcq (z : AcqSize) (d : SDst) (a : SSrc) (scope : Fin 16) (s : State) : Host.Outcome State Fault Refusal :=
  .next ((planLdAcq z d a scope).run s)

/-! ## Scalar stores -/

/-- R297, R299: an event-unit page may be written only when the issuer's context holds the cluster; the store acts as
`evsig`, a release (R298). -/
def eventStoreFault (s : State) (ea : Nat) : Option Trap :=
  match s.eventAt (issuer s) .store ea with
  | some (cl, _) => if s.holderNow cl = some (issuer s).ctx then failedWrites s false else some (memTrap PROT .store ea 8)
  | none => none

/-- The plan of a scalar store (R229); `rel` makes it a release first (R230). -/
def storePlan (i : Instr) (n : Nat) (rel : Bool) (v : State → Word) (ea : State → Nat) : Plan :=
  { instr := i,
    fault := fun s => ((checkAccess s .store (n = 8) (ea s) n n).orElse fun _ =>
        if n = 8 then eventStoreFault s (ea s) else none).orElse fun _ => if rel then failedWrites s false else none,
    wait := fun s => postedWait s (ea s) n,
    act := fun s =>
      let val := (v s).toNat
      let a := ea s
      let s := if rel || (n = 8 && (s.eventAt (issuer s) .store a).isSome) then s.release s.issue.core s.issue.slot else s
      s.storeVa (issuer s) a n val }

def planSt (z : StSize) (d a : SSrc) (imm : BitVec 6) : Plan :=
  storePlan (.st z d a imm) (stBytes z) false (fun s => readS s (.st z d a imm) 0 d)
    fun s => sum (readS s (.st z d a imm) 1 a) (scaled imm (stBytes z))
def execSt (z : StSize) (d a : SSrc) (imm : BitVec 6) (s : State) : Host.Outcome State Fault Refusal :=
  .next ((planSt z d a imm).run s)

def planStx (z : StSize) (d a b : SSrc) : Plan :=
  storePlan (.stx z d a b) (stBytes z) false (fun s => readS s (.stx z d a b) 0 d)
    fun s => sum (readS s (.stx z d a b) 1 a) (readS s (.stx z d a b) 2 b)
def execStx (z : StSize) (d a b : SSrc) (s : State) : Host.Outcome State Fault Refusal :=
  .next ((planStx z d a b).run s)

def planStRel (z : StSize) (d a : SSrc) (scope : Fin 16) : Plan :=
  storePlan (.stRel z d a scope) (stBytes z) true (fun s => readS s (.stRel z d a scope) 0 d)
    fun s => (readS s (.stRel z d a scope) 1 a).toNat
def execStRel (z : StSize) (d a : SSrc) (scope : Fin 16) (s : State) : Host.Outcome State Fault Refusal :=
  .next ((planStRel z d a scope).run s)

/-! ## Vector loads and stores (R231-R233) -/

/-- A vector load delivers to D and lc; a poisoned value marks D (R277). -/
def giveVLoad (i : Instr) (d : VDst) (v : Vec) (tag : Tag) (poison : Bool) (lag : Nat) (s : State) : State :=
  s.owe { pendingOf s i with fixed := false, due := s.now + lag, dst := d.reg, val := v, tag := tag, mask := BitVec.allOnes 2048,
                             latch := some (isA i), latchVal := ⟨v, tag⟩, poison := poison, memRead := true }

def planVld (d : VDst) (a : SSrc) (tag : Tag) : Plan :=
  let i : Instr := .vld d a tag
  let ea (s : State) : Nat := (readS s i 1 a).toNat
  { instr := i, fault := fun s => checkAccess s .load false (ea s) 256 16,
    wait := fun s => postedWait s (ea s) 256,
    act := fun s =>
      let (v, bad) := s.loadVa (ea s) 256
      giveVLoad i d (BitVec.ofNat 2048 v) tag bad (ownLag s (ea s)) (s.lineEffects (issuer s) .load .load (ea s) 256) }
def execVld (d : VDst) (a : SSrc) (tag : Tag) (s : State) : Host.Outcome State Fault Refusal :=
  .next ((planVld d a tag).run s)

/-- The element width at which a vector store reads lit and lane (R231). -/
def planVst (d : VSrc) (a : SSrc) (imm : BitVec 6) : Plan :=
  let i : Instr := .vst d a imm
  let ea (s : State) : Nat := sum (readS s i 1 a) (scaled imm 256)
  { instr := i, fault := fun s => checkAccess s .store false (ea s) 256 16,
    wait := fun s => postedWait s (ea s) 256,
    act := fun s => s.storeVa (issuer s) (ea s) 256 (readV s 32 false d).toNat }
def execVst (d : VSrc) (a : SSrc) (imm : BitVec 6) (s : State) : Host.Outcome State Fault Refusal :=
  .next ((planVst d a imm).run s)

/-- The checks of the elements of a vector access, in increasing index (R227). -/
def checkElems (s : State) (k : Acc) (n : Nat) (addrs : List Nat) : Option Trap :=
  addrs.findSome? fun a => checkAccess s k false a n n

/-- R143 for the elements of a vector access. -/
def postedElems (s : State) (n : Nat) (addrs : List Nat) : Option Wait := addrs.findSome? fun a => postedWait s a n

/-- Element addresses at a stride (R232). -/
def strided (base stride : Word) (n : Nat) : List Nat :=
  (List.range n).map fun i => (base + BitVec.ofNat 64 i * stride).toNat

/-- The elements read at the given addresses, and whether one is poisoned. -/
def State.gather (s : State) (n : Nat) (addrs : List Nat) : Vec × Bool :=
  (packElems (8 * n) (addrs.map fun a => (s.loadVa a n).1), addrs.any fun a => (s.loadVa a n).2)

/-- Store elements in increasing index (R232, R233). -/
def State.scatterTo (s : State) (n : Nat) (addrs : List Nat) (v : Vec) : State :=
  addrs.zipIdx.foldl (fun s (a, j) => s.storeVa (issuer s) a n (elem v (8 * n) j)) s

/-- Every line an element touches. -/
def State.elemEffects (s : State) (n : Nat) (addrs : List Nat) : State :=
  addrs.foldl (fun s a => s.lineEffects (issuer s) .load .load a n) s

/-- The earliest delivery of a vector of elements: the latest that R139 gives one of them. -/
def elemLag (s : State) (addrs : List Nat) : Nat := addrs.foldl (fun m a => max m (ownLag s a)) 0

def planVlds (d : VDst) (g : Fin 16) (tag : Tag) : Plan :=
  let i : Instr := .vlds d g tag
  let n := tagWidth tag / 8
  let addrs (s : State) : List Nat := strided (readS s i 1 (evenS g)) (readS s i 1 (oddS g)) (256 / n)
  { instr := i, fault := fun s => checkElems s .load n (addrs s),
    wait := fun s => postedElems s n (addrs s),
    act := fun s =>
      let (v, bad) := s.gather n (addrs s)
      giveVLoad i d v tag bad (elemLag s (addrs s)) (s.elemEffects n (addrs s)) }
def execVlds (d : VDst) (g : Fin 16) (tag : Tag) (s : State) : Host.Outcome State Fault Refusal :=
  .next ((planVlds d g tag).run s)

def planVsts (d : VSrc) (g : Fin 16) : Plan :=
  let i : Instr := .vsts d g
  let n (s : State) : Nat := tagWidth ((tagOf s d).getD 0) / 8
  let addrs (s : State) : List Nat := strided (readS s i 1 (evenS g)) (readS s i 1 (oddS g)) (256 / n s)
  { instr := i, fault := fun s => checkElems s .store (n s) (addrs s),
    wait := fun s => postedElems s (n s) (addrs s),
    act := fun s => s.scatterTo (n s) (addrs s) (readV s 32 false d) }
def execVsts (d : VSrc) (g : Fin 16) (s : State) : Host.Outcome State Fault Refusal :=
  .next ((planVsts d g).run s)

def w2Bytes : W2 → Nat
  | .w32 => 4 | .w64 => 8

/-- R233: the index tag; z, lane and lit serve as natural indices. -/
def indexTag (s : State) (w : W2) (b : VSrc) : Option (Nat × Nat × Nat) :=
  match tagOf s b with
  | none => none
  | some t =>
    if (w = .w32 && (t = 5 || t = 6)) || (w = .w64 && (t = 7 || t = 8)) then none else some (2, t.toNat, 0)

/-- R233: the data register's element width. -/
def dataTag (s : State) (w : W2) (d : VSrc) : Option (Nat × Nat × Nat) :=
  match tagOf s d with
  | none => none
  | some t => if tagWidth t = 8 * w2Bytes w then none else some (0, t.toNat, 0)

/-- Element addresses of a gather or scatter (R233). -/
def indexed (s : State) (w : W2) (base : Word) (b : VSrc) : List Nat :=
  let n := w2Bytes w
  let signed := tagOf s b = some 5 || tagOf s b = some 7
  (elems (readV s (8 * n) false b) (8 * n)).map fun x =>
    (base + (if signed then sext64 (8 * n) x else zext64 (8 * n) x) * BitVec.ofNat 64 n).toNat

/-- A gather into z delivers to la (R233), and to lc as every C-class result (R25, log 89). -/
def State.latchOfZ (s : State) (d : VDst) : State :=
  match d with
  | .z => s.modCur fun sl => match sl.pending.getLast? with
    | some p => sl.oweMore 1 { p with latch := some true }
    | none => sl
  | _ => s

def planVgath (w : W2) (d : VDst) (a : SSrc) (b : VSrc) : Plan :=
  let i : Instr := .vgath w d a b
  let n := w2Bytes w
  let addrs (s : State) : List Nat := indexed s w (readS s i 1 a) b
  { instr := i,
    tag := fun s => (dataTag s w d.src).orElse fun _ => indexTag s w b,
    fault := fun s => checkElems s .load n (addrs s),
    wait := fun s => postedElems s n (addrs s),
    act := fun s =>
      let (v, bad) := s.gather n (addrs s)
      (giveVLoad i d v ((tagOf s d.src).getD (natTag (8 * n))) bad (elemLag s (addrs s))
        (s.elemEffects n (addrs s))).latchOfZ d }
def execVgath (w : W2) (d : VDst) (a : SSrc) (b : VSrc) (s : State) : Host.Outcome State Fault Refusal :=
  .next ((planVgath w d a b).run s)

def planVscat (w : W2) (d : VSrc) (a : SSrc) (b : VSrc) : Plan :=
  let i : Instr := .vscat w d a b
  let n := w2Bytes w
  let addrs (s : State) : List Nat := indexed s w (readS s i 1 a) b
  { instr := i,
    tag := fun s => (dataTag s w d).orElse fun _ => indexTag s w b,
    fault := fun s => checkElems s .store n (addrs s),
    wait := fun s => postedElems s n (addrs s),
    act := fun s => s.scatterTo n (addrs s) (readV s (8 * n) false d) }
def execVscat (w : W2) (d : VSrc) (a : SSrc) (b : VSrc) (s : State) : Host.Outcome State Fault Refusal :=
  .next ((planVscat w d a b).run s)

/-! ## Full/empty instructions (R234-R236) -/

/-- The first byte of a range outside the local window, or in no allocated line: LOCALRANGE. -/
def localFault (s : State) (k : Acc) (ea n size : Nat) : Option Trap :=
  (piecesOf ea n).findSome? fun (a, _) =>
    if localBase ≤ a && a < localBase + spadLimit
        && (s.core s.issue.core).allocated ((a - localBase) / 128) then none
    else some (memTrap LOCALRANGE k a size)

/-- R234: alignment, then the local window. -/
def ldfeFault (s : State) (ea n al : Nat) : Option Trap :=
  if ea % al ≠ 0 then some (memTrap MISALIGN .load ea n) else localFault s .load ea n n

/-- Granules of a range. -/
def granuleCount (ea n : Nat) : Nat := (ea % 16 + n + 15) / 16

/-- R234: the pair waits until every granule is full. -/
def ldfeWait (s : State) (ea n : Nat) : Option Wait :=
  let off := (ea - localBase) / 16 * 16
  if (s.core s.issue.core).granulesFull off (granuleCount ea n) then none
  else some (.granules off (granuleCount ea n))

/-- The `.c` forms leave the granules empty. -/
def ldfeClear (s : State) (clear : Bool) (ea n : Nat) : State :=
  if clear then s.putGranules s.issue.core ((ea - localBase) / 16) false (granuleCount ea n) else s

def ldfeScalar (i : Instr) (clear : Bool) (d : SDst) (a : SSrc) : Plan :=
  let ea (s : State) : Nat := (readS s i 1 a).toNat
  { instr := i, fault := fun s => ldfeFault s (ea s) 8 8, wait := fun s => ldfeWait s (ea s) 8,
    act := fun s =>
      let (v, bad) := s.loadVa (ea s) 8
      giveLoad i d (BitVec.ofNat 64 v) bad (ownLag s (ea s))
        (ldfeClear (s.lineEffects (issuer s) .load .load (ea s) 8) clear (ea s) 8) }

def ldfeVector (i : Instr) (clear : Bool) (d : VDst) (a : SSrc) (tag : Tag) : Plan :=
  let ea (s : State) : Nat := (readS s i 1 a).toNat
  { instr := i, fault := fun s => ldfeFault s (ea s) 256 16, wait := fun s => ldfeWait s (ea s) 256,
    act := fun s =>
      let (v, bad) := s.loadVa (ea s) 256
      giveVLoad i d (BitVec.ofNat 2048 v) tag bad (ownLag s (ea s))
        (ldfeClear (s.lineEffects (issuer s) .load .load (ea s) 256) clear (ea s) 256) }

def planLdfe64 (d : SDst) (a : SSrc) : Plan := ldfeScalar (.ldfe64 d a) false d a
def execLdfe64 (d : SDst) (a : SSrc) (s : State) : Host.Outcome State Fault Refusal := .next ((planLdfe64 d a).run s)
def planLdfe64c (d : SDst) (a : SSrc) : Plan := ldfeScalar (.ldfe64c d a) true d a
def execLdfe64c (d : SDst) (a : SSrc) (s : State) : Host.Outcome State Fault Refusal := .next ((planLdfe64c d a).run s)
def planLdfeV (d : VDst) (a : SSrc) (tag : Tag) : Plan := ldfeVector (.ldfeV d a tag) false d a tag
def execLdfeV (d : VDst) (a : SSrc) (tag : Tag) (s : State) : Host.Outcome State Fault Refusal :=
  .next ((planLdfeV d a tag).run s)
def planLdfeVc (d : VDst) (a : SSrc) (tag : Tag) : Plan := ldfeVector (.ldfeVc d a tag) true d a tag
def execLdfeVc (d : VDst) (a : SSrc) (tag : Tag) (s : State) : Host.Outcome State Fault Refusal :=
  .next ((planLdfeVc d a tag).run s)

/-- R235: alignment, then R227 on every byte of a window, and LOCALRANGE on the first byte that is in neither window,
whichever byte fails first. -/
def stfeFault (s : State) (ea n al : Nat) : Option Trap :=
  if ea % al ≠ 0 then some (memTrap MISALIGN .store ea n)
  else match (piecesOf ea n).find? fun x => !isWindow x.1 with
    | none => checkAccess s .store false ea n al
    | some (a, _) => match s.accessTrap (issuer s) .store false ea (a - ea) 1 with
      | some t => some (memTrap t.code .store t.addr n)
      | none => some (memTrap LOCALRANGE .store a n)

/-- Every granule written becomes full, at the array that holds it. -/
def State.fillGranules (s : State) (ea n : Nat) : State :=
  (piecesOf ea n).foldl (fun s (a, m) => match window s.issue.core a with
    | some (c, off) => s.putGranules c (off / 16) true (granuleCount off m)
    | none => s) s

def planStfe64 (d a : SSrc) (imm : BitVec 6) : Plan :=
  let i : Instr := .stfe64 d a imm
  let ea (s : State) : Nat := sum (readS s i 1 a) (scaled imm 8)
  { instr := i, fault := fun s => stfeFault s (ea s) 8 8,
    act := fun s => (s.storeVa (issuer s) (ea s) 8 (readS s i 0 d).toNat).fillGranules (ea s) 8 }
def execStfe64 (d a : SSrc) (imm : BitVec 6) (s : State) : Host.Outcome State Fault Refusal :=
  .next ((planStfe64 d a imm).run s)

def planStfeV (d : VSrc) (a : SSrc) (imm : BitVec 6) : Plan :=
  let i : Instr := .stfeV d a imm
  let ea (s : State) : Nat := sum (readS s i 1 a) (scaled imm 256)
  { instr := i, fault := fun s => stfeFault s (ea s) 256 16,
    act := fun s => (s.storeVa (issuer s) (ea s) 256 (readV s 32 false d).toNat).fillGranules (ea s) 256 }
def execStfeV (d : VSrc) (a : SSrc) (imm : BitVec 6) (s : State) : Host.Outcome State Fault Refusal :=
  .next ((planStfeV d a imm).run s)

/-- R236: the first byte of a range that is outside the local window or in an unallocated line, line by line; `fuel`
bounds the lines of the array. -/
def rangeFault (s : State) : Nat → Nat → Nat → Option Nat
  | 0, a, _ => some a
  | fuel + 1, a, n =>
    if n = 0 then none
    else if localBase ≤ a && a < localBase + spadLimit && (s.core s.issue.core).allocated ((a - localBase) / 128) then
      rangeFault s fuel (a + (128 - a % 128)) (n - (128 - a % 128))
    else some a

/-- The plan of `fecl` and `feset`. -/
def fePlan (i : Instr) (full : Bool) (a b : SSrc) : Plan :=
  let ea (s : State) : Nat := (readS s i 1 a).toNat
  let len (s : State) : Nat := (readS s i 2 b).toNat
  { instr := i,
    fault := fun s =>
      if ea s % 16 ≠ 0 || len s % 16 ≠ 0 then some (memTrap MISALIGN .store (ea s) 16)
      else (rangeFault s 12289 (ea s) (len s)).map fun x => memTrap LOCALRANGE .store x 16,
    act := fun s => s.putGranules s.issue.core ((ea s - localBase) / 16) full (len s / 16) }

def planFecl (a b : SSrc) : Plan := fePlan (.fecl a b) false a b
def execFecl (a b : SSrc) (s : State) : Host.Outcome State Fault Refusal := .next ((planFecl a b).run s)
def planFeset (a b : SSrc) : Plan := fePlan (.feset a b) true a b
def execFeset (a b : SSrc) (s : State) : Host.Outcome State Fault Refusal := .next ((planFeset a b).run s)

/-! ## spalloc and spfree (R220-R223) -/

/-- The record that holds what the running continuation allocates. -/
def holder (s : State) : Nat := match s.cur with | some sl => (s.leaderOf sl).recPa | none => 0

/-- R221: RANGE, TAKEN with its line, or the lines of the range. -/
def spadRange (s : State) (off len : Word) : Except Word (List Nat) :=
  if off.toNat % 128 ≠ 0 || len.toNat % 128 ≠ 0 || len = 0 || spadLimit < off.toNat + len.toNat then .error 1
  else
    let ls := (List.range (len.toNat / 128)).map (· + off.toNat / 128)
    match ls.find? fun l => sget 0 (s.core s.issue.core).owner l ≠ 0 && sget 0 (s.core s.issue.core).owner l ≠ holder s with
    | some l => .error (BitVec.ofNat 64 (l * 128 * 2 ^ 32 + 2))
    | none => .ok ls

def planSpalloc (d : SDst) (a b : SSrc) : Plan :=
  let i : Instr := .spalloc d a b
  { instr := i, act := fun s =>
      match spadRange s (readS s i 1 a) (readS s i 2 b) with
      | .error e => giveS i d e 0 s
      | .ok ls =>
        let fresh := ls.filter fun l => !(s.core s.issue.core).allocated l
        let s' := fresh.foldl (fun t l => t.allocLine s.issue.core l (holder s)) s
        giveS i d (BitVec.ofNat 64 (fresh.length % 2 ^ 16 * 2 ^ 16)) 0 s' }
def execSpalloc (d : SDst) (a b : SSrc) (s : State) : Host.Outcome State Fault Refusal :=
  .next ((planSpalloc d a b).run s)

def planSpfree (d : SDst) (a b : SSrc) : Plan :=
  let i : Instr := .spfree d a b
  { instr := i, act := fun s =>
      match spadRange s (readS s i 1 a) (readS s i 2 b) with
      | .error e => giveS i d e 0 s
      | .ok ls =>
        let mine := ls.filter fun l => (s.core s.issue.core).allocated l
        let s' := mine.foldl (fun t l => t.freeLine s.issue.core l) s
        giveS i d (BitVec.ofNat 64 (mine.length % 2 ^ 16 * 2 ^ 16)) 0 s' }
def execSpfree (d : SDst) (a b : SSrc) (s : State) : Host.Outcome State Fault Refusal :=
  .next ((planSpfree d a b).run s)

end Sys2Proof.Machine
end

