-- ==== Sys2Proof/Machine/Atomic.lean ====
section
/-!
DEFINITION. Atomics (R363-R378): the proxy's step, the relaxed uses (R354-R358), and the instructions.
-/
namespace Sys2Proof.Machine

/-! ## At the serialisation point (R366-R369) -/

/-- PROXY_ATOMIC (R370): the proxy carries out the n-th accepted request, unless an earlier one to its line waits. -/
def execProxyAtomic (n : Nat) (s : State) : Host.Outcome State Fault Refusal :=
  match s.reqs[n]? with
  | none => .next s
  | some q =>
    if (s.reqs.take n).any q.sameLine then .next s else .next ({ s with reqs := s.reqs.eraseIdx n }.carryOut q)

/-- ATOMIC_AT_HOME (R366, R367): a read-modify-write by a unit of the device for a context, at supervisor level. One that
cannot be completed writes nothing (R371). -/
def execAtomicAtHome (ctx ea w : Nat) (op : RmwOp) (v : Nat) (s : State) : Host.Outcome State Fault Refusal :=
  if ea % (w / 8) ≠ 0 then .next s else
  match s.placeOf ⟨ctx, true, 0⟩ .atomic false ea with
  | .error _ => .next s
  | .ok p =>
    if s.placePoisoned p (w / 8) then .next s
    else .next (((match p with | .mem pa mt _ => if mt = 0 then s.unitWrites pa (w / 8) else s | _ => s).rmwPlace p w op v
      false).1)

/-! ## The instructions -/

/-- ORDER release, acq_rel or seq (R350). -/
def orderReleases (x : Option AAttr) : Bool :=
  match x with
  | some a => a.order = .rel || a.order = .acqRel || a.order = .seq
  | none => false

def useOf (x : Option AAttr) : AUse := match x with | some a => a.use | none => .unpaired

/-- The result registers of a returning form, low word first. -/
abbrev Dsts := List RegDst

/-- A returning form owes its results: the id of the first. -/
def State.oweAtomic (s : State) (i : Instr) (ds : Dsts) : State × Option Nat :=
  match ds with
  | [] => (s, none)
  | d :: l =>
    let id := match s.cur with | some sl => sl.nextId | none => 0
    let base := { pendingOf s i with mask := BitVec.allOnes 2048, memRead := true }
    let s := s.owe { base with dst := d, latch := some false, latchVal := VReg.zero }
    (l.foldl (fun s d => s.modCur fun sl => sl.oweMore 1 { base with dst := d }) s, some id)

/-- ORDER acquire, acq_rel or seq (R350). -/
def orderAcquires (x : Option AAttr) : Bool :=
  match x with
  | some a => a.order = .acq || a.order = .acqRel || a.order = .seq
  | none => false

/-- The entry of a batch for a location (R357). -/
def batchHas (b : List QEntry) (ea : Nat) (w : Nat) : Bool := b.any fun q => q.ea.toNat == ea && q.w == w

def batchAdd (b : List QEntry) (ea : Nat) (p : Place) (w : Nat) (v : Word) : List QEntry :=
  if batchHas b ea w then b.map fun q => if q.ea.toNat = ea && q.w = w then { q with addend := q.addend + v } else q
  else b ++ [⟨BitVec.ofNat 64 ea, p, w, v⟩]

/-- The earlier addends of the batch for a location. -/
def batchSum (b : List QEntry) (ea w : Nat) : Nat :=
  match b.find? fun q => q.ea.toNat == ea && q.w == w with
  | some q => q.addend.toNat
  | none => 0

/-- R357: an update that would need a ninth entry flushes the batch first. -/
def State.makeRoom (s : State) (ea w : Nat) : State :=
  match s.cur with
  | some sl => if !batchHas sl.quantum ea w && decide (8 ≤ sl.quantum.length) then s.flushQuantum s.issue.core s.issue.slot
      else s
  | none => s

/-- R357: an update joins the batch, which flushes after it when it is full. -/
def State.joinBatch (s : State) (ea : Nat) (p : Place) (w : Nat) (v : Word) : State :=
  let s := (s.makeRoom ea w).modCur fun sl => { sl with quantum := batchAdd sl.quantum ea p w v, qcount := sl.qcount + 1 }
  match s.cur with
  | some sl => if sl.csrs.quant.toNat ≤ sl.qcount then s.flushQuantum s.issue.core s.issue.slot else s
  | none => s

/-- Batching is on for this update (R357). -/
def batching (s : State) (x : Option AAttr) : Bool :=
  useOf x = .quantum && (match s.cur with | some sl => sl.csrs.quant ≠ 0 | none => false)

/-- A quantum add: no-return forms join the batch; a returning one flushes it, and the add of its own location, which
carries its addend too, returns what precedes that (R357). -/
def State.quantumAdd (s : State) (i : Instr) (ds : Dsts) (ea : Nat) (p : Place) (w : Nat) (v : Word) : State :=
  if ds.isEmpty then s.joinBatch ea p w v else
  let s := s.makeRoom ea w
  match s.cur with
  | none => s
  | some sl =>
    let before := batchSum sl.quantum ea w
    let s := (s.modCur fun sl => { sl with quantum := sl.quantum.filter fun q => !(q.ea.toNat == ea && q.w == w) }).flushQuantum
      s.issue.core s.issue.slot
    let (s, id) := s.oweAtomic i ds
    s.send ⟨sl.ctx, sl.idx, s.issue.core, id, p.pa, p.key, w, .add, (before + v.toNat) % 2 ^ w, none, false, before⟩ p

/-- R369: a speculative operation on a migrated line that is issued on the holding die goes to the holding slice, and
fails where that has no read lease: home holds one for it while it grants the line to no writer. -/
def State.leaseFails (s : State) (c : Nat) (p : Place) : Option Bool :=
  match p with
  | .mem pa 0 _ =>
    let l := sget Line.inv s.lines (pa / 128)
    match l.slice with
    | some sl => if sl / 16 = dieOf c && (s.tileAt pa).isNone then
        some !(l.owner.isNone && l.bufs.isEmpty && (l.st = .inv || l.st = .shared)) else none
    | none => none
  | _ => none

/-- Whether a speculative operation fails spuriously (R358, R369). -/
def spuriousAt (s : State) (p : Place) (x : Option AAttr) : Option Bool :=
  if useOf x = .speculative then some ((s.leaseFails s.issue.core p).getD (Config.spuriousFail s.freeCtr)) else none

/-- R393: a claim whose slots lie beyond RIDX + N keeps its result until there is space. -/
def State.claimAt (s : State) (place : Place) (v : Word) : Option (Word × Word) :=
  match place, s.cur with
  | .mem pa _ _, some sl =>
    match s.queues.find? fun q => q.widxPa == pa && q.ctx == sl.ctx with
    | none => none
    | some q =>
      let last := BitVec.ofNat 64 (s.readPlace place 8) + v - 1
      if (last - BitVec.ofNat 64 (s.devGet q.ctx q.ridx.toNat 8)).toNat < 2 ^ q.log2n then none else some (q.ridx, last)
  | _, _ => none

/-- The plan of an atomic (R366). One that acquires is at its serialisation point before any later access (R351). -/
def atomicPlan (i : Instr) (w : Nat) (op : State → RmwOp) (v : State → Nat) (a : SSrc) (d : Option SDst) (ds : Dsts)
    (x : Option AAttr) : Plan :=
  let n := w / 8
  let ea (s : State) : Nat := (readS s i 1 a).toNat
  { instr := i,
    fault := fun s => (checkAccess s .atomic false (ea s) n n).orElse fun _ =>
      if orderReleases x then failedWrites s false else none,
    act := fun s =>
      let at_ := ea s
      let o := op s
      let val := v s
      let s := if orderReleases x then s.release s.issue.core s.issue.slot else s
      match s.placeOf (issuer s) .atomic false at_, s.cur with
      | .ok p, some sl =>
        let sp := spuriousAt s p x
        let s := s.lineEffects (issuer s) .atomic .atomic at_ n
        if batching s x then s.quantumAdd i ds at_ p w (BitVec.ofNat 64 (val % 2 ^ w)) else
        let s := if useOf x = .speculative then s.bump else s
        match (if o = .add && w = 64 && useOf x ≠ .quantum && !ds.isEmpty && !s.placePoisoned p 8 then
            s.claimAt p (BitVec.ofNat 64 val) else none), d with
        | some (ridx, last), some d =>
          let old := BitVec.ofNat 64 (s.readPlace p 8)
          ((s.rmwPlace p w o val false).1).holdPair (.claim ridx last d old) false
        | _, _ =>
          let (s, id) := s.oweAtomic i ds
          let s := s.send ⟨sl.ctx, sl.idx, s.issue.core, id, p.pa, p.key, w, o, val, sp, useOf x = .nonOrdering, 0⟩ p
          if orderAcquires x then s.acceptLine sl.ctx sl.idx p.pa else s
      | _, _ => s }

def w2Bits : W2 → Nat
  | .w32 => 32 | .w64 => 64
def ffBits : FFmt → Nat
  | .bf16 => 16 | .f32 => 32 | .f64 => 64 | .bf16x2 => 32 | .f32x2 => 64

/-- An atomic in either form. -/
def formPlan (i : Instr) (w : Nat) (op : RmwOp) (f : AForm) (x : Option AAttr) : Plan :=
  match f with
  | .ret d a b => atomicPlan i w (fun _ => op) (fun s => (readS s i 2 b).toNat) a (some d) [d.reg] x
  | .nr d a => atomicPlan i w (fun _ => op) (fun s => (readS s i 0 d).toNat) a none [] x

def planAmoAdd (w : W2) (f : AForm) (x : Option AAttr) : Plan := formPlan (.amoAdd w f x) (w2Bits w) .add f x
def execAmoAdd (w : W2) (f : AForm) (x : Option AAttr) (s : State) : Host.Outcome State Fault Refusal :=
  .next ((planAmoAdd w f x).run s)

def planAmoAnd (w : W2) (f : AForm) (x : Option AAttr) : Plan := formPlan (.amoAnd w f x) (w2Bits w) .and f x
def execAmoAnd (w : W2) (f : AForm) (x : Option AAttr) (s : State) : Host.Outcome State Fault Refusal :=
  .next ((planAmoAnd w f x).run s)

def planAmoOr (w : W2) (f : AForm) (x : Option AAttr) : Plan := formPlan (.amoOr w f x) (w2Bits w) .or f x
def execAmoOr (w : W2) (f : AForm) (x : Option AAttr) (s : State) : Host.Outcome State Fault Refusal :=
  .next ((planAmoOr w f x).run s)

def planAmoXor (w : W2) (f : AForm) (x : Option AAttr) : Plan := formPlan (.amoXor w f x) (w2Bits w) .xor f x
def execAmoXor (w : W2) (f : AForm) (x : Option AAttr) (s : State) : Host.Outcome State Fault Refusal :=
  .next ((planAmoXor w f x).run s)

def planAmoSmin (w : W2) (f : AForm) (x : Option AAttr) : Plan := formPlan (.amoSmin w f x) (w2Bits w) .smin f x
def execAmoSmin (w : W2) (f : AForm) (x : Option AAttr) (s : State) : Host.Outcome State Fault Refusal :=
  .next ((planAmoSmin w f x).run s)

def planAmoSmax (w : W2) (f : AForm) (x : Option AAttr) : Plan := formPlan (.amoSmax w f x) (w2Bits w) .smax f x
def execAmoSmax (w : W2) (f : AForm) (x : Option AAttr) (s : State) : Host.Outcome State Fault Refusal :=
  .next ((planAmoSmax w f x).run s)

def planAmoNmin (w : W2) (f : AForm) (x : Option AAttr) : Plan := formPlan (.amoNmin w f x) (w2Bits w) .nmin f x
def execAmoNmin (w : W2) (f : AForm) (x : Option AAttr) (s : State) : Host.Outcome State Fault Refusal :=
  .next ((planAmoNmin w f x).run s)

def planAmoNmax (w : W2) (f : AForm) (x : Option AAttr) : Plan := formPlan (.amoNmax w f x) (w2Bits w) .nmax f x
def execAmoNmax (w : W2) (f : AForm) (x : Option AAttr) (s : State) : Host.Outcome State Fault Refusal :=
  .next ((planAmoNmax w f x).run s)

def planAmoSwap (w : W2) (d : SDst) (a b : SSrc) (x : Option AAttr) : Plan :=
  atomicPlan (.amoSwap w d a b x) (w2Bits w) (fun _ => .swap) (fun s => (readS s (.amoSwap w d a b x) 2 b).toNat) a
    (some d) [d.reg] x
def execAmoSwap (w : W2) (d : SDst) (a b : SSrc) (x : Option AAttr) (s : State) : Host.Outcome State Fault Refusal :=
  .next ((planAmoSwap w d a b x).run s)

def planFamoFadd (t : FFmt) (f : AForm) (x : Option AAttr) : Plan :=
  formPlan (.famoFadd t f x) (ffBits t) (.fadd t) f x
def execFamoFadd (t : FFmt) (f : AForm) (x : Option AAttr) (s : State) : Host.Outcome State Fault Refusal :=
  .next ((planFamoFadd t f x).run s)

def planFamoFmin (t : FFmt) (f : AForm) (x : Option AAttr) : Plan :=
  formPlan (.famoFmin t f x) (ffBits t) (.fmin t) f x
def execFamoFmin (t : FFmt) (f : AForm) (x : Option AAttr) (s : State) : Host.Outcome State Fault Refusal :=
  .next ((planFamoFmin t f x).run s)

def planFamoFmax (t : FFmt) (f : AForm) (x : Option AAttr) : Plan :=
  formPlan (.famoFmax t f x) (ffBits t) (.fmax t) f x
def execFamoFmax (t : FFmt) (f : AForm) (x : Option AAttr) (s : State) : Host.Outcome State Fault Refusal :=
  .next ((planFamoFmax t f x).run s)

/-- R375: D holds the expected value on the way in and the old value on the way out. -/
def planCas (f : CasForm) (x : Option AAttr) : Plan :=
  let i : Instr := .cas f x
  match f with
  | .w32 d a b => atomicPlan i 32 (fun s => .cas ((readS s i 0 d.src).toNat % 2 ^ 32)) (fun s => (readS s i 2 b).toNat) a
      (some d.dst) [d.dst.reg] x
  | .w64 d a b => atomicPlan i 64 (fun s => .cas (readS s i 0 d.src).toNat) (fun s => (readS s i 2 b).toNat) a
      (some d.dst) [d.dst.reg] x
  | .w128 d a b => atomicPlan i 128
      (fun s => .cas ((readS s i 0 (evenS d)).toNat + 2 ^ 64 * (readS s i 0 (oddS d)).toNat))
      (fun s => (readS s i 2 (evenS b)).toNat + 2 ^ 64 * (readS s i 2 (oddS b)).toNat) a
      none [.s (2 * d.val), .s (2 * d.val + 1)] x
def execCas (f : CasForm) (x : Option AAttr) (s : State) : Host.Outcome State Fault Refusal := .next ((planCas f x).run s)

end Sys2Proof.Machine
end

