-- ==== Sys2Proof/Machine/Nalfen.lean ====
section
/-!
DEFINITION. Nalfen bytecode (R87-R92, R188, R238, R269, R284, R379) as the loader verifies it. What the manual leaves to
be read between its lines (which immediates suit which position, what a called body's kinds are) is log 33.
-/
namespace Sys2Proof.Machine

/-! ## Bytes of the object -/

/-- The little-endian value of n bytes at offset a. -/
def le (l : List Byte) (a n : Nat) : Nat := ofBytes ((l.drop a).take n)

/-- One ULEB128 value and what follows it. -/
def uleb : List Byte → Option (Nat × List Byte)
  | [] => none
  | b :: l => if b.toNat < 128 then some (b.toNat, l) else (uleb l).map fun (v, r) => (b.toNat - 128 + 128 * v, r)

/-- One SLEB128 value and what follows it. -/
def sleb : List Byte → Option (Int × List Byte)
  | [] => none
  | b :: l =>
    if b.toNat < 64 then some (b.toNat, l)
    else if b.toNat < 128 then some ((b.toNat : Int) - 128, l)
    else (sleb l).map fun (v, r) => ((b.toNat - 128 : Nat) + 128 * v, r)

/-! ## Operands (Table Nalfen-3) -/

/-- An operand of the bytecode; `val` is an immediate of form 0, `sym` one of form 3, `flt` one of form 1 or 2 by its
encoding. -/
inductive Opd where
  | reg (k : Nat) | val (v : Int) | flt (f64 : Bool) (bits : Nat) | sym (k : Nat) | port (p : Nat) | spec (k : Nat)
  deriving DecidableEq, Repr

def parseOpd (l : List Byte) : Option (Opd × List Byte) :=
  match uleb l with
  | none => none
  | some (v, r) => match v % 4 with
    | 0 => some (.reg (v / 4), r)
    | 1 => match v / 4 with
      | 0 => (sleb r).map fun (x, r) => (.val x, r)
      | 1 => if 4 ≤ r.length then some (.flt false (le r 0 4), r.drop 4) else none
      | 2 => if 8 ≤ r.length then some (.flt true (le r 0 8), r.drop 8) else none
      | 3 => (uleb r).map fun (x, r) => (.sym x, r)
      | _ => none
    | 2 => if v / 4 ≤ 5 || (8 ≤ v / 4 && v / 4 ≤ 15) then some (.port (v / 4), r) else none
    | _ => if v / 4 ≤ 2 then some (.spec (v / 4), r) else none

/-- What stands in an operand position: a scalar source, a scalar destination (and whether a port may stand there), a
vector source or destination, a predicate source or destination, a tile, an immediate, a branch target, a value of
any kind, the destination of a value of any kind, a port, a channel. -/
inductive Pos where
  | s | d | dn | v | vd | vpair | vdpair | p | pd | t | i | layout | l | any | anyD | qport | chan
  deriving DecidableEq, Repr

/-- The type bytes of a body, as KIND and TAG. -/
def kindOf (ts : List Byte) (k : Nat) : Option Nat := ts[k]?.map fun b => b.toNat / 32
def tagByte (ts : List Byte) (k : Nat) : Nat := (ts.getD k 0).toNat % 32

/-- Whether the native opcode may push its destination (R29, R48). -/
def pushes (op p : Nat) : Bool :=
  [0, 42].any fun b => match decodeSlot (mkWord 0 op (48 + p) 0 b) none with
    | .ok _ => true
    | .error _ => false

/-- A symbol as an operand sees it: its kind, 0 for a link symbol that no linkage slot names, and its value. -/
abbrev SymVal := Nat × Nat

/-- An operand suits its position (R92). -/
def suits (ts : List Byte) (syms : List SymVal) (op : Nat) (pos : Pos) (x : Opd) : Bool :=
  let is (k : Nat) (n : Nat) : Bool := kindOf ts k == some n
  let symOk : Bool := match x with
    | .sym k => (match syms[k]? with | some y => y.1 != 0 | none => false)
    | _ => true
  symOk && match pos, x with
  | .s, .reg k => is k 0
  | .s, .val _ | .s, .flt _ _ | .s, .sym _ => true
  | .s, .port p => portReads p
  | .s, .spec k => k != 1
  | .d, .reg k => is k 0
  | .d, .port p => portWrites p && pushes op p
  | .d, .spec k => k == 0
  | .dn, .reg k => is k 0
  | .dn, .spec k => k == 0
  | .v, .reg k => is k 1
  | .v, .val _ | .v, .flt _ _ | .v, .sym _ => true
  | .v, .spec k => k != 2
  | .vd, .reg k => is k 1
  | .vd, .spec k => k == 0
  | .vpair, .reg k => is k 1 && is (k + 1) 1
  | .vdpair, .reg k => is k 1 && is (k + 1) 1
  | .p, .reg k => is k 2
  | .p, .spec k => k == 0
  | .pd, .reg k => is k 2
  | .pd, .spec k => k == 0
  | .t, .reg k => is k 3
  | .i, .val _ => true
  | .layout, .val v => decide (0 ≤ v) && decide (v < 64) && (match layout v.toNat with
      | .ok f => decide (1 ≤ f.stride.val) || f.form == 1
      | .error _ => false)
  | .l, .val _ => true
  | .any, .reg k => kindOf ts k != none && !is k 3
  | .any, .port p => portReads p
  | .any, _ => true
  | .anyD, .reg k => kindOf ts k != none && !is k 3
  | .anyD, .spec k => k == 0
  | .qport, .port _ => true
  | .chan, .port p => decide (8 ≤ p)
  | _, _ => false

/-- R211: a scalar register is of a floating type; no port and not `%args` stands where one may. -/
def floatReg (ts : List Byte) : Opd → Bool
  | .reg k => kindOf ts k != some 0 || (decide (9 ≤ tagByte ts k) && decide (tagByte ts k ≤ 12))
  | .port _ | .spec 2 => false
  | _ => true

/-- The element width that a type's tag gives (R191). -/
def typeWidth (ts : List Byte) (k : Nat) : Nat :=
  match tagByte ts k with
  | 0 | 7 | 8 | 9 => 64
  | 5 | 6 | 10 | 16 => 32
  | 3 | 4 | 11 | 12 => 16
  | _ => 8

/-- The unit of a memory operation's byte offset (R238); 0 for one without an offset. -/
def offsetUnit (op : Nat) : Nat :=
  if op = 0x040 || op = 0x041 || op = 0x054 then 1
  else if op = 0x042 || op = 0x043 || op = 0x055 then 2
  else if op = 0x044 || op = 0x045 || op = 0x056 then 4
  else if op = 0x046 || op = 0x057 || op = 0x06C then 8
  else if op = 0x062 || op = 0x06D then 256
  else 0

/-- What the operands' types and immediates must be beyond their kinds: the offset of a memory operand, the tag of a
tagged load and the width of a gathered element (R238), the raw registers of `cas.128` (R379), the form of a tile load
(R269), the part of a scalar `cvt` (R211). -/
def typesFit (ts : List Byte) (op : Nat) (xs : List Opd) : Bool :=
  let unit := offsetUnit op
  let width (n : Nat) : Bool := match xs.head? with
    | some (.reg k) => typeWidth ts k == n
    | _ => true
  if unit ≠ 0 then match xs.getLast? with
    | some (.val v) => decide (-2 ^ 31 ≤ v) && decide (v < 2 ^ 31) && v % unit == 0
    | _ => false
  else if op = 0x060 || op = 0x061 || op = 0x06A || op = 0x06B then match xs.head?, xs.getLast? with
    | some (.reg k), some (.val v) => v == tagByte ts k
    | _, _ => true
  else if op = 0x064 || op = 0x066 then width 32
  else if op = 0x065 || op = 0x067 then width 64
  else if op = 0x0CA then ([0, 1, 3, 4] : List Nat).all fun j => match xs[j]? with
    | some (Opd.reg k) => kindOf ts k == some 0 && tagByte ts k == 0
    | _ => false
  else if op = 0x1E7 then match xs with
    | [.reg k, _, .val v] => decide (32 ≤ v) == (tagByte ts k == 5)
    | _ => true
  else if op = 0x1A0 then match xs with
    | [.reg k, _, .val v] => kindOf ts k != some 0 || v / 32 == 0
    | _ => true
  else true

/-- The operand positions of an operation, in source order (R46, R87, R188, R238, R269, R284, R379); none for no
operation id, and for `call`, `callr` and `ret` their first operand only (R90). -/
def positions (op : Nat) : Option (List Pos) :=
  if !assigned op || op = 0x0E5 || op = 0x0E6 then none
  else if op = 0x000 then some [.l]
  else if op ≤ 0x003 then some [.p, .l]
  else if op ≤ 0x007 then some [.s, .l]
  else if op = 0x008 then some []
  else if op = 0x009 then some [.s]
  else if op = 0x00A then some [.s]
  else if op = 0x00B then some []
  else if op = 0x00C then some [.dn, .l]
  else if op ≤ 0x011 then some [.d, .s, .s, .i]
  else if op = 0x012 then some [.s, .s]
  else if op = 0x013 then some [.s]
  else if op = 0x014 then some [.s, .s]
  else if op = 0x015 then some [.i]
  else if op = 0x016 then some [.d, .i]
  else if op = 0x017 then some [.i, .s]
  else if op = 0x018 then some [.dn, .s, .s]
  else if op = 0x019 then some [.dn]
  else if op = 0x020 then some [.i]
  else if op = 0x021 then some [.i, .s]
  else if op = 0x022 then some [.dn, .i]
  else if op ≤ 0x024 then some [.i, .s]
  else if op = 0x025 then some [.dn, .i, .s]
  else if op ≤ 0x027 then some [.i, .s]
  else if op ≤ 0x029 then some []
  else if op = 0x02A then some [.dn, .qport]
  else if op = 0x02B then some [.dn, .chan, .s]
  else if op ≤ 0x046 then some [.dn, .s, .i]
  else if op ≤ 0x04E then some [.dn, .s, .s]
  else if op ≤ 0x052 then some [.dn, .s]
  else if op ≤ 0x057 then some [.s, .s, .i]
  else if op ≤ 0x05B then some [.s, .s, .s]
  else if op ≤ 0x05F then some [.s, .s]
  else if op = 0x060 then some [.vd, .s, .i]
  else if op = 0x061 then some [.vd, .s, .s, .i]
  else if op = 0x062 then some [.v, .s, .i]
  else if op = 0x063 then some [.v, .s, .s]
  else if op ≤ 0x065 then some [.vd, .s, .v]
  else if op ≤ 0x067 then some [.v, .s, .v]
  else if op ≤ 0x069 then some [.dn, .s]
  else if op ≤ 0x06B then some [.vd, .s, .i]
  else if op = 0x06C then some [.s, .s, .i]
  else if op = 0x06D then some [.v, .s, .i]
  else if op ≤ 0x06F then some [.s, .s]
  else if op ≤ 0x091 then some [.dn, .s, .s]
  else if op ≤ 0x0A7 then some [.s, .s]
  else if op ≤ 0x0B6 then some [.dn, .s, .s]
  else if op ≤ 0x0C6 then some [.s, .s]
  else if op ≤ 0x0C9 then some [.dn, .s, .s]
  else if op = 0x0CA then some [.dn, .dn, .s, .s, .s]
  else if op ≤ 0x0D8 then some [.d, .s, .s]
  else if op = 0x0E0 then some [.d, .i]
  else if op ≤ 0x0E3 then some [.i, .s]
  else if op = 0x0E4 then some [.i]
  else if op = 0x115 || op = 0x116 || op = 0x118 then some [.d, .s]
  else if op ≤ 0x11E then some [.d, .s, .s]
  else if op ≤ 0x126 then some [.d, .s, .i]
  else if op ≤ 0x12D then some [.d, .s, .s]
  else if op ≤ 0x132 then some [.pd, .p, .p]
  else if op = 0x133 then some [.pd, .p]
  else if op = 0x134 then some [.pd, .s, .i]
  else if op = 0x135 then some [.d, .p, .i]
  else if op = 0x14C || op = 0x14E then some [.vd, .v]
  else if op = 0x14D || op = 0x14F then some [.vd, .v, .v, .v]
  else if op ≤ 0x14F then some [.vd, .v, .v]
  else if op ≤ 0x153 then some [.pd, .v, .v]
  else if op = 0x154 then some [.vd, .v, .v]
  else if 0x183 ≤ op && op ≤ 0x186 then some [.vd, .v, .v, .v]
  else if op = 0x189 || op = 0x18A || (0x18C ≤ op && op ≤ 0x191) then some [.vd, .v]
  else if op ≤ 0x18B then some [.vd, .v, .v]
  else if op ≤ 0x19B then some [.pd, .v, .v]
  else if op = 0x1A0 then some [.vd, .v, .s]
  else if op = 0x1A1 then some [.vdpair, .v, .s]
  else if op = 0x1A2 then some [.vd, .vpair, .s]
  else if op = 0x1C1 then some [.vd, .v, .v]
  else if op = 0x1C4 then some [.d, .v, .s]
  else if op = 0x1C6 then some [.vd, .v]
  else if op = 0x1C7 then some [.vd, .s, .s]
  else if op ≤ 0x1C5 then some [.vd, .v, .s]
  else if op ≤ 0x1D2 then some [.d, .v]
  else if op = 0x1D4 then some [.vd, .v, .s]
  else if op = 0x1D5 then some [.d, .v]
  else if op = 0x1E0 then some [.t]
  else if op = 0x1E1 then some [.i, .s]
  else if op = 0x1E2 then some [.s]
  else if op = 0x1E3 then some [.i]
  else if op = 0x1E4 then some [.t, .s, .i]
  else if op = 0x1E5 then some [.i, .s]
  else if op ≤ 0x1E7 then some [.t, .s, .layout]
  else if op = 0x1E8 then some []
  else if op = 0x1E9 then some [.d]
  else some []

/-- The scalar form of a floating operation (R211). -/
def Pos.scalarised : Pos → Pos
  | .v => .s
  | .vd => .dn
  | x => x

/-! ## Operations (Table Nalfen-2, R90) -/

/-- An operation of a body: its offset, id, operands with their positions, attribute word, and for a call its
target, sources and destinations, for a `ret` its sources. -/
structure NOp where
  at_ : Nat
  id : Nat
  opds : List Opd
  poss : List Pos
  attrW : Option Nat
  /-- the arguments of `call` and `callr`. -/
  args : List Opd
  deriving DecidableEq, Repr

/-- Operands in the number of a list of positions. -/
def parseOpds : List Pos → List Byte → Option (List Opd × List Byte)
  | [], l => some ([], l)
  | _ :: ps, l => match parseOpd l with
    | none => none
    | some (x, r) => (parseOpds ps r).map fun (xs, r) => (x :: xs, r)

/-- An immediate count and its operands (R90). -/
def parseCounted (max : Nat) (l : List Byte) : Option (List Opd × List Byte) :=
  match parseOpd l with
  | some (.val n, r) => if 0 ≤ n ∧ n ≤ max then parseOpds (List.replicate n.toNat .any) r else none
  | _ => none

/-- The operation at the start of the bytes, and what follows it. -/
def parseOp (at_ : Nat) (l : List Byte) : Option (NOp × List Byte) :=
  let w := le l 0 2
  if l.length < 2 || w / 512 % 64 ≠ 0 then none else
  let id := w % 512
  let body : Option (List Opd × List Pos × List Opd × List Byte) :=
    let l := l.drop 2
    if id = 0x008 || id = 0x009 then
      match parseOpd l with
      | none => none
      | some (t, r) => match parseCounted 16 r with
        | none => none
        | some (as, r) => (parseCounted 8 r).map fun (ds, r) =>
          (t :: as ++ ds, (if id = 0x008 then .i else .s) :: as.map (fun _ => .any) ++ ds.map (fun _ => .anyD), as, r)
    else if id = 0x00B then (parseCounted 8 l).map fun (as, r) => (as, as.map (fun _ => .any), [], r)
    else match positions id with
      | none => none
      | some ps => (parseOpds ps l).map fun (xs, r) => (xs, ps, [], r)
  match body with
  | none => none
  | some (xs, ps, as, r) =>
    if w / 32768 = 0 then some (⟨at_, id, xs, ps, none, as⟩, r)
    else if r.length < 4 then none
    else some (⟨at_, id, xs, ps, some (le r 0 4), as⟩, r.drop 4)

/-- All operations of a body; none when the bytes do not parse. -/
def parseBody : Nat → Nat → List Byte → Option (List NOp)
  | _, _, [] => some []
  | 0, _, _ => none
  | n + 1, at_, l => match parseOp at_ l with
    | none => none
    | some (o, r) => (parseBody n (at_ + (l.length - r.length)) r).map fun os => o :: os

/-- The attribute word of an operation (R89). -/
def attrWordOk (ts : List Byte) (o : NOp) : Bool :=
  match o.attrW with
  | none => o.id != 0x028
  | some w =>
    let atom := w % 1024
    let preg := w / 1024 % 2 ^ 20
    let lone (b : Nat) : Bool := match decodeSlot (mkWord 0 o.id 0 0 b) (some (BitVec.ofNat 32 atom)) with
      | .ok _ => true
      | .error _ => false
    (if o.id = 0x028 then lone 0
     else if 0x080 ≤ o.id && o.id ≤ 0x0CA then lone (if o.id = 0x0CA then 2 else 0)
     else if (0x050 ≤ o.id && o.id ≤ 0x052) || (0x05C ≤ o.id && o.id ≤ 0x05F) then decide (atom < 16)
     else atom == 0)
    && (if w / 2 ^ 31 = 0 then w / 1024 == 0
        else 0x100 ≤ o.id && !(0x1E0 ≤ o.id && o.id ≤ 0x1E9) && o.id != 0x1A1 && o.id != 0x1D4 && kindOf ts preg == some 2)

/-- A body as the loader knows it: its descriptor's code range and its type bytes. -/
structure BodyTypes where
  off : Nat
  ts : List Byte
  deriving DecidableEq, Repr

/-- A symbol: its name, kind and value (Table Nalfen-8). -/
structure Sym where
  name : List Byte
  kind : Nat
  value : Nat
  deriving DecidableEq, Repr

/-- The kind of register that an argument fits: 0 scalar, 1 vector, 2 predicate; none for `%z`, which fits any. -/
def argKind (ts : List Byte) : Opd → Option Nat
  | .reg k => kindOf ts k
  | .spec 0 => none
  | .spec 1 => some 1
  | _ => some 0

/-- R90: the target of a `call`, and the kinds and number of what it passes. -/
def callOk (ts : List Byte) (syms : List SymVal) (bodies : List BodyTypes) (o : NOp) : Bool :=
  match o.opds with
  | .sym k :: _ => match syms[k]? with
    | none => false
    | some y =>
      if y.1 = 4 then true
      else if y.1 ≠ 1 then false
      else match bodies.find? fun b => b.off == y.2 % 2 ^ 44 with
        | none => false
        | some b => decide (o.args.length ≤ b.ts.length) &&
            (o.args.zip (b.ts.map fun t => t.toNat / 32)).all fun (x, k) => match argKind ts x with
              | none => k != 3
              | some n => n == k
  | _ => false

/-- Operands suit a list of positions. -/
def fitsAll (ts : List Byte) (syms : List SymVal) (o : NOp) (ps : List Pos) : Bool :=
  (ps.zip o.opds).all fun (q, x) => suits ts syms o.id q x

/-- The operation stands in the scalar form of R211. -/
def NOp.scalarForm (ts : List Byte) (syms : List SymVal) (o : NOp) : Bool :=
  0x180 ≤ o.id && o.id ≤ 0x1A0 && !fitsAll ts syms o o.poss && fitsAll ts syms o (o.poss.map Pos.scalarised)
  && (if o.id = 0x1A0 then (o.opds.drop 1).take 1 |>.all fun x => match x with | .port _ => false | _ => true
      else (if o.id = 0x191 then o.opds.drop 1 else o.opds).all (floatReg ts))

/-- The operands of an operation suit their positions (R92, R210, R211). -/
def operandsOk (ts : List Byte) (syms : List SymVal) (o : NOp) : Bool :=
  typesFit ts o.id o.opds &&
  (if o.id = 0x008 then fitsAll ts syms o (.any :: o.poss.drop 1)
   else fitsAll ts syms o o.poss || o.scalarForm ts syms)

/-- The branch target of an operation, as an offset in the body. -/
def NOp.target (o : NOp) : Option Int :=
  (o.poss.zip o.opds).findSome? fun (q, x) => match q, x with
    | .l, .val v => some ((o.at_ : Int) + v)
    | _, _ => none

/-- R92 for one operation of a body (with R90 and R269), but for the words that it is lowered to. -/
def opOk (ts : List Byte) (syms : List SymVal) (bodies : List BodyTypes) (ops : List NOp) (o : NOp) : Bool :=
  operandsOk ts syms o && attrWordOk ts o
  && (o.id != 0x008 || callOk ts syms bodies o)
  && (match o.target with
      | none => true
      | some t => ops.any fun x => (x.at_ : Int) == t)
  && ((ts.any fun b => b.toNat / 32 == 3) || !(0x1E0 ≤ o.id && o.id ≤ 0x1E9))

/-- The type bytes that Table Nalfen-1 admits (R91). -/
def typeByteOk (b : Byte) : Bool :=
  let t := b.toNat % 32
  match b.toNat / 32 with
  | 0 => decide (t ≤ 12)
  | 1 => decide (t ≤ 15) || t == 16 || t == 29 || t == 30 || t == 31
  | 2 => t == 0
  | 3 => t == 10 || t == 5
  | _ => false

/-- The type table at the start of the bytes (R91, R77). -/
def parseTypes (l : List Byte) : Option (List Byte) :=
  match uleb l with
  | none => none
  | some (n, r) =>
    let ts := r.take n
    if n ≤ 2 ^ 20 && n ≤ r.length && ts.all typeByteOk && decide ((ts.filter fun b => b.toNat / 32 == 3).length ≤ 16)
    then some ts else none

end Sys2Proof.Machine
end

