-- ==== Sys2Proof/Machine/DieMem.lean ====
section
/-!
DEFINITION. Die memory (R321-R338): the range operations, tiles, and `tcinv`.
-/
namespace Sys2Proof.Machine

/-! ## Ranges of pages -/

/-- The lowest byte of a .. a+n-1 in a scratchpad window. -/
def firstWindow (a n : Nat) : Option Nat :=
  let lo (base size : Nat) : Option Nat := if max a base < min (a + n) (base + size) then some (max a base) else none
  (lo windowBase (1024 * 2 ^ 21)).orElse fun _ => lo localBase 0x1000000

/-- R227 for one byte of a range, read as a load (R272: kind 0, size 1): its leaf. -/
def State.loadLeaf (s : State) (w : Who) (va : Nat) : Except Trap Leaf :=
  match s.placeOf w .load false va with
  | .error c => .error (if c = MCHECK then trapInfo MCHECK 2 else memTrap c .load va 1)
  | .ok _ => match s.walk w.ctx va with
    | .leaf l _ _ => .ok l
    | _ => .error (memTrap XLATE .load va 1)

/-- The runs of a range, one for each leaf: physical address, length, leaf. -/
def State.leavesOf (s : State) (w : Who) : Nat → Nat → Nat → Except Trap (List (Nat × Nat × Leaf))
  | 0, _, _ => .ok []
  | fuel + 1, va, n =>
    if n = 0 then .ok [] else
    match s.loadLeaf w va with
    | .error t => .error t
    | .ok l =>
      let m := min n (l.size - va % l.size)
      match s.leavesOf w fuel (va + m) (n - m) with
      | .error t => .error t
      | .ok r => .ok ((l.pa + va % l.size, m, l) :: r)

/-- LOCALRANGE for a window byte, then every page as a load. -/
def State.runs (s : State) (w : Who) (a n : Nat) : Except Trap (List (Nat × Nat × Leaf)) :=
  match firstWindow a n with
  | some x => .error (memTrap LOCALRANGE .load x 1)
  | none => s.leavesOf w (n / 65536 + 2) a n

/-- Backing memory takes the coherent bytes of pa .. pa+n-1 (Table Die-8). -/
def State.writeDown (s : State) (pa n : Nat) : State :=
  { s with backing := s.backing.filter (fun c => decide (c.1 < pa))
      ++ s.mem.filter (fun c => decide (pa ≤ c.1) && decide (c.1 < pa + n))
      ++ s.backing.filter (fun c => decide (pa + n ≤ c.1)) }

/-- No copy of the tile outside home (R330). -/
def Tile.bringHome (t : Tile) : Tile := { t with st := .ti, owner := none, sharers := 0, target := none }

/-! ## cflush, cwb, cinv (R336, R337) -/

def State.flushRun (s : State) (pa n : Nat) : State :=
  let s := s.wake (s.rangeProbes pa n .atomic)
  (((s.recallBufs pa n).mapLines pa n fun _ => Line.inv).mapTiles pa n Tile.bringHome).writeDown pa n

def State.cleanRun (s : State) (pa n : Nat) : State :=
  let s := s.wake (s.rangeProbes pa n .engineRead)
  (((s.recallBufs pa n).mapLines pa n fun l => if l.st = .modified then { l with st := .excl } else l).mapTiles pa n
    fun t => if t.st = .tm then { t with st := .te } else t).writeDown pa n

/-- The local copies of core c go; the parameter-block cache of its die drops the range (R397). -/
def State.dropRun (c : Nat) (s : State) (pa n : Nat) : State :=
  (s.mapLines pa n fun l => if l.owner = some c then { l with st := .inv, owner := none, sharers := 0 } else l).modDie
    (dieOf c) fun d => { d with pcache := d.pcache.filter fun (_, g, _) => !(decide (g < pa + n) && decide (pa < g + 16)) }

/-- The range rounded outward to whole lines. -/
def rounded (a n : Nat) : Nat × Nat := (a / 128 * 128, (a + n + 127) / 128 * 128 - a / 128 * 128)

/-- The trap of a range operation (R336). -/
def rangeTrap (s : State) (a n : Nat) : Option Trap :=
  if n = 0 then none
  else if 2 ^ 56 < a + n then some (memTrap XLATE .load (max a (2 ^ 56)) 1)
  else match s.runs (issuer s) a n with
    | .error t => some t
    | .ok _ => none

/-- The plan of a range operation: `f` acts on each cacheable run, after the issuer's earlier stores and the writes of the
engine operations that it pushed before, for which the pair waits in its slot (R337, log 96). -/
def rangePlan (i : Instr) (f : Nat → State → Nat → Nat → State) (d : SDst) (a b : SSrc) : Plan :=
  let at_ (s : State) : Nat := (readS s i 1 a).toNat
  let len (s : State) : Nat := (readS s i 2 b).toNat
  { instr := i,
    fault := fun s => rangeTrap s (at_ s) (len s),
    wait := fun s => match s.cur with
      | some sl => if len s ≠ 0 && s.ownOps sl then some .ownOps else none
      | none => none,
    act := fun s =>
      let (x, n) := rounded (at_ s) (len s)
      let count := if len s = 0 then 0 else min (n / 128) (2 ^ 32 - 1)
      let w := issuer s
      let runs := if len s = 0 then [] else match s.leavesOf w (n / 65536 + 2) x n with
        | .ok r => r.filter fun (_, _, l) => l.mt == 0
        | .error _ => []
      let s := if len s = 0 then s else s.release s.issue.core s.issue.slot
      giveS i d (BitVec.ofNat 64 count) 0 (runs.foldl (fun s (pa, m, _) => f w.core s pa m) s) }

def planCflush (d : SDst) (a b : SSrc) : Plan := rangePlan (.cflush d a b) (fun _ s => s.flushRun) d a b
def execCflush (d : SDst) (a b : SSrc) (s : State) : Host.Outcome State Fault Refusal := .next ((planCflush d a b).run s)
def planCwb (d : SDst) (a b : SSrc) : Plan := rangePlan (.cwb d a b) (fun _ s => s.cleanRun) d a b
def execCwb (d : SDst) (a b : SSrc) (s : State) : Host.Outcome State Fault Refusal := .next ((planCwb d a b).run s)
def planCinv (d : SDst) (a b : SSrc) : Plan := rangePlan (.cinv d a b) State.dropRun d a b
def execCinv (d : SDst) (a b : SSrc) (s : State) : Host.Outcome State Fault Refusal := .next ((planCinv d a b).run s)

/-! ## Tiles (R328-R335) -/

/-- SHAPE of R331 holds. -/
def shapeOk (b n : Nat) : Bool :=
  decide (4096 ≤ n) && decide (n ≤ 2 ^ 20) && decide (n = 2 ^ n.log2) && decide (b % n = 0)

/-- A page that can hold part of a tile: cacheable memory of this device. -/
def State.tilePage (s : State) (r : Nat × Nat × Leaf) : Bool := r.2.2.mt == 0 && s.deviceMem r.1

/-- Each run begins where the one before it ends. -/
def contiguous : List (Nat × Nat × Leaf) → Bool
  | [] => true
  | [_] => true
  | (p, m, l) :: (q, k, x) :: r => decide (p + m = q) && decide (l.key = x.key) && contiguous ((q, k, x) :: r)

/-- The physical base of the region, or the ATTR code (R331). -/
def State.tileBase (s : State) (n : Nat) (rs : List (Nat × Nat × Leaf)) : Option Nat :=
  match rs with
  | [] => none
  | (p, _, _) :: _ => if rs.all s.tilePage && contiguous rs && p % n = 0 then some p else none

/-- The trap of `tdecl` and `tundecl`. -/
def tileTrap (s : State) (b n : Nat) : Option Trap :=
  if !shapeOk b n then none
  else match s.runs (issuer s) b n with
    | .error t => some t
    | .ok _ => none

/-- The checks of R331 up to ATTR: the base, or the status. -/
def tileCheck (s : State) (b n : Nat) : Except Nat Nat :=
  if !shapeOk b n then .error 1
  else match s.runs (issuer s) b n with
    | .error _ => .error 4
    | .ok rs => match s.tileBase n rs with
      | none => .error 4
      | some p => .ok p

/-- R331 at the tile home: the status, and the tile registered. -/
def State.declare (s : State) (ctx p n : Nat) : State × Nat :=
  if s.tiles.any fun t => decide (t.base < p + n) && decide (p < t.base + t.size) then (s, 2)
  else if 64 ≤ (s.tiles.filter fun t => tileHome t.base == tileHome p).length then (s, 3)
  else
    let s := ((s.wake (s.rangeProbes p n .atomic)).recallBufs p n).mapLines p n fun _ => Line.inv
    ({ s with tiles := s.tiles ++ [⟨p, n, ctx, .ti, 0, none, none⟩] }, 0)

def planTdecl (d : SDst) (a b : SSrc) : Plan :=
  let i : Instr := .tdecl d a b
  let at_ (s : State) : Nat := (readS s i 1 a).toNat
  let len (s : State) : Nat := (readS s i 2 b).toNat
  { instr := i,
    fault := fun s => tileTrap s (at_ s) (len s),
    act := fun s => match tileCheck s (at_ s) (len s) with
      | .error e => giveS i d (BitVec.ofNat 64 e) 0 s
      | .ok p =>
        let (s', st) := s.declare (issuer s).ctx p (len s)
        giveS i d (BitVec.ofNat 64 st) 0 s' }
def execTdecl (d : SDst) (a b : SSrc) (s : State) : Host.Outcome State Fault Refusal := .next ((planTdecl d a b).run s)

/-- R332 at the tile home: a tile of the context with this base and size goes, every line in state I. -/
def State.undeclare (s : State) (ctx p n : Nat) : State × Nat :=
  let it (t : Tile) : Bool := t.base == p && t.size == n && t.ctx == ctx
  if s.tiles.any it then
    let s := s.wake fun x => s.tiles.any fun t => it t && t.probes unitAgent .atomic x
    ({ s with tiles := s.tiles.filter fun t => !it t }, 0)
  else (s, 5)

def planTundecl (d : SDst) (a b : SSrc) : Plan :=
  let i : Instr := .tundecl d a b
  let at_ (s : State) : Nat := (readS s i 1 a).toNat
  let len (s : State) : Nat := (readS s i 2 b).toNat
  { instr := i,
    fault := fun s => tileTrap s (at_ s) (len s),
    act := fun s => match tileCheck s (at_ s) (len s) with
      | .error e => giveS i d (BitVec.ofNat 64 e) 0 s
      | .ok p =>
        let (s', st) := s.undeclare (issuer s).ctx p (len s)
        giveS i d (BitVec.ofNat 64 st) 0 s' }
def execTundecl (d : SDst) (a b : SSrc) (s : State) : Host.Outcome State Fault Refusal :=
  .next ((planTundecl d a b).run s)

/-- Core t lies in scope_set(c, n) (R341, Table Model-1). -/
def inScope (c t n : Nat) : Bool :=
  if n = 0 then c == t else if n = 1 then clusterOf c == clusterOf t else if n = 2 then dieOf c == dieOf t else true

/-- Forwarded data in the near slice pair of a core, a given tile aside (R334). -/
def State.nearBytes (s : State) (core base : Nat) : Nat :=
  ((s.tiles.filter fun t => t.base ≠ base && (match t.target with
    | some g => clusterOf g == clusterOf core | none => false)).map Tile.size).sum

/-- R335 before the release: the page is tile memory, and then the checks at the tile home; 0, or the status. -/
def State.forwardStatus (s : State) (w : Who) (r : Nat × Nat × Leaf) (scope target : Nat) : Nat :=
  if !s.tilePage r then 4
  else match s.tiles.find? fun t => t.base == r.1 && t.ctx == w.ctx with
  | none => 5
  | some t =>
    if !inScope w.core target scope then 7
    else if 4 * 2 ^ 20 < s.nearBytes target r.1 + t.size then 6
    else 0

/-- R335 after the release: an owner writes back, every permission but the target core's goes, and the data stand in its
near slice pair. -/
def State.forward (s : State) (p target : Nat) : State :=
  (s.wake fun x => s.tiles.any fun t => t.base == p
      && (t.probes target .atomic x || (t.st == .tm && t.owner == some x))).modTile p fun t =>
    { t with st := .tf, sharers := clusterBit (clusterOf target), owner := none, target := some target }

def planTfwd (d : SDst) (a b : SSrc) : Plan :=
  let i : Instr := .tfwd d a b
  let at_ (s : State) : Nat := (readS s i 1 a).toNat
  let ctl (s : State) : Nat := (readS s i 2 b).toNat
  let status (s : State) (r : Nat × Nat × Leaf) : Nat := s.forwardStatus (issuer s) r (bits (ctl s) 19 16) (bits (ctl s) 9 0)
  { instr := i,
    bad := fun s => if ctl s - bits (ctl s) 9 0 - bits (ctl s) 19 16 * 2 ^ 16 ≠ 0 then some 5 else none,
    fault := fun s => match s.runs (issuer s) (at_ s) 1 with
      | .error t => some t
      | .ok (r :: _) => if status s r = 0 then failedWrites s false else none
      | .ok [] => none,
    act := fun s => match s.runs (issuer s) (at_ s) 1 with
      | .ok (r :: _) =>
        let st := status s r
        let t := if st = 0 then (s.release s.issue.core s.issue.slot).forward r.1 (bits (ctl s) 9 0) else s
        giveS i d (BitVec.ofNat 64 st) 0 t
      | _ => giveS i d 4 0 s }
def execTfwd (d : SDst) (a b : SSrc) (s : State) : Host.Outcome State Fault Refusal := .next ((planTfwd d a b).run s)

/-! ## tcinv (R338) -/

/-- The loaded object of a handle. -/
def State.object (s : State) (h : Nat) : Option CodeObject := s.objects.find? fun o => o.handle == h

/-- R432, R433: cached translations of a handle whose source overlaps off .. off+n-1 are dropped; those in use stay
pinned. -/
def State.dropTranslations (s : State) (h off n : Nat) : State :=
  { s with translations := s.translations.map fun (d, x, t) =>
      (d, if t.handle == h && (t.srcs.any fun (o, m) => decide (o < off + n) && decide (off < o + m)) then 1 else x, t) }

def planTcinv (d : SDst) (a b : SSrc) : Plan :=
  let i : Instr := .tcinv d a b
  let h (s : State) : Nat := (readS s i 1 a).toNat / 2 ^ 44
  let off (s : State) : Nat := (readS s i 1 a).toNat % 2 ^ 44
  let len (s : State) : Nat := (readS s i 2 b).toNat
  { instr := i,
    fault := fun s => (match s.object (h s) with
      | none => some (protTrap (opcode i))
      | some o => if o.codeLen < off s + len s || (!supervisor s && !o.codeWrite) then some (protTrap (opcode i))
                  else none).orElse fun _ => failedWrites s false,
    act := fun s =>
      let s' := s.release s.issue.core s.issue.slot
      let s' := if len s = 0 then s' else
        let t := s'.dropTranslations (h s) (off s) (len s)
        let g : Half := sget 0 s'.handleGen (h s) + 1
        { t with handleGen := sset 0 t.handleGen (h s) g,
                 translations := t.translations.map fun (d, x, e) =>
                   (d, x, if e.handle = h s && x = 0 then { e with gen := g.toNat } else e) }
      giveS i d ((sget 0 s'.handleGen (h s)).setWidth 64) 0 s' }
def execTcinv (d : SDst) (a b : SSrc) (s : State) : Host.Outcome State Fault Refusal := .next ((planTcinv d a b).run s)

end Sys2Proof.Machine
end

