-- ==== Sys2Proof/Machine/Domain.lean ====
section
/-!
DEFINITION. Barrier objects (R304-R308, R506-R508): arrivals, closures and flips, and the counts that the members of a
level-0 rectangle show each other (R75, R309).
-/
namespace Sys2Proof.Machine

/-! ## Arrivals and flips (R306) -/

/-- One operation on a barrier object. -/
inductive DomOp where
  | arrive (i w : Nat)
  | close (i : Nat)
  | flip (i : Nat)

/-- The phase that an arrival counts toward. -/
def domOpen (d : Nat) : Nat := (domPhase d + domArrived d / domMembers d) % 2 ^ 32

def State.addSender (s : State) (x : Sender) : State := s.modFab fun f => { f with senders := f.senders ++ [x] }

/-- A device of this pod that is lost (R494). -/
def State.devLost (s : State) (dev : Nat) : Bool :=
  dev / 1024 == s.pkg.devId.toNat / 1024 && s.fab.lostPeers.contains (dev % 1024)

/-- A message leaves for another device, unless that device is lost (R506, R508). -/
def State.sendPeer (s : State) (m : PeerMsg) : State :=
  if s.devLost m.dev then s else s.modFab fun f => { f with msgs := f.msgs ++ [m] }

/-- One operation, and those that follow from it at once. -/
def State.domStep (s : State) (ctx : Nat) : DomOp → State × List DomOp
  | .arrive i w =>
    let d := s.domain ctx i
    (s.putDomain ctx i (putBits d 63 32 (min (domArrived d + w) (2 ^ 32 - 1))), [.close i])
  | .close i =>
    let d := s.domain ctx i
    if domWaitUp d || domMembers d = 0 || domArrived d < domMembers d then (s, [])
    else if domUp d then
      let s := s.putDomain ctx i (putBits d 132 132 1)
      if domPdev d = s.pkg.devId.toNat then
        let p := domParent d
        (s.addSender ⟨ctx, p, domOpen (s.domain ctx p), some i, domPdev d⟩, [.arrive p 1])
      else (s.sendPeer ⟨true, domPdev d, domParent d * 64, ctx, i⟩, [])
    else (s, [.flip i])
  | .flip i =>
    let d := s.domain ctx i
    let p := domPhase d
    let s := s.putDomain ctx i (putBits (putBits (putBits d 63 32 (domArrived d - domMembers d)) 31 0 (p + 1)) 132 132 0)
    let (go, stay) := s.fab.senders.partition fun x => x.ctx == ctx && x.dom == i && x.phase == p
    let s := s.modFab fun f => { f with senders := stay }
    let s := (go.filter fun x => x.child.isNone).foldl (fun s x => s.sendPeer ⟨false, x.dev, 0, ctx, i⟩) s
    (s, go.filterMap (fun x => x.child.map DomOp.flip) ++ [.close i])

/-- Operations until none is left; `fuel` is beyond any that a 32-bit count can ask for. -/
def State.domRun (ctx : Nat) : Nat → List DomOp → State → State
  | 0, _, s => s
  | _, [], s => s
  | n + 1, o :: l, s => let (s', l') := s.domStep ctx o; State.domRun ctx n (l' ++ l) s'

/-- An arrival of weight w (R306). -/
def State.arrive (s : State) (ctx i w : Nat) : State := State.domRun ctx (2 ^ 40) [.arrive i w] s

/-- A descriptor at which an arrival at level l fails (R305). -/
def State.domBad (s : State) (ctx i l : Nat) : Bool :=
  let d := s.domain ctx i
  domLevel d ≠ l || (1 ≤ l && domMembers d = 0) || (domUp d && domParent d = 0)
  || bits d 511 288 ≠ 0 || bits d 255 181 ≠ 0 || bits d 159 140 ≠ 0 || bits d 135 133 ≠ 0

/-- BARRIER_OBJECT_ARRIVAL (R306). -/
def execBarrierObjectArrival (ctx dom weight : Nat) (s : State) : Host.Outcome State Fault Refusal :=
  .next (s.arrive ctx dom weight)

/-- DOMAIN_FLIP (R306, R307): the flip of a parent on another device comes down to a domain that sent an arrival. -/
def execDomainFlip (ctx dom : Nat) (s : State) : Host.Outcome State Fault Refusal :=
  match s.domHole ctx dom with
  | some t => .next (s.poolLost ctx 0 t.addr)
  | none => if domWaitUp (s.domain ctx dom) then .next (State.domRun ctx (2 ^ 40) [.flip dom] s) else .next s

/-- R506: the address names a descriptor of a context of this device. -/
def State.domExists (s : State) (ctx dom : Nat) : Bool :=
  (s.ctx ctx).alive && 0 < dom && dom < bits (s.pool ctx) 351 320

/-- PEER_ARRIVAL_MESSAGE (R507, R508): a child's arrival reaches its parent here, and the child is a sender. -/
def execPeerArrivalMessage (dev ctx dom : Nat) (s : State) : Host.Outcome State Fault Refusal :=
  if !s.domExists ctx dom || s.devLost dev then .next s
  else .next ((s.addSender ⟨ctx, dom, domOpen (s.domain ctx dom), none, dev⟩).arrive ctx dom 1)

/-! ## Level 0 (R75, R309) -/

/-- The neighbours of a core inside the rectangle of a level-0 domain. -/
def State.rectNeighbours (s : State) (c ctx dom : Nat) : List Nat :=
  let d := s.domain ctx dom
  gridNeighbours c (bits d 263 256) (bits d 271 264) (bits d 279 272) (bits d 287 280)

/-- The member of a core raises its count (R119). -/
def State.advance0 (s : State) (c k : Nat) : State :=
  match s.slot c k with
  | none => s
  | some sl => (s.modSlot c k fun sl => { sl with phase0 := sl.phase0 + 1 }).modCore c fun x => { x with count0 := sl.phase0 + 1 }

/-- A count has risen from `old` to v, modulo 2^32 (R116). -/
def rises (old v : Half) : Bool := v ≠ old && reached v old

/-- PHASE0_PUBLISH (R309): a neighbour sees a core's count; counts only rise. -/
def execPhase0Publish (core nbr : Nat) (s : State) : Host.Outcome State Fault Refusal :=
  let v := (s.core core).count0
  .next (s.modCore nbr fun x =>
    if rises (sget 0 x.seen core) v then { x with seen := sset 0 x.seen core v } else x)

/-- A retired member no longer bounds its neighbours (R112). -/
def State.leaveRect (s : State) (c ctx dom : Nat) : State :=
  (s.rectNeighbours c ctx dom).foldl (fun s n => s.modCore n fun x => { x with seen := sset 0 x.seen (1024 + c) 1 })
    (s.modCore c fun x => { x with member := none })

end Sys2Proof.Machine
end

