-- ==== Sys2Proof/Machine/System.lean ====
section
/-!
DEFINITION. Control registers (R131-R135, R182, R183, R422, R423): reading, writing at the end of the issue cycle, and
the steps in which a write takes effect: CSR_WRITE, QUANT_WRITE, INBOXST_WRITE, TRAPQBASE_WRITE (R442),
SAVEBASE_WRITE (R447) and TRAPQ_RIDX_ADVANCE (R444).
-/
namespace Sys2Proof.Machine

/-- Table Core-7. -/
def gangidx (sl : Slot) : Nat :=
  match sl.gangInfo with
  | none => 0
  | some g => g.size.log2 * 16 + g.index

/-- Table Core-9. -/
def Core.inboxst (x : Core) : Nat :=
  x.inbox.length + b2n (x.ringCount ≠ 0) * 2 ^ 7 + x.ringCount * 2 ^ 8 + x.lost.toNat * 2 ^ 32

/-- R133: a die-scope CSR is the same on every core of its die. -/
def State.trapqbase (s : State) (c : Nat) : Word := (s.die (dieOf c)).trapqBase

/-- The value of a CSR for the continuation in slot k of core c (Table Core-3). -/
def State.csr (s : State) (c k : Nat) (num : Nat) : Word :=
  match s.slot c k with
  | none => 0
  | some sl =>
    let x := s.core c
    let w (n : Nat) : Word := BitVec.ofNat 64 n
    if num = 0x000 then w (s.slotTime sl)
    else if num = 0x001 then w (s.slotLtime sl)
    else if num = 0x010 then w sl.csrs.flags.toNat
    else if num = 0x011 then w sl.csrs.ftrap.toNat
    else if num = 0x012 then w sl.csrs.fctl.toNat
    else if num = 0x020 then w sl.csrs.chk.toNat
    else if 0x030 ≤ num && num ≤ 0x037 then w (sget 0 sl.csrs.domm (num - 0x030)).toNat
    else if num = 0x038 then w sl.csrs.lead.toNat
    else if num = 0x039 then w (gangidx sl)
    else if num = 0x040 then (s.ctx sl.ctx).scopetab
    else if num = 0x041 then w (s.pkg.devId.toNat * 2 ^ 16 + (if k < 8 then k else sl.slotNo) * 2 ^ 13 + dieOf c * 2 ^ 10 + c)
    else if 0x050 ≤ num && num ≤ 0x053 then w (sget 0 x.xfdone (num - 0x050)).toNat
    else if num = 0x054 then w sl.csrs.xflast.toNat
    else if num = 0x055 then w x.inboxst
    else if 0x058 ≤ num && num ≤ 0x05F then w (sget 0 x.gsrc (num - 0x058)).toNat
    else if num = 0x060 then sl.recVa
    else if num = 0x061 then (s.ctx sl.ctx).contpool
    else if num = 0x062 then sl.frame
    else if num = 0x070 then w (s.gangTouched (s.leaderOf sl)).toNat
    else if num = 0x080 then w sl.csrs.quant.toNat
    else if num = 0x081 then w x.mreplay.toNat
    else if num = 0x090 then (s.ctx sl.ctx).cap
    else if num = 0x0C0 then s.trapqbase c
    else if num = 0x0C1 then (s.ctx sl.ctx).savebase
    else if num = 0x0C2 then (s.ctx sl.ctx).ptbase
    else if num = 0x0C3 then x.spillBase
    else if num = 0x0C4 then x.dreq
    else 0

/-- The number of INBOXST. -/
def INBOXST : Nat := 0x055
def DREQ : Nat := 0x0C4

/-- R133, R182: a write that names a CSR marked RO for this level; field A. -/
def csrBad (s : State) (num : Nat) : Option Nat :=
  if csrWritable num || (num = INBOXST && supervisor s) then none else some 1

/-- R133: a CSR marked S at program level; INFO of PRIV. -/
def csrPriv (s : State) (num : Nat) : Option Nat :=
  if csrSuper num && !supervisor s then some (1 + num * 2 ^ 16) else none

/-- R423: the request block that a `csrw` of DREQ submits. -/
def blockOf (v : Word) : Nat := (v &&& 0x00FFFFFFFFFFFFE0).toNat

/-- R423: the check of the request block, as a supervisor atomic access. -/
def dreqFault (s : State) (num : Nat) (v : Word) : Option Trap :=
  if num = DREQ then checkAccess s .atomic false (v - (v &&& 31)).toNat 32 32 else none

/-- The value that a csr instruction leaves from the old one: 0 write, 1 set, 2 clear. -/
def csrNew (op : Nat) (old v : Word) : Word :=
  if op = 0 then v else if op = 1 then old ||| v else old &&& ~~~v

/-- The plan of `csrw`, `csrs` and `csrc` (R182): the old value to lc, the write at the end of the cycle (R134). A write of
DREQ or SAVEBASE is a release, so it waits for no failed atomic (R371, R423, R447); one of TRAPQBASE never traps (R442). -/
def csrPlan (i : Instr) (op : Nat) (num : BitVec 12) (d : SSrc) : Plan :=
  { instr := i,
    bad := fun s => csrBad s num.toNat,
    priv := fun s => csrPriv s num.toNat,
    fault := fun s => (if op = 0 then dreqFault s num.toNat (readS s i 0 d)
      else dreqFault s num.toNat (csrNew op (s.csr s.issue.core s.issue.slot num.toNat) (readS s i 0 d))).orElse
      fun _ => if num.toNat = DREQ || num.toNat = 0x0C1 then failedWrites s false else none,
    act := fun s =>
      let old := s.csr s.issue.core s.issue.slot num.toNat
      let v := readS s i 0 d
      (giveS i .z old 0 s).modCur fun sl => { sl with csrPend := sl.csrPend ++ [(num.toNat, op, v)] } }

def planCsrr (d : SDst) (num : BitVec 12) : Plan :=
  { instr := .csrr d num, priv := fun s => csrPriv s num.toNat,
    act := fun s => giveS (.csrr d num) d (s.csr s.issue.core s.issue.slot num.toNat) 0 s }
def execCsrr (d : SDst) (num : BitVec 12) (s : State) : Host.Outcome State Fault Refusal :=
  .next ((planCsrr d num).run s)

def planCsrw (num : BitVec 12) (d : SSrc) : Plan := csrPlan (.csrw num d) 0 num d
def execCsrw (num : BitVec 12) (d : SSrc) (s : State) : Host.Outcome State Fault Refusal :=
  .next ((planCsrw num d).run s)
def planCsrs (num : BitVec 12) (d : SSrc) : Plan := csrPlan (.csrs num d) 1 num d
def execCsrs (num : BitVec 12) (d : SSrc) (s : State) : Host.Outcome State Fault Refusal :=
  .next ((planCsrs num d).run s)
def planCsrc (num : BitVec 12) (d : SSrc) : Plan := csrPlan (.csrc num d) 2 num d
def execCsrc (num : BitVec 12) (d : SSrc) (s : State) : Host.Outcome State Fault Refusal :=
  .next ((planCsrc num d).run s)

/-! ## Writes as they take effect (R134, R183) -/

/-- The instruction that a pending CSR write becomes at the end of its cycle, and the write removed from the slot. -/
def csrEvent (s : State) (c k : Nat) (sl : Slot) (num op : Nat) (v : Word) : Instr :=
  let new := csrNew op (s.csr c k num) v
  if num = 0x080 then .quantWrite c k new
  else if num = INBOXST then .inboxstWrite c new
  else if num = 0x0C0 then .trapqbaseWrite (dieOf c) sl.ctx new
  else if num = 0x0C1 then .savebaseWrite sl.ctx new
  else .csrWrite c k (BitVec.ofNat 12 num) new

/-- R424: the request that a block holds; an error is its STATUS. -/
def State.request (s : State) (ctx blk : Nat) : Except Nat Instr :=
  let b := s.devGet ctx blk 32
  let r : Req := ⟨ctx, bits b 127 64, bits b 191 128, blk⟩
  if bits b 255 192 ≠ 0 || bits b 63 16 ≠ 0 then .error 1
  else match bits b 7 0 with
    | 1 => if r.arg1 = 0 then .ok (.resume r) else .error 1
    | 2 => if r.arg1 = 0 then .ok (.terminate r) else .error 1
    | 3 => if r.arg1 < 32 then .ok (.qreg r) else .error 1
    | 4 => if r.arg1 = 0 then .ok (.qunreg r) else .error 1
    | 5 => if r.arg0 < 3 && 1 ≤ r.arg1 && r.arg1 < 2 ^ 32 then .ok (.setparam r) else .error 1
    | _ => .error 1

/-- The device writes STATUS into a request block. -/
def State.putStatus (s : State) (r : Req) (st : Nat) : State :=
  s.devWrite r.ctx (r.block + 1) 1 st

/-- A `csrw` of DREQ: a release, and the request is read and queued to be performed next. -/
def State.submit (s : State) (c k ctx : Nat) (v : Word) : State :=
  let s := (s.release c k).modCore c fun x => { x with dreq := v &&& 0x00FFFFFFFFFFFFE0 }
  match s.request ctx (blockOf v) with
  | .error st => s.devWrite ctx (blockOf v + 1) 1 st
  | .ok i => { s with agenda := .event i :: s.agenda }

/-- The CSR takes its new value, its reserved bits aside (R7, R134, R183). -/
def State.putCsr (s : State) (c k num : Nat) (v : Word) : State :=
  match s.slot c k with
  | none => s
  | some sl =>
    let cs (f : Csrs → Csrs) : State := s.modSlot c k fun sl => { sl with csrs := f sl.csrs }
    if num = 0x010 then cs fun x => { x with flags := v.setWidth 8 }
    else if num = 0x011 then cs fun x => { x with ftrap := v.setWidth 8 }
    else if num = 0x012 then cs fun x => { x with fctl := v.setWidth 3 }
    else if num = 0x020 then cs fun x => { x with chk := v.setWidth 2 }
    else if num = 0x038 then cs fun x => { x with lead := v.setWidth 4 }
    else if num = 0x080 then cs fun x => { x with quant := v.setWidth 16 }
    else if 0x058 ≤ num && num ≤ 0x05F then
      s.modCore c fun x => { x with gsrc := sset 0 x.gsrc (num - 0x058) (v.setWidth 32) }
    else if num = 0x0C2 then
      let s := s.modCtx sl.ctx fun x => { x with ptbase := v }
      { s with dies := s.dies.map fun (d, x) => (d, { x with tlb := x.tlb.filter fun t => t.ctx ≠ sl.ctx }) }
    else if num = 0x0C3 then
      s.modCore c fun x => { x with spillBase := v &&& 0x00FFFFFFFFFFF000, spillCtx := sl.ctx }
    else if num = DREQ then s.submit c k sl.ctx v
    else s

/-- The first pending write of `num` leaves the list. -/
def dropPend (num : Nat) : List (Nat × Nat × Word) → List (Nat × Nat × Word)
  | [] => []
  | (n, o, v) :: l => if n = num then l else (n, o, v) :: dropPend num l

def State.dropCsr (s : State) (c k num : Nat) : State :=
  s.modSlot c k fun sl => { sl with csrPend := dropPend num sl.csrPend }

/-- CSR_WRITE: a CSR of the continuation in slot k of core c takes its value. -/
def execCsrWrite (core slot : Nat) (num : BitVec 12) (v : Word) (s : State) : Host.Outcome State Fault Refusal :=
  .next ((s.dropCsr core slot num.toNat).putCsr core slot num.toNat v)

/-- QUANT_WRITE (R183): the batch is flushed first. -/
def execQuantWrite (core slot : Nat) (v : Word) (s : State) : Host.Outcome State Fault Refusal :=
  .next (((s.dropCsr core slot 0x080).flushQuantum core slot).putCsr core slot 0x080 v)

/-- The slot has a pending write of `num` that leaves it v. -/
def State.owesCsr (s : State) (c k num : Nat) (v : Word) : Bool :=
  match s.slot c k with
  | none => false
  | some sl => sl.csrPend.any fun x => x.1 == num && csrNew x.2.1 (s.csr c k num) x.2.2 == v

/-- The first slot that made the write of v to a CSR shared by several slots. -/
def State.sharedWriter (s : State) (num : Nat) (v : Word) (of : Nat → Slot → Bool) : Option (Nat × Nat) :=
  s.occupied.find? fun x => s.owesCsr x.1 x.2 num v
    && (match s.slot x.1 x.2 with | some sl => of x.1 sl | none => false)

/-- The write leaves that slot. -/
def State.dropShared (s : State) (num : Nat) (v : Word) (of : Nat → Slot → Bool) : State :=
  match s.sharedWriter num v of with
  | some (c, k) => s.dropCsr c k num
  | none => s

/-- The write leaves that slot, as a release of what its continuation wrote before (R360). -/
def State.releaseShared (s : State) (num : Nat) (v : Word) (of : Nat → Slot → Bool) : State :=
  match s.sharedWriter num v of with
  | some (c, k) => (s.dropCsr c k num).release c k
  | none => s

/-- INBOXST_WRITE (R133): only LOST takes the write. -/
def execInboxstWrite (core : Nat) (v : Word) (s : State) : Host.Outcome State Fault Refusal :=
  .next ((s.dropShared INBOXST v fun c _ => c == core).modCore core fun x => { x with lost := (v >>> 32).setWidth 32 })

/-! ## The trap queue base (R441, R442, R444) -/

/-- R442: LOG2N of the header at `base`, when a queue may be registered there. -/
def State.trapqOk (s : State) (ctx : Nat) (base : Word) : Option Nat :=
  let n := bits (s.devGet ctx base.toNat 64) 132 128
  if base = 0 || base.toNat % 4096 ≠ 0 || n < 4 || 16 < n || (s.devWritable ctx base.toNat 64).isSome then none
  else some n

/-- TRAPQBASE_WRITE (R442): a release; then the queue is registered, OVF is cleared, and the held records are appended. A
base that registers no queue leaves the die without one, and no dispatch is stopped. -/
def execTrapqbaseWrite (die ctx : Nat) (base : Word) (s : State) : Host.Outcome State Fault Refusal :=
  let s := s.releaseShared 0x0C0 base fun c sl => dieOf c == die && sl.ctx == ctx
  let s := s.modDie die fun x => { x with trapqBase := base }
  match s.trapqOk ctx base with
  | none => .next (s.modDie die fun x => { x with trapq := none, ovf := false })
  | some n =>
    let s := s.modDie die fun x => { x with trapq := some ⟨base, ctx, n⟩, ovf := false }
    .next (((s.devWrite ctx (base.toNat + 17) 1 0).writePending die).drainHeld die)

/-- TRAPQ_RIDX_ADVANCE (R444): supervisor code moves RIDX, to a value up to WIDX, and held records follow. -/
def execTrapqRidxAdvance (die : Nat) (ridx : Word) (s : State) : Host.Outcome State Fault Refusal :=
  match (s.die die).trapq with
  | none => .next s
  | some q =>
    .next ((s.devWrite q.ctx (q.base.toNat + 8) 8 ridx.toNat).drainHeld die)

/-! ## The save area base (R446, R447) -/

/-- R447: STRIDE's least value. -/
def leastStride (maxgang : Nat) (matrix : Bool) : Nat :=
  4096 + 2 ^ maxgang * (24576 + (if matrix then 303104 else 0))

/-- Every page of va .. va+n-1 is mapped cacheable, readable and writable at supervisor level. -/
def State.pinnable (s : State) (ctx : Nat) : Nat → Nat → Nat → Bool
  | 0, _, _ => true
  | fuel + 1, va, n =>
    if n = 0 then true else
    let m := min n (65536 - va % 65536)
    (match s.placeOf ⟨ctx, true, 0⟩ .atomic false va with
      | .ok (.mem _ mt _) => decide (mt = 0)
      | _ => false) && s.pinnable ctx fuel (va + m) (n - m)

/-- R447: the four checks of the header (Table Failures-2). -/
def State.saveAreaOk (s : State) (ctx : Nat) (base : Word) : Bool :=
  let h := s.devGet ctx base.toNat 64
  let count := bits h 127 96
  let stride := bits h 95 64
  decide (bits h 31 0 = 0x41564153) && decide (bits (s.pool ctx) 31 0 ≤ count) && decide (bits h 138 136 ≤ 4)
  && decide (leastStride (bits h 138 136) (bit h 139) ≤ stride)
  && s.pinnable ctx (count * stride / 65536 + 2) base.toNat (count * stride)

/-- The translations of a range of pages are cached on every die (R447). -/
def State.preload (s : State) (ctx va n : Nat) : State :=
  (List.range (n / 65536 + 2)).foldl (fun s i =>
    let a := va / 65536 * 65536 + i * 65536
    if va + n ≤ a then s else
    match s.cachedLeaf ctx a with
    | some e => (List.range 8).foldl (fun s d => s.cacheLeaf d e) s
    | none => s) s

/-- SAVEBASE_WRITE (R447): a release; then the area is checked and pinned, its translations are preloaded, and STATE says
so. -/
def execSavebaseWrite (ctx : Nat) (base : Word) (s : State) : Host.Outcome State Fault Refusal :=
  let s := s.releaseShared 0x0C1 base fun _ sl => sl.ctx == ctx
  let h := s.devGet ctx base.toNat 64
  let ok := s.saveAreaOk ctx base
  let s := s.modCtx ctx fun x => { x with savebase := base, saveOk := ok }
  let s := if ok then s.preload ctx base.toNat (bits h 127 96 * bits h 95 64) else s
  .next (s.devWrite ctx (base.toNat + 16) 1 (if ok then 1 else 2))

/-- The meaning of a CSR event. -/
def csrRun : Instr → State → Host.Outcome State Fault Refusal
  | .quantWrite c k v => execQuantWrite c k v
  | .inboxstWrite c v => execInboxstWrite c v
  | .trapqbaseWrite d x v => execTrapqbaseWrite d x v
  | .savebaseWrite x v => execSavebaseWrite x v
  | .csrWrite c k n v => execCsrWrite c k n v
  | _ => .next

/-- R134: every CSR write that slot k of core c has pending takes effect. -/
def State.csrNow (s : State) (c k : Nat) : Nat → State
  | 0 => s
  | fuel + 1 => match s.slot c k with
    | none => s
    | some sl => match sl.csrPend with
      | [] => s
      | (n, o, v) :: _ => match csrRun (csrEvent s c k sl n o v) s with
        | .next t => t.csrNow c k fuel
        | _ => s

/-- MAXGANG of a context's save area (R447). -/
def State.maxGang (s : State) (ctx : Nat) : Nat := bits (s.devGet ctx (s.ctx ctx).savebase.toNat 64) 138 136
/-- MATRIX of a context's save area (R447). -/
def State.matrixAllowed (s : State) (ctx : Nat) : Bool := bit (s.devGet ctx (s.ctx ctx).savebase.toNat 64) 139

end Sys2Proof.Machine
end

