-- ==== Sys2Proof/Machine/Keys.lean ====
section
/-!
DEFINITION. Lock keys (R71, R416-R418), the launches' counts of their records (R409), and the end of a record: what
`retire`, a termination, a gang split and a placement timeout share (R59, R112, R280).
-/
namespace Sys2Proof.Machine

/-! ## The key table (R416) -/

/-- Die and entry of a key, as one number 65536 d + e. -/
def keyPlace (k : Nat) : Nat :=
  let h := k * 0x9E3779B1 % 2 ^ 32
  h / 2 ^ 29 * 65536 + h % 65536

/-- Insert into an ascending list without repeats. -/
def insertNat (n : Nat) : List Nat → List Nat
  | [] => [n]
  | m :: l => if n < m then n :: m :: l else if n = m then m :: l else m :: insertNat n l

/-- The distinct entries of a record's keys in ascending (d, e) order (R417). -/
def entriesOf (r : Nat) : List Nat := ((recKeys r).filter (· ≠ 0)).foldl (fun l k => insertNat (keyPlace k) l) []

def State.keyEntry (s : State) (p : Nat) : Option KeyEntry := sget none (s.die (p / 65536)).keys (p % 65536)
def State.putEntry (s : State) (p : Nat) (e : Option KeyEntry) : State :=
  s.modDie (p / 65536) fun d => { d with keys := sset none d.keys (p % 65536) e }

/-- The entries of a lost die grant to no one until the records it made DIELOST are gone (R453). -/
def State.entryStopped (s : State) (p : Nat) : Bool := !(s.die (p / 65536)).lostRecs.isEmpty

/-- The die to whose chain a record goes when its keys are granted (R417). -/
def State.bornDie (s : State) (r : RecId) : Nat := ((s.bornOn.find? fun (x, _) => x == r).map Prod.snd).getD 0

/-- All keys are held: the record becomes ready (R417). -/
def State.keysHeld (s : State) (r : RecId) : State :=
  let rc := s.readRec r.ctx r.idx
  let s := s.modRec r.ctx r.idx fun x => setWake (setState x 2) 0
  { s.makeReady (s.dieFor (s.bornDie r)) (recPrio rc) r false with
    bornOn := s.bornOn.filter fun (x, _) => x ≠ r, reserving := s.reserving.filter (· ≠ r) }

/-- R417 for the entries still to reserve, `held` held so far. Reserving sets the bit of the serving die in TOUCHED
(R453). -/
def State.reserveFrom (s : State) (r : RecId) (held : Nat) : List Nat → State
  | [] => s.keysHeld r
  | p :: l =>
    let s := s.modRec r.ctx r.idx fun x =>
      putBits (setWake x (7 * 2 ^ 60 + held)) 255 240 (recTouched x ||| 2 ^ s.dieFor (p / 65536))
    match s.keyEntry p with
    | none =>
      if s.entryStopped p then s.putEntry p (some ⟨none, [r]⟩)
      else (s.putEntry p (some ⟨some r, []⟩)).reserveFrom r (held + 1) l
    | some e => (s.putEntry p (some { e with waiters := e.waiters ++ [r] })).linkChain (e.waiters ++ [r])

/-- A record in state 1 goes on reserving at WAKE[2:0]. -/
def State.reserve (s : State) (r : RecId) (held : Nat) : State :=
  s.reserveFrom r held ((entriesOf (s.readRec r.ctx r.idx)).drop held)

/-- KEY_RESERVE (R417): a submitted record reserves its entries, until one is held by another. -/
def execKeyReserve (ctx idx : Nat) (s : State) : Host.Outcome State Fault Refusal :=
  let r : RecId := ⟨ctx, idx⟩
  if s.reserving.contains r then
    let s := { s with reserving := s.reserving.filter (· ≠ r) }
    .next (s.reserve r (recWake (s.readRec ctx idx) % 8))
  else .next s

/-- R418: an entry passes to its first waiter, which goes on, or becomes free. -/
def State.passEntry (s : State) (p : Nat) : State :=
  match s.keyEntry p with
  | none => s
  | some e => match e.waiters with
    | [] => s.putEntry p none
    | w :: l => ((s.putEntry p (some ⟨some w, l⟩)).setLink w 0).reserve w (recWake (s.readRec w.ctx w.idx) % 8 + 1)

/-- KEY_RELEASE (R418): each entry that the record holds is released in turn. -/
def State.releaseKeys (s : State) (r : RecId) : State :=
  (entriesOf (s.readRec r.ctx r.idx)).foldl (fun s p => match s.keyEntry p with
    | some e => if e.holder = some r then s.passEntry p else s
    | none => s) s

/-- R453: a record made DIELOST has left state 6; the entries of a die whose last such record it was serve again. -/
def State.thaw (s : State) (r : RecId) : State :=
  (List.range 8).foldl (fun s d =>
    let was := (s.die d).lostRecs
    if !was.contains r then s else
    let s := s.modDie d fun x => { x with lostRecs := x.lostRecs.filter (· ≠ r) }
    if !(s.die d).lostRecs.isEmpty then s
    else ((s.die d).keys.map Prod.fst).foldl (fun s e => s.passEntry (d * 65536 + e)) s) s

/-- Every key entry of one record becomes another's (R313). -/
def State.renameKeys (s : State) (a b : RecId) : State :=
  { s with dies := s.dies.map fun (d, x) => (d, { x with keys := x.keys.map fun (k, e) =>
      (k, e.map fun e => { e with holder := if e.holder = some a then some b else e.holder }) }) }

/-! ## Launches count their records (R109, R409) -/

/-- A new record belongs to a launch. -/
def State.joinLaunch (s : State) (r : RecId) (l : Option Nat) : State :=
  match l with
  | none => s
  | some n => { s.modLaunch n fun x => { x with live := x.live + 1 } with
      launchOf := s.launchOf.filter (fun x => x.1 ≠ r) ++ [(r, n)] }

/-- A record of a launch is retired or terminated: TIMESUM and RETIRED. -/
def State.countOut (s : State) (r : RecId) (time : Nat) (terminated : Bool) : State :=
  match s.launchOfRec r.ctx r.idx with
  | none => s
  | some n => s.modLaunch n fun x => { x with live := x.live - 1, retired := x.retired + 1, timesum := x.timesum + time,
                                              terminated := x.terminated || terminated }

/-! ## The end of a record -/

/-- What the model keeps beside a record goes with it. -/
def State.forget (s : State) (r : RecId) : State :=
  { s with fatal := s.fatal.filter (· ≠ r), launchOf := s.launchOf.filter fun x => x.1 ≠ r,
           imageOf := s.imageOf.filter fun (c, i, _) => !(c == r.ctx && i == r.idx),
           suspended := s.suspended.filter fun u => !(u.ctx == r.ctx && u.idx == r.idx),
           reserving := s.reserving.filter (· ≠ r), saved := s.saved.filter fun x => x.1 ≠ r,
           stepIds := s.stepIds.filter fun x => x.1 ≠ r, bornOn := s.bornOn.filter fun x => x.1 ≠ r }

/-- The record takes STATE 6; its keys are released, the launch counts it, and it returns to the head of the free chain
(R59, R65). -/
def State.endRecord (s : State) (r : RecId) (time : Nat) (terminated : Bool) : State :=
  let s := s.modRec r.ctx r.idx fun x => setState x 6
  let s : State := { s with virtKept := s.virtKept.filter fun x => x.1.1 ≠ r }
  let s := ((s.releaseKeys r).countOut r time terminated).freeRec r.ctx r.idx
  (s.forget r).thaw r

end Sys2Proof.Machine
end

