-- ==== Sys2Proof/Machine/Task.lean ====
section
/-!
DEFINITION. Instructions of the task level (R104-R122): creation, retirement, suspension and phases.
-/
namespace Sys2Proof.Machine

/-- The slots that the pair's effect reaches: the members of a fused gang, or the slot alone. -/
def State.members (s : State) : List (Nat × Nat) :=
  match s.cur with
  | some sl => (match sl.gangInfo with
    | some g => g.members
    | none => [(s.issue.core, s.issue.slot)])
  | none => []

/-- A result of an instruction that acts once (R106, R311) is delivered to every member; a pushed word goes out once. -/
def giveGang (i : Instr) (d : SDst) (v : Word) (s : State) : State :=
  let at_ := (s.issue.core, s.issue.slot)
  s.members.foldl (fun s (mc, mj) =>
    if (mc, mj) = at_ then giveS i d v 0 s
    else
      let s := s.modSlot mc mj fun sl => sl.owe { pendingOf s i with
        dst := d.reg, val := v.setWidth 2048, mask := BitVec.allOnes 2048, latch := some (isA i),
        latchVal := ⟨v.setWidth 2048, 0⟩ }
      s) s

/-! ## Creation (R107-R111) -/

/-- The task body whose first operation a VPC names, and its object. -/
def State.bodyOf (s : State) (vpc : Nat) : Option (CodeObject × Body) :=
  match s.object (vpc / 2 ^ 44) with
  | none => none
  | some o => (o.bodies.find? fun b => b.off == vpc % 2 ^ 44).map fun b => (o, b)

/-- The attributes of a new record. -/
structure NewRec where
  vpc : Nat
  args : Nat
  dom : Nat
  keys : List Nat
  prio : Nat
  gang : Nat
  matrix : Bool
  /-- what its frame header takes: FTRAP, FCTL, CHK, LEAD, QUANT. -/
  csrs : Csrs
  core : Nat
  pinned : Bool

/-- CTL of a record (Table Continuation-2). -/
def ctlOf (prio gang : Nat) (matrix pinned : Bool) (st : Nat) : Nat :=
  prio + gang * 2 ^ 5 + b2n matrix * 2 ^ 8 + b2n pinned * 2 ^ 9 + st * 2 ^ 10

/-- The creation fields of an allocated record (R108, R408). -/
def newRecord (r : Nat) (n : NewRec) : Nat :=
  let keyed := n.keys.any (· ≠ 0)
  let k (j : Nat) : Nat := n.keys.getD j 0
  let r := putBits (putBits (putBits r 63 0 n.vpc) 191 128 n.args) 223 192 n.dom
  let r := putBits (putBits r 239 224 (ctlOf n.prio n.gang n.matrix n.pinned (if keyed then 1 else 2))) 255 240 0
  let r := putBits (putBits (putBits (putBits r 287 256 (k 0)) 319 288 (k 1)) 351 320 (k 2)) 383 352 (k 3)
  setWake r (if keyed then 7 * 2 ^ 60 else 0)

/-- Fill an allocated record and its frame header. -/
def State.fillRecord (s : State) (ctx idx : Nat) (n : NewRec) : State :=
  let r := s.readRec ctx idx
  let s := s.writeRec ctx idx (newRecord r n)
  let cs : Csrs := { n.csrs with flags := 0, xflast := 0 }
  s.putFrame ctx idx (recFrame r) (frameOf n.core 0 0 0 cs 0)

/-- R109: a created record stands ready, or is submitted for its keys. -/
def State.enter (s : State) (d : Nat) (r : RecId) (n : NewRec) : State :=
  if n.keys.any (· ≠ 0) then { s with reserving := s.reserving ++ [r], bornOn := s.bornOn ++ [(r, d)] }
  else s.makeReady d n.prio r false

/-- The priority of a creation. -/
def creationPrio (s : State) (c : Creation) : Nat :=
  match c.prio with
  | some p => p.val
  | none => match s.cur with | some sl => sl.prio | none => 0

/-- The key values of a body: immediates and words of the argument block (R80). -/
def State.keyWords (s : State) (w : Who) (args : Nat) (b : Body) : List Nat :=
  b.keys.map fun (kind, v) => if kind = 0 then v else (s.readVa w .load ((args + v) % 2 ^ 64) 4).1

/-- The traces that the loads of the key words leave (R108). -/
def State.keyEffects (s : State) (w : Who) (args : Nat) (b : Body) : State :=
  b.keys.foldl (fun s (kind, v) => if kind = 0 then s else s.lineEffects w .load .load ((args + v) % 2 ^ 64) 4) s

/-- The reading of the key words may fault as loads do. -/
def State.keyFault (s : State) (w : Who) (args : Nat) (b : Body) : Option Trap :=
  b.keys.findSome? fun (kind, v) =>
    if kind = 0 then none else
    let ea := (args + v) % 2 ^ 64
    (s.accessTrap w .load false ea 4 4).orElse fun _ =>
      if (s.readVa w .load ea 4).2 then some (trapInfo MCHECK 2) else none

/-- The key words are loaded after the atomics that the creator has posted to their lines, as any load is (R108, R143). -/
def State.keyWait (s : State) (vpc args : Nat) : Option Wait :=
  (s.bodyOf vpc).bind fun x => x.2.keys.findSome? fun (kind, v) =>
    if kind = 0 then none else postedWait s ((args + v) % 2 ^ 64) 4

/-- The checks of R108, R61 and R447 at step 7. -/
def spawnFault (s : State) (i : Instr) (keyed : Bool) (a b : Word) (c : Creation) : Option Trap :=
  let w := issuer s
  match s.bodyOf a.toNat with
  | none => some (protTrap (opcode i))
  | some (_, bd) =>
    if (s.poolHole w.ctx).isSome then s.poolHole w.ctx
    else if (!keyed && !bd.keys.isEmpty) || s.frameStride w.ctx - 64 < bd.spill || s.maxGang w.ctx < c.gang.val
        || (c.matrix && !s.matrixAllowed w.ctx) then some (protTrap (opcode i))
    else (if keyed then s.keyFault w b.toNat bd else none).orElse fun _ => failedWrites s false

/-- The effect of `spawn` and `spawnk`. -/
def State.create (s : State) (i : Instr) (keyed : Bool) (d : SDst) (a b : Word) (c : Creation) : State :=
  match s.cur, s.bodyOf a.toNat with
  | some sl, some (_, bd) =>
    let n : NewRec :=
      { vpc := a.toNat, args := b.toNat,
        dom := match c.dlevel with | some l => (sget 0 sl.csrs.domm l.val).toNat | none => 0,
        keys := if keyed then s.keyWords (issuer s) b.toNat bd else [],
        prio := creationPrio s c, gang := c.gang.val, matrix := c.matrix,
        csrs := csrsOfFrame (s.frameHdr sl.ctx sl.frame.toNat) [], core := 0, pinned := false }
    let s := if keyed then s.keyEffects (issuer s) b.toNat bd else s
    let s := s.release s.issue.core s.issue.slot
    let (s, idx) := s.allocRec sl.ctx
    if idx = 0 then giveS i d 0 0 s
    else
      let r : RecId := ⟨sl.ctx, idx⟩
      let s := (((s.fillRecord sl.ctx idx n).joinLaunch r sl.launch).enter (dieOf s.issue.core) r n)
      giveS i d (BitVec.ofNat 64 (recGen (s.readRec sl.ctx idx) * 2 ^ 32 + idx)) 0 s
  | _, _ => s

def spawnPlan (i : Instr) (keyed : Bool) (d : SDst) (a b : SSrc) (c : Creation) : Plan :=
  { instr := i,
    priv := fun s => match s.cur with
      | some sl => if sl.prio < creationPrio s c && !supervisor s then some 0 else none
      | none => none,
    fault := fun s => spawnFault s i keyed (readS s i 1 a) (readS s i 2 b) c,
    wait := fun s => if keyed then s.keyWait (readS s i 1 a).toNat (readS s i 2 b).toNat else none,
    act := fun s => s.create i keyed d (readS s i 1 a) (readS s i 2 b) c }

def planSpawn (d : SDst) (a b : SSrc) (c : Creation) : Plan := spawnPlan (.spawn d a b c) false d a b c
def execSpawn (d : SDst) (a b : SSrc) (c : Creation) (s : State) : Host.Outcome State Fault Refusal :=
  .next ((planSpawn d a b c).run s)
def planSpawnk (d : SDst) (a b : SSrc) (c : Creation) : Plan := spawnPlan (.spawnk d a b c) true d a b c
def execSpawnk (d : SDst) (a b : SSrc) (c : Creation) (s : State) : Host.Outcome State Fault Refusal :=
  .next ((planSpawnk d a b c).run s)

/-! ## retire (R112, R113) -/

/-- The continuation's slot is in a fused gang, placed or transient. -/
def fused (s : State) : Bool := match s.cur with | some sl => sl.gangInfo.isSome | none => false
/-- In a transient gang. -/
def transient (s : State) : Bool :=
  match s.cur with
  | some sl => (match sl.gangInfo with | some g => g.transient | none => false)
  | none => false

/-- The matrix unit of a core is nobody's: tiles, descriptors, CUR and INB are cleared (R112, R266). An INB that is still
filling is empty too; its sender's stream goes on and commits it (log 78). -/
def Core.clearMatrix (x : Core) : Core :=
  { x with tiles := [], tileTags := [], adesc := [], cur := none, rpl := 0, inb := .empty, inbCtx := none, ring := none }

/-- The owner of a core's matrix unit leaves it; a stream that has not been committed is abandoned, and the successor's INB
is empty again (R257). -/
def State.clearUnit (s : State) (c : Nat) : State :=
  (match (s.core c).ring with
  | some ⟨_, n, _, _, _, .streaming _⟩ => s.modCore n fun x => { x with inb := .empty }
  | _ => s).modCore c Core.clearMatrix

/-- The arrivals of a record that ends: one of weight 1 at the open phase of each domain at levels 1-7 (R112). -/
def State.arriveAll (s : State) (ctx : Nat) (domm : List (Nat × Half)) : State :=
  [1, 2, 3, 4, 5, 6, 7].foldl (fun s l =>
    let d : Half := sget 0 domm l
    if d = 0 then s else s.arrive ctx d.toNat 1) s

/-- What a record that ends leaves behind on the device: its lines and ports, its arrivals, its place in a level-0
rectangle (R112, R280). -/
def State.leaveWorld (s : State) (c ctx recPa : Nat) (domm : List (Nat × Half)) : State :=
  let s := ((s.releaseHolder recPa).arriveAll ctx domm)
  let d0 : Half := sget 0 domm 0
  if d0 = 0 then s else s.leaveRect c ctx d0.toNat

/-- The join add, with ORDER release and SCOPE 15: accepted at its home, or by the proxy. -/
def State.joinAdd (s : State) (sl : Slot) (ea : Nat) (v : Word) : State :=
  match s.placeOf (issuer s) .atomic false ea with
  | .ok p =>
    s.send ⟨sl.ctx, sl.idx, s.issue.core, none, p.pa, p.key, 64, .add, v.toNat, none, false, 0⟩ p
  | .error _ => s

/-- R112, after the checks and the wait. -/
def State.retireCur (s : State) (a b : Word) : State :=
  match s.cur with
  | none => s
  | some sl =>
    let c := s.issue.core
    let k := s.issue.slot
    let s := s.release c k
    let s := if a = 0 then s else (s.lineEffects (issuer s) .atomic .atomic a.toNat 8).joinAdd sl a.toNat b
    let s := s.leaveWorld c sl.ctx sl.recPa sl.csrs.domm
    let s := if sl.matrix then s.clearUnit c else s
    let s := (s.unregister sl.ctx sl.idx).endRecord ⟨sl.ctx, sl.idx⟩ (s.slotTime sl) false
    (s.freeSlot c k).pairGone

/-- What ends a continuation's stay in its slot waits for the matrix work of the pair's A-slot (R112, R241, R266). -/
def State.afterMatrix (s : State) (w : Wait) (now_ : State → State) : State :=
  match s.cur.bind Slot.hold with
  | some h => if h.reissue || !h.w.matrixWork then now_ s
      else s.modCur fun sl => { sl with hold := sl.hold.map fun h => { h with after := h.after ++ [w] } }
  | none => now_ s

def planRetire (a b : SSrc) : Plan :=
  let i : Instr := .retire a b
  { instr := i,
    fault := fun s =>
      if fused s then some (protTrap (opcode i))
      else (if readS s i 1 a = 0 then none else checkAccess s .atomic false (readS s i 1 a).toNat 8 8).orElse fun _ =>
        failedWrites s false,
    wait := fun s => if resultsOwed s then some .drain else none,
    act := fun s => s.afterMatrix (.retire (readS s i 1 a) (readS s i 2 b)) fun s =>
      s.retireCur (readS s i 1 a) (readS s i 2 b) }
def execRetire (a b : SSrc) (s : State) : Host.Outcome State Fault Refusal := .next ((planRetire a b).run s)

/-! ## susp and suspon (R114, R115) -/

/-- The pair is the last that issued, for a write-back from inside it. -/
def State.passPair (s : State) : State := s.modCur fun sl => { sl with lastPc := s.issue.pc, pc := s.issue.npc }

/-- R114: LTIME + delay, held at 2^60 − 1. -/
def suspUntil (s : State) (delay : Word) : Nat :=
  match s.cur with
  | some sl => min (s.slotLtime sl + delay.toNat) (2 ^ 60 - 1)
  | none => 0

def planSusp (a : SSrc) : Plan :=
  let i : Instr := .susp a
  { instr := i,
    fault := fun s => if transient s then some (protTrap (opcode i)) else none,
    act := fun s =>
      let t := suspUntil s (readS s i 1 a)
      s.afterMatrix (.away (9 * 2 ^ 60 + t) (.timer t)) fun s =>
        (s.passPair.writeBack s.issue.core s.issue.slot 4 (9 * 2 ^ 60 + t) 0 (.timer t) false).pairGone }
def execSusp (a : SSrc) (s : State) : Host.Outcome State Fault Refusal := .next ((planSusp a).run s)

/-- The wait that a wake word names, when the table of R115 allows it. -/
def wakeWord (s : State) (w : Nat) : Option Wait :=
  match s.cur with
  | none => none
  | some sl =>
    let c := s.issue.core
    let x := s.core c
    let only (mask : Nat) : Bool := w % 2 ^ 60 = w % 2 ^ 60 &&& mask
    match w / 2 ^ 60 with
    | 1 =>
      if bit w 59 then
        let l := bits w 58 56
        let d : Half := sget 0 sl.csrs.domm l
        if only (2 ^ 59 + 7 * 2 ^ 56 + 0xFFFFFFFF) && 1 ≤ l && d ≠ 0 then
          some (.phase l d.toNat (BitVec.ofNat 32 w)) else none
      else if only (0x3F * 2 ^ 48 + 0xF * 2 ^ 44 + 0xFFFFFFFF) && bits w 53 48 = clusterOf c then
        some (.group (bits w 53 48) (bits w 47 44) (BitVec.ofNat 32 w)) else none
    | 2 =>
      let p := bits w 35 32
      if only (0x3FF * 2 ^ 36 + 0xF * 2 ^ 32) && bits w 45 36 = c
          && (p = 0 || p = 4 || p = 5 || (8 ≤ p && (x.binding p).holder = (s.leaderOf sl).recPa)) then some (.ports [(p, 1)]) else none
    | 4 =>
      if only (0x3F * 2 ^ 40 + 0x3F) && bits w 45 40 = clusterOf c then some (.line (clusterOf c) (bits w 5 0) none none)
      else none
    | 5 =>
      if only (0x3FF * 2 ^ 36 + 3 * 2 ^ 32 + 0xFFFFFFFF) && bits w 45 36 = c then
        some (.xfer (bits w 33 32) (BitVec.ofNat 32 w)) else none
    | 6 =>
      let off := bits w 20 0
      let n := bits w 28 24
      if only (0x3FF * 2 ^ 36 + 0x1F * 2 ^ 24 + 0x1FFFFF) && bits w 45 36 = c && off % 16 = 0 && 1 ≤ n && n ≤ 16
          && (List.range n).all (fun g => decide (sget 0 x.owner (off / 128 + (off % 128 / 16 + g) / 8) = sl.recPa)) then
        some (.granules off n) else none
    | 9 => some (.timer (w % 2 ^ 60))
    | _ => none

def planSuspon (a b : SSrc) : Plan :=
  let i : Instr := .suspon a b
  { instr := i,
    fault := fun s =>
      if transient s || readS s i 2 b ≠ 0 || (wakeWord s (readS s i 1 a).toNat).isNone then some (protTrap (opcode i))
      else none,
    wait := fun s => match wakeWord s (readS s i 1 a).toNat with
      | some (.line cl _ _ _) => if s.unitFull cl then some .evFull else none
      | _ => none,
    act := fun s =>
      let v := (readS s i 1 a).toNat
      match wakeWord s v, s.cur with
      | some w, some sl =>
        let s := match w with
          | .line cl l _ _ => s.registerLine cl l sl.ctx sl.idx sl.gen
          | _ => s
        s.afterMatrix (.away v w) fun s => (s.passPair.writeBack s.issue.core s.issue.slot 4 v 0 w false).pairGone
      | _, _ => s }
def execSuspon (a b : SSrc) (s : State) : Host.Outcome State Fault Refusal := .next ((planSuspon a b).run s)

/-! ## Phases (R119-R122) -/

/-- The domain of the continuation at a level; 0 for none. -/
def dommOf (s : State) (l : Nat) : Nat :=
  match s.cur with
  | some sl => (sget 0 sl.csrs.domm l).toNat
  | none => 0

/-- R120: a level whose DOMM is 0; R60: a descriptor that cannot be read; R305: one at which no arrival can be made. -/
def arriveFault (s : State) (i : Instr) (l : Nat) : Option Trap :=
  if dommOf s l = 0 then some (protTrap (opcode i))
  else (s.domHole (issuer s).ctx (dommOf s l)).orElse fun _ =>
    if s.domBad (issuer s).ctx (dommOf s l) l then some (protTrap (opcode i)) else none

/-- The phase that an arrival now counts toward (R306). -/
def openPhase (s : State) (l : Nat) : Half := BitVec.ofNat 32 (domOpen (s.domain (issuer s).ctx (dommOf s l)))

/-- Wait in the slot for the closing of phase p at level l. -/
def State.awaitPhase (s : State) (l : Nat) (p : Half) : State :=
  let w : Wait := .phase l (dommOf s l) (p + 1)
  match s.cur with
  | some sl => if s.waitOver s.issue.core sl w then s else s.holdPair w false
  | none => s

/-- `phase 0` (R119): raise the count, or wait for the neighbours. -/
def State.phaseZero (s : State) : State :=
  match s.cur with
  | none => s
  | some sl =>
    let want : Half := sl.phase0 + 1 - sl.csrs.lead.setWidth 32
    let s := s.release s.issue.core s.issue.slot
    if s.waitOver s.issue.core sl (.phase0 want) then s.advance0 s.issue.core s.issue.slot
    else s.holdPair (.phase0 want) false

/-- `parrive`'s effect at a level: the release and the arrival. -/
def State.arriveLevel (s : State) (l w : Nat) : State :=
  s.arrive (issuer s).ctx (dommOf s l) w

def planPhase (l : Fin 8) : Plan :=
  let i : Instr := .phase l
  { instr := i,
    fault := fun s => (arriveFault s i l.val).orElse fun _ => failedWrites s false,
    act := fun s =>
      if l.val = 0 then s.phaseZero
      else
        let p := openPhase s l.val
        ((s.release s.issue.core s.issue.slot).arriveLevel l.val 1).awaitPhase l.val p }
def execPhase (l : Fin 8) (s : State) : Host.Outcome State Fault Refusal := .next ((planPhase l).run s)

def planParrive (d : SDst) (l : Fin 8) : Plan :=
  let i : Instr := .parrive d l
  { instr := i,
    fault := fun s => (arriveFault s i l.val).orElse fun _ => failedWrites s false,
    act := fun s =>
      let p := openPhase s l.val
      giveGang i d (p.setWidth 64) ((s.release s.issue.core s.issue.slot).arriveLevel l.val 1) }
def execParrive (d : SDst) (l : Fin 8) (s : State) : Host.Outcome State Fault Refusal := .next ((planParrive d l).run s)

/-- The plan of `pwait` and `owait`: a level whose DOMM is 0 traps PROT; a descriptor that cannot be read, R60. -/
def waitPhasePlan (i : Instr) (l : Fin 8) (b : SSrc) : Plan :=
  { instr := i,
    fault := fun s => if dommOf s l.val = 0 then some (protTrap (opcode i)) else s.domHole (issuer s).ctx (dommOf s l.val),
    act := fun s => s.awaitPhase l.val ((readS s i 2 b).setWidth 32) }

def planPwait (l : Fin 8) (b : SSrc) : Plan := waitPhasePlan (.pwait l b) l b
def execPwait (l : Fin 8) (b : SSrc) (s : State) : Host.Outcome State Fault Refusal := .next ((planPwait l b).run s)

end Sys2Proof.Machine
end

