-- ==== Sys2Proof/Machine/Cluster.lean ====
section
/-!
DEFINITION. Cluster instructions (R283-R316): the event unit, barrier groups, barrier objects by weight, channels,
transfer waits, and gangs; and the unit's own decisions on gangs.
-/
namespace Sys2Proof.Machine

/-- R289: the issuing continuation's context does not hold the cluster. -/
def foreign (s : State) (i : Instr) : Option Trap :=
  if foreignCluster s then some (protTrap (opcode i)) else none

/-- The cluster of the issuing core. -/
def ownCluster (s : State) : Nat := clusterOf s.issue.core

/-! ## Event lines (R295-R298) -/

def planEvwait (l : Fin 64) : Plan :=
  let i : Instr := .evwait l
  { instr := i, fault := fun s => foreign s i,
    wait := fun s => if s.unitFull (ownCluster s) then some .evFull else none,
    act := fun s => s.waitLine s.issue.core s.issue.slot (ownCluster s) l.val none }
def execEvwait (l : Fin 64) (s : State) : Host.Outcome State Fault Refusal := .next ((planEvwait l).run s)

/-- The cluster that a target word names (R297). -/
def evTarget (s : State) (w : Word) : Nat := if w.getLsbD 6 then w.toNat % 64 else ownCluster s

def planEvsig (l : Fin 64) (b : SSrc) : Plan :=
  let i : Instr := .evsig l b
  { instr := i,
    bad := fun s => if 128 ≤ (readS s i 2 b).toNat then some 5 else none,
    fault := fun s => ((foreign s i).orElse fun _ =>
      if s.holderNow (evTarget s (readS s i 2 b)) = some (issuer s).ctx then none else some (protTrap (opcode i))).orElse
      fun _ => failedWrites s false,
    act := fun s =>
      let t := evTarget s (readS s i 2 b)
      (s.release s.issue.core s.issue.slot).fireLine t l.val }
def execEvsig (l : Fin 64) (b : SSrc) (s : State) : Host.Outcome State Fault Refusal := .next ((planEvsig l b).run s)

/-! ## Barrier groups (R300-R303) -/

def State.group (s : State) (cl g : Nat) : Group := sget Group.reset (s.clus cl).groups g
def State.putGroup (s : State) (cl g : Nat) (x : Group) : State :=
  s.modClus cl fun c => { c with groups := sset Group.reset c.groups g x }

/-- The closing of a generation (R301); a second one may follow at once, a third never. -/
def Group.close : Nat → Group → Group
  | 0, x => x
  | n + 1, x =>
    let mask := x.pend.getD x.mask
    let y : Group := ⟨x.gen + 1, mask, x.held &&& mask, 0, none⟩
    if mask ≠ 0 && y.arrived = mask then y.close n else y

/-- What an arrival of core bit b does: a trap, a wait for GEN to advance, or the new state and the generation. -/
inductive Arrival where
  | prot | stall
  | done (g : Group) (gen : Half)

def Group.arrive (x : Group) (b : BitVec 16) : Arrival :=
  if x.arrived &&& b ≠ 0 then
    if (x.pend.getD x.mask) &&& b = 0 then .prot
    else if x.held &&& b ≠ 0 then .stall
    else .done { x with held := x.held ||| b } (x.gen + 1)
  else if x.mask &&& b = 0 then .prot
  else
    let y : Group := { x with arrived := x.arrived ||| b }
    .done (if y.arrived = y.mask then y.close 3 else y) x.gen

/-- The bit of the issuing core in its cluster's masks. -/
def ownBit (s : State) : BitVec 16 := BitVec.ofNat 16 (2 ^ bitOf s.issue.core)

def planBarr (d : SDst) (g : Fin 16) : Plan :=
  let i : Instr := .barr d g
  let arr (s : State) : Arrival := (s.group (ownCluster s) g.val).arrive (ownBit s)
  { instr := i,
    fault := fun s => ((foreign s i).orElse fun _ => match arr s with
      | .prot => some (protTrap (opcode i))
      | _ => none).orElse fun _ => failedWrites s false,
    wait := fun s => match arr s with
      | .stall => some (.barrHeld g.val (s.group (ownCluster s) g.val).gen)
      | _ => none,
    act := fun s => match arr s with
      | .done x gen =>
        giveGang i d (gen.setWidth 64) ((s.release s.issue.core s.issue.slot).putGroup (ownCluster s) g.val x)
      | _ => s }
def execBarr (d : SDst) (g : Fin 16) (s : State) : Host.Outcome State Fault Refusal := .next ((planBarr d g).run s)

/-- `bwait`: until the generation named has closed (R302). -/
def planBwait (g : Fin 16) (b : SSrc) : Plan :=
  let i : Instr := .bwait g b
  { instr := i, fault := fun s => foreign s i,
    act := fun s =>
      let want : Half := (readS s i 2 b).setWidth 32 + 1
      if reached (s.group (ownCluster s) g.val).gen want then s
      else s.holdPair (.group (ownCluster s) g.val want) false }
def execBwait (g : Fin 16) (b : SSrc) (s : State) : Host.Outcome State Fault Refusal := .next ((planBwait g b).run s)

def planBmask (g : Fin 16) (b : SSrc) : Plan :=
  let i : Instr := .bmask g b
  { instr := i,
    bad := fun s => if 2 ^ 16 ≤ (readS s i 2 b).toNat then some 5 else none,
    fault := fun s => foreign s i,
    act := fun s =>
      let x := s.group (ownCluster s) g.val
      let m : BitVec 16 := (readS s i 2 b).setWidth 16
      s.putGroup (ownCluster s) g.val
        (if x.arrived = 0 && x.held = 0 then { x with mask := m, pend := none } else { x with pend := some m }) }
def execBmask (g : Fin 16) (b : SSrc) (s : State) : Host.Outcome State Fault Refusal := .next ((planBmask g b).run s)

/-! ## Barrier objects by weight (R308) -/

def planOarr (d : SDst) (l : Fin 8) (b : SSrc) : Plan :=
  let i : Instr := .oarr d l b
  { instr := i,
    bad := fun s => if 2 ^ 16 ≤ (readS s i 2 b).toNat then some 5 else none,
    fault := fun s => (foreign s i).orElse fun _ => arriveFault s i l.val,
    act := fun s =>
      let p := openPhase s l.val
      let w := (readS s i 2 b).toNat
      giveGang i d (p.setWidth 64) (if w = 0 then s else s.arriveLevel l.val w) }
def execOarr (d : SDst) (l : Fin 8) (b : SSrc) (s : State) : Host.Outcome State Fault Refusal :=
  .next ((planOarr d l b).run s)

def planOwait (l : Fin 8) (b : SSrc) : Plan :=
  let p := waitPhasePlan (.owait l b) l b
  { p with fault := fun s => (foreign s (.owait l b)).orElse fun _ => p.fault s }
def execOwait (l : Fin 8) (b : SSrc) (s : State) : Host.Outcome State Fault Refusal := .next ((planOwait l b).run s)

/-! ## xwait (R391) -/

/-- The wait follows the rule's formula, for an id more than 2^31 behind XFDONE too (log 92). -/
def planXwait (ch : Fin 4) (b : SSrc) : Plan :=
  let i : Instr := .xwait ch b
  { instr := i, act := fun s =>
      let id : Half := (readS s i 2 b).setWidth 32
      if reached (sget 0 (s.core s.issue.core).xfdone ch.val) (id + 1) then s
      else s.holdPair (.xfer ch.val id) false }
def execXwait (ch : Fin 4) (b : SSrc) (s : State) : Host.Outcome State Fault Refusal := .next ((planXwait ch b).run s)

/-! ## chbind (R290-R292) -/

/-- A reserved bit, or an UNBIND with a route (R290). -/
def routeBad (w : Word) : Bool :=
  w &&& 0xFFFFFFFF7FF80000 ≠ 0 || (w.getLsbD 31 && w &&& 0x7FFFF ≠ 0)

/-- R291 for port n: the new state and the status. In a fused gang, a transient one too, the record is the leader's, under
which the gang issues (R311, R314; log 79). -/
def State.bindPort (s : State) (n : Nat) (w : Word) : State × Nat :=
  match s.cur with
  | none => (s, 0)
  | some sl =>
    let c := s.issue.core
    let b := (s.core c).binding n
    let h := (s.leaderOf sl).recPa
    if w.getLsbD 31 then
      if b.holder = h then (s.unbindPort c n, 0) else if b.holder = 0 then (s, 0) else (s, 2)
    else if !routeOk c (w.setWidth 8) ((w >>> 8).setWidth 8) then (s, 1)
    else if b.holder ≠ 0 && b.holder ≠ h then (s, 2)
    else
      let b' : Bind := { b with holder := h, ctx := sl.ctx, dx := w.setWidth 8, dy := (w >>> 8).setWidth 8,
                                rch := (w >>> 16).setWidth 3 }
      (s.modCore c fun x => { x with bind := sset Bind.none x.bind n b' }, 0)

def planChbind (d : SDst) (n : Fin 8) (b : SSrc) : Plan :=
  let i : Instr := .chbind d n b
  { instr := i,
    bad := fun s => if routeBad (readS s i 2 b) then some 5 else none,
    act := fun s =>
      let (s', st) := s.bindPort (8 + n.val) (readS s i 2 b)
      giveS i d (BitVec.ofNat 64 st) 0 s' }
def execChbind (d : SDst) (n : Fin 8) (b : SSrc) (s : State) : Host.Outcome State Fault Refusal :=
  .next ((planChbind d n b).run s)

/-! ## Gangs (R310-R315) -/

def gangW (g : Nat) : Nat := 2 ^ ((g + 1) / 2)
def gangH (g : Nat) : Nat := 2 ^ (g / 2)

/-- The cores of a gang's rectangle, row-major from its top left core. -/
def rectCores (leader g : Nat) : List Nat :=
  (List.range (2 ^ g)).map fun j => leader + j / gangW g * 64 + j % gangW g

/-- R310: the rectangle is aligned in its cluster. -/
def rectOk (leader g : Nat) : Bool :=
  leader < 1024 && coreX leader % 4 % gangW g = 0 && coreY leader % 4 % gangH g = 0

/-- The fields of a shape word. -/
def shapeSize (w : Word) : Nat := w.toNat % 8
def shapeLeader (w : Word) : Nat := bits w.toNat 25 16
def shapeBad (w : Word) : Bool := w &&& 0xFFFFFFFFFC00FFF8 ≠ 0 || shapeSize w = 0 || 4 < shapeSize w

/-- The members' slots become one gang, in row-major order. -/
def State.fuse (s : State) (members : List (Nat × Nat)) (trans : Bool) : State :=
  match members with
  | [] => s
  | (lc, lj) :: _ => members.zipIdx.foldl (fun s ((mc, mj), i) =>
      s.modSlot mc mj fun sl => { sl with gangInfo := some ⟨members.length, i, lc, lj, trans, members⟩ }) s

/-- The stall of a `gfuse` ends with a status, and the pair's own W = 1 wait goes on. -/
def State.endFuse (s : State) (c k v : Nat) : State :=
  match (s.slot c k).bind Slot.hold with
  | some ⟨.fuse _ _ _ d, _, _, after⟩ =>
    let s := (s.unfuse c k).lateResult c k d v false
    s.modSlot c k fun sl => { sl with hold := nextHold s.now after, readySince := s.now + 1 }
  | _ => s

/-- The requests of a key, in row-major order, when every core of the rectangle holds one, all of one context. -/
def State.fuseReady (s : State) (cl leader size : Nat) (tag : Word) : Option (List FuseReq) :=
  let rs := (rectCores leader size).filterMap fun c =>
    (s.clus cl).fuses.find? fun f => f.core == c && f.leader == leader && f.size == size && f.tag == tag
  match rs with
  | [] => none
  | f :: _ => if rs.length = 2 ^ size && rs.all (fun g => g.ctx == f.ctx) then some rs else none

/-- GFUSE_DECIDE (R314): the fusion is decided once at the unit. -/
def execGfuseDecide (cluster leader size : Nat) (tag : Word) (s : State) : Host.Outcome State Fault Refusal :=
  match s.fuseReady cluster leader size tag with
  | none => .next s
  | some rs =>
    let ms := rs.map fun f => (f.core, f.slot)
    let s := (ms.foldl (fun s (c, k) => s.endFuse c k 0) s).fuse ms true
    match ms.head?.bind fun m => s.slot m.1 m.2 with
    | none => .next s
    | some lead => .next (ms.foldl (fun s (c, k) => s.modSlot c k fun sl => { sl with
        pc := lead.pc, virt := match lead.virt, sl.virt with
          | some l, some v => some { l with calls := v.calls, reads := v.reads, writes := v.writes }
          | l, _ => l }) s)

/-- GFUSE_TIMEOUT (R314): 65,536 cycles have passed, and no fusion is decided. -/
def execGfuseTimeout (core slot : Nat) (s : State) : Host.Outcome State Fault Refusal :=
  match (s.clus (clusterOf core)).fuses.find? fun f => f.core == core && f.slot == slot with
  | none => .next s
  | some f =>
    if s.now < f.at_ + Config.gfuseCycles || (s.fuseReady (clusterOf core) f.leader f.size f.tag).isSome then .next s
    else .next (s.endFuse core slot 2)

def planGfuse (d : SDst) (a b : SSrc) : Plan :=
  let i : Instr := .gfuse d a b
  { instr := i,
    bad := fun s => if shapeBad (readS s i 1 a) then some 5 else none,
    fault := fun s => match s.cur with
      | some sl => if sl.gangInfo.isSome || sl.gang ≠ 0 then some (protTrap (opcode i)) else none
      | none => none,
    act := fun s =>
      let w := readS s i 1 a
      let tag := readS s i 2 b
      let size := shapeSize w
      let leader := shapeLeader w
      let c := s.issue.core
      let cl := clusterOf c
      if !rectOk leader size || !(rectCores leader size).contains c || s.maxGang (issuer s).ctx < size then giveS i d 1 0 s
      else if (s.clus cl).fuses.any fun f => f.core == c && f.leader == leader && f.size == size && f.tag == tag then
        giveS i d 3 0 s
      else
        (s.modClus cl fun x => { x with
          fuses := x.fuses ++ [⟨c, s.issue.slot, (issuer s).ctx, leader, size, tag, s.now⟩] }).holdPair
          (.fuse leader size tag d) false }
def execGfuse (d : SDst) (a b : SSrc) (s : State) : Host.Outcome State Fault Refusal := .next ((planGfuse d a b).run s)

/-- Deliver to one slot the result of the instruction that acts; a pushed word goes out once, from the slot whose pair
issues. -/
def giveTo (i : Instr) (d : SDst) (c k : Nat) (v : Word) (s : State) : State :=
  if c = s.issue.core && k = s.issue.slot then giveS i d v 0 s
  else s.modSlot c k fun sl => sl.owe { pendingOf s i with
    dst := d.reg, val := v.setWidth 2048, mask := BitVec.allOnes 2048, latch := some false, latchVal := ⟨v.setWidth 2048, 0⟩ }

/-- Index and GEN of a record in the form that creators return. -/
def recResult (idx gen : Nat) : Word := BitVec.ofNat 64 (gen % 2 ^ 16 * 2 ^ 32 + idx)

/-- Lines and ports of one core that a record holds pass to another (R313). -/
def State.passHoldings (s : State) (c old new : Nat) : State :=
  s.modCore c fun x => { x with
    owner := x.owner.map fun (l, h) => (l, if h = old then new else h),
    bind := x.bind.map fun (n, b) => (n, if b.holder = old then { b with holder := new } else b) }

/-- R313 for member j: a new record, in state 3, under which the member continues. -/
def State.splitMember (i : Instr) (d : SDst) (lead : Slot) (s : State) (j mc mj : Nat) : State :=
  let (s, idx) := s.allocRec lead.ctx
  let g := s.readRec lead.ctx lead.idx
  let r := s.readRec lead.ctx idx
  let r := putBits (putBits r 191 128 (recArgs g)) 239 224 (ctlOf (recPrio g) 0 lead.matrix false 3)
  let r := putBits (putBits r 63 0 (recVpc g)) 255 240 (2 ^ dieOf mc)
  let r := if j = 0 then putBits (putBits r 223 192 (recDom g)) 383 256 (bits g 383 256) else putBits (putBits r 223 192 0) 383 256 0
  let s := s.writeRec lead.ctx idx r
  let va := s.recVa lead.ctx idx
  let pa := (s.physOf lead.ctx va).getD 0
  let s := (s.passHoldings mc lead.recPa pa).joinLaunch ⟨lead.ctx, idx⟩ lead.launch
  let s := if j = 0 then s.renameKeys ⟨lead.ctx, lead.idx⟩ ⟨lead.ctx, idx⟩ else s
  let s := s.modSlot mc mj fun sl => { sl with
    idx := idx, recVa := BitVec.ofNat 64 va, recPa := pa, gen := BitVec.ofNat 16 (recGen r),
    frame := BitVec.ofNat 64 (recFrame r), gang := 0, gangInfo := none, touched := BitVec.ofNat 10 (2 ^ dieOf mc),
    dom := if j = 0 then sl.dom else 0 }
  giveTo i d mc mj (recResult idx (recGen r)) s

def planGsplit (d : SDst) : Plan :=
  let i : Instr := .gsplit d
  { instr := i, act := fun s =>
      match s.cur with
      | none => s
      | some lead => match lead.gangInfo with
        | none => giveS i d (Config.loneSplit s.freeCtr) 0 s.bump
        | some g =>
          if g.transient then
            let lead' := s.leaderOf lead
            let tb := s.gangTouched lead'
            let s := s.modSlot g.leaderCore g.leaderSlot fun x => { x with touched := tb }
            g.members.foldl (fun s (mc, mj) => match s.slot mc mj with
              | some sl => giveTo i d mc mj (recResult sl.idx sl.gen.toNat)
                  ((s.passHoldings mc lead'.recPa sl.recPa).modSlot mc mj fun x => { x with gangInfo := none })
              | none => s) s
          else if bits (s.pool lead.ctx) 95 64 < g.members.length then
            let h := s.pool lead.ctx
            let s := s.putPool lead.ctx (putBits h 127 96 (min (bits h 127 96 + 1) (2 ^ 32 - 1)))
            g.members.foldl (fun s (mc, mj) => giveTo i d mc mj 0 s) s
          else
            let s := g.members.zipIdx.foldl (fun s ((mc, mj), j) => State.splitMember i d lead s j mc mj) s
            (s.unregister lead.ctx lead.idx).endRecord ⟨lead.ctx, lead.idx⟩ (s.slotTime lead) false }
def execGsplit (d : SDst) (s : State) : Host.Outcome State Fault Refusal := .next ((planGsplit d).run s)

end Sys2Proof.Machine
end

