-- ==== Sys2Proof/Machine/Scalar.lean ====
section
/-!
DEFINITION. Scalar A-class instructions (R175-R181): results of Tables Scalar-2 to Scalar-5. Each meaning is the run
of its plan; the result functions `val…` are the tables' rows.
-/
namespace Sys2Proof.Machine

/-- The count n of Table Scalar-2: sB[5:0]. -/
def count (b : Word) : Nat := b.toNat % 64
/-- k of `sext` and `zext`: n, or 64 when n = 0. -/
def width (b : Word) : Nat := if count b = 0 then 64 else count b
/-- 1 when the condition holds, else 0. -/
def flag (p : Prop) [Decidable p] : Word := if p then 1 else 0
/-- 1 bits among the low n. -/
def ones : Nat → Nat → Nat
  | 0, _ => 0
  | n + 1, x => x % 2 + ones n (x / 2)
/-- Leading zero bits of x as n bits. -/
def leadingZeros : Nat → Nat → Nat
  | 0, _ => 0
  | n + 1, x => if x.testBit n then 0 else 1 + leadingZeros n x

/-- R175, R176: `div.s`, rounded toward zero; −1 by zero; it wraps at −2^63 / −1. -/
def divSigned (a b : Word) : Word := if b = 0 then BitVec.allOnes 64 else BitVec.ofInt 64 (a.toInt.tdiv b.toInt)
def remSigned (a b : Word) : Word := if b = 0 then a else BitVec.ofInt 64 (a.toInt - b.toInt * a.toInt.tdiv b.toInt)
def divNatural (a b : Word) : Word := if b = 0 then BitVec.allOnes 64 else BitVec.ofNat 64 (a.toNat / b.toNat)
def remNatural (a b : Word) : Word := if b = 0 then a else BitVec.ofNat 64 (a.toNat % b.toNat)
/-- IDZ (R176). -/
def idz (b : Word) : Byte := if b = 0 then 0x80 else 0

/-- A scalar instruction under its predicate: a disabled one writes nothing (R17). -/
def giveIf (i : Instr) (d : SDst) (v : Word) (flags : Byte) (s : State) : State :=
  if predHolds s then giveS i d v flags s else s

/-- A predicate instruction under its predicate (R180). -/
def givePIf (i : Instr) (d : PReg) (v mask : Pred) (s : State) : State :=
  if predHolds s then giveP i d v mask 0 s else s

/-- The plan of a three-register instruction with no flags. -/
def binary (i : Instr) (f : Word → Word → Word) (d : SDst) (a b : SSrc) : Plan :=
  { instr := i, act := fun s => giveIf i d (f (readS s i 1 a) (readS s i 2 b)) 0 s }

/-- The plan of a division or remainder (R176). -/
def dividing (i : Instr) (f : Word → Word → Word) (d : SDst) (a b : SSrc) : Plan :=
  { instr := i, act := fun s => giveIf i d (f (readS s i 1 a) (readS s i 2 b)) (idz (readS s i 2 b)) s }

/-- The plan of a unary instruction. -/
def unaryPlan (i : Instr) (f : Word → Word) (d : SDst) (a : SSrc) : Plan :=
  { instr := i, act := fun s => giveIf i d (f (readS s i 1 a)) 0 s }

def valAdd (a b : Word) : Word := a + b
def valSub (a b : Word) : Word := a - b
def valMul (a b : Word) : Word := a * b
def valMulhS (a b : Word) : Word := BitVec.ofInt 64 ((a.toInt * b.toInt) / 2 ^ 64)
def valMulhN (a b : Word) : Word := BitVec.ofNat 64 (a.toNat * b.toNat / 2 ^ 64)
def valAnd (a b : Word) : Word := a &&& b
def valOr (a b : Word) : Word := a ||| b
def valXor (a b : Word) : Word := a ^^^ b
def valAndn (a b : Word) : Word := a &&& ~~~b
def valShl (a b : Word) : Word := a <<< count b
def valShr (a b : Word) : Word := a >>> count b
def valSar (a b : Word) : Word := a.sshiftRight (count b)
def valRot (a b : Word) : Word := a.rotateLeft (count b)
def valMinS (a b : Word) : Word := if b.toInt < a.toInt then b else a
def valMaxS (a b : Word) : Word := if a.toInt < b.toInt then b else a
def valMinN (a b : Word) : Word := if b.toNat < a.toNat then b else a
def valMaxN (a b : Word) : Word := if a.toNat < b.toNat then b else a
def valLea (a b : Word) : Word := BitVec.ofNat 64 ((a.toNat + b.toNat) % 2 ^ 56)
def valSext (a b : Word) : Word := sext64 (width b) a.toNat
def valZext (a b : Word) : Word := zext64 (width b) a.toNat
def valAdd32 (a b : Word) : Word := sext64 32 ((a + b).toNat % 2 ^ 32)
def valSub32 (a b : Word) : Word := sext64 32 ((a - b).toNat % 2 ^ 32)
def valMul32 (a b : Word) : Word := sext64 32 ((a * b).toNat % 2 ^ 32)
def valSetEq (a b : Word) : Word := flag (a = b)
def valSetNe (a b : Word) : Word := flag (a ≠ b)
def valSetLt (a b : Word) : Word := flag (a.toInt < b.toInt)
def valSetGe (a b : Word) : Word := flag (b.toInt ≤ a.toInt)
def valSetLtn (a b : Word) : Word := flag (a.toNat < b.toNat)
def valSetGen (a b : Word) : Word := flag (b.toNat ≤ a.toNat)
def valDivS (a b : Word) : Word := divSigned a b
def valDivN (a b : Word) : Word := divNatural a b
def valRemS (a b : Word) : Word := remSigned a b
def valRemN (a b : Word) : Word := remNatural a b
def valClz (a : Word) : Word := BitVec.ofNat 64 (leadingZeros 64 a.toNat)
def valPopc (a : Word) : Word := BitVec.ofNat 64 (ones 64 a.toNat)
def valMov (a : Word) : Word := a
def valAddi (imm : BitVec 6) (a : Word) : Word := a + imm.signExtend 64
def valAndi (imm : BitVec 6) (a : Word) : Word := a &&& imm.signExtend 64
def valOri (imm : BitVec 6) (a : Word) : Word := a ||| imm.signExtend 64
def valXori (imm : BitVec 6) (a : Word) : Word := a ^^^ imm.signExtend 64
def valShli (imm : BitVec 6) (a : Word) : Word := a <<< imm.toNat
def valShri (imm : BitVec 6) (a : Word) : Word := a >>> imm.toNat
def valSari (imm : BitVec 6) (a : Word) : Word := a.sshiftRight imm.toNat
def valPand (a b : Pred) : Pred := a &&& b
def valPor (a b : Pred) : Pred := a ||| b
def valPxor (a b : Pred) : Pred := a ^^^ b

def planAdd (d : SDst) (a b : SSrc) : Plan := binary (.add d a b) valAdd d a b
def execAdd (d : SDst) (a b : SSrc) (s : State) : Host.Outcome State Fault Refusal :=
  .next ((planAdd d a b).run s)

def planSub (d : SDst) (a b : SSrc) : Plan := binary (.sub d a b) valSub d a b
def execSub (d : SDst) (a b : SSrc) (s : State) : Host.Outcome State Fault Refusal :=
  .next ((planSub d a b).run s)

def planMul (d : SDst) (a b : SSrc) : Plan := binary (.mul d a b) valMul d a b
def execMul (d : SDst) (a b : SSrc) (s : State) : Host.Outcome State Fault Refusal :=
  .next ((planMul d a b).run s)

def planMulhS (d : SDst) (a b : SSrc) : Plan := binary (.mulhS d a b) valMulhS d a b
def execMulhS (d : SDst) (a b : SSrc) (s : State) : Host.Outcome State Fault Refusal :=
  .next ((planMulhS d a b).run s)

def planMulhN (d : SDst) (a b : SSrc) : Plan := binary (.mulhN d a b) valMulhN d a b
def execMulhN (d : SDst) (a b : SSrc) (s : State) : Host.Outcome State Fault Refusal :=
  .next ((planMulhN d a b).run s)

def planAnd (d : SDst) (a b : SSrc) : Plan := binary (.and d a b) valAnd d a b
def execAnd (d : SDst) (a b : SSrc) (s : State) : Host.Outcome State Fault Refusal :=
  .next ((planAnd d a b).run s)

def planOr (d : SDst) (a b : SSrc) : Plan := binary (.or d a b) valOr d a b
def execOr (d : SDst) (a b : SSrc) (s : State) : Host.Outcome State Fault Refusal :=
  .next ((planOr d a b).run s)

def planXor (d : SDst) (a b : SSrc) : Plan := binary (.xor d a b) valXor d a b
def execXor (d : SDst) (a b : SSrc) (s : State) : Host.Outcome State Fault Refusal :=
  .next ((planXor d a b).run s)

def planAndn (d : SDst) (a b : SSrc) : Plan := binary (.andn d a b) valAndn d a b
def execAndn (d : SDst) (a b : SSrc) (s : State) : Host.Outcome State Fault Refusal :=
  .next ((planAndn d a b).run s)

def planShl (d : SDst) (a b : SSrc) : Plan := binary (.shl d a b) valShl d a b
def execShl (d : SDst) (a b : SSrc) (s : State) : Host.Outcome State Fault Refusal :=
  .next ((planShl d a b).run s)

def planShr (d : SDst) (a b : SSrc) : Plan := binary (.shr d a b) valShr d a b
def execShr (d : SDst) (a b : SSrc) (s : State) : Host.Outcome State Fault Refusal :=
  .next ((planShr d a b).run s)

def planSar (d : SDst) (a b : SSrc) : Plan := binary (.sar d a b) valSar d a b
def execSar (d : SDst) (a b : SSrc) (s : State) : Host.Outcome State Fault Refusal :=
  .next ((planSar d a b).run s)

def planRot (d : SDst) (a b : SSrc) : Plan := binary (.rot d a b) valRot d a b
def execRot (d : SDst) (a b : SSrc) (s : State) : Host.Outcome State Fault Refusal :=
  .next ((planRot d a b).run s)

def planMinS (d : SDst) (a b : SSrc) : Plan := binary (.minS d a b) valMinS d a b
def execMinS (d : SDst) (a b : SSrc) (s : State) : Host.Outcome State Fault Refusal :=
  .next ((planMinS d a b).run s)

def planMaxS (d : SDst) (a b : SSrc) : Plan := binary (.maxS d a b) valMaxS d a b
def execMaxS (d : SDst) (a b : SSrc) (s : State) : Host.Outcome State Fault Refusal :=
  .next ((planMaxS d a b).run s)

def planMinN (d : SDst) (a b : SSrc) : Plan := binary (.minN d a b) valMinN d a b
def execMinN (d : SDst) (a b : SSrc) (s : State) : Host.Outcome State Fault Refusal :=
  .next ((planMinN d a b).run s)

def planMaxN (d : SDst) (a b : SSrc) : Plan := binary (.maxN d a b) valMaxN d a b
def execMaxN (d : SDst) (a b : SSrc) (s : State) : Host.Outcome State Fault Refusal :=
  .next ((planMaxN d a b).run s)

def planLea (d : SDst) (a b : SSrc) : Plan := binary (.lea d a b) valLea d a b
def execLea (d : SDst) (a b : SSrc) (s : State) : Host.Outcome State Fault Refusal :=
  .next ((planLea d a b).run s)

def planSext (d : SDst) (a b : SSrc) : Plan := binary (.sext d a b) valSext d a b
def execSext (d : SDst) (a b : SSrc) (s : State) : Host.Outcome State Fault Refusal :=
  .next ((planSext d a b).run s)

def planZext (d : SDst) (a b : SSrc) : Plan := binary (.zext d a b) valZext d a b
def execZext (d : SDst) (a b : SSrc) (s : State) : Host.Outcome State Fault Refusal :=
  .next ((planZext d a b).run s)

def planAdd32 (d : SDst) (a b : SSrc) : Plan := binary (.add32 d a b) valAdd32 d a b
def execAdd32 (d : SDst) (a b : SSrc) (s : State) : Host.Outcome State Fault Refusal :=
  .next ((planAdd32 d a b).run s)

def planSub32 (d : SDst) (a b : SSrc) : Plan := binary (.sub32 d a b) valSub32 d a b
def execSub32 (d : SDst) (a b : SSrc) (s : State) : Host.Outcome State Fault Refusal :=
  .next ((planSub32 d a b).run s)

def planMul32 (d : SDst) (a b : SSrc) : Plan := binary (.mul32 d a b) valMul32 d a b
def execMul32 (d : SDst) (a b : SSrc) (s : State) : Host.Outcome State Fault Refusal :=
  .next ((planMul32 d a b).run s)

def planSetEq (d : SDst) (a b : SSrc) : Plan := binary (.setEq d a b) valSetEq d a b
def execSetEq (d : SDst) (a b : SSrc) (s : State) : Host.Outcome State Fault Refusal :=
  .next ((planSetEq d a b).run s)

def planSetNe (d : SDst) (a b : SSrc) : Plan := binary (.setNe d a b) valSetNe d a b
def execSetNe (d : SDst) (a b : SSrc) (s : State) : Host.Outcome State Fault Refusal :=
  .next ((planSetNe d a b).run s)

def planSetLt (d : SDst) (a b : SSrc) : Plan := binary (.setLt d a b) valSetLt d a b
def execSetLt (d : SDst) (a b : SSrc) (s : State) : Host.Outcome State Fault Refusal :=
  .next ((planSetLt d a b).run s)

def planSetGe (d : SDst) (a b : SSrc) : Plan := binary (.setGe d a b) valSetGe d a b
def execSetGe (d : SDst) (a b : SSrc) (s : State) : Host.Outcome State Fault Refusal :=
  .next ((planSetGe d a b).run s)

def planSetLtn (d : SDst) (a b : SSrc) : Plan := binary (.setLtn d a b) valSetLtn d a b
def execSetLtn (d : SDst) (a b : SSrc) (s : State) : Host.Outcome State Fault Refusal :=
  .next ((planSetLtn d a b).run s)

def planSetGen (d : SDst) (a b : SSrc) : Plan := binary (.setGen d a b) valSetGen d a b
def execSetGen (d : SDst) (a b : SSrc) (s : State) : Host.Outcome State Fault Refusal :=
  .next ((planSetGen d a b).run s)

def planDivS (d : SDst) (a b : SSrc) : Plan := dividing (.divS d a b) valDivS d a b
def execDivS (d : SDst) (a b : SSrc) (s : State) : Host.Outcome State Fault Refusal :=
  .next ((planDivS d a b).run s)

def planDivN (d : SDst) (a b : SSrc) : Plan := dividing (.divN d a b) valDivN d a b
def execDivN (d : SDst) (a b : SSrc) (s : State) : Host.Outcome State Fault Refusal :=
  .next ((planDivN d a b).run s)

def planRemS (d : SDst) (a b : SSrc) : Plan := dividing (.remS d a b) valRemS d a b
def execRemS (d : SDst) (a b : SSrc) (s : State) : Host.Outcome State Fault Refusal :=
  .next ((planRemS d a b).run s)

def planRemN (d : SDst) (a b : SSrc) : Plan := dividing (.remN d a b) valRemN d a b
def execRemN (d : SDst) (a b : SSrc) (s : State) : Host.Outcome State Fault Refusal :=
  .next ((planRemN d a b).run s)

def planClz (d : SDst) (a : SSrc) : Plan := unaryPlan (.clz d a) valClz d a
def execClz (d : SDst) (a : SSrc) (s : State) : Host.Outcome State Fault Refusal :=
  .next ((planClz d a).run s)

def planPopc (d : SDst) (a : SSrc) : Plan := unaryPlan (.popc d a) valPopc d a
def execPopc (d : SDst) (a : SSrc) (s : State) : Host.Outcome State Fault Refusal :=
  .next ((planPopc d a).run s)

def planMov (d : SDst) (a : SSrc) : Plan := unaryPlan (.mov d a) valMov d a
def execMov (d : SDst) (a : SSrc) (s : State) : Host.Outcome State Fault Refusal :=
  .next ((planMov d a).run s)

/-- R177: the predicate selects. -/
def planSel (d : SDst) (a b : SSrc) : Plan := 
  { instr := .sel d a b, act := fun s =>
      giveS (.sel d a b) d (if predHolds s then readS s (.sel d a b) 1 a else readS s (.sel d a b) 2 b) 0 s }
def execSel (d : SDst) (a b : SSrc) (s : State) : Host.Outcome State Fault Refusal :=
  .next ((planSel d a b).run s)

def planAddi (d : SDst) (a : SSrc) (imm : BitVec 6) : Plan := unaryPlan (.addi d a imm) (valAddi imm) d a
def execAddi (d : SDst) (a : SSrc) (imm : BitVec 6) (s : State) : Host.Outcome State Fault Refusal :=
  .next ((planAddi d a imm).run s)

def planAndi (d : SDst) (a : SSrc) (imm : BitVec 6) : Plan := unaryPlan (.andi d a imm) (valAndi imm) d a
def execAndi (d : SDst) (a : SSrc) (imm : BitVec 6) (s : State) : Host.Outcome State Fault Refusal :=
  .next ((planAndi d a imm).run s)

def planOri (d : SDst) (a : SSrc) (imm : BitVec 6) : Plan := unaryPlan (.ori d a imm) (valOri imm) d a
def execOri (d : SDst) (a : SSrc) (imm : BitVec 6) (s : State) : Host.Outcome State Fault Refusal :=
  .next ((planOri d a imm).run s)

def planXori (d : SDst) (a : SSrc) (imm : BitVec 6) : Plan := unaryPlan (.xori d a imm) (valXori imm) d a
def execXori (d : SDst) (a : SSrc) (imm : BitVec 6) (s : State) : Host.Outcome State Fault Refusal :=
  .next ((planXori d a imm).run s)

def planShli (d : SDst) (a : SSrc) (imm : BitVec 6) : Plan := unaryPlan (.shli d a imm) (valShli imm) d a
def execShli (d : SDst) (a : SSrc) (imm : BitVec 6) (s : State) : Host.Outcome State Fault Refusal :=
  .next ((planShli d a imm).run s)

def planShri (d : SDst) (a : SSrc) (imm : BitVec 6) : Plan := unaryPlan (.shri d a imm) (valShri imm) d a
def execShri (d : SDst) (a : SSrc) (imm : BitVec 6) (s : State) : Host.Outcome State Fault Refusal :=
  .next ((planShri d a imm).run s)

def planSari (d : SDst) (a : SSrc) (imm : BitVec 6) : Plan := unaryPlan (.sari d a imm) (valSari imm) d a
def execSari (d : SDst) (a : SSrc) (imm : BitVec 6) (s : State) : Host.Outcome State Fault Refusal :=
  .next ((planSari d a imm).run s)

def planPand (d a b : PReg) : Plan := 
  { instr := .pand d a b, act := fun s =>
      givePIf (.pand d a b) d (valPand (readP s a.val) (readP s b.val)) (BitVec.allOnes 128) s }
def execPand (d a b : PReg) (s : State) : Host.Outcome State Fault Refusal :=
  .next ((planPand d a b).run s)

def planPor (d a b : PReg) : Plan := 
  { instr := .por d a b, act := fun s =>
      givePIf (.por d a b) d (valPor (readP s a.val) (readP s b.val)) (BitVec.allOnes 128) s }
def execPor (d a b : PReg) (s : State) : Host.Outcome State Fault Refusal :=
  .next ((planPor d a b).run s)

def planPxor (d a b : PReg) : Plan := 
  { instr := .pxor d a b, act := fun s =>
      givePIf (.pxor d a b) d (valPxor (readP s a.val) (readP s b.val)) (BitVec.allOnes 128) s }
def execPxor (d a b : PReg) (s : State) : Host.Outcome State Fault Refusal :=
  .next ((planPxor d a b).run s)

def planPnot (d a : PReg) : Plan := 
  { instr := .pnot d a, act := fun s => givePIf (.pnot d a) d (~~~ readP s a.val) (BitVec.allOnes 128) s }
def execPnot (d a : PReg) (s : State) : Host.Outcome State Fault Refusal :=
  .next ((planPnot d a).run s)

/-- R180: the new value of pD and the bits of it that `pset` writes. -/
def valPset (m : Fin 3) (a : Word) : Pred × Pred :=
  match m with
  | 0 => (a.setWidth 128, 0x0000000000000000FFFFFFFFFFFFFFFF)
  | 1 => (a.setWidth 128 <<< 64, 0xFFFFFFFFFFFFFFFF0000000000000000)
  | 2 => (if a.getLsbD 0 then BitVec.allOnes 128 else 0, BitVec.allOnes 128)

/-- R180: `pget`. -/
def valPget (m : Fin 3) (p : Pred) : Word :=
  match m with
  | 0 => p.setWidth 64
  | 1 => (p >>> 64).setWidth 64
  | 2 => BitVec.ofNat 64 (ones 128 p.toNat)

def planPset (d : PReg) (a : SSrc) (m : Fin 3) : Plan := 
  { instr := .pset d a m, act := fun s =>
      givePIf (.pset d a m) d (valPset m (readS s (.pset d a m) 1 a)).1 (valPset m (readS s (.pset d a m) 1 a)).2 s }
def execPset (d : PReg) (a : SSrc) (m : Fin 3) (s : State) : Host.Outcome State Fault Refusal :=
  .next ((planPset d a m).run s)

def planPget (d : SDst) (a : PReg) (m : Fin 3) : Plan := 
  { instr := .pget d a m, act := fun s => giveIf (.pget d a m) d (valPget m (readP s a.val)) 0 s }
def execPget (d : SDst) (a : PReg) (m : Fin 3) (s : State) : Host.Outcome State Fault Refusal :=
  .next ((planPget d a m).run s)

/-- R44. -/
def planNopA : Plan := { instr := .nopA, act := id }
def execNopA (s : State) : Host.Outcome State Fault Refusal :=
  .next (planNopA.run s)

end Sys2Proof.Machine
end

