-- ==== Sys2Proof/Machine/Vector.lean ====
section
/-!
DEFINITION. Vector instructions (R190-R209): tag checks of Table Vector-2, the four predicate modes of R193, and the
results of Tables Vector-4 to Vector-7.
-/
namespace Sys2Proof.Machine

/-! ## Types and tags (R191, R192) -/

/-- The field of the operand that names the operation type. -/
def typeField (i : Instr) : Nat :=
  match (typed i).bind fun l => l.findIdx? VSrc.named with
  | some 0 => 1 | some 1 => 2 | _ => 0

/-- The operation type must be one of those allowed. -/
def typeIn (i : Instr) (ok : Nat → Bool) (s : State) : Option (Nat × Nat × Nat) :=
  let t := (opType s i).toNat
  if ok t then none else some (typeField i, t, 0)

/-- An operand whose tag must be t. -/
def sameTag (s : State) (f : Nat) (x : VSrc) (t : Tag) : Option (Nat × Nat × Nat) :=
  match tagOf s x with
  | some g => if g = t then none else some (f, g.toNat, t.toNat)
  | none => match x with
    | .lane => if isInt t.toNat then none else some (f, (natTag (tagWidth t)).toNat, t.toNat)
    | _ => none

/-- R28: lane as A of an instruction whose type, named by another operand, is floating. -/
def aFloat (i : Instr) (a : VSrc) (s : State) : Option (Nat × Nat × Nat) :=
  match a with
  | .lane => sameTag s 1 .lane (opType s i)
  | _ => none

/-- An operand that needs an integer tag of width e. -/
def widthTag (s : State) (f : Nat) (x : VSrc) (e : Nat) : Option (Nat × Nat × Nat) :=
  match tagOf s x with
  | some g => if isInt g.toNat && tagWidth g = e then none else some (f, g.toNat, 0)
  | none => none

def orElse3 (a b c : Option (Nat × Nat × Nat)) : Option (Nat × Nat × Nat) :=
  (a.orElse fun _ => b).orElse fun _ => c

def anyTag (t : Nat) : Bool := tagValid (BitVec.ofNat 5 t)
def intTag (t : Nat) : Bool := isInt t
def floatTag (t : Nat) : Bool := decide (9 ≤ t) && decide (t ≤ 12)
def dotTag (t : Nat) : Bool := decide (1 ≤ t) && decide (t ≤ 4)
def logicTag (t : Nat) : Bool := decide (t ≤ 8)

/-- Element width of the operation type. -/
def opWidth (s : State) (i : Instr) : Nat := tagWidth (opType s i)

/-- A vector operand read at the instruction's type. -/
def vop (s : State) (i : Instr) (x : VSrc) : Vec := readV s (opWidth s i) (opType s i = 9) x

/-! ## Results -/

/-- The mask of the enabled elements of width e (R17, R193). -/
def maskOf (s : State) (e : Nat) : Vec := ofElems e fun k => if enabled s e k then 2 ^ e - 1 else 0

/-- A mask-mode result: element k is f k, and flags come from enabled elements alone. -/
def giveMask (i : Instr) (d : VDst) (e : Nat) (tag : Tag) (f : Nat → Nat × Byte) (s : State) : State :=
  let r := (List.range (2048 / e)).map fun k => if enabled s e k then f k else (0, 0)
  giveV i d (packElems e (r.map Prod.fst)) (maskOf s e) tag (r.foldl (fun a x => a ||| x.2) 0) s

/-- A select-mode result: the whole destination is written. -/
def giveAll (i : Instr) (d : VDst) (e : Nat) (tag : Tag) (f : Nat → Nat) (s : State) : State :=
  giveV i d (ofElems e f) (BitVec.allOnes 2048) tag 0 s

/-- The predicate bits that the elements of width e govern, where p holds of the element (R127). -/
def predBits (e : Nat) (p : Nat → Bool) : Pred :=
  BitVec.ofNat 128 ((List.range 128).foldr (fun k acc =>
    acc * 2 + b2n (if e = 8 then p (2 * k) && p (2 * k + 1) else p (16 * k / e))) 0)

/-- A comparison's result (R127, R197, R203). -/
def givePred (i : Instr) (d : PReg) (e : Nat) (f : Nat → Bool × Byte) (s : State) : State :=
  let fl := (List.range (2048 / e)).foldl (fun a k => if enabled s e k then a ||| (f k).2 else a) 0
  giveP i d (predBits e fun k => (f k).1) (predBits e fun k => enabled s e k) fl s

/-! ## FCTL -/

def rmOf (s : State) : Nat := match s.cur with | some sl => sl.csrs.fctl.toNat % 4 | none => 0
def ftzOf (s : State) : Bool := match s.cur with | some sl => sl.csrs.fctl.getLsbD 2 | none => false

/-! ## Shapes of plans -/

/-- Integer or bitwise binary, mask mode; `ok` the types allowed, `bTag` the check of B. -/
def vbin (i : Instr) (ok : Nat → Bool) (bTag : State → Option (Nat × Nat × Nat)) (f : Nat → Nat → Nat → Nat → Nat)
    (d : VDst) (a b : VSrc) : Plan :=
  { instr := i, tag := fun s => orElse3 (typeIn i ok s) (bTag s) none,
    act := fun s =>
      let e := opWidth s i
      let t := (opType s i).toNat
      let va := vop s i a
      let vb := vop s i b
      giveMask i d e (opType s i) (fun k => (f t e (elem va e k) (elem vb e k), 0)) s }

/-- The check that B carries t. -/
def bSame (i : Instr) (b : VSrc) (s : State) : Option (Nat × Nat × Nat) := sameTag s 2 b (opType s i)
/-- The check that B carries an integer tag of the width of t. -/
def bWidth (i : Instr) (b : VSrc) (s : State) : Option (Nat × Nat × Nat) := widthTag s 2 b (opWidth s i)
/-- B may carry any tag. -/
def bAny (_ : State) : Option (Nat × Nat × Nat) := none

/-- Unary, mask mode. -/
def vun (i : Instr) (ok : Nat → Bool) (f : Nat → Nat → Nat → Nat) (d : VDst) (a : VSrc) : Plan :=
  { instr := i, tag := typeIn i ok,
    act := fun s =>
      let e := opWidth s i
      let va := vop s i a
      giveMask i d e (opType s i) (fun k => (f (opType s i).toNat e (elem va e k), 0)) s }

/-- Floating binary. -/
def fbin (i : Instr) (f : Fmt → Nat → Bool → Nat → Nat → Nat × Byte) (d : VDst) (a b : VSrc) : Plan :=
  { instr := i, tag := fun s => orElse3 (typeIn i floatTag s) (aFloat i a s) (bSame i b s),
    act := fun s =>
      let e := opWidth s i
      let F := fmtOf (opType s i).toNat
      let va := vop s i a
      let vb := vop s i b
      giveMask i d e (opType s i) (fun k => f F (rmOf s) (ftzOf s) (elem va e k) (elem vb e k)) s }

/-- Floating unary. -/
def fun1 (i : Instr) (f : Fmt → Nat → Bool → Nat → Nat × Byte) (d : VDst) (a : VSrc) : Plan :=
  { instr := i, tag := typeIn i floatTag,
    act := fun s =>
      let e := opWidth s i
      let F := fmtOf (opType s i).toNat
      let va := vop s i a
      giveMask i d e (opType s i) (fun k => f F (rmOf s) (ftzOf s) (elem va e k)) s }

/-- Accumulating: D is read and must carry t. -/
def facc (i : Instr) (negP negD : Bool) (d : VDst) (a b : VSrc) : Plan :=
  { instr := i,
    tag := fun s => orElse3 (typeIn i floatTag s) (sameTag s 0 d.src (opType s i))
      ((aFloat i a s).orElse fun _ => bSame i b s),
    act := fun s =>
      let e := opWidth s i
      let F := fmtOf (opType s i).toNat
      let va := vop s i a
      let vb := vop s i b
      let vd := vop s i d.src
      giveMask i d e (opType s i)
        (fun k => F.fma negP negD (rmOf s) (ftzOf s) (elem va e k) (elem vb e k) (elem vd e k)) s }

/-- Integer comparison. -/
def vcmp (i : Instr) (f : Nat → Nat → Nat → Nat → Bool) (d : PReg) (a b : VSrc) : Plan :=
  { instr := i, tag := fun s => orElse3 (typeIn i intTag s) (bSame i b s) none,
    act := fun s =>
      let e := opWidth s i
      let va := vop s i a
      let vb := vop s i b
      givePred i d e (fun k => (f (opType s i).toNat e (elem va e k) (elem vb e k), 0)) s }

/-- Floating comparison. -/
def fcmp (i : Instr) (kind : Nat) (d : PReg) (a b : VSrc) : Plan :=
  { instr := i, tag := fun s => orElse3 (typeIn i floatTag s) (aFloat i a s) (bSame i b s),
    act := fun s =>
      let e := opWidth s i
      let F := fmtOf (opType s i).toNat
      let va := vop s i a
      let vb := vop s i b
      givePred i d e (fun k => F.cmp kind (ftzOf s) (elem va e k) (elem vb e k)) s }

/-! ## Element results (Table Vector-4) -/

def elAdd (_ e a b : Nat) : Nat := (a + b) % 2 ^ e
def elSub (_ e a b : Nat) : Nat := (a + 2 ^ e - b) % 2 ^ e
def elMul (_ e a b : Nat) : Nat := a * b % 2 ^ e
def elMulh (t e a b : Nat) : Nat :=
  if isSigned t then ofSigned e (toSigned e a * toSigned e b / 2 ^ e) else a * b / 2 ^ e
def elAnd (_ _ a b : Nat) : Nat := a &&& b
def elOr (_ _ a b : Nat) : Nat := a ||| b
def elXor (_ _ a b : Nat) : Nat := a ^^^ b
def elShl (_ e a k : Nat) : Nat := if e ≤ k then 0 else a * 2 ^ k % 2 ^ e
def elShr (_ e a k : Nat) : Nat := if e ≤ k then 0 else a / 2 ^ k
def elSar (_ e a k : Nat) : Nat :=
  if e ≤ k then (if toSigned e a < 0 then 2 ^ e - 1 else 0) else ofSigned e (toSigned e a / 2 ^ k)
/-- a < b by the signedness of t. -/
def elLess (t e a b : Nat) : Bool := if isSigned t then decide (toSigned e a < toSigned e b) else decide (a < b)
def elMin (t e a b : Nat) : Nat := if elLess t e b a then b else a
def elMax (t e a b : Nat) : Nat := if elLess t e a b then b else a
def elAbs (t e a : Nat) : Nat := if isSigned t then (toSigned e a).natAbs % 2 ^ e else a
def elPopc (_ e a : Nat) : Nat := ones e a
def elEq (_ _ a b : Nat) : Bool := a == b
def elNe (_ _ a b : Nat) : Bool := a != b
def elGe (t e a b : Nat) : Bool := !elLess t e a b

/-- R196: the sum of short products into 32 bits. -/
def dotElem (t e : Nat) (va vb vd : Vec) (k : Nat) : Nat :=
  let g := 32 / e
  let p (j : Nat) : Int :=
    let a := elem va e (g * k + j)
    let b := elem vb e (g * k + j)
    if isSigned t then toSigned e a * toSigned e b else (a * b : Nat)
  ofSigned 32 ((List.range g).foldl (fun acc j => acc + p j) ((elem vd 32 k : Nat) : Int))

/-! ## Conversions (R194, R204-R206) -/

/-- TAG and PART of a control word; none when a reserved bit is set. -/
def control (v : Word) : Option (Nat × Nat) :=
  if v.toNat / 2 ^ 9 ≠ 0 then none else some (v.toNat % 32, v.toNat / 32 % 16)

/-- The source width that R204 compares with: R191's, but 4 for e2m1. -/
def cvtBits (t : Nat) : Nat := if t = 16 then 32 else valBits t

def cvtParts (t u : Nat) : Nat := max (cvtBits t) (valBits u) / min (cvtBits t) (valBits u)

/-- R204: a control value out of limits. -/
def cvtBad (t : Nat) (c : Word) : Bool :=
  match control c with
  | none => true
  | some (u, p) => decide (u < 1) || decide (15 < u) || decide (cvtParts t u ≤ p)

/-- Value j of the result of `cvt`. -/
def cvtValue (t u part rm : Nat) (ftz : Bool) (va : Vec) (j : Nat) : Nat × Byte :=
  let es := valBits t
  let ed := valBits u
  let nd := 2048 / ed
  let ns := 2048 / es
  if es < ed then convert t u rm ftz (elem va es (part * nd + j))
  else if j / ns = part then convert t u rm ftz (elem va es (j % ns))
  else (0, 0)

/-- The result and mask of `cvt`; e2m1 is predicated by bytes. -/
def cvtResult (s : State) (t u part : Nat) (va : Vec) : Vec × Vec × Byte :=
  let ed := valBits u
  let w := if ed = 4 then 8 else ed
  let on (j : Nat) : Bool := enabled s w (j * ed / w)
  let r := (List.range (2048 / ed)).map fun j => if on j then cvtValue t u part (rmOf s) (ftzOf s) va j else (0, 0)
  (packElems ed (r.map Prod.fst), maskOf s w, r.foldl (fun a x => a ||| x.2) 0)

/-- Values that a scaled register holds (R205). -/
def scaledCount (u : Nat) : Nat := if u % 16 = 15 then 512 else 256

def cvtqBad (t : Nat) (c : Word) : Bool :=
  match control c with
  | none => true
  | some (u, p) => decide (u < 29) || decide (scaledCount u / (2048 / tagWidth (BitVec.ofNat 5 t)) ≤ p)

def cvtdqBad (t : Nat) (c : Word) : Bool :=
  match control c with
  | none => true
  | some (u, p) => decide (u < 9) || decide (12 < u) || decide (scaledCount t / (2048 / valBits u) ≤ p)

/-- R205: the data register, the scale register and the flags. -/
def cvtqResult (t u part : Nat) (va : Vec) : Vec × Vec × Byte :=
  let es := valBits t
  let ns := 2048 / es
  let vb := valBits u
  let blocks := (List.range (ns / 8)).map fun b => quantBlock t u ((List.range 8).map fun k => elem va es (8 * b + k))
  let codes := blocks.flatMap fun x => x.2.1
  (packElems vb codes <<< (part * ns * vb), packElems 8 (blocks.map Prod.fst) <<< (part * ns / 8 * 8),
    blocks.foldl (fun a x => a ||| x.2.2) 0)

/-! ## Reductions (R166, R167) -/

/-- One level of the tree. -/
def treeLevel (op : Nat → Nat → Nat × Byte) : List (Option Nat) → List (Option Nat) × Byte
  | x :: y :: l =>
    let (r, fl) := treeLevel op l
    match x, y with
    | some a, some b => let (v, g) := op a b; (some v :: r, fl ||| g)
    | none, some b => (some b :: r, fl)
    | a, _ => (a :: r, fl)
  | l => (l, 0)

/-- R166: the tree over a list of 2^k elements. -/
def tree (op : Nat → Nat → Nat × Byte) : Nat → List (Option Nat) → Option Nat × Byte
  | 0, l => (l.head?.join, 0)
  | k + 1, l => if l.length ≤ 1 then (l.head?.join, 0) else
    let (l', f) := treeLevel op l
    let (r, g) := tree op k l'
    (r, f ||| g)

/-- The reduction of the enabled elements of a register. -/
def reduce (s : State) (e : Nat) (op : Nat → Nat → Nat × Byte) (ident : Nat) (va : Vec) : Nat × Byte :=
  let (r, f) := tree op 9 ((List.range (2048 / e)).map fun k => if enabled s e k then some (elem va e k) else none)
  (r.getD ident, f)

/-- The least and largest values of an integer type, as bits. -/
def intMin (t e : Nat) : Nat := if isSigned t then 2 ^ (e - 1) else 0
def intMax (t e : Nat) : Nat := if isSigned t then 2 ^ (e - 1) - 1 else 2 ^ e - 1

/-- An integer reduction (R208). -/
def vred (i : Instr) (ok : Nat → Bool) (op : Nat → Nat → Nat → Nat → Nat) (ident : Nat → Nat → Nat)
    (d : SDst) (a : VSrc) : Plan :=
  { instr := i, tag := typeIn i ok,
    act := fun s =>
      let t := (opType s i).toNat
      let e := opWidth s i
      let (r, _) := reduce s e (fun x y => (op t e x y, 0)) (ident t e) (vop s i a)
      giveS i d (if isSigned t then sext64 e r else zext64 e r) 0 s }

/-- A floating reduction (R208). Elements are read under FTZ, a signalling NaN sets NV, and a NaN result is canonical
(R162, R163) even where the tree passes it through. -/
def fred (i : Instr) (op : Fmt → Nat → Bool → Nat → Nat → Nat × Byte) (ident : Fmt → Nat) (d : SDst) (a : VSrc) : Plan :=
  { instr := i, tag := typeIn i floatTag,
    act := fun s =>
      let F := fmtOf (opType s i).toNat
      let e := opWidth s i
      let va := vop s i a
      let v (k : Nat) : FVal := F.val (ftzOf s) (elem va e k)
      let (r, fl) := reduce s e (fun x y => op F (rmOf s) (ftzOf s) x y) (ident F) (ofElems e fun k => F.keep (v k) (elem va e k))
      let sig := (List.range (2048 / e)).foldl (fun m k => if enabled s e k then m ||| snan (v k) else m) 0
      giveS i d (BitVec.ofNat 64 (if (F.val false r).isNan then F.qnan else r)) (fl ||| sig) s }

/-! ## The instructions -/

def planVadd (d : VDst) (a b : VSrc) : Plan := vbin (.vadd d a b) intTag (bSame (.vadd d a b) b) elAdd d a b
def execVadd (d : VDst) (a b : VSrc) (s : State) : Host.Outcome State Fault Refusal :=
  .next ((planVadd d a b).run s)

def planVsub (d : VDst) (a b : VSrc) : Plan := vbin (.vsub d a b) intTag (bSame (.vsub d a b) b) elSub d a b
def execVsub (d : VDst) (a b : VSrc) (s : State) : Host.Outcome State Fault Refusal :=
  .next ((planVsub d a b).run s)

def planVmul (d : VDst) (a b : VSrc) : Plan := vbin (.vmul d a b) intTag (bSame (.vmul d a b) b) elMul d a b
def execVmul (d : VDst) (a b : VSrc) (s : State) : Host.Outcome State Fault Refusal :=
  .next ((planVmul d a b).run s)

def planVmulh (d : VDst) (a b : VSrc) : Plan := vbin (.vmulh d a b) intTag (bSame (.vmulh d a b) b) elMulh d a b
def execVmulh (d : VDst) (a b : VSrc) (s : State) : Host.Outcome State Fault Refusal :=
  .next ((planVmulh d a b).run s)

def planVand (d : VDst) (a b : VSrc) : Plan := vbin (.vand d a b) anyTag bAny elAnd d a b
def execVand (d : VDst) (a b : VSrc) (s : State) : Host.Outcome State Fault Refusal :=
  .next ((planVand d a b).run s)

def planVor (d : VDst) (a b : VSrc) : Plan := vbin (.vor d a b) anyTag bAny elOr d a b
def execVor (d : VDst) (a b : VSrc) (s : State) : Host.Outcome State Fault Refusal :=
  .next ((planVor d a b).run s)

def planVxor (d : VDst) (a b : VSrc) : Plan := vbin (.vxor d a b) anyTag bAny elXor d a b
def execVxor (d : VDst) (a b : VSrc) (s : State) : Host.Outcome State Fault Refusal :=
  .next ((planVxor d a b).run s)

def planVshl (d : VDst) (a b : VSrc) : Plan := vbin (.vshl d a b) intTag (bWidth (.vshl d a b) b) elShl d a b
def execVshl (d : VDst) (a b : VSrc) (s : State) : Host.Outcome State Fault Refusal :=
  .next ((planVshl d a b).run s)

def planVshr (d : VDst) (a b : VSrc) : Plan := vbin (.vshr d a b) intTag (bWidth (.vshr d a b) b) elShr d a b
def execVshr (d : VDst) (a b : VSrc) (s : State) : Host.Outcome State Fault Refusal :=
  .next ((planVshr d a b).run s)

def planVsar (d : VDst) (a b : VSrc) : Plan := vbin (.vsar d a b) intTag (bWidth (.vsar d a b) b) elSar d a b
def execVsar (d : VDst) (a b : VSrc) (s : State) : Host.Outcome State Fault Refusal :=
  .next ((planVsar d a b).run s)

def planVmin (d : VDst) (a b : VSrc) : Plan := vbin (.vmin d a b) intTag (bSame (.vmin d a b) b) elMin d a b
def execVmin (d : VDst) (a b : VSrc) (s : State) : Host.Outcome State Fault Refusal :=
  .next ((planVmin d a b).run s)

def planVmax (d : VDst) (a b : VSrc) : Plan := vbin (.vmax d a b) intTag (bSame (.vmax d a b) b) elMax d a b
def execVmax (d : VDst) (a b : VSrc) (s : State) : Host.Outcome State Fault Refusal :=
  .next ((planVmax d a b).run s)

def planVabs (d : VDst) (a : VSrc) : Plan := vun (.vabs d a) intTag elAbs d a
def execVabs (d : VDst) (a : VSrc) (s : State) : Host.Outcome State Fault Refusal :=
  .next ((planVabs d a).run s)

def planVpopc (d : VDst) (a : VSrc) : Plan := vun (.vpopc d a) intTag elPopc d a
def execVpopc (d : VDst) (a : VSrc) (s : State) : Host.Outcome State Fault Refusal :=
  .next ((planVpopc d a).run s)

/-- R195. -/
def planVmad (d : VDst) (a b : VSrc) : Plan := 
  let i : Instr := .vmad d a b
  { instr := i, tag := fun s => orElse3 (typeIn i intTag s) (sameTag s 0 d.src (opType s i)) (bSame i b s),
    act := fun s =>
      let e := opWidth s i
      let va := vop s i a
      let vb := vop s i b
      let vd := vop s i d.src
      giveMask i d e (opType s i) (fun k => ((elem vd e k + elem va e k * elem vb e k) % 2 ^ e, 0)) s }
def execVmad (d : VDst) (a b : VSrc) (s : State) : Host.Outcome State Fault Refusal :=
  .next ((planVmad d a b).run s)

/-- R196. With D = z, la receives the accumulator's own tag, s32 or n32 by the signedness of t (log 82). -/
def planVdot (d : VDst) (a b : VSrc) : Plan :=
  let i : Instr := .vdot d a b
  let acc (s : State) : Tag := if isSigned (opType s i).toNat then 5 else 6
  { instr := i, tag := fun s => orElse3 (typeIn i dotTag s) (sameTag s 0 d.src (acc s)) (bSame i b s),
    act := fun s =>
      let e := opWidth s i
      let va := vop s i a
      let vb := vop s i b
      let vd := readV s 32 false d.src
      giveMask i d 32 (acc s) (fun k => (dotElem (opType s i).toNat e va vb vd k, 0)) s }
def execVdot (d : VDst) (a b : VSrc) (s : State) : Host.Outcome State Fault Refusal :=
  .next ((planVdot d a b).run s)

def planVcmpEq (d : PReg) (a b : VSrc) : Plan := vcmp (.vcmpEq d a b) elEq d a b
def execVcmpEq (d : PReg) (a b : VSrc) (s : State) : Host.Outcome State Fault Refusal :=
  .next ((planVcmpEq d a b).run s)

def planVcmpNe (d : PReg) (a b : VSrc) : Plan := vcmp (.vcmpNe d a b) elNe d a b
def execVcmpNe (d : PReg) (a b : VSrc) (s : State) : Host.Outcome State Fault Refusal :=
  .next ((planVcmpNe d a b).run s)

def planVcmpLt (d : PReg) (a b : VSrc) : Plan := vcmp (.vcmpLt d a b) elLess d a b
def execVcmpLt (d : PReg) (a b : VSrc) (s : State) : Host.Outcome State Fault Refusal :=
  .next ((planVcmpLt d a b).run s)

def planVcmpGe (d : PReg) (a b : VSrc) : Plan := vcmp (.vcmpGe d a b) elGe d a b
def execVcmpGe (d : PReg) (a b : VSrc) (s : State) : Host.Outcome State Fault Refusal :=
  .next ((planVcmpGe d a b).run s)

/-- R198. -/
def planVsel (d : VDst) (a b : VSrc) : Plan := 
  let i : Instr := .vsel d a b
  { instr := i, tag := fun s => (typeIn i anyTag s).orElse fun _ => bSame i b s,
    act := fun s =>
      let e := opWidth s i
      let va := vop s i a
      let vb := vop s i b
      giveAll i d e (opType s i) (fun k => if enabled s e k then elem va e k else elem vb e k) s }
def execVsel (d : VDst) (a b : VSrc) (s : State) : Host.Outcome State Fault Refusal :=
  .next ((planVsel d a b).run s)

def planFadd (d : VDst) (a b : VSrc) : Plan := fbin (.fadd d a b) Fmt.add d a b
def execFadd (d : VDst) (a b : VSrc) (s : State) : Host.Outcome State Fault Refusal :=
  .next ((planFadd d a b).run s)

def planFsub (d : VDst) (a b : VSrc) : Plan := fbin (.fsub d a b) Fmt.sub d a b
def execFsub (d : VDst) (a b : VSrc) (s : State) : Host.Outcome State Fault Refusal :=
  .next ((planFsub d a b).run s)

def planFmul (d : VDst) (a b : VSrc) : Plan := fbin (.fmul d a b) Fmt.mul d a b
def execFmul (d : VDst) (a b : VSrc) (s : State) : Host.Outcome State Fault Refusal :=
  .next ((planFmul d a b).run s)

def planFdiv (d : VDst) (a b : VSrc) : Plan := fbin (.fdiv d a b) Fmt.div d a b
def execFdiv (d : VDst) (a b : VSrc) (s : State) : Host.Outcome State Fault Refusal :=
  .next ((planFdiv d a b).run s)

def planFma (d : VDst) (a b : VSrc) : Plan := facc (.fma d a b) false false d a b
def execFma (d : VDst) (a b : VSrc) (s : State) : Host.Outcome State Fault Refusal :=
  .next ((planFma d a b).run s)

def planFms (d : VDst) (a b : VSrc) : Plan := facc (.fms d a b) false true d a b
def execFms (d : VDst) (a b : VSrc) (s : State) : Host.Outcome State Fault Refusal :=
  .next ((planFms d a b).run s)

def planFnma (d : VDst) (a b : VSrc) : Plan := facc (.fnma d a b) true true d a b
def execFnma (d : VDst) (a b : VSrc) (s : State) : Host.Outcome State Fault Refusal :=
  .next ((planFnma d a b).run s)

def planFnms (d : VDst) (a b : VSrc) : Plan := facc (.fnms d a b) true false d a b
def execFnms (d : VDst) (a b : VSrc) (s : State) : Host.Outcome State Fault Refusal :=
  .next ((planFnms d a b).run s)

def planFmin (d : VDst) (a b : VSrc) : Plan := fbin (.fmin d a b) (fun F _ z => F.minmax false z) d a b
def execFmin (d : VDst) (a b : VSrc) (s : State) : Host.Outcome State Fault Refusal :=
  .next ((planFmin d a b).run s)

def planFmax (d : VDst) (a b : VSrc) : Plan := fbin (.fmax d a b) (fun F _ z => F.minmax true z) d a b
def execFmax (d : VDst) (a b : VSrc) (s : State) : Host.Outcome State Fault Refusal :=
  .next ((planFmax d a b).run s)

def planFabs (d : VDst) (a : VSrc) : Plan := fun1 (.fabs d a) (fun F _ z => F.signOp true z) d a
def execFabs (d : VDst) (a : VSrc) (s : State) : Host.Outcome State Fault Refusal :=
  .next ((planFabs d a).run s)

def planFneg (d : VDst) (a : VSrc) : Plan := fun1 (.fneg d a) (fun F _ z => F.signOp false z) d a
def execFneg (d : VDst) (a : VSrc) (s : State) : Host.Outcome State Fault Refusal :=
  .next ((planFneg d a).run s)

def planFsqrt (d : VDst) (a : VSrc) : Plan := fun1 (.fsqrt d a) Fmt.sqrt d a
def execFsqrt (d : VDst) (a : VSrc) (s : State) : Host.Outcome State Fault Refusal :=
  .next ((planFsqrt d a).run s)

def planFrcp (d : VDst) (a : VSrc) : Plan := fun1 (.frcp d a) Fmt.rcp d a
def execFrcp (d : VDst) (a : VSrc) (s : State) : Host.Outcome State Fault Refusal :=
  .next ((planFrcp d a).run s)

def planFrsq (d : VDst) (a : VSrc) : Plan := fun1 (.frsq d a) Fmt.rsq d a
def execFrsq (d : VDst) (a : VSrc) (s : State) : Host.Outcome State Fault Refusal :=
  .next ((planFrsq d a).run s)

def planFexp2 (d : VDst) (a : VSrc) : Plan := fun1 (.fexp2 d a) Fmt.exp2 d a
def execFexp2 (d : VDst) (a : VSrc) (s : State) : Host.Outcome State Fault Refusal :=
  .next ((planFexp2 d a).run s)

def planFlog2 (d : VDst) (a : VSrc) : Plan := fun1 (.flog2 d a) Fmt.log2 d a
def execFlog2 (d : VDst) (a : VSrc) (s : State) : Host.Outcome State Fault Refusal :=
  .next ((planFlog2 d a).run s)

/-- R202. -/
def planFclass (d : VDst) (a : VSrc) : Plan := 
  let i : Instr := .fclass d a
  { instr := i, tag := typeIn i floatTag,
    act := fun s =>
      let e := opWidth s i
      let va := vop s i a
      giveMask i d e (natTag e) (fun k => ((fmtOf (opType s i).toNat).fclass (elem va e k), 0)) s }
def execFclass (d : VDst) (a : VSrc) (s : State) : Host.Outcome State Fault Refusal :=
  .next ((planFclass d a).run s)

def planFcmpEq (d : PReg) (a b : VSrc) : Plan := fcmp (.fcmpEq d a b) 0 d a b
def execFcmpEq (d : PReg) (a b : VSrc) (s : State) : Host.Outcome State Fault Refusal :=
  .next ((planFcmpEq d a b).run s)

def planFcmpLt (d : PReg) (a b : VSrc) : Plan := fcmp (.fcmpLt d a b) 1 d a b
def execFcmpLt (d : PReg) (a b : VSrc) (s : State) : Host.Outcome State Fault Refusal :=
  .next ((planFcmpLt d a b).run s)

def planFcmpLe (d : PReg) (a b : VSrc) : Plan := fcmp (.fcmpLe d a b) 2 d a b
def execFcmpLe (d : PReg) (a b : VSrc) (s : State) : Host.Outcome State Fault Refusal :=
  .next ((planFcmpLe d a b).run s)

def planFcmpUn (d : PReg) (a b : VSrc) : Plan := fcmp (.fcmpUn d a b) 3 d a b
def execFcmpUn (d : PReg) (a b : VSrc) (s : State) : Host.Outcome State Fault Refusal :=
  .next ((planFcmpUn d a b).run s)

/-- R204. -/
def planCvt (d : VDst) (a : VSrc) (b : SSrc) : Plan := 
  let i : Instr := .cvt d a b
  { instr := i,
    bad := fun s => if cvtBad (opType s i).toNat (readS s i 2 b) then some 5 else none,
    tag := typeIn i fun t => decide (1 ≤ t) && decide (t ≤ 15),
    act := fun s =>
      let c := readS s i 2 b
      let (v, m, fl) := cvtResult s (opType s i).toNat (c.toNat % 32) (c.toNat / 32 % 16) (vop s i a)
      giveV i d v m (BitVec.ofNat 5 c.toNat) fl s }
def execCvt (d : VDst) (a : VSrc) (b : SSrc) (s : State) : Host.Outcome State Fault Refusal :=
  .next ((planCvt d a b).run s)

/-- R205: both registers at the same moment; la receives the data register. -/
def planCvtq (d : VPair) (a : VSrc) (b : SSrc) : Plan := 
  let i : Instr := .cvtq d a b
  { instr := i,
    bad := fun s => if cvtqBad (opType s i).toNat (readS s i 2 b) then some 5 else none,
    tag := typeIn i fun t => decide (10 ≤ t) && decide (t ≤ 12),
    act := fun s =>
      let c := readS s i 2 b
      let (v, sc, fl) := cvtqResult (opType s i).toNat (c.toNat % 32) (c.toNat / 32 % 16) (vop s i a)
      let s' := giveV i d.lo v (BitVec.allOnes 2048) (BitVec.ofNat 5 c.toNat) fl s
      s'.modCur fun sl => sl.oweMore 1 { pendingOf s i with dst := d.hi.reg, val := sc, tag := 16, mask := BitVec.allOnes 2048 } }
def execCvtq (d : VPair) (a : VSrc) (b : SSrc) (s : State) : Host.Outcome State Fault Refusal :=
  .next ((planCvtq d a b).run s)

/-- R206. -/
def planCvtdq (d : VDst) (a : VPair) (b : SSrc) : Plan := 
  let i : Instr := .cvtdq d a b
  { instr := i,
    bad := fun s => if cvtdqBad (opType s i).toNat (readS s i 2 b) then some 5 else none,
    tag := fun s => (typeIn i (fun t => decide (29 ≤ t)) s).orElse fun _ => sameTag s 1 a.hi.src 16,
    act := fun s =>
      let c := readS s i 2 b
      let t := (opType s i).toNat
      let u := c.toNat % 32
      let ed := valBits u
      let va := readV s 8 false a.lo.src
      let vm := readV s 32 false a.hi.src
      giveMask i d ed (BitVec.ofNat 5 c.toNat) (fun j =>
        let v := c.toNat / 32 % 16 * (2048 / ed) + j
        dequant t u (rmOf s) (elem va (valBits t) v) (elem vm 8 (v / 8))) s }
def execCvtdq (d : VDst) (a : VPair) (b : SSrc) (s : State) : Host.Outcome State Fault Refusal :=
  .next ((planCvtdq d a b).run s)

/-- R207. -/
def planVbcast (d : VDst) (a : VSrc) (b : SSrc) : Plan := 
  let i : Instr := .vbcast d a b
  { instr := i, tag := typeIn i anyTag, act := fun s =>
      let e := opWidth s i
      let va := vop s i a
      let k := (readS s i 2 b).toNat % (2048 / e)
      giveMask i d e (opType s i) (fun _ => (elem va e k, 0)) s }
def execVbcast (d : VDst) (a : VSrc) (b : SSrc) (s : State) : Host.Outcome State Fault Refusal :=
  .next ((planVbcast d a b).run s)

/-- R207. -/
def planVshuf (d : VDst) (a b : VSrc) : Plan := 
  let i : Instr := .vshuf d a b
  { instr := i, tag := fun s => (typeIn i anyTag s).orElse fun _ => bWidth i b s, act := fun s =>
      let e := opWidth s i
      let va := vop s i a
      let vb := vop s i b
      giveMask i d e (opType s i) (fun k => (elem va e (elem vb e k % (2048 / e)), 0)) s }
def execVshuf (d : VDst) (a b : VSrc) (s : State) : Host.Outcome State Fault Refusal :=
  .next ((planVshuf d a b).run s)

/-- R207. -/
def planVslideUp (d : VDst) (a : VSrc) (b : SSrc) : Plan := 
  let i : Instr := .vslideUp d a b
  { instr := i, tag := typeIn i anyTag, act := fun s =>
      let e := opWidth s i
      let va := vop s i a
      let k := (readS s i 2 b).toNat
      giveMask i d e (opType s i) (fun j => (if k ≤ j then elem va e (j - k) else 0, 0)) s }
def execVslideUp (d : VDst) (a : VSrc) (b : SSrc) (s : State) : Host.Outcome State Fault Refusal :=
  .next ((planVslideUp d a b).run s)

/-- R207. -/
def planVslideDn (d : VDst) (a : VSrc) (b : SSrc) : Plan := 
  let i : Instr := .vslideDn d a b
  { instr := i, tag := typeIn i anyTag, act := fun s =>
      let e := opWidth s i
      let va := vop s i a
      let k := (readS s i 2 b).toNat
      giveMask i d e (opType s i) (fun j => (if j + k < 2048 / e then elem va e (j + k) else 0, 0)) s }
def execVslideDn (d : VDst) (a : VSrc) (b : SSrc) (s : State) : Host.Outcome State Fault Refusal :=
  .next ((planVslideDn d a b).run s)

/-- R207. -/
def planVext (d : SDst) (a : VSrc) (b : SSrc) : Plan := 
  let i : Instr := .vext d a b
  { instr := i, tag := typeIn i anyTag, act := fun s =>
      let e := opWidth s i
      let x := elem (vop s i a) e ((readS s i 2 b).toNat % (2048 / e))
      giveIf i d (if isSigned (opType s i).toNat then sext64 e x else zext64 e x) 0 s }
def execVext (d : SDst) (a : VSrc) (b : SSrc) (s : State) : Host.Outcome State Fault Refusal :=
  .next ((planVext d a b).run s)

/-- R207. -/
def planVins (d : VDst) (a : VSrc) (b : SSrc) : Plan := 
  let i : Instr := .vins d a b
  { instr := i, tag := typeIn i anyTag, act := fun s =>
      let e := opWidth s i
      let va := vop s i a
      let x := (readS s i 2 b).toNat % 2 ^ e
      giveAll i d e (opType s i) (fun k => if enabled s e k then x else elem va e k) s }
def execVins (d : VDst) (a : VSrc) (b : SSrc) (s : State) : Host.Outcome State Fault Refusal :=
  .next ((planVins d a b).run s)

/-- R207. -/
def planVcmpr (d : VDst) (a : VSrc) : Plan := 
  let i : Instr := .vcmpr d a
  { instr := i, tag := typeIn i anyTag, act := fun s =>
      let e := opWidth s i
      let va := vop s i a
      let l := ((List.range (2048 / e)).filter (enabled s e)).map (elem va e)
      giveV i d (packElems e l) (BitVec.allOnes 2048) (opType s i) 0 s }
def execVcmpr (d : VDst) (a : VSrc) (s : State) : Host.Outcome State Fault Refusal :=
  .next ((planVcmpr d a).run s)

/-- R207. -/
def planVlane (d : VDst) (a b : SSrc) : Plan := 
  let i : Instr := .vlane d a b
  { instr := i, act := fun s =>
      let x := (readS s i 1 a).toNat
      let y := (readS s i 2 b).toNat
      giveMask i d 32 6 (fun k => ((x + k * y) % 2 ^ 32, 0)) s }
def execVlane (d : VDst) (a b : SSrc) (s : State) : Host.Outcome State Fault Refusal :=
  .next ((planVlane d a b).run s)

def planVredAdd (d : SDst) (a : VSrc) : Plan := vred (.vredAdd d a) intTag elAdd (fun _ _ => 0) d a
def execVredAdd (d : SDst) (a : VSrc) (s : State) : Host.Outcome State Fault Refusal :=
  .next ((planVredAdd d a).run s)

def planVredMin (d : SDst) (a : VSrc) : Plan := vred (.vredMin d a) intTag elMin intMax d a
def execVredMin (d : SDst) (a : VSrc) (s : State) : Host.Outcome State Fault Refusal :=
  .next ((planVredMin d a).run s)

def planVredMax (d : SDst) (a : VSrc) : Plan := vred (.vredMax d a) intTag elMax intMin d a
def execVredMax (d : SDst) (a : VSrc) (s : State) : Host.Outcome State Fault Refusal :=
  .next ((planVredMax d a).run s)

def planVredAnd (d : SDst) (a : VSrc) : Plan := vred (.vredAnd d a) logicTag elAnd (fun _ e => 2 ^ e - 1) d a
def execVredAnd (d : SDst) (a : VSrc) (s : State) : Host.Outcome State Fault Refusal :=
  .next ((planVredAnd d a).run s)

def planVredOr (d : SDst) (a : VSrc) : Plan := vred (.vredOr d a) logicTag elOr (fun _ _ => 0) d a
def execVredOr (d : SDst) (a : VSrc) (s : State) : Host.Outcome State Fault Refusal :=
  .next ((planVredOr d a).run s)

def planFredAdd (d : SDst) (a : VSrc) : Plan := fred (.fredAdd d a) Fmt.add (fun _ => 0) d a
def execFredAdd (d : SDst) (a : VSrc) (s : State) : Host.Outcome State Fault Refusal :=
  .next ((planFredAdd d a).run s)

def planFredMin (d : SDst) (a : VSrc) : Plan := fred (.fredMin d a) (fun F _ z => F.minmax false z) (fun F => F.inf false) d a
def execFredMin (d : SDst) (a : VSrc) (s : State) : Host.Outcome State Fault Refusal :=
  .next ((planFredMin d a).run s)

def planFredMax (d : SDst) (a : VSrc) : Plan := fred (.fredMax d a) (fun F _ z => F.minmax true z) (fun F => F.inf true) d a
def execFredMax (d : SDst) (a : VSrc) (s : State) : Host.Outcome State Fault Refusal :=
  .next ((planFredMax d a).run s)

/-- R209. -/
def planVtag (d : VDst) (a : VSrc) (b : SSrc) : Plan := 
  let i : Instr := .vtag d a b
  { instr := i,
    bad := fun s =>
      let v := readS s i 2 b
      if v.toNat / 32 ≠ 0 || !tagValid (BitVec.ofNat 5 v.toNat) then some 5 else none,
    act := fun s =>
      giveV i d (readV s 32 false a) (BitVec.allOnes 2048) (BitVec.ofNat 5 (readS s i 2 b).toNat) 0 s }
def execVtag (d : VDst) (a : VSrc) (b : SSrc) (s : State) : Host.Outcome State Fault Refusal :=
  .next ((planVtag d a b).run s)

/-- R209. -/
def planVtagq (d : SDst) (a : VSrc) : Plan := 
  let i : Instr := .vtagq d a
  { instr := i, tag := typeIn i anyTag, act := fun s => giveIf i d (zext64 5 (opType s i).toNat) 0 s }
def execVtagq (d : SDst) (a : VSrc) (s : State) : Host.Outcome State Fault Refusal :=
  .next ((planVtagq d a).run s)

end Sys2Proof.Machine
end

