-- ==== Sys2Proof/Machine/Matrix.lean ====
section
/-!
DEFINITION. The matrix unit (R239-R267): binding and loading operands, the ring, `mma`, tiles in memory, status. A matrix
instruction's effect is made at issue, and its pair retires after the time of Table Matrix-9 (log 25).
-/
namespace Sys2Proof.Machine

/-! ## Parts -/

/-- Key of element (i, j) of tile n. -/
def tileKey (n i j : Nat) : Nat := n * 4096 + i * 64 + j
def Core.tileElem (x : Core) (n i j : Nat) : Half := sget 0 x.tiles (tileKey n i j)
def Core.tileTag (x : Core) (n : Nat) : Tag := sget 10 x.tileTags n

/-- Entries (key, value) that are not zero, of a run of keys. -/
def nonZero (l : List (Nat × Half)) : List (Nat × Half) := l.filter fun x => x.2 ≠ 0

/-- The 4,096 positions of a tile in row-major order. -/
def tilePos : List (Nat × Nat) := (List.range 64).flatMap fun i => (List.range 64).map fun j => (i, j)

/-- Replace tile n and its tag. -/
def Core.putTile (x : Core) (n : Nat) (tag : Tag) (f : Nat → Nat → Half) : Core :=
  let mid := nonZero (tilePos.map fun (i, j) => (tileKey n i j, f i j))
  { x with tiles := x.tiles.filter (fun e => decide (e.1 < tileKey n 0 0)) ++ mid
             ++ x.tiles.filter (fun e => decide (tileKey (n + 1) 0 0 ≤ e.1)),
           tileTags := sset 10 x.tileTags n tag }

/-- A descriptor read from memory (Table Matrix-3), with LINES. -/
def descLines (d : Nat) : Nat := bits d 151 144

def fmtKnown (f : Nat) : Bool := f = 31 || f = 29 || f = 1 || f = 12
/-- The tag that a format's tiles carry (Table Matrix-4). -/
def fmtTag (f : Nat) : Tag := if f = 1 then 5 else 10
/-- The rate of a format, in K elements per cycle (Table Matrix-4). -/
def fmtRate (f : Nat) : Nat := if f = 31 then 4 else if f = 12 then 1 else 2
def blocksOf (k : Nat) : Nat := ceilDiv k 32
def BTile.bytes (t : BTile) : Nat :=
  blocksOf t.k * 64 * blockBytes t.fmt + (if scaledFmt t.fmt then blocksOf t.k * 256 else 0)
/-- Bytes that CUR streams (R265). -/
def curBytes (x : Core) : Nat := match x.cur with | some t => BTile.bytes t | none => 0

/-- Model number of a poisoned tile. -/
def tileCode (n : Nat) : Nat := 428 + n

def unitOf (s : State) : Core := s.core s.issue.core
def owns (s : State) : Bool := match s.cur with | some sl => sl.matrix | none => false

/-- R241, R130: step 7 for a continuation that does not own the matrix unit; otherwise the instruction's own check. -/
def matFault (i : Instr) (f : State → Option Trap) (s : State) : Option Trap :=
  if owns s then f s else some (protTrap (opcode i))

/-- A tile that is read is poisoned (R277, R455). -/
def tilePoison (s : State) (n : Nat) : Option Trap :=
  match s.cur with
  | some sl => if sl.poisoned.contains (tileCode n) then some (trapInfo MCHECK (2 + (128 + n) * 256)) else none
  | none => none

/-- A write of the whole tile clears its mark. -/
def State.cleanTile (s : State) (n : Nat) : State :=
  s.modCur fun sl => { sl with poisoned := sl.poisoned.filter (· ≠ tileCode n) }

/-- The pair retires t cycles after issue, with the instruction's flags, and the next one issues no earlier than the cycle
after (R241, R265). -/
def State.retireIn (s : State) (t : Nat) (flags : Byte) : State :=
  let s := if flags = 0 then s else
    s.owe { Pending.blank with aslot := true, fixed := true, due := s.now + t, flags := flags }
  s.holdPair (.until (s.now + t + 1)) false

/-- Every byte of the ranges stands in the core's own local array (R139). -/
def ownRanges (s : State) (rs : List (Nat × Nat)) : Bool :=
  rs.all fun (ea, n) => (piecesOf ea n).all fun (a, _) => ownLag s a = 3

/-- The pair of a matrix load retires t cycles after issue when the local array serves its ranges (`own`); from beyond the
core the load of their bytes takes a time of its own, in place of the 4 cycles of the array (R265). -/
def State.retireLoad (s : State) (own : Bool) (t : Nat) : State :=
  if own then s.retireIn t 0
  else
    let id := match s.cur with | some sl => sl.nextId | none => 0
    let s := s.owe { Pending.blank with aslot := true, fixed := false, due := s.now, memRead := true }
    (s.holdPair (.loaded id) false).modCur fun sl =>
      { sl with hold := sl.hold.map fun h => { h with after := .delay (t - 4) :: h.after } }

/-- A matrix instruction reads memory after the atomics that the continuation has posted to it, those of its own pair
included (R143, R346). -/
def State.catchUp (s : State) (ea n : Nat) : State :=
  match s.cur with
  | some sl => s.acceptRange sl.ctx sl.idx ea n
  | none => s

/-- The bytes of a plain range are uncorrectable: MCHECK at the instruction (R258). -/
def dataPoison (s : State) (ea n : Nat) : Option Trap :=
  if (s.readVa (issuer s) .load ea n).2 then some (trapInfo MCHECK 2) else none

/-! ## mzero, mlda, mldb, mband (R245-R248) -/

def planMzero (t : Fin 16) (s32 : Bool) : Plan :=
  let i : Instr := .mzero t s32
  { instr := i, fault := matFault i fun _ => none,
    act := fun s =>
      ((s.modCore s.issue.core fun x => x.putTile t.val (if s32 then 5 else 10) fun _ _ => 0).cleanTile t.val).retireIn 2 0 }
def execMzero (t : Fin 16) (s32 : Bool) (s : State) : Host.Outcome State Fault Refusal := .next ((planMzero t s32).run s)

/-- The descriptor at an address. -/
def descAt (s : State) (ea : Nat) : Nat := (s.readVa (issuer s) .load ea 32).1

/-- Checks of R246 and R247 on the descriptor's values; kMax the largest K. -/
def descFault (i : Instr) (kMax d : Nat) : Option Trap :=
  let a := adescOf d
  if descLines d ≠ 64 || !fmtKnown a.fmt || a.k = 0 || kMax < a.k || a.addr.toNat % 16 ≠ 0
      || (scaledFmt a.fmt && a.sbase.toNat % 16 ≠ 0) then some (protTrap (opcode i)) else none

/-- The address lies in the local window. -/
def inLocal (a : Nat) : Bool := decide (localBase ≤ a) && decide (a < localBase + 0x1000000)

/-- INFO's size for a matrix operand: open (log 15). -/
def operandSize (s : State) : Nat := Config.operandSize s.freeCtr % 256 + 1

/-- R246's LOCALRANGE: ADDR, or SBASE when scaled, outside the local window. -/
def bindRange (s : State) (a : ADesc) : Option Trap :=
  if !inLocal a.addr.toNat then some (memTrap LOCALRANGE .load a.addr.toNat (operandSize s))
  else if scaledFmt a.fmt && !inLocal a.sbase.toNat then some (memTrap LOCALRANGE .load a.sbase.toNat (operandSize s))
  else none

/-- The read of the descriptor itself. -/
def descReadFault (s : State) (ea : Nat) : Option Trap :=
  (checkAccess s .load false ea 32 32).orElse fun _ => dataPoison s ea 32

def planMlda (n : Fin 4) (a : SSrc) : Plan :=
  let i : Instr := .mlda n a
  let ea (s : State) : Nat := (readS s i 1 a).toNat
  { instr := i,
    fault := matFault i fun s => ((descReadFault s (ea s)).orElse fun _ => descFault i 65535 (descAt s (ea s))).orElse
      fun _ => bindRange s (adescOf (descAt s (ea s))),
    act := fun s =>
      let s := s.catchUp (ea s) 32
      let d := adescOf (descAt s (ea s))
      ((s.lineEffects (issuer s) .load .load (ea s) 32).modCore s.issue.core fun x =>
        { x with adesc := sset none x.adesc n.val (some d) }).bump.retireLoad (ownRanges s [(ea s, 32)]) 6 }
def execMlda (n : Fin 4) (a : SSrc) (s : State) : Host.Outcome State Fault Refusal := .next ((planMlda n a).run s)

/-- n bytes at an address, as a sparse map from 0. -/
def State.loadCells (s : State) (ea n : Nat) : List (Nat × Byte) :=
  (piecesOf ea n).flatMap fun (a, m) => cells (a - ea) (leBytes m (s.readVa (issuer s) .load a m).1)

/-- The K index of the element whose bytes hold data byte b, for its first value (R243). -/
def kOfByte (fmt b : Nat) : Nat :=
  let bb := blockBytes fmt
  b / (64 * bb) * 32 + b % bb * 32 / bb

/-- Elements of K index at or beyond k become zero. In e2m1 a byte holds two values. -/
def trimCells (fmt k : Nat) (l : List (Nat × Byte)) : List (Nat × Byte) :=
  (l.map fun (b, v) =>
    let i := kOfByte fmt b
    (b, if k ≤ i then 0 else if fmt = 31 && k = i + 1 then v &&& 15 else v)).filter fun x => x.2 ≠ 0

/-- Data and scale ranges of a B descriptor: address and length. -/
def ADesc.dataLen (a : ADesc) : Nat := blocksOf a.k * 64 * blockBytes a.fmt
def ADesc.scaleLen (a : ADesc) : Nat := if scaledFmt a.fmt then blocksOf a.k * 256 else 0

/-- R227, as loads, for a range in pieces of one line; the size in INFO is open. -/
def rangeLoadFault (s : State) (ea n : Nat) : Option Trap :=
  ((piecesOf ea n).findSome? fun (a, m) => checkAccess s .load false a m 1).map fun t =>
    if t.code = MCHECK then t else { t with info := t.info % 16 + 16 * operandSize s }

def planMldb (a : SSrc) : Plan :=
  let i : Instr := .mldb a
  let ea (s : State) : Nat := (readS s i 1 a).toNat
  let d (s : State) : ADesc := adescOf (descAt s (ea s))
  { instr := i,
    fault := matFault i fun s => ((descReadFault s (ea s)).orElse fun _ => descFault i 256 (descAt s (ea s))).orElse
      fun _ => ((rangeLoadFault s (d s).addr.toNat (d s).dataLen).orElse
        fun _ => rangeLoadFault s (d s).sbase.toNat (d s).scaleLen).orElse
        fun _ => (dataPoison s (d s).addr.toNat (d s).dataLen).orElse
        fun _ => dataPoison s (d s).sbase.toNat (d s).scaleLen,
    act := fun s =>
      let at_ := ea s
      let s := s.catchUp at_ 32
      let d := d s
      let s := (s.catchUp d.addr.toNat d.dataLen).catchUp d.sbase.toNat d.scaleLen
      let t : BTile := { data := trimCells d.fmt d.k (s.loadCells d.addr.toNat d.dataLen),
                         scales := s.loadCells d.sbase.toNat d.scaleLen, fmt := d.fmt, k := d.k, band := d.band }
      let w := issuer s
      let own := ownRanges s [(at_, 32), (d.addr.toNat, d.dataLen), (d.sbase.toNat, d.scaleLen)]
      let s := ((s.lineEffects w .load .load at_ 32).lineEffects w .load .load d.addr.toNat d.dataLen).lineEffects w
        .load .load d.sbase.toNat d.scaleLen
      (s.modCore s.issue.core fun x => { x with cur := some t }).bump.retireLoad own
        (ceilDiv t.bytes 256 + 8) }
def execMldb (a : SSrc) (s : State) : Host.Outcome State Fault Refusal := .next ((planMldb a).run s)

def planMband (n : Fin 5) (a : SSrc) : Plan :=
  let i : Instr := .mband n a
  { instr := i,
    bad := fun s => if (readS s i 1 a).toNat < 65536 then none else some 5,
    fault := matFault i fun s =>
      if (if n.val = 4 then (unitOf s).cur.isNone else (sget none (unitOf s).adesc n.val).isNone) then
        some (protTrap (opcode i)) else none,
    act := fun s =>
      let b : BitVec 16 := (readS s i 1 a).setWidth 16
      (s.modCore s.issue.core fun x =>
        if n.val = 4 then { x with cur := x.cur.map fun t => { t with band := b } }
        else { x with adesc := smod none x.adesc n.val fun o => o.map fun d => { d with band := b } }).retireIn 2 0 }
def execMband (n : Fin 5) (a : SSrc) (s : State) : Host.Outcome State Fault Refusal := .next ((planMband n a).run s)

/-! ## The ring (R249-R251, R257) -/

/-- CUR goes to the successor in a stream of n cycles, once its INB is empty, and is committed no sooner than the arithmetic
is done; the unit is busy until it has taken its own tile. -/
def State.startRing (s : State) (size n fin : Nat) : State :=
  (s.modCore s.issue.core fun x =>
    { x with ring := some ⟨(issuer s).ctx, ringSucc size s.issue.core, n, fin, x.cur, .waiting⟩ }).holdPair .ring false

def planMring (code : Fin 5) : Plan :=
  let i : Instr := .mring code
  { instr := i, fault := matFault i fun _ => none,
    act := fun s => s.startRing (2 ^ code.val) (ceilDiv (curBytes (unitOf s)) 256 + 4) s.now }
def execMring (code : Fin 5) (s : State) : Host.Outcome State Fault Refusal := .next ((planMring code).run s)

/-- The core's ring transfer is over: a pair that waits for it retires in this cycle (R241). -/
def State.ringOver (s : State) (c : Nat) : State :=
  { s with cores := s.cores.map fun (d, x) => (d, if d ≠ c then x else { x with slots := x.slots.map fun (k, o) =>
      (k, o.map fun sl => { sl with hold := sl.hold.map fun h =>
        if h.w = .ring then { h with w := .until (s.now + 1) } else h }) }) }

/-- MRING_RECEIVE (R251, R257): a stream begins at an empty INB, and fills it; a finished one commits; then the core takes its
own full INB into CUR. What streams into an INB is the sender's context's (R266). -/
def State.ringStep (s : State) (c : Nat) : State :=
  match (s.core c).ring with
  | none => s
  | some r => match r.phase with
    | .waiting =>
      if (s.core r.succ).inb = .empty then
        (s.modCore r.succ fun x => { x with inb := .filling, inbCtx := some r.ctx }).modCore c fun x =>
          { x with ring := some { r with phase := .streaming (s.now + r.len) } }
      else s
    | .streaming t =>
      if s.now < t || s.now < r.fin then s
      else (s.modCore r.succ fun x => { x with inb := .full r.tile, inbCtx := some r.ctx }).modCore c fun x =>
        { x with ring := some { r with phase := .committed } }
    | .committed => match (s.core c).inb with
      | .full t => (s.modCore c fun x => { x with cur := t, inb := .empty, ring := none }).ringOver c
      | _ => s

def execMringReceive (core : Nat) (s : State) : Host.Outcome State Fault Refusal := .next (s.ringStep core)

/-! ## mma (R252-R258) -/

/-- The code of element (line, block, offset) of operand data (R243, R149). -/
def elemCode (rd : Nat → Byte) (fmt line block off : Nat) : Nat :=
  let bb := blockBytes fmt
  let base := block * 64 * bb + line * bb
  if fmt = 31 then (rd (base + off / 2)).toNat / 16 ^ (off % 2) % 16
  else if fmt = 12 then (rd (base + 2 * off)).toNat + 256 * (rd (base + 2 * off + 1)).toNat
  else (rd (base + off)).toNat

/-- Micro-scale j of the scale word of (line, block). -/
def scaleCode (rd : Nat → Byte) (line block j : Nat) : Nat := (rd (block * 256 + line * 4 + j)).toNat

/-- R254: the integer form of an e2m1 or e4m3 element; none for a NaN. -/
def intForm (fmt c : Nat) : Option Int :=
  match (if fmt = 31 then E2M1 else E4M3).val false c with
  | .fin s m x => some ((if s then -1 else 1) * (m * 2 ^ (x + (if fmt = 31 then 1 else 9)).toNat : Nat))
  | _ => none

/-- What one output element meets in one group. -/
structure GroupSum where
  s : FVal
  invalid : Bool
  nan : Bool
  snan : Bool
  int : Int
  fl : Byte

/-- The operands of an `mma` as the promotion reads them: bytes from the first block used. -/
structure Operands where
  fmt : Nat
  kb : Nat
  av : Array Byte
  asv : Array Byte
  bv : Array Byte
  bsv : Array Byte
  bandA : FVal
  bandB : FVal

/-- Byte k of the A data, A scales, B data and B scales. -/
def Operands.ad (o : Operands) (k : Nat) : Byte := o.av.getD k 0
def Operands.as_ (o : Operands) (k : Nat) : Byte := o.asv.getD k 0
def Operands.bd (o : Operands) (k : Nat) : Byte := o.bv.getD k 0
def Operands.bs (o : Operands) (k : Nat) : Byte := o.bsv.getD k 0

/-- Present offsets of a block (R254). -/
def presentIn (kb b : Nat) : Nat := min 32 (kb - 32 * b)

/-- R254 for e2m1 and e4m3: block b of output (i, j). -/
def scaledBlock (o : Operands) (i j b : Nat) (g : GroupSum) : GroupSum :=
  (List.range (presentIn o.kb b)).foldl (fun g k =>
    let ma := scaleCode o.as_ i b (k / 8)
    let mb := scaleCode o.bs j b (k / 8)
    let xa := intForm o.fmt (elemCode o.ad o.fmt i b k)
    let xb := intForm o.fmt (elemCode o.bd o.fmt j b k)
    if ma = 0xFF || mb = 0xFF then { g with invalid := true, nan := g.nan || xa.isNone || xb.isNone }
    else match xa, xb with
      | some u, some v =>
        { g with int := g.int + u * v * (scaleM ma * scaleM mb : Nat) * 2 ^ (scaleX ma + scaleX mb + 14).toNat }
      | _, _ => { g with nan := true }) g

/-- R255 for s8. -/
def s8Block (o : Operands) (i j b : Nat) (g : GroupSum) : GroupSum :=
  (List.range (presentIn o.kb b)).foldl (fun g k =>
    { g with int := g.int + toSigned 8 (elemCode o.ad 1 i b k) * toSigned 8 (elemCode o.bd 1 j b k) }) g

/-- R255 for bf16: the tree over one block, then the addition to the sum so far (none before the first block). -/
def bf16Block (o : Operands) (i j b : Nat) (acc : Option Nat × GroupSum) : Option Nat × GroupSum :=
  let n := presentIn o.kb b
  let va (k : Nat) : FVal := BF16.val false (elemCode o.ad 12 i b k)
  let vb (k : Nat) : FVal := BF16.val false (elemCode o.bd 12 j b k)
  let ps := (List.range n).map fun k => (mulX (va k) (vb k)).finish F32 0 false
  let pf := ps.foldl (fun f p => f ||| p.2) (0 : Byte)
  let (r, tf) := tree (F32.add 0 false) 5 ((List.range 32).map fun k => if k < n then (ps[k]?).map Prod.fst else none)
  let r := r.getD 0
  let (v, af) := match acc.1 with
    | none => (r, (0 : Byte))
    | some x => F32.add 0 false x r
  let g := acc.2
  let g' : GroupSum := { g with
    fl := g.fl ||| pf ||| tf ||| af,
    nan := g.nan || (List.range n).any fun k => (va k).isNan || (vb k).isNan,
    snan := g.snan || (List.range n).any fun k => (snan (va k) ||| snan (vb k)) ≠ 0 }
  (some v, g')

def GroupSum.zero : GroupSum := ⟨.fin false 0 0, false, false, false, 0, 0⟩

/-- The sum of output (i, j) over a group of blocks (R254, R255). -/
def groupSum (o : Operands) (i j : Nat) (bs : List Nat) : GroupSum :=
  if o.fmt = 1 then bs.foldl (fun g b => s8Block o i j b g) GroupSum.zero
  else if o.fmt = 12 then
    let (v, g) := bs.foldl (fun acc b => bf16Block o i j b acc) ((none : Option Nat), GroupSum.zero)
    { g with s := F32.val false (v.getD 0) }
  else
    let g := bs.foldl (fun g b => scaledBlock o i j b g) GroupSum.zero
    { g with s := .fin (decide (g.int < 0)) g.int.natAbs (if o.fmt = 31 then -16 else -32) }

/-- S × βA × βB (R256): exact; a band of zero makes it zero, an S of zero counts as +0, and one that is a NaN as positive
(log 51). -/
def termOf (s a b : FVal) : FVal :=
  match a, b with
  | .fin na ma xa, .fin nb mb xb =>
    let sg (n : Bool) : Bool := n ^^ na ^^ nb
    match s with
    | .fin ns ms xs =>
      if ms * ma * mb = 0 then .fin (sg (ns && ms ≠ 0)) 0 0 else .fin (sg ns) (ms * ma * mb) (xs + xa + xb)
    | .inf ns => if ma * mb = 0 then .fin (sg ns) 0 0 else .inf (sg ns)
    | .nan q => if ma * mb = 0 then .fin (sg false) 0 0 else .nan q
  | _, _ => .nan false

/-- R256: the promotion of one element. -/
def promote (o : Operands) (g : GroupSum) (t : Nat) : Nat × Byte :=
  if o.fmt = 1 then
    let (r, sat) := clampInt 5 (toSigned 32 t + g.int)
    (r, flagIf sat fSAT)
  else
    let vt := F32.val false t
    let fin (v : FVal) : Bool := match v with | .fin _ _ _ => true | _ => false
    if g.invalid || !fin o.bandA || !fin o.bandB then (F32.qnan, fISC ||| snan vt ||| g.fl)
    else if vt.isNan || g.nan then (F32.qnan, g.fl ||| snan vt ||| flagIf g.snan fNV)
    else
      let (r, fl) := (addX 0 vt (termOf g.s o.bandA o.bandB)).finish F32 0 false
      (r, fl ||| g.fl)

/-- The groups of up to p consecutive blocks of nb (R253). -/
def groupsOf (p nb : Nat) : List (List Nat) :=
  (List.range (ceilDiv nb p)).map fun g => (List.range (min p (nb - g * p))).map (· + g * p)

/-- One output element over every group, with its flags. -/
def mmaElem (o : Operands) (p i j : Nat) (t : Half) : Half × Byte :=
  let (r, fl) := (groupsOf p (blocksOf o.kb)).foldl (fun (acc : Nat × Byte) bs =>
    let (r, f) := promote o (groupSum o i j bs) acc.1
    (r, acc.2 ||| f)) (t.toNat, (0 : Byte))
  (BitVec.ofNat 32 r, fl)

/-- Table Matrix-5. -/
def cwBad (w : Word) : Bool :=
  w &&& 0xFFFFFFFFFF08800C ≠ 0 || 4 < bits w.toNat 18 16
def cwTile (t : Nat) (w : Word) : Nat := (t + bits w.toNat 23 20) % 16
def cwRing (w : Word) : Nat := bits w.toNat 18 16
def cwKofs (w : Word) : Nat := bits w.toNat 14 4
def cwSlot (w : Word) : Nat := bits w.toNat 1 0

def cwDesc (s : State) (w : Word) : Option ADesc := sget none (unitOf s).adesc (cwSlot w)

/-- R253's tag checks of step 6, made only for an owner (R241). -/
def mmaTag (s : State) (t : Nat) (w : Word) : Option (Nat × Nat × Nat) :=
  if !owns s then none else
  match cwDesc s w with
  | none => none
  | some a =>
    match (unitOf s).cur with
    | some b => if b.fmt ≠ a.fmt then some (1, b.fmt, a.fmt) else
        if (unitOf s).tileTag (cwTile t w) ≠ fmtTag a.fmt then
          some (0, ((unitOf s).tileTag (cwTile t w)).toNat, (fmtTag a.fmt).toNat) else none
    | none => if (unitOf s).tileTag (cwTile t w) ≠ fmtTag a.fmt then
        some (0, ((unitOf s).tileTag (cwTile t w)).toNat, (fmtTag a.fmt).toNat) else none

/-- First byte and length of the A data and scale words that an `mma` reads. -/
def aData (a : ADesc) (k0 nb : Nat) : Nat × Nat :=
  (a.addr.toNat + k0 * 64 * blockBytes a.fmt, nb * 64 * blockBytes a.fmt)
def aScale (a : ADesc) (k0 nb : Nat) : Nat × Nat :=
  (a.sbase.toNat + k0 * 256, if scaledFmt a.fmt then nb * 256 else 0)

/-- R253's checks of step 7 after the ownership check. -/
def mmaFault (i : Instr) (t : Nat) (w : Word) (s : State) : Option Trap :=
  match cwDesc s w, (unitOf s).cur with
  | some a, some b =>
    if a.k < 32 * cwKofs w + b.k then some (protTrap (opcode i))
    else
      let d := aData a (cwKofs w) (blocksOf b.k)
      let c := aScale a (cwKofs w) (blocksOf b.k)
      ((localFault s .load d.1 d.2 (operandSize s)).orElse fun _ => localFault s .load c.1 c.2 (operandSize s)).orElse
        fun _ => ((tilePoison s (cwTile t w)).orElse fun _ => dataPoison s d.1 d.2).orElse
        fun _ => (dataPoison s c.1 c.2).orElse
        fun _ => if a.fmt ≠ 12 && 2 ≤ (unitOf s).accErr then
          some (trapInfo MCHECK ((128 + cwTile t w) * 256)) else none
  | _, _ => some (protTrap (opcode i))

/-- The operands as bytes. -/
def mmaOperands (x : Core) (a : ADesc) (b : BTile) (k0 : Nat) : Operands :=
  let nb := blocksOf b.k
  let da := aData a k0 nb
  let sa := aScale a k0 nb
  { fmt := a.fmt, kb := b.k,
    av := (dense 0 x.spad (da.1 - localBase) da.2).toArray, asv := (dense 0 x.spad (sa.1 - localBase) sa.2).toArray,
    bv := (dense 0 b.data 0 (nb * 64 * blockBytes b.fmt)).toArray, bsv := (dense 0 b.scales 0 (nb * 256)).toArray,
    bandA := BF16.val false a.band.toNat, bandB := BF16.val false b.band.toNat }

/-- The effect on the tile, the flags and the replay counts. -/
def State.mmaAct (s : State) (n p k0 : Nat) (a : ADesc) (b : BTile) : State × Byte :=
  let x := unitOf s
  let o := mmaOperands x a b k0
  let out := tilePos.zipWith (fun (i, j) t => mmaElem o p i j t) (dense 0 x.tiles (tileKey n 0 0) 4096)
  let fl := out.foldl (fun f r => f ||| r.2) (0 : Byte)
  let y : Core := { x with
    tiles := x.tiles.filter (fun e => decide (e.1 < tileKey n 0 0)) ++ runOf 0 (tileKey n 0 0) (out.map Prod.fst)
      ++ x.tiles.filter (fun e => decide (tileKey (n + 1) 0 0 ≤ e.1)) }
  (s.setCore s.issue.core y, fl)

/-- Cycles of the arithmetic (R265). -/
def mmaTime (fmt kb : Nat) (replayed : Bool) : Nat := (ceilDiv kb (fmtRate fmt) + 2) * (if replayed then 2 else 1)

def planMma (t : Fin 16) (a : SSrc) (p : Fin 64) : Plan :=
  let i : Instr := .mma t a p
  let cw (s : State) : Word := readS s i 1 a
  { instr := i,
    bad := fun s => if cwBad (cw s) then some 5 else none,
    tag := fun s => mmaTag s t.val (cw s),
    fault := matFault i fun s => mmaFault i t.val (cw s) s,
    wait := fun s => if (unitOf s).matIdle then some .startGrant else none,
    act := fun s =>
      let w := cw s
      match cwDesc s w, (unitOf s).cur with
      | some a, some b =>
        let replayed := a.fmt ≠ 12 && decide ((unitOf s).accErr = 1)
        let (s, fl) := s.mmaAct (cwTile t.val w) (p.val + 1) (cwKofs w) a b
        let s := if replayed then s.countReplay s.issue.core else s
        let tm := mmaTime a.fmt b.k replayed
        let s := s.modCore s.issue.core fun x => { x with lastMma := s.now + tm }
        let s := if cwRing w ≠ 0 then s.startRing (2 ^ cwRing w) (ceilDiv b.bytes 256) (s.now + tm) else s
        s.retireIn tm fl
      | _, _ => s }
def execMma (t : Fin 16) (a : SSrc) (p : Fin 64) (s : State) : Host.Outcome State Fault Refusal :=
  .next ((planMma t a p).run s)

/-! ## Tiles in memory (R259-R263) -/

def TileLayout.bf16 (l : TileLayout) : Bool := l.form = 1
/-- Bytes between rows, and bytes of a row. -/
def layStride (l : TileLayout) : Nat := 2 ^ (l.stride.val + 7)
def layRow (l : TileLayout) : Nat := if l.form = 1 then 128 else 256
def layTag (l : TileLayout) : Tag := if l.form = 2 then 5 else 10

/-- Row addresses. -/
def rowsOf (ea : Nat) (l : TileLayout) : List Nat :=
  (List.range 64).map fun i => (ea + i * layStride l) % 2 ^ 64

/-- The 32 or 16 bits of an element as stored, with flags. -/
def storeElem (l : TileLayout) (rm : Nat) (v : Half) : Nat × Byte :=
  if l.form = 1 then convert 10 12 rm false v.toNat else (v.toNat, 0)

/-- Bits of a stored element. -/
def layBits (l : TileLayout) : Nat := if l.form = 1 then 16 else 32

/-- A row of tile n as it is stored. -/
def storeRow (x : Core) (n : Nat) (l : TileLayout) (rm i : Nat) : Nat × Byte :=
  (List.range 64).foldr (fun j (acc : Nat × Byte) =>
    let (v, f) := storeElem l rm (x.tileElem n i j)
    (v + 2 ^ layBits l * acc.1, acc.2 ||| f)) (0, 0)

/-- The 16-byte granules of a row, at the places that its checked translation names. -/
def granulesOf (s : State) (ea n v : Nat) : List MstGranule :=
  let w := issuer s
  (List.range (n / 16)).filterMap fun g => match s.placeOf w .store false (ea + 16 * g) with
    | .ok p => some ⟨w.ctx, w.native, BitVec.ofNat 64 (ea + 16 * g), p, s.now + 4, BitVec.ofNat 128 (v / 2 ^ (128 * g))⟩
    | .error _ => none

def planMst (t : Fin 16) (a : SSrc) (l : TileLayout) : Plan :=
  let i : Instr := .mst t a l
  let ea (s : State) : Nat := (readS s i 1 a).toNat
  { instr := i,
    tag := fun s => if owns s && (unitOf s).tileTag t.val ≠ layTag l then
        some (0, ((unitOf s).tileTag t.val).toNat, (layTag l).toNat) else none,
    fault := matFault i fun s =>
      ((rowsOf (ea s) l).findSome? fun r => checkAccess s .store false r (layRow l) 16).orElse
        fun _ => tilePoison s t.val,
    wait := fun s => if (unitOf s).mst.isEmpty then none else some .mstBusy,
    act := fun s =>
      let w := issuer s
      let rows := (rowsOf (ea s) l).zipIdx.map fun (r, i) => (r, storeRow (unitOf s) t.val l (rmOf s) i)
      let fl := rows.foldl (fun f x => f ||| x.2.2) (0 : Byte)
      let gs := rows.flatMap fun (r, v, _) => granulesOf s r (layRow l) v
      let s := rows.foldl (fun s x => s.lineEffects w .store .store x.1 (layRow l)) s
      (s.modCore s.issue.core fun x => { x with mst := gs }).retireIn 4 fl }
def execMst (t : Fin 16) (a : SSrc) (l : TileLayout) (s : State) : Host.Outcome State Fault Refusal :=
  .next ((planMst t a l).run s)

/-- MST_STORE_PERFORM (R260): one granule's store is performed, after its pair has retired. -/
def execMstStorePerform (core n : Nat) (s : State) : Host.Outcome State Fault Refusal :=
  match (s.core core).mst[n]? with
  | none => .next s
  | some g => .next (if s.now ≤ g.due then s else
      (s.performGranule core g).modCore core fun x => { x with mst := x.mst.eraseIdx n })

/-- The element that a loaded one becomes (R262). -/
def loadElem (l : TileLayout) (v : Nat) : Half := BitVec.ofNat 32 (if l.form = 1 then v * 65536 else v)

def planMldt (t : Fin 16) (a : SSrc) (l : TileLayout) : Plan :=
  let i : Instr := .mldt t a l
  let ea (s : State) : Nat := (readS s i 1 a).toNat
  { instr := i,
    fault := matFault i fun s =>
      ((rowsOf (ea s) l).findSome? fun r => checkAccess s .load false r (layRow l) 16).orElse
        fun _ => (rowsOf (ea s) l).findSome? fun r => dataPoison s r (layRow l),
    act := fun s =>
      let rows := rowsOf (ea s) l
      let s := rows.foldl (fun s r => s.catchUp r (layRow l)) s
      let vals := rows.map fun r => (s.loadVa r (layRow l)).1
      let w := issuer s
      let own := ownRanges s (rows.map fun r => (r, layRow l))
      let s := rows.foldl (fun s r => s.lineEffects w .load .load r (layRow l)) s
      let f (i j : Nat) : Half := loadElem l (vals.getD i 0 / 2 ^ (layBits l * j) % 2 ^ layBits l)
      ((s.modCore s.issue.core fun x => x.putTile t.val (layTag l) f).cleanTile t.val).retireLoad own
        (layRow l * 64 / 256 + 4) }
def execMldt (t : Fin 16) (a : SSrc) (l : TileLayout) (s : State) : Host.Outcome State Fault Refusal :=
  .next ((planMldt t a l).run s)

def planMfence : Plan :=
  { instr := .mfence, fault := matFault .mfence fun _ => none,
    wait := fun s => if (unitOf s).mst.isEmpty then none else some .mstBusy,
    act := fun s => s.retireIn 2 0 }
def execMfence (s : State) : Host.Outcome State Fault Refusal := .next (planMfence.run s)

/-! ## mchk (R264) and the start of work (R480) -/

/-- The status word of Table Matrix-8. -/
def Core.matStatus (x : Core) : Nat :=
  b2n x.cur.isSome + (match x.inb with | .empty => 0 | .filling => 1 | .full _ => 2) * 4
  + ((List.range 4).foldl (fun a n => a + b2n (sget none x.adesc n).isSome * 2 ^ n) 0) * 16
  + (match x.cur with | some t => t.fmt * 2 ^ 8 + t.k * 2 ^ 16 | none => 0) + x.rpl.toNat * 2 ^ 32

def planMchk (d : SDst) : Plan :=
  let i : Instr := .mchk d
  { instr := i, fault := matFault i fun _ => none,
    act := fun s =>
      (giveS i d (BitVec.ofNat 64 (unitOf s).matStatus) 0 s).modCore s.issue.core fun x => { x with rpl := 0 } }
def execMchk (d : SDst) (s : State) : Host.Outcome State Fault Refusal := .next ((planMchk d).run s)

/-- MATRIX_IDLE (R480): no `mma` has retired for 10 µs. -/
def execMatrixIdle (core : Nat) (s : State) : Host.Outcome State Fault Refusal :=
  .next (if (s.core core).matIdle || s.now < (s.core core).lastMma + Config.cycles10us then s
    else s.modCore core fun x => { x with matIdle := true })

/-- The units of a die that ask for a start grant, first asked first (R480). -/
def State.grantQueue (s : State) (d : Nat) : List Nat :=
  let asking := s.occupied.filterMap fun (c, k) =>
    match (s.slot c k).bind Slot.hold with
    | some ⟨.startGrant, t, _, _⟩ => if dieOf c = d && (s.core c).matIdle then some (t, c) else none
    | _ => none
  (sortBy (fun a b => decide (a.1 < b.1) || (a.1 == b.1 && decide (a.2 ≤ b.2))) asking).map Prod.snd

/-- MATRIX_START_GRANT (R480): one interval's starts on a die. -/
def execMatrixStartGrant (die : Nat) (s : State) : Host.Outcome State Fault Refusal :=
  let n := max 1 (s.pkg.step / 48)
  .next (((s.grantQueue die).take n).foldl (fun s c =>
    s.modCore c fun x => { x with matIdle := false, lastMma := s.now }) s)

end Sys2Proof.Machine
end

