-- ==== Sys2Proof/Machine/Plans.lean ====
section
/-!
DEFINITION. The plan of each native instruction, for the checks of a pair as one unit (R21, R22), and the slots of a pair
with the state as each sees it.
-/
namespace Sys2Proof.Machine

/-- What each native instruction supplies to the issue rules; none for a step of the device. -/
def planOf : Instr → Option Plan
  | .br off => some (planBr off)
  | .brpAny off => some (planBrpAny off)
  | .brpAll off => some (planBrpAll off)
  | .brpNone off => some (planBrpNone off)
  | .brsZ off => some (planBrsZ off)
  | .brsNz off => some (planBrsNz off)
  | .brsLt off => some (planBrsLt off)
  | .brsGe off => some (planBrsGe off)
  | .call off => some (planCall off)
  | .callr d a => some (planCallr d a)
  | .jmpr a => some (planJmpr a)
  | .ret a => some (planRet a)
  | .loop off => some (planLoop off)
  | .spawn d a b cr => some (planSpawn d a b cr)
  | .spawnk d a b cr => some (planSpawnk d a b cr)
  | .retire a b => some (planRetire a b)
  | .susp a => some (planSusp a)
  | .suspon a b => some (planSuspon a b)
  | .phase l => some (planPhase l)
  | .parrive d l => some (planParrive d l)
  | .pwait l b => some (planPwait l b)
  | .gfuse d a b => some (planGfuse d a b)
  | .gsplit d => some (planGsplit d)
  | .evwait l => some (planEvwait l)
  | .evsig l b => some (planEvsig l b)
  | .barr d g => some (planBarr d g)
  | .bwait g b => some (planBwait g b)
  | .bmask g b => some (planBmask g b)
  | .oarr d l b => some (planOarr d l b)
  | .owait l b => some (planOwait l b)
  | .xwait ch b => some (planXwait ch b)
  | .fence k scope => some (planFence k scope)
  | .tfence => some (planTfence)
  | .qstat d p => some (planQstat d p)
  | .chbind d n b => some (planChbind d n b)
  | .ld sz d a imm => some (planLd sz d a imm)
  | .ldx sz d a b => some (planLdx sz d a b)
  | .ldAcq sz d a scope => some (planLdAcq sz d a scope)
  | .st sz d a imm => some (planSt sz d a imm)
  | .stx sz d a b => some (planStx sz d a b)
  | .stRel sz d a scope => some (planStRel sz d a scope)
  | .vld d a tag => some (planVld d a tag)
  | .vlds d base tag => some (planVlds d base tag)
  | .vst d a imm => some (planVst d a imm)
  | .vsts d base => some (planVsts d base)
  | .vgath w d a b => some (planVgath w d a b)
  | .vscat w d a b => some (planVscat w d a b)
  | .ldfe64 d a => some (planLdfe64 d a)
  | .ldfe64c d a => some (planLdfe64c d a)
  | .ldfeV d a tag => some (planLdfeV d a tag)
  | .ldfeVc d a tag => some (planLdfeVc d a tag)
  | .stfe64 d a imm => some (planStfe64 d a imm)
  | .stfeV d a imm => some (planStfeV d a imm)
  | .fecl a b => some (planFecl a b)
  | .feset a b => some (planFeset a b)
  | .amoAdd w f at_ => some (planAmoAdd w f at_)
  | .amoAnd w f at_ => some (planAmoAnd w f at_)
  | .amoOr w f at_ => some (planAmoOr w f at_)
  | .amoXor w f at_ => some (planAmoXor w f at_)
  | .amoSmin w f at_ => some (planAmoSmin w f at_)
  | .amoSmax w f at_ => some (planAmoSmax w f at_)
  | .amoNmin w f at_ => some (planAmoNmin w f at_)
  | .amoNmax w f at_ => some (planAmoNmax w f at_)
  | .amoSwap w d a b at_ => some (planAmoSwap w d a b at_)
  | .famoFadd t f at_ => some (planFamoFadd t f at_)
  | .famoFmin t f at_ => some (planFamoFmin t f at_)
  | .famoFmax t f at_ => some (planFamoFmax t f at_)
  | .cas f at_ => some (planCas f at_)
  | .cflush d a b => some (planCflush d a b)
  | .cwb d a b => some (planCwb d a b)
  | .cinv d a b => some (planCinv d a b)
  | .tcinv d a b => some (planTcinv d a b)
  | .spalloc d a b => some (planSpalloc d a b)
  | .spfree d a b => some (planSpfree d a b)
  | .tdecl d a b => some (planTdecl d a b)
  | .tundecl d a b => some (planTundecl d a b)
  | .tfwd d a b => some (planTfwd d a b)
  | .csrr d num => some (planCsrr d num)
  | .csrw num d => some (planCsrw num d)
  | .csrs num d => some (planCsrs num d)
  | .csrc num d => some (planCsrc num d)
  | .trap n => some (planTrap n)
  | .eret a => some (planEret a)
  | .nopC => some (planNopC)
  | .add d a b => some (planAdd d a b)
  | .sub d a b => some (planSub d a b)
  | .mul d a b => some (planMul d a b)
  | .mulhS d a b => some (planMulhS d a b)
  | .mulhN d a b => some (planMulhN d a b)
  | .divS d a b => some (planDivS d a b)
  | .divN d a b => some (planDivN d a b)
  | .remS d a b => some (planRemS d a b)
  | .remN d a b => some (planRemN d a b)
  | .and d a b => some (planAnd d a b)
  | .or d a b => some (planOr d a b)
  | .xor d a b => some (planXor d a b)
  | .andn d a b => some (planAndn d a b)
  | .shl d a b => some (planShl d a b)
  | .shr d a b => some (planShr d a b)
  | .sar d a b => some (planSar d a b)
  | .rot d a b => some (planRot d a b)
  | .minS d a b => some (planMinS d a b)
  | .maxS d a b => some (planMaxS d a b)
  | .minN d a b => some (planMinN d a b)
  | .maxN d a b => some (planMaxN d a b)
  | .clz d a => some (planClz d a)
  | .popc d a => some (planPopc d a)
  | .sel d a b => some (planSel d a b)
  | .mov d a => some (planMov d a)
  | .lea d a b => some (planLea d a b)
  | .sext d a b => some (planSext d a b)
  | .zext d a b => some (planZext d a b)
  | .add32 d a b => some (planAdd32 d a b)
  | .sub32 d a b => some (planSub32 d a b)
  | .mul32 d a b => some (planMul32 d a b)
  | .addi d a imm => some (planAddi d a imm)
  | .andi d a imm => some (planAndi d a imm)
  | .ori d a imm => some (planOri d a imm)
  | .xori d a imm => some (planXori d a imm)
  | .shli d a imm => some (planShli d a imm)
  | .shri d a imm => some (planShri d a imm)
  | .sari d a imm => some (planSari d a imm)
  | .setEq d a b => some (planSetEq d a b)
  | .setNe d a b => some (planSetNe d a b)
  | .setLt d a b => some (planSetLt d a b)
  | .setGe d a b => some (planSetGe d a b)
  | .setLtn d a b => some (planSetLtn d a b)
  | .setGen d a b => some (planSetGen d a b)
  | .pand d a b => some (planPand d a b)
  | .por d a b => some (planPor d a b)
  | .pxor d a b => some (planPxor d a b)
  | .pnot d a => some (planPnot d a)
  | .pset d a mode => some (planPset d a mode)
  | .pget d a mode => some (planPget d a mode)
  | .vadd d a b => some (planVadd d a b)
  | .vsub d a b => some (planVsub d a b)
  | .vmul d a b => some (planVmul d a b)
  | .vmulh d a b => some (planVmulh d a b)
  | .vand d a b => some (planVand d a b)
  | .vor d a b => some (planVor d a b)
  | .vxor d a b => some (planVxor d a b)
  | .vshl d a b => some (planVshl d a b)
  | .vshr d a b => some (planVshr d a b)
  | .vsar d a b => some (planVsar d a b)
  | .vmin d a b => some (planVmin d a b)
  | .vmax d a b => some (planVmax d a b)
  | .vabs d a => some (planVabs d a)
  | .vmad d a b => some (planVmad d a b)
  | .vpopc d a => some (planVpopc d a)
  | .vdot d a b => some (planVdot d a b)
  | .vcmpEq d a b => some (planVcmpEq d a b)
  | .vcmpNe d a b => some (planVcmpNe d a b)
  | .vcmpLt d a b => some (planVcmpLt d a b)
  | .vcmpGe d a b => some (planVcmpGe d a b)
  | .vsel d a b => some (planVsel d a b)
  | .fadd d a b => some (planFadd d a b)
  | .fsub d a b => some (planFsub d a b)
  | .fmul d a b => some (planFmul d a b)
  | .fma d a b => some (planFma d a b)
  | .fms d a b => some (planFms d a b)
  | .fnma d a b => some (planFnma d a b)
  | .fnms d a b => some (planFnms d a b)
  | .fmin d a b => some (planFmin d a b)
  | .fmax d a b => some (planFmax d a b)
  | .fabs d a => some (planFabs d a)
  | .fneg d a => some (planFneg d a)
  | .fdiv d a b => some (planFdiv d a b)
  | .fsqrt d a => some (planFsqrt d a)
  | .frcp d a => some (planFrcp d a)
  | .frsq d a => some (planFrsq d a)
  | .fexp2 d a => some (planFexp2 d a)
  | .flog2 d a => some (planFlog2 d a)
  | .fclass d a => some (planFclass d a)
  | .fcmpEq d a b => some (planFcmpEq d a b)
  | .fcmpLt d a b => some (planFcmpLt d a b)
  | .fcmpLe d a b => some (planFcmpLe d a b)
  | .fcmpUn d a b => some (planFcmpUn d a b)
  | .cvt d a b => some (planCvt d a b)
  | .cvtq d a b => some (planCvtq d a b)
  | .cvtdq d a b => some (planCvtdq d a b)
  | .vbcast d a b => some (planVbcast d a b)
  | .vshuf d a b => some (planVshuf d a b)
  | .vslideUp d a b => some (planVslideUp d a b)
  | .vslideDn d a b => some (planVslideDn d a b)
  | .vext d a b => some (planVext d a b)
  | .vins d a b => some (planVins d a b)
  | .vcmpr d a => some (planVcmpr d a)
  | .vlane d a b => some (planVlane d a b)
  | .vredAdd d a => some (planVredAdd d a)
  | .vredMin d a => some (planVredMin d a)
  | .vredMax d a => some (planVredMax d a)
  | .vredAnd d a => some (planVredAnd d a)
  | .vredOr d a => some (planVredOr d a)
  | .fredAdd d a => some (planFredAdd d a)
  | .fredMin d a => some (planFredMin d a)
  | .fredMax d a => some (planFredMax d a)
  | .vtag d a b => some (planVtag d a b)
  | .vtagq d a => some (planVtagq d a)
  | .mzero t s32 => some (planMzero t s32)
  | .mlda n a => some (planMlda n a)
  | .mldb a => some (planMldb a)
  | .mring code => some (planMring code)
  | .mma t a p => some (planMma t a p)
  | .mband n a => some (planMband n a)
  | .mst t a l => some (planMst t a l)
  | .mldt t a l => some (planMldt t a l)
  | .mfence => some (planMfence)
  | .mchk d => some (planMchk d)
  | .nopA => some (planNopA)
  | _ => none

/-! ## Gap, W and the slots of a pair -/

/-- The issue of the pair at pc of slot k of core c. -/
def Issue.of (c k : Nat) (pc : Word) : Issue := { Issue.none with core := c, slot := k, pc := pc, npc := pc + 8 }

def pairGap : Pair → Nat
  | .normal g _ _ _ _ => g.val | .lone g _ _ _ => g.val
def pairSw : Pair → Bool
  | .normal _ w _ _ _ => w | .lone _ w _ _ => w
/-- C-slot, or the lone instruction. -/
def pairC : Pair → Instr
  | .normal _ _ c _ _ => c | .lone _ _ i _ => i
def pairIs : Pair → List Instr
  | .normal _ _ c a _ => [c, a] | .lone _ _ i _ => [i]

/-- The issue as the C-slot sees it. -/
def Issue.forC (x : Issue) (p : Pair) : Issue :=
  match p with
  | .normal _ _ _ _ _ => { x with lone := false, lit := 0, pe := false, aslot := false, skip := [] }
  | .lone _ _ _ lit => { x with lone := true, lit := lit, pe := false, aslot := false, skip := [] }

/-- The issue as the A-slot sees it: its predicate, and the C-slot's pops before its own (R30). -/
def Issue.forA (x : Issue) (c : Instr) (pe : Option (Fin 8 × Bool)) : Issue :=
  { x with lone := false, lit := 0, aslot := true, skip := popsOf c, pe := pe.isSome,
           pr := (pe.map Prod.fst).getD 0, pn := (pe.map Prod.snd).getD false }

/-- The plans of a pair's slots with the state as each sees it. -/
def pairPlans (s : State) (p : Pair) : List (Plan × State × Bool) :=
  let cs : State := { s with issue := s.issue.forC p }
  let c := (planOf (pairC p)).toList.map fun q => (q, cs, false)
  match p with
  | .normal _ _ ci a pe =>
    c ++ (planOf a).toList.map fun q => (q, { s with issue := s.issue.forA ci pe }, true)
  | .lone _ _ _ _ => c

end Sys2Proof.Machine
end

