-- ==== Sys2Proof/Machine/Translate.lean ====
section
/-!
DEFINITION. The translator (R426-R431, R516): where Nalfen registers stand, what crosses a suspension point (R86, R428),
how an operation is lowered (R105, R188, R211, R238, R269, R379), and the build of a region. One lowered operation is one
native pair, which the operands of its Nalfen form reach in the registers of their own or in temporaries that are filled
when the pair issues; what of this is the model's choice is log 84.
-/
namespace Sys2Proof.Machine

/-! ## Native places -/

/-- The registers of a kind that bodies may take in the native files; the rest are the translator's temporaries. -/
def fileTake : Nat → Nat
  | 0 => 24 | 1 => 28 | 2 => 4 | _ => 16

/-- The native number of the n-th register of a kind that a body declares; the n-th tile is Tn (R270). -/
def regNumber (kind n : Nat) : Nat := if n < fileTake kind then n else hiddenReg * 2 ^ kind + n

/-- The place of register k of a type table. -/
def place (ts : List Byte) (k : Nat) : Option NReg :=
  match ts[k]? with
  | none => none
  | some b =>
    let kind := b.toNat / 32
    some ⟨kind, regNumber kind ((ts.take k).filter fun x => x.toNat / 32 == kind).length, b.toNat % 32⟩

def locOf (ts : List Byte) (k : Nat) : Nat := ((place ts k).map NReg.loc).getD 0

/-- The scalar that holds the linkage entry which operand j names. -/
def linkReg (j : Nat) : Nat := hiddenReg * 8 + j

/-- The temporary of field f (0 D, 1 A, 2 B): a scalar or vector register, a predicate register. -/
def temp (f : Nat) : Nat := 31 - f
def ptemp (f : Nat) : Nat := 6 - f

/-- Zero of each register's type (R62, R78). -/
def zeroRegs (ts : List Byte) : Regs :=
  { s := [], p := [], la := VReg.zero, lc := VReg.zero,
    v := (List.range ts.length).foldl (fun m k => match place ts k with
      | some ⟨1, n, t⟩ => sset VReg.zero m n ⟨0, BitVec.ofNat 5 t⟩
      | _ => m) [] }

/-! ## Frame layout (R428) -/

def inOrder (l : List Nat) : List Nat := sortBy (fun a b => decide (a ≤ b)) l.eraseDups

/-- The registers of a list that are of a kind, in ascending type-table index. -/
def ofKind (ts : List Byte) (kind : Nat) (rs : List Nat) : List Nat := rs.filter fun k => kindOf ts k == some kind

/-- KIND of Table Traps-3. -/
def mapKind : Nat → Nat
  | 3 => 6 | k => k + 1

/-- Registers with their frame slots: vectors, then predicates, then scalars. -/
def layoutOf (ts : List Byte) (rs : List Nat) : List CarryLoc :=
  let rs := inOrder rs
  let v := ofKind ts 1 rs
  let p := ofKind ts 2 rs
  let slot (kind base size : Nat) (l : List Nat) : List CarryLoc :=
    l.zipIdx.map fun (k, i) => ⟨k, mapKind kind, locOf ts k, base + size * i⟩
  slot 1 0 256 v ++ slot 2 (256 * v.length) 16 p ++ slot 0 (256 * v.length + 16 * p.length) 8 (ofKind ts 0 rs)

/-- Live registers as a recovery map lists them: those in native registers, those that are put into frame slots, and the
body's tiles (R270, R275). -/
def liveLocs (ts : List Byte) (rs : List Nat) : List CarryLoc :=
  let rs := inOrder rs
  let (out, file) := (rs.filter fun k => kindOf ts k != some 3).partition fun k => decide (hiddenReg ≤ locOf ts k)
  (layoutOf ts file).map (fun c => { c with off := 0 }) ++ layoutOf ts out
  ++ (ofKind ts 3 (List.range ts.length)).map fun k => ⟨k, 6, locOf ts k, 0⟩

/-- An entry of a recovery map (Table Traps-3). -/
def mapEntry (c : CarryLoc) : Word :=
  let out := decide (hiddenReg ≤ c.loc)
  BitVec.ofNat 64 (c.vreg * 2 ^ 44 + (if out then 4 else c.kind) * 2 ^ 40 + (if out then c.off else c.loc))

/-! ## What an operation reads and writes -/

def Pos.isDest : Pos → Bool
  | .d | .dn | .vd | .vdpair | .pd | .anyD => true
  | _ => false

/-- Registers that an operand names. -/
def regsAt : Pos × Opd → List Nat
  | (.vpair, .reg k) | (.vdpair, .reg k) => [k, k + 1]
  | (_, .reg k) => [k]
  | _ => []

/-- PREG and PN of a predicated operation (R89). -/
def NOp.pred (o : NOp) : Option (Nat × Bool) :=
  match o.attrW with
  | some w => if w / 2 ^ 31 = 1 then some (w / 1024 % 2 ^ 20, w / 2 ^ 30 % 2 = 1) else none
  | none => none

/-- The first operands of `cas` and of `loop` are read and written. -/
def NOp.readsDest (o : NOp) : Nat := if o.id = 0x0CA then 2 else if o.id = 0x0C8 || o.id = 0x0C9 || o.id = 0x00C then 1 else 0

/-- A predicate that selects leaves no element of the destination as it was (R193). -/
def selects (id : Nat) : Bool :=
  id == 0x117 || id == 0x154 || id == 0x1C5 || id == 0x1C6 || (0x1C8 ≤ id && id ≤ 0x1D2)

def NOp.defs (o : NOp) : List Nat := ((o.poss.zip o.opds).filter fun x => x.1.isDest).flatMap regsAt
/-- The write leaves nothing of what was there. -/
def NOp.kills (o : NOp) : Bool := o.pred.isNone || selects o.id
def NOp.uses (o : NOp) : List Nat :=
  ((o.poss.zip o.opds).filter fun x => !x.1.isDest).flatMap regsAt
  ++ (o.defs.take o.readsDest) ++ (if o.kills then [] else o.defs) ++ (o.pred.map Prod.fst).toList

/-- The ports that an operation reads, in source order. -/
def NOp.popped (o : NOp) : List Nat := (o.poss.zip o.opds).filterMap fun x => match x with
  | (.qport, _) | (.chan, _) => none
  | (q, .port p) => if q.isDest then none else some p
  | _ => none

/-- Transfers of control. -/
def isControl (id : Nat) : Bool := id ≤ 0x00C

/-- R118: the operation is a blocking operation. A transfer of control is none, whatever it reads (log 87), nor is a matrix
operation, whose waits are stalls (R241). -/
def NOp.blocking (o : NOp) : Bool :=
  let i := o.id
  !isControl i && i != 0x012 && !(0x1E0 ≤ i && i ≤ 0x1E9) &&
  ((0x040 ≤ i && i ≤ 0x052) || i == 0x060 || i == 0x061 || i == 0x064 || i == 0x065 || (0x068 ≤ i && i ≤ 0x06B)
  || (0x080 ≤ i && i ≤ 0x091) || (0x0A8 ≤ i && i ≤ 0x0B6) || (0x0C8 ≤ i && i ≤ 0x0CA)
  || i == 0x010 || i == 0x011 || (0x0D0 ≤ i && i ≤ 0x0D8) || i == 0x02B || i == 0x018 || i == 0x019 || i == 0x022
  || i == 0x016 || i == 0x025
  || i == 0x027 || i == 0x023 || i == 0x020 || i == 0x017 || i == 0x015 || i == 0x026 || i == 0x013 || i == 0x014
  || !o.popped.isEmpty)

/-- An operation after which its region ends (R426). -/
def NOp.endsRegion (o : NOp) : Bool := o.blocking || (0x008 ≤ o.id && o.id ≤ 0x00B) || o.id == 0x012

/-! ## The operations of a body as they stand -/

/-- The carry entries of a body: offset and registers; none where the table runs outside TASKS. -/
def parseCarry : Nat → Nat → List Byte → Option (List (Nat × List Nat))
  | 0, _, _ => some []
  | k + 1, a, l =>
    let c := le l (a + 4) 4
    if l.length < a + 8 + 4 * c then none
    else (parseCarry k (a + 8 + 4 * c) l).map fun r =>
      (le l a 4, (List.range c).map fun j => le l (a + 8 + 4 * j) 4) :: r

/-- An operation, the offset after it, and whether its bytes do not parse. -/
structure Scan where
  op : NOp
  next : Nat
  bad : Bool
  deriving DecidableEq, Repr

/-- The operations from the start of the bytes, the one that does not parse as the last; its id is 0x1FF when it is cut
short (R430). -/
def scanOps : Nat → Nat → List Byte → List Scan
  | 0, _, _ => []
  | n + 1, at_, l =>
    if l.isEmpty then [] else
    match parseOp at_ l with
    | none => [⟨⟨at_, if l.length < 2 then 0x1FF else le l 0 2 % 512, [], [], none, []⟩, at_ + min 2 l.length, true⟩]
    | some (o, r) => let e := at_ + (l.length - r.length); ⟨o, e, false⟩ :: scanOps n e r

/-- The `.endt` of a body: a `ret` without values (R79). It stands where the body's bytes end (log 88). -/
def endOp (len : Nat) : Scan := ⟨⟨len, 0x00B, [], [], none, []⟩, len, false⟩

/-- The operations that may come next. -/
def Scan.succ (all : List Scan) (x : Scan) : List Nat :=
  let tgt := match x.op.target with | some (.ofNat t) => [t] | _ => []
  if x.bad || x.op.id = 0x00B || x.op.id = 0x012 then []
  else if x.op.id = 0x000 then tgt
  else if x.op.id = 0x00A then all.map fun y => y.op.at_
  else x.next :: tgt

/-- Registers of set bases and of a step's transfers, as coded in their tables. -/
def baseRegs (l : List Nat) : List Nat := l.filter fun b => decide (b < 2 ^ 31)

/-- One pass of the live-register equations from the last operation to the first. -/
def liveSweep (all : List Scan) (also : Nat → List Nat) (l : List (Nat × List Nat)) : List (Nat × List Nat) :=
  all.foldr (fun x l =>
    let out := (x.succ all).flatMap (sget [] l)
    let out := if x.op.kills then out.filter fun r => !x.op.defs.contains r else out
    sput l x.op.at_ (inOrder (x.op.uses ++ also x.op.at_ ++ out))) l

/-- The registers live before each operation. -/
def liveIn (all : List Scan) (also : Nat → List Nat) : Nat → List (Nat × List Nat) → List (Nat × List Nat)
  | 0, l => l
  | n + 1, l => let l' := liveSweep all also l; if l' == l then l else liveIn all also n l'

/-! ## A body with what its lowering needs -/

/-- A body as its translation sees it. -/
structure Unit_ where
  ts : List Byte
  /-- symbols with the value that stands for each. -/
  syms : List SymVal
  /-- CODEOFF. -/
  off : Nat
  all : List Scan
  live : List (Nat × List Nat)
  /-- carry entries: offset and registers. -/
  carry : List (Nat × List Nat)
  /-- the carry table is malformed: what a blocking operation carries cannot be read (R430). -/
  carryBad : Bool
  reads : List (Nat × Nat)
  writes : List (Nat × Nat)
  steps : List StepEntry
  deriving DecidableEq, Repr

def Unit_.bases (u : Unit_) : List Nat := baseRegs ((u.reads ++ u.writes).map Prod.fst)
def Unit_.liveAt (u : Unit_) (at_ : Nat) : List Nat := sget [] u.live at_
def Unit_.liveOut (u : Unit_) (x : Scan) : List Nat := inOrder ((x.succ u.all).flatMap u.liveAt)

/-- The carry set of a blocking operation (R86, R428): named or derived, with its destination and the set bases (R81). -/
def Unit_.carrySet (u : Unit_) (x : Scan) : List CarryLoc :=
  let named := match u.carry.find? fun c => c.1 == x.op.at_ with
    | some c => c.2
    | none => u.liveOut x
  layoutOf u.ts (named ++ x.op.defs ++ u.bases)

/-- A base of the tables as a value. -/
def Unit_.base (u : Unit_) (b : Nat) : TVal := if 2 ^ 31 ≤ b then .args else .reg (locOf u.ts b)

/-! ## Operands -/

/-- An exact floating literal in the encoding of a type (R48); as it stands for a type that is not floating. -/
def floatCode (f64 : Bool) (b t : Nat) : Nat :=
  if t % 16 < 9 then b else
  match (if f64 then F64 else F32).val false b with
  | .nan _ => (fmtOf t).qnan
  | .inf n => (fmtOf t).inf n
  | .fin n m x => ((fmtOf t).round 0 false n m x false).1

/-- The type in which an operation's literals and broadcast immediates stand: that of the first of A, B, D which is a
vector or else a floating register; without one, n32 or the size of a gathered element. -/
def NOp.tag (ts : List Byte) (o : NOp) : Nat :=
  let rs := (o.opds.drop 1 ++ o.opds.take 1).filterMap fun x => match x with | .reg k => place ts k | _ => none
  match (rs.find? fun r => r.kind == 1).orElse fun _ => rs.find? fun r => r.kind == 0 && decide (9 ≤ r.tag) with
  | some r => r.tag
  | none => if o.id = 0x065 || o.id = 0x067 then 8 else 6

/-- The words of a port that the operands before the j-th take. -/
def NOp.portsBefore (o : NOp) (j p : Nat) : Nat := ((NOp.popped { o with opds := o.opds.take j }).filter (· == p)).length

/-- The 64-bit value of operand j. -/
def Unit_.val (u : Unit_) (o : NOp) (j : Nat) (x : Opd) : TVal :=
  match x with
  | .reg k => .reg (locOf u.ts k)
  | .val v => .const (v % 2 ^ 64).toNat
  | .flt f b => .const (floatCode f b (o.tag u.ts))
  | .sym k => match u.syms[k]? with
    | some (4, _) => .reg (linkReg j)
    | some (_, v) => .const v
    | none => .const 0
  | .port p => .port p (o.portsBefore j p)
  | .spec 2 => .args
  | .spec _ => .const 0

/-- The linkage slots that operands name: operand and address. -/
def Unit_.links (u : Unit_) (o : NOp) : List (Nat × Nat) := o.opds.zipIdx.filterMap fun (x, j) => match x with
  | .sym k => (match u.syms[k]? with | some (4, a) => some (j, a) | _ => none)
  | _ => none

/-! ## Fields -/

/-- What an operand in source order is in the native form: a source, destination or immediate in a field, or one that
the translator places: `off` adds to the address in A, `num` spreads over A and B, `lit` goes to LIT (R105), `low` and
`high` are the halves of an even pair (R238, R379), `acc` is D read and written; the `f` forms are scalar floating ones
(R211). -/
inductive Role where
  | s (f : Nat) | d | v (f : Nat) | vd | p (f : Nat) | pd | t | port
  | imm (f : Nat) | one (f : Nat) | num | lit | off
  | low (f : Nat) | high (f : Nat) | accLow | accHigh | acc | vacc | vp | vpd
  | fs (f : Nat) | fd | facc | fpd
  | tag
  deriving DecidableEq, Repr

/-- The roles of an operation's operands, in source order (R46, R105, R188, R238, R269, R284, R379). -/
def roles (op : Nat) : List Role :=
  if op = 0x010 || op = 0x011 then [.d, .s 1, .s 2, .lit]
  else if op = 0x012 || op = 0x014 then [.s 1, .s 2]
  else if op = 0x013 then [.s 1]
  else if op = 0x015 then [.imm 1]
  else if op = 0x016 || op = 0x022 then [.d, .imm 1]
  else if op = 0x017 || op = 0x021 || op = 0x023 || op = 0x024 || op = 0x026 || op = 0x027 then [.imm 1, .s 2]
  else if op = 0x018 then [.d, .s 1, .s 2]
  else if op = 0x019 then [.d]
  else if op = 0x020 then [.imm 1]
  else if op = 0x025 then [.d, .imm 1, .s 2]
  else if op = 0x02A then [.d, .port]
  else if op = 0x02B then [.d, .port, .s 2]
  else if 0x040 ≤ op && op ≤ 0x046 then [.d, .s 1, .off]
  else if 0x048 ≤ op && op ≤ 0x04E then [.d, .s 1, .s 2]
  else if 0x050 ≤ op && op ≤ 0x052 then [.d, .s 1]
  else if 0x054 ≤ op && op ≤ 0x057 then [.s 0, .s 1, .off]
  else if 0x058 ≤ op && op ≤ 0x05B then [.s 0, .s 1, .s 2]
  else if 0x05C ≤ op && op ≤ 0x05F then [.s 0, .s 1]
  else if op = 0x060 then [.vd, .s 1, .tag]
  else if op = 0x061 then [.vd, .low 1, .high 1, .tag]
  else if op = 0x062 then [.v 0, .s 1, .off]
  else if op = 0x063 then [.v 0, .low 1, .high 1]
  else if op = 0x064 || op = 0x065 then [.vd, .s 1, .v 2]
  else if op = 0x066 || op = 0x067 then [.v 0, .s 1, .v 2]
  else if op = 0x068 || op = 0x069 then [.d, .s 1]
  else if op = 0x06A || op = 0x06B then [.vd, .s 1, .tag]
  else if op = 0x06C then [.s 0, .s 1, .off]
  else if op = 0x06D then [.v 0, .s 1, .off]
  else if op = 0x06E || op = 0x06F then [.s 1, .s 2]
  else if 0x098 ≤ op && op ≤ 0x0A7 || 0x0B8 ≤ op && op ≤ 0x0C6 then [.s 1, .s 0]
  else if op = 0x0C8 || op = 0x0C9 then [.acc, .s 1, .s 2]
  else if op = 0x0CA then [.accLow, .accHigh, .s 1, .low 2, .high 2]
  else if 0x080 ≤ op && op ≤ 0x0D8 then [.d, .s 1, .s 2]
  else if op = 0x0E0 then [.d, .num]
  else if 0x0E1 ≤ op && op ≤ 0x0E3 then [.num, .s 0]
  else if op = 0x0E4 then [.num]
  else if op = 0x115 || op = 0x116 || op = 0x118 then [.d, .s 1]
  else if 0x100 ≤ op && op ≤ 0x12D then [.d, .s 1, .s 2]
  else if 0x130 ≤ op && op ≤ 0x132 then [.pd, .p 1, .p 2]
  else if op = 0x133 then [.pd, .p 1]
  else if op = 0x134 then [.pd, .s 1, .imm 2]
  else if op = 0x135 then [.d, .p 1, .imm 2]
  else if op = 0x14D || op = 0x14F || (0x183 ≤ op && op ≤ 0x186) then [.vd, .v 1, .v 2, .vacc]
  else if 0x150 ≤ op && op ≤ 0x153 || 0x198 ≤ op && op ≤ 0x19B then [.pd, .v 1, .v 2]
  else if op = 0x14C || op = 0x14E || op = 0x189 || op = 0x18A || (0x18C ≤ op && op ≤ 0x191) || op = 0x1C6 then [.vd, .v 1]
  else if op = 0x1A0 then [.vd, .v 1, .s 2]
  else if op = 0x1A1 then [.vpd, .v 1, .s 2]
  else if op = 0x1A2 then [.vd, .vp, .s 2]
  else if op = 0x1C4 then [.d, .v 1, .s 2]
  else if op = 0x1C7 then [.vd, .s 1, .s 2]
  else if op = 0x1C0 || op = 0x1C2 || op = 0x1C3 || op = 0x1C5 || op = 0x1D4 then [.vd, .v 1, .s 2]
  else if (0x1C8 ≤ op && op ≤ 0x1D2) || op = 0x1D5 then [.d, .v 1]
  else if 0x140 ≤ op && op ≤ 0x1D5 then [.vd, .v 1, .v 2]
  else if op = 0x1E0 then [.t]
  else if op = 0x1E1 || op = 0x1E5 then [.imm 0, .s 1]
  else if op = 0x1E2 then [.s 1]
  else if op = 0x1E3 then [.imm 1] -- R269: the ring size is its code, 1-4 (log 97)
  else if op = 0x1E4 then [.t, .s 1, .one 2]
  else if op = 0x1E6 || op = 0x1E7 then [.t, .s 1, .imm 2]
  else if op = 0x1E9 then [.d]
  else []

/-- The same in the scalar form of R211. -/
def Role.scalar : Role → Role
  | .v f => .fs f | .vd => .fd | .vacc => .facc | .pd => .fpd | r => r

/-- The native opcode: the immediate forms of the scalar operations take their immediate as a register does. -/
def nativeOp (op : Nat) : Nat :=
  match op with
  | 0x120 => 0x100 | 0x121 => 0x109 | 0x122 => 0x10A | 0x123 => 0x10B | 0x124 => 0x10D | 0x125 => 0x10E | 0x126 => 0x10F
  | op => op

/-- A lowered operation as it is put together. -/
structure Low where
  d : Nat := 0
  a : Nat := 0
  b : Nat := 0
  lit : Option Nat := none
  fills : List Fill := []
  moves : List TMove := []
  base : TVal := .const 0
  deriving DecidableEq, Repr

def Low.put (w : Low) (f c : Nat) : Low :=
  match f with
  | 0 => { w with d := c }
  | 1 => { w with a := c }
  | _ => { w with b := c }

/-- A value in register n before the pair issues. -/
def Low.fill (w : Low) (x : Fill) : Low := { w with fills := w.fills ++ [x] }
def Low.move (w : Low) (x : TMove) : Low := { w with moves := w.moves ++ [x] }

/-- A scalar source in field f. -/
def Low.src (w : Low) (f : Nat) (x : TVal) : Low :=
  let w : Low := if f = 1 then { w with base := x } else w
  match x with
  | .reg n => if n < 32 then w.put f n else (w.put f (temp f)).fill (.s (temp f) x 0)
  | .const 0 => w.put f 42
  | x => (w.put f (temp f)).fill (.s (temp f) x 0)

/-- A scalar destination: its own register, or a temporary whose result moves; `own` is false where it must not be
written at once (R379). -/
def Low.dst (w : Low) (ts : List Byte) (own : Bool) : Opd → Low
  | .reg k => let n := locOf ts k; if n < 32 && own then w.put 0 n else (w.put 0 (temp 0)).move (.s (temp 0) n)
  | .port p => w.put 0 (48 + p)
  | _ => w.put 0 42

/-- A vector operand's value in vector register n. -/
def Unit_.vfill (u : Unit_) (o : NOp) (n j : Nat) (w : Low) (x : Opd) : Low :=
  match x with
  | .reg k => w.fill (.v n (locOf u.ts k))
  | x => w.fill (.splat n (u.val o j x) (o.tag u.ts))

/-- One operand in its role; none where an immediate does not fit its field. -/
def Unit_.role (u : Unit_) (o : NOp) (own : Bool) (w : Low) (r : Role) (j : Nat) (x : Opd) : Option Low :=
  let ts := u.ts
  let v := u.val o j x
  let field (n : Int) (k : Nat → Low) : Option Low := if 0 ≤ n ∧ n < 64 then some (k n.toNat) else none
  match r, x with
  | .s f, _ => some (w.src f v)
  | .d, x => some (w.dst ts own x)
  | .v f, .reg k =>
    let n := locOf ts k
    let c := if n < 32 then n else temp f
    let w := (if n < 32 then w else w.fill (.v c n)).put f c
    some (if o.id = 0x066 || o.id = 0x067 then (if f = 0 then w.fill (.tagged c (tagByte ts k)) else w) else w)
  | .v f, .spec 0 => some (w.put f 42)
  | .v f, .spec _ => some (w.put f 44)
  | .v f, x => some ((u.vfill o (temp f) j w x).put f (temp f))
  | .vd, .reg k =>
    let n := locOf ts k
    let w := if n < 32 then w.put 0 n else (w.put 0 (temp 0)).move (.v (temp 0) n)
    some (if o.id = 0x064 || o.id = 0x065 then w.fill (.tagged w.d (tagByte ts k)) else w)
  | .vd, _ => some (w.put 0 42)
  | .p f, .reg k =>
    let n := locOf ts k
    some (if n < 8 then w.put f n else (w.put f (ptemp f)).fill (.p (ptemp f) (some n)))
  | .p f, _ => some ((w.put f (ptemp f)).fill (.p (ptemp f) none))
  | .pd, .reg k => let n := locOf ts k; some (if n < 8 then w.put 0 n else (w.put 0 (ptemp 0)).move (.p (ptemp 0) n))
  | .pd, _ => some (w.put 0 (ptemp 0))
  | .t, .reg k => some (w.put 0 (locOf ts k % 16))
  | .port, .port p => some (w.put 1 p)
  | .imm f, .val n => field n fun n => w.put f n
  | .one f, .val n => field (n - 1) fun n => w.put f n
  | .tag, .val n => field n fun n => w.put 2 n
  | .num, .val n => if 0 ≤ n ∧ n < 4096 then some { w with a := n.toNat / 64, b := n.toNat % 64 } else none
  | .lit, .val n => if 0 ≤ n ∧ n < 2 ^ 32 then some { w with lit := some n.toNat } else none
  | .off, .val n => some (if n = 0 then w else (w.put 1 (temp 1)).fill (.s (temp 1) w.base n))
  | .low f, _ => some ((w.put f 24).fill (.s 24 v 0))
  | .high _, _ => some (w.fill (.s 25 v 0))
  | .accLow, x => some ((match x with | .reg k => w.move (.s 26 (locOf ts k)) | _ => w).put 0 26 |>.fill (.s 26 v 0))
  | .accHigh, x => some ((match x with | .reg k => w.move (.s 27 (locOf ts k)) | _ => w).fill (.s 27 v 0))
  | .acc, .reg k => some (((w.put 0 (temp 0)).fill (.s (temp 0) v 0)).move (.s (temp 0) (locOf ts k)))
  | .acc, _ => some (w.put 0 42)
  | .vacc, x =>
    if w.d = temp 0 then some (u.vfill o (temp 0) j w x)
    else if o.opds.head? = some x then some w
    else
      let n := w.d
      let w := (u.vfill o (temp 0) j w x).put 0 (temp 0)
      some (if n < 32 then w.move (.v (temp 0) n) else w)
  | .vp, .reg k => some (((w.put 1 28).fill (.v 28 (locOf ts k))).fill (.v 29 (locOf ts (k + 1))))
  | .vpd, .reg k => some (((w.put 0 28).move (.v 28 (locOf ts k))).move (.v 29 (locOf ts (k + 1))))
  | .fs f, .reg k => some ((w.put f (temp f)).fill (.splat (temp f) v (tagByte ts k)))
  | .fs f, .spec 0 => some (w.put f 42)
  | .fs f, _ => some ((w.put f (temp f)).fill (.splat (temp f) v (o.tag ts)))
  | .fd, .reg k => some ((w.put 0 (temp 0)).move (.elem (temp 0) (locOf ts k) (tagByte ts k)))
  | .fd, _ => some (w.put 0 42)
  | .facc, .reg k => some ((w.put 0 (temp 0)).fill (.splat (temp 0) v (tagByte ts k)))
  | .facc, _ => some ((w.put 0 (temp 0)).fill (.splat (temp 0) v (o.tag ts)))
  | .fpd, .reg k => some ((w.put 0 (ptemp 0)).move (.all (ptemp 0) (locOf ts k)))
  | .fpd, _ => some (w.put 0 (ptemp 0))
  | _, _ => none

/-- The fields that no operand gives: 42 of a unary form, a scope, a tile's tag; and the attribute literal (R36, R89). -/
def NOp.fixed (ts : List Byte) (o : NOp) : Low :=
  let atom := match o.attrW with | some w => w % 1024 | none => 15
  let lone : Bool := (0x080 ≤ o.id && o.id ≤ 0x0CA) || o.id == 0x028
  let b :=
    if (0x050 ≤ o.id && o.id ≤ 0x052) || (0x05C ≤ o.id && o.id ≤ 0x05F) then atom % 16
    else if o.id = 0x115 || o.id = 0x116 || o.id = 0x118 || o.id = 0x14C || o.id = 0x14E || o.id = 0x189 || o.id = 0x18A
      || (0x18C ≤ o.id && o.id ≤ 0x191) || o.id = 0x1C6 || (0x1C8 ≤ o.id && o.id ≤ 0x1D2) || o.id = 0x1D5 then 42
    else if o.id = 0x1E0 then match o.opds with
      | [.reg k] => tagByte ts k
      | _ => 0
    else 0
  { b := b, lit := if lone then some atom else none }

/-- The operands of an operation in their fields. -/
def Unit_.low (u : Unit_) (o : NOp) (own : Bool) : Option Low :=
  let rs := if o.scalarForm u.ts u.syms then (roles o.id).map Role.scalar else roles o.id
  if rs.length ≠ o.opds.length then none else
  (rs.zip o.opds).zipIdx.foldl (fun acc x => acc.bind fun w => u.role o own w x.1.1 x.2 x.1.2) (some (o.fixed u.ts))

/-- The words of a `nop` alone. -/
def nopWords : Half × Half := (mkWord 16 0x0E6 0 0 0, 0)

/-- The two words of one instruction: a lone pair where it has a literal, else in its slot beside a `nop`. -/
def loweredWords (op : Nat) (w : Low) (pr : Option (Fin 8 × Bool)) : Half × Half :=
  match w.lit with
  | some l => (mkWord 16 op w.d w.a w.b, BitVec.ofNat 32 l)
  | none =>
    if op < 256 then (mkWord 0 op w.d w.a w.b, mkWord 0 0x1FF 0 0 0)
    else (mkWord 0 0x0E6 0 0 0, mkWord (predTop pr) op w.d w.a w.b)

/-- The lowered form of an operation that is no transfer of control: words, fills and moves. -/
def Unit_.lowered (u : Unit_) (o : NOp) (own : Bool) : Option ((Half × Half) × List Fill × List TMove) :=
  (u.low o own).map fun w =>
    match o.pred with
    | none => (loweredWords (nativeOp o.id) w none, w.fills, w.moves)
    | some (k, n) =>
      let p := locOf u.ts k
      let (q, fs) := if o.scalarForm u.ts u.syms then (7, w.fills ++ [.first 7 p n])
        else if p < 8 then (p, w.fills) else (7, w.fills ++ [.p 7 (some p)])
      (loweredWords (nativeOp o.id) w (some (⟨q % 8, by omega⟩, n)), fs, w.moves)

/-! ## Fills and moves -/

/-- A register is marked poisoned, or not. -/
def Slot.mark (sl : Slot) (code : Nat) (poisoned : Bool) : Slot :=
  { sl with poisoned := sl.poisoned.filter (· ≠ code) ++ (if poisoned then [code] else []) }

/-- The value of a translation's operand in a slot of core c. -/
def State.tval (s : State) (c : Nat) (sl : Slot) : TVal → Nat
  | .port p k => (((s.core c).portWords p).getD k 0).toNat
  | v => sl.baseVal v

/-- The scalar that a value is read from is poisoned. -/
def Slot.spoiled (sl : Slot) : TVal → Bool
  | .reg n => sl.poisoned.contains n
  | _ => false

/-- One operand is put in its place. A poisoned one stays so (R277). -/
def State.fill (s : State) (c : Nat) (sl : Slot) : Fill → Slot
  | .s d v add =>
    let x := BitVec.ofNat 64 (s.tval c sl v) + BitVec.ofInt 64 add
    { sl with regs := { sl.regs with s := sset 0 sl.regs.s d x } }.mark d (sl.spoiled v)
  | .v d n => { sl with regs := { sl.regs with v := sset VReg.zero sl.regs.v d (sl.regs.vr n) } }.mark (100 + d)
      (sl.poisoned.contains (100 + n))
  | .tagged d t => { sl with regs := { sl.regs with
      v := sset VReg.zero sl.regs.v d ⟨(sl.regs.vr d).val, BitVec.ofNat 5 t⟩ } }
  | .splat d v t =>
    let tag : Tag := BitVec.ofNat 5 t
    let x := s.tval c sl v
    { sl with regs := { sl.regs with v := sset VReg.zero sl.regs.v d ⟨ofElems (tagWidth tag) fun _ => x, tag⟩ } }.mark
      (100 + d) (sl.spoiled v)
  | .p d n => { sl with regs := { sl.regs with
      p := sset 0 sl.regs.p d (match n with | some n => sl.regs.pr n | none => 0) } }.mark (200 + d)
      (match n with | some n => sl.poisoned.contains (200 + n) | none => false)
  | .first d n neg =>
    let x : Pred := if neg then sl.regs.pr n ||| ~~~1 else sl.regs.pr n &&& 1
    { sl with regs := { sl.regs with p := sset 0 sl.regs.p d x } }.mark (200 + d) (sl.poisoned.contains (200 + n))

/-- Every fill in turn. -/
def State.fillAll (s : State) (c : Nat) (sl : Slot) (fs : List Fill) : Slot := fs.foldl (fun sl f => s.fill c sl f) sl

/-! ## What the tag checks say of the types (R92, Table Vector-2) -/

/-- A slot with registers at zero of their types. -/
def Slot.typed (ts : List Byte) : Slot :=
  let native : Bool := true
  { ctx := 0, idx := 0, recVa := 0, recPa := 0, gen := 0, prio := 0, gang := 0, matrix := false, launch := none,
    image := none, native, virt := none, pc := 0, lastPc := 0, args := 0, frame := 0, dom := 0,
    regs := zeroRegs ts,
    csrs := { flags := 0, ftrap := 0, fctl := 0, chk := 0, lead := 0, quant := 0, time := 0, xflast := 0, domm := [] },
    pickup := 0, pending := [], csrPend := [], nextId := 0, seq := 0, issuedAt := 0, gapUntil := 0, readySince := 0,
    hold := none, quantum := [], qcount := 0, asm := [], poisoned := [], failedNr := false, failedNor := false, noEvict := false, phase0 := 0,
    touched := 0, slotNo := 0, gangInfo := none }

/-- The operand that decides a conversion or a tag is a value known before the program runs. -/
def NOp.controlKnown (o : NOp) : Bool :=
  !(o.id = 0x1A0 || o.id = 0x1A1 || o.id = 0x1A2 || o.id = 0x1D4) ||
  match o.opds.getLast? with
  | some (.val _) => true
  | _ => false

/-- Every vector result of a slot is of the type of the register that it goes to; element 0 of one, of the scalar's. -/
def resultsTyped (ts : List Byte) (ms : List TMove) (l : List Pending) : Bool :=
  l.all fun p => match p.dst with
    | .v n => match ms.find? fun m => p.moved m ≠ p with
      | some (.elem _ _ t) => p.tag.toNat == t
      | m =>
        let n := match m with | some (.v _ b) => b | _ => n
        (List.range ts.length).all fun k => match place ts k with
          | some ⟨1, j, t⟩ => j != n || p.tag.toNat == t
          | _ => true
    | _ => true

/-- The words decode; where they are of a vector instruction or of an indexed access, its native check of tags passes with
registers of the declared types; and for a vector instruction whose control is known, its check of operands passes, and its
results are of the types of their destinations. -/
def Unit_.tagsFit (u : Unit_) (o : NOp) : Bool :=
  match u.lowered o true with
  | none => false
  | some (w, fs, ms) =>
    match decodePair w.1 w.2 with
    | .error _ => false
    | .ok p =>
      let indexed : Bool := 0x064 ≤ o.id && o.id ≤ 0x067
      if !(0x140 ≤ o.id && o.id ≤ 0x1D5) && !indexed then true else
      let s := (State.reset.putSlot 0 0 (some (State.reset.fillAll 0 (Slot.typed u.ts) fs)))
      let s : State := { s with issue := { (Issue.of 0 0 0) with checked := true } }
      (pairPlans s p).all fun (q, t, a) => (!a && !indexed) ||
        ((q.tag t).isNone && (indexed || !o.controlKnown || ((q.bad t).isNone && (match ((q.act t).slot 0 0) with
          | some sl => resultsTyped u.ts ms sl.pending
          | none => true))))

/-- The whole of R92 for one operation. -/
def Unit_.opFits (u : Unit_) (bodies : List BodyTypes) (x : Scan) : Bool :=
  let ops := (u.all.filter fun y => !y.bad && decide (y.op.at_ < y.next)).map Scan.op
  !x.bad && opOk u.ts u.syms bodies ops x.op && (isControl x.op.id || u.tagsFit x.op)

/-! ## Transfers of control -/

def Unit_.arg (u : Unit_) (o : NOp) (j : Nat) (x : Opd) : TArg :=
  match x with
  | .reg k => match kindOf u.ts k with
    | some 1 => .v (locOf u.ts k)
    | some 2 => .p (locOf u.ts k)
    | _ => .s (.reg (locOf u.ts k))
  | .flt f b => .flt f b
  | .spec 0 => .z
  | .spec 1 => .lane
  | x => .s (u.val o j x)

/-- What a transfer of control does (Table Scalar-6). -/
def Unit_.control (u : Unit_) (o : NOp) : TAct :=
  let tgt := u.off + (match o.target with | some (.ofNat t) => t | _ => 0)
  let v (j : Nat) : TVal := match o.opds[j]? with | some x => u.val o j x | none => .const 0
  let p : Option Nat := match o.opds.head? with | some (.reg k) => some (locOf u.ts k) | _ => none
  let args (i n : Nat) : List TArg := ((o.opds.drop i).take n).zipIdx.map fun (x, j) => u.arg o (i + j) x
  let dests : List (Option NReg) := (o.opds.drop (1 + o.args.length)).map fun x => match x with
    | .reg k => place u.ts k
    | _ => none
  match o.id with
  | 0x000 => .br .always tgt
  | 0x001 => .br (.pAny p) tgt
  | 0x002 => .br (.pAll p) tgt
  | 0x003 => .br (.pNone p) tgt
  | 0x004 => .br (.sZ (v 0)) tgt
  | 0x005 => .br (.sNz (v 0)) tgt
  | 0x006 => .br (.sLt (v 0)) tgt
  | 0x007 => .br (.sGe (v 0)) tgt
  | 0x00C => .br (.loop p) tgt
  | 0x008 | 0x009 => .call (v 0) (args 1 o.args.length) dests
  | 0x00A => .jmpr (v 0)
  | _ => .ret (args 0 o.opds.length)

/-! ## The pairs of an operation -/

/-- The literal asks for a speculative operation (Table Instruction-8). -/
def speculativeLit (l : Nat) : Bool := l / 128 % 8 == 4

/-- The pairs that an operation is lowered to. -/
def Unit_.pairs (u : Unit_) (bodies : List BodyTypes) (x : Scan) : List TPair :=
  let o := x.op
  let blk := o.blocking
  let out := u.liveOut x
  let base : TPair :=
    { w0 := nopWords.1, w1 := nopWords.2, op := u.off + o.at_, id := o.id, nextOp := u.off + x.next, act := .op,
      fills := [], moves := [], pops := [], final := false, blocking := blk, exempt := false, noFtz := false,
      live := liveLocs u.ts (u.liveAt o.at_), liveAfter := liveLocs u.ts out, rmap := 0, rmapAfter := 0,
      carry := if blk then u.carrySet x else [] }
  let step : List TPair := match (u.steps.drop 1).find? fun e => e.at_ == o.at_ with
    | none => []
    | some e => [{ base with act := .boundary (if e.comm then
        some (e.xfers.map fun (d, s, n, c) => ⟨u.base d, u.base s, n, c⟩) else none) }]
  if !u.opFits bodies x || (u.carryBad && blk) then step ++ [{ base with final := true, act := .fault false }]
  else if Config.unlowered.contains o.id then step ++ [{ base with final := true, act := .fault true }]
  else
    let links : List TPair := (u.links o).map fun (j, a) =>
      let w := loweredWords 0x052 { d := temp 0, a := temp 1, b := 15 } none
      { base with w0 := w.1, w1 := w.2, fills := [.s (temp 1) (.const a) 0], moves := [.s (temp 0) (linkReg j)],
                  exempt := o.id == 0x008 }
    let pops := o.popped
    let last : List TPair :=
      if isControl o.id then [{ base with act := u.control o, pops := pops, final := true }]
      else
        let ftz := o.scalarForm u.ts u.syms
        let pair (own : Bool) (o : NOp) : TPair := match u.lowered o own with
          | some (w, fs, ms) => { base with w0 := w.1, w1 := w.2, fills := fs, moves := ms, pops := pops, final := true,
                                            noFtz := ftz }
          | none => { base with final := true, act := .fault false }
        match o.attrW with
        | some a =>
          if (0x080 ≤ o.id && o.id ≤ 0x0CA) && speculativeLit a then
            let again := pair true { o with attrW := some (a - a / 128 % 8 * 128) }
            if !pops.isEmpty then [again] else
            let first := pair false o
            [{ first with moves := [], final := false },
             { again with act := .retry (first.moves.filterMap fun m => match m with | .s i j => some (i, j) | _ => none) }]
          else [pair true o]
        | none => [pair true o]
    step ++ links ++ last

/-! ## A region (R426) -/

/-- The operations from one on, up to a branch target or to where control does not pass to the next. -/
def runFrom (all : List Scan) (lead : Nat → Bool) : Nat → Nat → List Scan
  | 0, _ => []
  | n + 1, o => match all.find? fun x => x.op.at_ == o with
    | none => []
    | some x => x :: (if x.op.endsRegion || lead x.next || !(x.succ all).contains x.next then [] else runFrom all lead n x.next)

/-- The operations of the region of an entry: at most 4,096. It is put together of runs between branch targets, so that
where more operations are reached it is cut at branch targets, which are then entries of regions of their own; a run of
more than 4,096 is cut where the limit falls (log 84). -/
def regionFrom (all : List Scan) (lead : Nat → Bool) : Nat → List Nat → List Nat → List Nat
  | 0, _, done => done
  | _, [], done => done
  | n + 1, o :: todo, done =>
    if done.contains o then regionFrom all lead n todo done else
    let run := runFrom all lead 4096 o
    if !done.isEmpty && 4096 < done.length + run.length then regionFrom all lead n todo done
    else regionFrom all lead n ((run.flatMap fun x => if x.op.endsRegion then [] else x.succ all).filter lead ++ todo)
      (run.map (fun x => x.op.at_) ++ done)

/-- The branch targets of a body. -/
def targetsOf (all : List Scan) : List Nat := all.filterMap fun x => match x.op.target with
  | some (.ofNat t) => some t
  | _ => none

/-- The pairs of a region in the order of its operations, and the operations they were built from. -/
def Unit_.region (u : Unit_) (bodies : List BodyTypes) (entry : Nat) : List TPair × List (Nat × Nat) :=
  let lead (o : Nat) : Bool := o == entry || (targetsOf u.all).contains o
  let os := regionFrom u.all lead (4 * u.all.length + 4) [entry] []
  let xs := u.all.filter fun x => os.contains x.op.at_
  (xs.flatMap (u.pairs bodies), (xs.filter fun x => decide (x.op.at_ < x.next)).map fun x => (u.off + x.op.at_, x.next - x.op.at_))

end Sys2Proof.Machine
end

