-- ==== Sys2Proof/Machine/Pair.lean ====
section
/-!
DEFINITION. The issue of a pair (R17-R22, R138, R141): fetch, decoding, the checks of both slots before either acts, the
A-slot's effect and then the C-slot's, what stands when the pair has issued (R18, R142), and what a translation's pair
does beside its words (R90, R188, R379, R427). `run` is the meaning of an instruction; the step gives `exec`.
-/
namespace Sys2Proof.Machine

/-- The meaning of an instruction. -/
abbrev Runner := Instr → State → Host.Outcome State Fault Refusal

/-- Go on from a next state. -/
def andThen (o : Host.Outcome State Fault Refusal) (f : State → Host.Outcome State Fault Refusal) :
    Host.Outcome State Fault Refusal :=
  match o with
  | .next s => f s
  | .fault r => .fault r
  | .refused r => .refused r

/-- The meaning of a native instruction as its plan gives it. -/
def planRun : Runner := fun i s => match planOf i with
  | some p => .next (p.run s)
  | none => .next s

/-- Make the slot's pair the one being issued. -/
def State.begin (s : State) (c k : Nat) : State :=
  match s.slot c k with
  | none => s
  | some sl => { s with issue := Issue.of c k sl.pc }

/-! ## The words of a pair -/

/-- R172: the first check of step 7, made before the pair is read. -/
def State.fetchTrap (s : State) (c : Nat) (sl : Slot) : Option Trap :=
  if sl.virt.isSome then none
  else (s.accessTrap (sl.who c) .fetch false sl.pc.toNat 8 8).orElse fun _ =>
    if (s.readVa (sl.who c) .fetch sl.pc.toNat 8).2 then some (trapInfo MCHECK 2) else none

/-- The words of `retire z, z` alone. -/
def retireWords : Half × Half := (mkWord 16 0x012 0 42 42, 0)

/-- The two words of the pair at the slot's pc (R12): of the translation, or of memory for a native slot (R1). A `ret` at
the top level of a task retires it (R79). -/
def State.pairWords (s : State) (c : Nat) (sl : Slot) : Half × Half :=
  match sl.virt with
  | none =>
    let v := (s.readVa (sl.who c) .fetch sl.pc.toNat 8).1
    (BitVec.ofNat 32 v, BitVec.ofNat 32 (v / 2 ^ 32))
  | some v => match s.tpair sl sl.pc.toNat with
    | none => nopWords
    | some t => match t.act, v.calls with
      | .ret _, [] => retireWords
      | _, _ => (t.w0, t.w1)

/-- The trap of a pair that does not decode (R22 steps 1-3), with its slot. -/
def Reject.trap : Reject → Trap × Bool
  | .illop a op => (trapInfo ILLOP op, a)
  | .illpair a => (trapInfo ILLPAIR 0, a)
  | .illopnd a f => (trapInfo ILLOPND f, a)
  | .noEncoding => (trapInfo ILLOP 0, false)

/-- The trap of a pair that does not decode: where only the A-slot breaks step 3 by its code, the C-slot's own checks of
that step come first (R22). -/
def State.rejectTrap (s : State) (w0 : Half) (r : Reject) : Trap × Bool :=
  match r, decodeSlot w0 none with
  | .illopnd true _, .ok c =>
    match (planOf c).bind fun q => q.step { s with issue := { s.issue with lone := false, aslot := false } } 3 with
    | some t => (t, false)
    | none => Reject.trap r
  | _, _ => Reject.trap r

/-- Instructions that act once in a fused gang, on the leader's core with the leader's operands (R106, R311, R391);
`trap` takes the gang's one trap. -/
def actsOnce : Instr → Bool
  | .phase _ | .parrive _ _ | .pwait _ _ | .susp _ | .suspon _ _ | .evwait _ | .evsig _ _ | .barr _ _ | .bwait _ _
  | .bmask _ _ | .oarr _ _ _ | .owait _ _ | .gsplit _ | .xwait _ _ | .trap _ => true
  | _ => false

/-! ## Entering a translation (R427) -/

/-- The translation that an entry at `off` of a handle enters on a die. -/
def State.lookup (s : State) (d : Nat) (v : Virt) : Option TransSpec :=
  (s.translations.find? fun (e, f, t) => e == d && f == 0 && t.handle == v.handle && t.off == v.off && t.body == v.body
    && t.gen == (sget 0 s.handleGen v.handle).toNat).map fun (_, _, t) => t

/-- The first pair of the operation at an offset. -/
def TransSpec.pairOf (t : TransSpec) (off : Nat) : Option Nat := t.pairs.findIdx? fun p => p.op == off

/-- The pair is a step boundary. -/
def TPair.isBoundary (t : TPair) : Bool := match t.act with | .boundary _ => true | _ => false

/-- The pair at which the operation at an offset begins: past the boundary before it, if that has been passed. -/
def TransSpec.pairAt (t : TransSpec) (off : Nat) (passed : Bool) : Option Nat :=
  (t.pairOf off).map fun i => match passed, t.pairs[i]? with
    | true, some p => if p.isBoundary then i + 1 else i
    | _, _ => i

/-- The pair at which an entry begins. -/
def TransSpec.entryPair (t : TransSpec) (passed : Bool) : Nat := (t.pairAt t.off passed).getD 0

/-- Values of Nalfen registers, by index, put in their places. -/
def placeVals (ts : List Byte) (es : List (Nat × Nat × Nat × Nat)) (r : Regs) : Regs :=
  es.foldl (fun (r : Regs) (k, _, tag, v) => match place ts k with
    | some ⟨0, n, _⟩ => { r with s := sset 0 r.s n (BitVec.ofNat 64 v) }
    | some ⟨1, n, _⟩ => { r with v := sset VReg.zero r.v n ⟨BitVec.ofNat 2048 v, BitVec.ofNat 5 tag⟩ }
    | some ⟨2, n, _⟩ => { r with p := sset 0 r.p n (BitVec.ofNat 128 v) }
    | _ => r) r

/-- The registers with which a slot enters a translation: as they stand, from the frame, or from the container (R62,
R124, R280, R312); one that is found nowhere is zero of its type (R78). -/
def State.entryRegs (s : State) (sl : Slot) (v : Virt) (t : TransSpec) : Regs :=
  match v.src with
  | 0 => sl.regs
  | 1 => s.refill sl.ctx sl.frame.toNat t.entryLive (zeroRegs t.types)
  | _ => placeVals t.types v.vals (zeroRegs t.types)

/-- A task begins at the first operation of its body. -/
def Virt.fresh (v : Virt) : Bool := v.src == 1 && v.off == v.body && v.calls.isEmpty && !v.passed

/-- The tiles that a body declares are zero of their types before they are written (R78, R270). -/
def Core.typeTiles (ts : List Byte) (x : Core) : Core :=
  { x with tileTags := (List.range ts.length).foldl (fun m k => match place ts k with
      | some ⟨3, n, t⟩ => sset 10 m n (BitVec.ofNat 5 t)
      | _ => m) x.tileTags }

/-- The slot enters the translation t. The sets of a called body have no effect (R79). -/
def State.enterAt (s : State) (c k : Nat) (t : TransSpec) : State :=
  match s.slot c k with
  | none => s
  | some sl => match sl.virt with
    | none => s
    | some v =>
      let top := v.calls.isEmpty
      let s := if sl.matrix && v.fresh then s.modCore c (Core.typeTiles t.types) else s
      s.putSlot c k (some { sl with
        regs := s.entryRegs sl v t, pc := BitVec.ofNat 64 (t.base + 8 * t.entryPair v.passed),
        virt := some { v with base := t.base, gen := t.gen, entered := true, src := 0,
                              reads := if top then t.reads else v.reads, writes := if top then t.writes else v.writes } })

/-- A region entry (R427): on a hit the slot's whole crew enters, on a miss it is stalled. -/
def State.enterRegion (s : State) (c k : Nat) (sl : Slot) (v : Virt) : State :=
  match s.lookup (dieOf c) v with
  | some t => (sl.crew c k).foldl (fun s (mc, mj) => s.enterAt mc mj t) s
  | none => s.holdSlot c k .translation true

/-- A slot stands before a region entry: no pair of its translation is at its pc. -/
def State.atEntry (s : State) (sl : Slot) : Bool :=
  match sl.virt with
  | none => false
  | some v => !v.entered || (s.tpair sl sl.pc.toNat).isNone

/-! ## Transfers of control in a translation (Table Scalar-6, R90) -/

/-- A register that a value is read from, as poison marks name it. -/
def valCodes : TVal → List Nat | .reg n => [n] | _ => []
def TArg.codes : TArg → List Nat | .s x => valCodes x | .v n => [100 + n] | .p n => [200 + n] | _ => []
def TCond.codes : TCond → List Nat
  | .pAny (some n) | .pAll (some n) | .pNone (some n) => [200 + n]
  | .sZ x | .sNz x | .sLt x | .sGe x => valCodes x
  | .loop (some n) => [n]
  | _ => []

/-- The registers that a pair's act reads, as poison marks name them. -/
def TAct.codes : TAct → List Nat
  | .br c _ => c.codes
  | .call dst xs _ => valCodes dst ++ xs.flatMap TArg.codes
  | .ret as => as.flatMap TArg.codes
  | .jmpr dst => valCodes dst
  | _ => []

/-- The kind of register that a passed value suits; none for `%z`. -/
def TArg.kind : TArg → Option Nat
  | .s _ | .flt _ _ => some 0 | .v _ | .lane => some 1 | .p _ => some 2 | .z => none

/-- A passed value suits a register of a kind; nothing suits a tile. -/
def TArg.suits (a : TArg) (kind : Nat) : Bool := kind != 3 && (match a.kind with | some k => k == kind | none => true)

/-- The body that starts at a VPC. -/
def State.bodyAt (s : State) (vpc : Nat) : Option (CodeObject × Body) :=
  (s.object (vpc / 2 ^ 44)).bind fun o => (o.bodies.find? fun b => b.off == vpc % 2 ^ 44).map fun b => (o, b)

/-- A body's type table as it stands in memory. -/
def State.typesOf (s : State) (o : CodeObject) (b : Body) : Option (List Byte) :=
  parseTypes (s.devBytes o.ctx (o.types.1 + b.typeOff) (min (o.types.2 - b.typeOff) (2 ^ 20 + 3)))

/-- The limit of a spill (R61). -/
def State.spillLimit (s : State) (ctx : Nat) : Nat := s.frameStride ctx - 64

/-- R61, R90, R98, R189: a call cannot enter its target with its arguments. -/
def State.callBad (s : State) (ctx vpc : Nat) (args : List TArg) : Bool :=
  match s.bodyAt vpc with
  | none => true
  | some (o, b) => decide (s.spillLimit ctx < b.spill) || match s.typesOf o b with
    | none => true
    | some ts => decide (ts.length < args.length) || (args.zip ts).any fun (a, t) => !a.suits (t.toNat / 32)

/-- A transfer of control faults PROT, kind 4 (R90, R98, R189). -/
def State.actBad (s : State) (c : Nat) (sl : Slot) (v : Virt) (t : TPair) : Bool :=
  match t.act with
  | .call dst args _ => s.callBad sl.ctx (s.tval c sl dst) args
  | .jmpr dst =>
    let vpc := s.tval c sl dst
    vpc / 2 ^ 44 ≠ v.handle || match s.object v.handle with
      | none => true
      | some o => !(o.bodies.any fun b => b.off == v.body && b.ops.contains (vpc % 2 ^ 44))
  | .ret vals => match v.calls with
    | [] => false
    | f :: _ => (vals.zip f.dests).any fun (a, d) => match d with
      | some r => !a.suits r.kind
      | none => false
  | _ => false

/-- The spill of a suspension point passes the frame (R61, R516). -/
def State.spillBad (s : State) (sl : Slot) (t : TPair) : Bool :=
  t.blocking && decide (s.spillLimit sl.ctx < spillOf t.carry)

/-- A branch is taken. -/
def State.taken (s : State) (c : Nat) (sl : Slot) : TCond → Bool
  | .always => true
  | .pAny p => decide ((match p with | some n => sl.regs.pr n | none => 0 : Pred) ≠ 0)
  | .pAll p => decide ((match p with | some n => sl.regs.pr n | none => 0 : Pred) = BitVec.allOnes 128)
  | .pNone p => decide ((match p with | some n => sl.regs.pr n | none => 0 : Pred) = 0)
  | .sZ v => s.tval c sl v == 0
  | .sNz v => s.tval c sl v != 0
  | .sLt v => (BitVec.ofNat 64 (s.tval c sl v)).msb
  | .sGe v => !(BitVec.ofNat 64 (s.tval c sl v)).msb
  | .loop n => decide ((match n with | some n => sl.regs.sr n | none => 0 : Word) ≠ 1)

/-- Where a program goes from a pair: to the next pair, to an operation of the body, into a body, back to the caller. -/
inductive TGo where
  | seq | goto (off : Nat) (exit : Bool) | call (vpc : Nat) | ret
  deriving DecidableEq, Repr

/-- Where the leader's pair goes. A blocking operation ends its region (R426). -/
def State.goesTo (s : State) (c : Nat) (sl : Slot) (v : Virt) (t : TPair) : TGo :=
  if !t.final then .seq else
  match t.act with
  | .br cond target => .goto (if s.taken c sl cond then target else t.nextOp) false
  | .call dst _ _ => .call (s.tval c sl dst)
  | .ret _ => if v.calls.isEmpty then .goto t.nextOp true else .ret
  | .jmpr dst => .goto (s.tval c sl dst % 2 ^ 44) true
  | _ => .goto t.nextOp t.blocking

/-- A value goes into a register of another body: as bits, or what suits the register's type (R78, R90). -/
def State.pass (s : State) (c : Nat) (sl : Slot) (r : NReg) (a : TArg) (x : Regs) : Regs :=
  match r.kind, a with
  | 0, .s v => { x with s := sset 0 x.s r.loc (BitVec.ofNat 64 (s.tval c sl v)) }
  | 0, .flt f b => { x with s := sset 0 x.s r.loc (BitVec.ofNat 64 (floatCode f b r.tag)) }
  | 0, _ => { x with s := sset 0 x.s r.loc 0 }
  | 1, .v n => { x with v := sset VReg.zero x.v r.loc (sl.regs.vr n) }
  | 1, .lane =>
    { x with v := sset VReg.zero x.v r.loc ⟨ofElems (tagWidth (BitVec.ofNat 5 r.tag)) id, BitVec.ofNat 5 r.tag⟩ }
  | 1, _ => { x with v := sset VReg.zero x.v r.loc ⟨0, BitVec.ofNat 5 r.tag⟩ }
  | 2, .p n => { x with p := sset 0 x.p r.loc (sl.regs.pr n) }
  | 2, _ => { x with p := sset 0 x.p r.loc 0 }
  | _, _ => x

/-- The sets in force with their bases as they stand: a call does not move them (R79). -/
def Slot.freeze (sl : Slot) (l : List (TVal × Nat)) : List (TVal × Nat) :=
  l.map fun (b, n) => (match b with | .reg r => .const (sl.regs.sr r).toNat | b => b, n)

/-- The marks of what a call does not save: latches and tiles. -/
def sharedMarks (l : List Nat) : List Nat := l.filter fun p => decide (300 ≤ p)

/-- A slot enters the body at vpc (R90). -/
def State.callInto (s : State) (c : Nat) (sl : Slot) (v : Virt) (next vpc : Nat) (args : List TArg)
    (dests : List (Option NReg)) : Slot :=
  let ts := ((s.bodyAt vpc).bind fun (o, b) => s.typesOf o b).getD []
  let regs := args.zipIdx.foldl (fun r (a, j) => match place ts j with
    | some p => s.pass c sl p a r
    | none => r) (zeroRegs ts)
  let f : CallFrame := { handle := v.handle, off := next, body := v.body, regs := sl.regs, dests := dests, reads := v.reads,
                         writes := v.writes, poisoned := sl.poisoned }
  { sl with
    regs := { regs with la := sl.regs.la, lc := sl.regs.lc }, poisoned := sharedMarks sl.poisoned,
    virt := some { v with
      handle := vpc / 2 ^ 44, off := vpc % 2 ^ 44, body := vpc % 2 ^ 44, entered := false, src := 0, passed := false,
      calls := f :: v.calls, reads := sl.freeze v.reads, writes := sl.freeze v.writes } }

/-- A slot returns to its caller; destinations without a value read as zero (R90). -/
def State.returnTo (s : State) (c : Nat) (sl : Slot) (v : Virt) (vals : List TArg) : Slot :=
  match v.calls with
  | [] => sl
  | f :: l =>
    let regs := f.dests.zipIdx.foldl (fun r (d, j) => match d with
      | some p => s.pass c sl p (vals.getD j .z) r
      | none => r) f.regs
    { sl with
      regs := { regs with la := sl.regs.la, lc := sl.regs.lc },
      poisoned := f.poisoned.filter (fun p => decide (p < 300) && !(f.dests.any fun d => match d with
        | some r => p == 100 * r.kind + r.loc
        | none => false)) ++ sharedMarks sl.poisoned,
      virt := some { v with
        handle := f.handle, off := f.off, body := f.body, entered := false, src := 0, passed := false, calls := l,
        reads := f.reads, writes := f.writes } }

/-- An operation at `off` begins the step in which the one at `src` lies: a branch back to it passes no boundary (R84,
log 82). -/
def State.reenters (s : State) (v : Virt) (src off : Nat) : Bool :=
  match (s.object v.handle).bind fun o => o.bodies.find? fun b => b.off == v.body with
  | none => false
  | some b =>
    let step (a : Nat) : Nat := (b.steps.filter fun e => decide (b.off + e.at_ ≤ a)).length
    (b.steps.any fun e => b.off + e.at_ == off) && step src == step off

/-- The slot goes where the pair t sends it. `s` is the state before the pair acted. -/
def State.goOn (s : State) (c : Nat) (sl : Slot) (v : Virt) (t : TPair) (go : TGo) : Slot :=
  match go with
  | .seq => { sl with pc := sl.pc + 8, virt := some { v with passed := v.passed || t.isBoundary } }
  | .goto off exit =>
    let sl := match t.act with
      | .br (.loop (some n)) _ => { sl with regs := { sl.regs with s := sset 0 sl.regs.s n (sl.regs.sr n - 1) } }
      | _ => sl
    let again := s.reenters v t.op off
    match exit, (s.translationAt v.base).bind fun x => (x.pairAt off again) with
    | false, some i => { sl with pc := BitVec.ofNat 64 (v.base + 8 * i), virt := some { v with off := off, passed := again } }
    | _, _ => { sl with virt := some { v with off := off, entered := false, src := 0, passed := again } }
  | .call vpc => match t.act with
    | .call _ args dests => s.callInto c sl v t.nextOp vpc args dests
    | _ => sl
  | .ret => match t.act with
    | .ret vals => s.returnTo c sl v vals
    | _ => sl

/-! ## One member's run -/

/-- The slot's pair has issued: pc, gap and the waits that follow it. -/
def Slot.passed (sl : Slot) (now : Nat) (pc npc : Word) (gap : Nat) (ws : List Wait) : Slot :=
  { sl with
    lastPc := pc, pc := npc, seq := sl.seq + 1, issuedAt := now, gapUntil := now + 1 + gap, readySince := now + 1 + gap,
    hold := match ws, sl.hold with
      | [], h => h
      | w :: l, none => some ⟨w, now, false, l⟩
      | ws, some h => some { h with after := h.after ++ ws } }

/-- The waits after a pair of a translation: its results are in their places before the next pair issues, and a blocking
operation is a blocking point (R118, R142). -/
def TPair.waits (t : TPair) : List Wait := if t.final && t.blocking then [.results, .settled] else [.settled]

/-- The results of the pair just issued go where its moves say. -/
def Slot.routed (sl : Slot) (ms : List TMove) : Slot :=
  { sl with pending := sl.pending.map fun p => if p.seq = sl.seq then p.route ms else p }

/-- The pair of slot k of core c is over. `pre` is the state before it acted, `go` where a translation goes. -/
def State.finishPair (s : State) (c k : Nat) (p : Pair) (npc : Word) (pre : State) (go : TGo) : State :=
  match s.slot c k with
  | none => s
  | some sl =>
    match sl.virt, s.tpair sl sl.pc.toNat with
    | some _, some t =>
      let x := (sl.routed t.moves).passed s.now sl.pc sl.pc 0 t.waits
      match (pre.slot c k).bind Slot.virt with
      | some v => s.putSlot c k (some (pre.goOn c x v t go))
      | none => s.putSlot c k (some x)
    | _, _ => s.putSlot c k (some (sl.passed s.now sl.pc npc (pairGap p) (if pairSw p then [.results] else [])))

/-- The pseudo-instruction that pops one word of a port. -/
def popInstr (p : Nat) : Instr := .mov .z (.q ⟨p % 16, by omega⟩)

/-- A `ret` at the top level of a task: every operand of it is `%z` (R79). -/
def Slot.endsTask (sl : Slot) (t : TPair) : Bool :=
  match t.act, sl.virt with
  | .ret _, some v => v.calls.isEmpty
  | _, _ => false

/-- The ports that a translation's pair pops beside those its words name. -/
def Slot.morePops (sl : Slot) (t : TPair) : List Nat := if sl.endsTask t then [] else t.pops

/-- The pops that a translation's pair makes beside its words. -/
def State.extraPops (s : State) (c k : Nat) : List Instr :=
  match s.slot c k with
  | none => []
  | some sl => match s.tpair sl sl.pc.toNat with
    | some t => (sl.morePops t).map popInstr
    | none => []

/-- The operands of a translation's pair are put in their places; a scalar floating form does not flush (R211). -/
def State.enterPair (s : State) (c k : Nat) : State :=
  match s.slot c k with
  | none => s
  | some sl => match s.tpair sl sl.pc.toNat with
    | none => s
    | some t =>
      let x := s.fillAll c sl t.fills
      s.putSlot c k (some (if t.noFtz then { x with csrs := { x.csrs with fctl := x.csrs.fctl &&& 3 } } else x))

/-- FCTL stands again as the pair found it. -/
def State.leavePair (s pre : State) (c k : Nat) : State :=
  match (pre.slot c k).bind fun sl => (s.tpair sl sl.pc.toNat).map fun t => (sl, t) with
  | some (sl, t) => if t.noFtz then s.modSlot c k fun x => { x with csrs := { x.csrs with fctl := sl.csrs.fctl } } else s
  | none => s

/-- R379: the first attempt at a speculative atomic did not fail spuriously, so that there is no second. -/
def Slot.tryOver (sl : Slot) (t : TPair) : Option (List (Nat × Nat)) :=
  match t.act with
  | .retry ms => if sl.regs.lc.val.setWidth 64 ≠ (2 : Word) then some ms else none
  | _ => none

/-- Its result is the operation's. -/
def Slot.takeTry (sl : Slot) (ms : List (Nat × Nat)) : Slot :=
  ms.foldl (fun sl (a, b) =>
    { sl with regs := { sl.regs with s := sset 0 sl.regs.s b (sl.regs.sr a) } }.mark b (sl.poisoned.contains a)) sl

/-- The same for the pair at which slot k of core c stands. -/
def State.tryDone (s : State) (c k : Nat) : Option (List (Nat × Nat)) :=
  (s.slot c k).bind fun sl => (s.tpair sl sl.pc.toNat).bind sl.tryOver

/-- The A-slot's effect. -/
def runA (run : Runner) (p : Pair) (s : State) : Host.Outcome State Fault Refusal :=
  match p with
  | .normal _ _ ci a pe => run a { s with issue := { s.issue.forA ci pe with checked := true } }
  | .lone _ _ _ _ => .next s

/-- The C-slot's effect. -/
def runC (run : Runner) (p : Pair) (s : State) : Host.Outcome State Fault Refusal :=
  run (pairC p) { s with issue := { s.issue.forC p with checked := true } }

/-- A C-slot after which the slot is gone: the pair's pushes take effect before it, at the pair's retirement (R31). -/
def leavesSlot : Instr → Bool
  | .retire _ _ | .susp _ | .suspon _ _ | .trap _ => true
  | _ => false

/-- C-slots whose effect is an access that comes before the A-slot's in program order (R346): loads, stores, atomics,
fences and what else works on memory, but nothing that ends the slot's stay. Every register read is as of issue, so the
order shows in memory alone (log 17). -/
def accessFirst : Instr → Bool
  | .ld _ _ _ _ | .ldx _ _ _ _ | .ldAcq _ _ _ _ | .st _ _ _ _ | .stx _ _ _ _ | .stRel _ _ _ _ | .vld _ _ _ | .vlds _ _ _
  | .vst _ _ _ | .vsts _ _ | .vgath _ _ _ _ | .vscat _ _ _ _ | .ldfe64 _ _ | .ldfe64c _ _ | .ldfeV _ _ _ | .ldfeVc _ _ _
  | .stfe64 _ _ _ | .stfeV _ _ _ | .fecl _ _ | .feset _ _ | .amoAdd _ _ _ | .amoAnd _ _ _ | .amoOr _ _ _ | .amoXor _ _ _
  | .amoSmin _ _ _ | .amoSmax _ _ _ | .amoNmin _ _ _ | .amoNmax _ _ _ | .amoSwap _ _ _ _ _ | .famoFadd _ _ _ | .famoFmin _ _ _
  | .famoFmax _ _ _ | .cas _ _ | .fence _ _ | .cflush _ _ _ | .cwb _ _ _ | .cinv _ _ _ | .tcinv _ _ _ | .tdecl _ _ _
  | .tundecl _ _ _ | .tfwd _ _ _ | .spawn _ _ _ _ | .spawnk _ _ _ _ => true
  | _ => false

/-- Both effects of a pair, in the order of R346; `doC` as in `runMember`. -/
def runSlots (run : Runner) (p : Pair) (doC : Bool) (s : State) : Host.Outcome State Fault Refusal :=
  let c (s : State) : Host.Outcome State Fault Refusal := if doC then runC run p s else .next s
  if accessFirst (pairC p) then andThen (c s) (runA run p)
  else andThen (runA run p s) fun t => c (if leavesSlot (pairC p) then t.flushPushes else t)

/-- One member's pair: both effects, its pushes and its pops. `doC` is false for a member whose C-slot acts once, on
the leader. -/
def runMember (run : Runner) (p : Pair) (doC : Bool) (c k : Nat) (s : State) : Host.Outcome State Fault Refusal :=
  let s := s.begin c k
  match s.tryDone c k with
  | some ms => .next (s.modSlot c k fun sl => sl.takeTry ms)
  | none =>
    let extra := if doC then s.extraPops c k else []
    andThen (runSlots run p doC (s.enterPair c k)) fun t =>
        .next (((t.flushPushes).popAll ((if doC then pairIs p else (pairIs p).drop 1) ++ extra)).leavePair s c k)

/-- Members in turn, the leader last. -/
def runCrew (run : Runner) (p : Pair) (doC : Bool) : List (Nat × Nat) → State → Host.Outcome State Fault Refusal
  | [], s => .next s
  | (c, k) :: l, s => andThen (runCrew run p doC l s) (runMember run p doC c k)

/-! ## The checks of a crew -/

/-- R174: the transfers whose target the leader's register alone decides. -/
def leaderTarget : Instr → Bool
  | .callr _ _ | .jmpr _ | .ret _ => true
  | _ => false

/-- The plans of a member: another member than the leader leaves to it what acts once and where the pair goes. -/
def memberPlans (s : State) (p : Pair) (leader : Bool) : List (Plan × State × Bool) :=
  let ps := pairPlans s p
  if leader then ps
  else if actsOnce (pairC p) then ps.filter fun x => x.2.2
  else if leaderTarget (pairC p) then ps.map fun (q, t, a) => (if a then q else { q with fault := fun _ => none }, t, a)
  else ps

/-- A register that the act of a translation's pair reads is poisoned (R277). -/
def Slot.actPoison (sl : Slot) (t : TPair) : Option Trap :=
  if sl.endsTask t then none
  else (t.act.codes.find? sl.poisoned.contains).map fun r => trapInfo MCHECK (2 + regInfo r * 256)

/-- A plan that faults at step 7 where another check does, too. -/
def Plan.alsoFaults (q : Plan) (t : Option Trap) : Plan := { q with fault := fun v => (q.fault v).orElse fun _ => t }

/-- R211: a scalar `cvt` whose control has a PART other than 0 is out of limits (log 84). -/
def Plan.scalarPart (q : Plan) : Plan :=
  match q.instr with
  | .cvt _ _ b => { q with bad := fun s => (q.bad s).orElse fun _ =>
      if (readS s q.instr 2 b).toNat / 32 % 16 = 0 then none else some 5 }
  | _ => q

/-- The verdict for one member. A translation's pair has the checks of its transfer of control, and of the spill of its
suspension point, which is checked before the pair waits (R61); it waits for a port as a stall where its operation is no
blocking operation (R118). -/
def State.memberVerdict (s : State) (p : Pair) (leader : Bool) (c k : Nat) : Verdict :=
  let s := s.begin c k
  match (s.slot c k).bind fun sl => (s.tpair sl sl.pc.toNat).map fun t => (sl, t) with
  | none => verdict s (memberPlans s p leader)
  | some (sl, t) =>
    if (sl.tryOver t).isSome then .go else
    let v := s.enterPair c k
    let prot : Trap := (s.poolHole sl.ctx).getD (protTrap t.id)
    let spill := if leader && s.spillBad sl t then some prot else none
    let bad := match sl.virt with | some x => leader && s.actBad c sl x t | none => false
    let late := (sl.actPoison t).orElse fun _ => spill.orElse fun _ => if bad then some prot else none
    let pops : List (Plan × State × Bool) :=
      if leader || !actsOnce (pairC p) then (sl.morePops t).map fun n => ({ instr := popInstr n, act := id }, v, false) else []
    match verdict v ((memberPlans v p leader).map (fun (q, u, a) => 
        (if t.noFtz then q.scalarPart else if a then q else q.alsoFaults late, u, a)) ++ pops) with
    | .wait w => match spill, w with
      | some t, _ => .trap t false
      | none, .ports n => .wait (if t.final && t.blocking then .ports n else .stall (.ports n))
      | none, w => .wait w
    | x => x

/-- The first member that traps: member, trap, slot of the pair. -/
def crewTrap : List ((Nat × Nat) × Verdict) → Option ((Nat × Nat) × Trap × Bool)
  | [] => none
  | (m, .trap t a) :: _ => some (m, t, a)
  | _ :: l => crewTrap l

/-- The members that wait. -/
def crewWaits : List ((Nat × Nat) × Verdict) → List ((Nat × Nat) × Wait)
  | [] => []
  | (m, .wait w) :: l => (m, w) :: crewWaits l
  | _ :: l => crewWaits l

/-- The verdicts of a crew, the leader's first. -/
def State.crewVerdicts (s : State) (p : Pair) : List (Nat × Nat) → List ((Nat × Nat) × Verdict)
  | [] => []
  | m :: others => (m, s.memberVerdict p true m.1 m.2) :: others.map fun m => (m, s.memberVerdict p false m.1 m.2)

/-- The pushes of a crew's members enter FIFOs that have room for all of them (R30, R286): else the crew waits. -/
def State.crowded (s : State) (p : Pair) (crew : List (Nat × Nat)) : List ((Nat × Nat) × Wait) :=
  match crew with
  | lead :: m :: l =>
    let ps := crew.flatMap fun m => match s.slot m.1 m.2 with
      | some sl => (s.pushList m.1 sl.ctx ((memberPlans (s.begin m.1 m.2) p (m == lead)).map fun x => x.1.instr)).filter
          fun x => x.2.1.isSome
      | none => []
    if ps.all fun x => decide ((ps.filter fun y => y.2.1 == x.2.1).length ≤ x.2.2) then [] else (lead :: m :: l).map (·, .room)
  | _ => []

/-- The members of a crew that wait, each for its own reason or all of them for room. -/
def State.crewHeld (s : State) (p : Pair) (crew : List (Nat × Nat)) (vs : List ((Nat × Nat) × Verdict)) :
    List ((Nat × Nat) × Wait) :=
  match crewWaits vs with
  | [] => s.crowded p crew
  | ws => ws

/-- The members that wait do so in their slots, the pair still to issue. -/
def State.holdAll (s : State) (ws : List ((Nat × Nat) × Wait)) : State :=
  { ws.foldl (fun s x => s.holdSlot x.1.1 x.1.2 x.2 true) s with issue := Issue.none }

/-- Where the leader's pair goes. -/
def State.crewGo (s : State) (c k : Nat) : TGo :=
  match (s.slot c k).bind fun sl => (s.tpair sl sl.pc.toNat).map fun t => (sl, t) with
  | some (sl, t) => (match sl.virt with | some v => s.goesTo c sl v t | none => .seq)
  | none => .seq

/-- The pair of a crew, decoded: the lowest member that traps traps the crew; one that waits keeps it waiting; else every
member acts. -/
def runPair (run : Runner) (p : Pair) (crew : List (Nat × Nat)) (s : State) : Host.Outcome State Fault Refusal :=
  match crew with
  | [] => .next s
  | (lc, lk) :: others =>
    let vs := s.crewVerdicts p crew
    match crewTrap vs with
    | some ((c, k), t, a) =>
      .next { ((s.begin c k).trapPair t a false) with issue := Issue.none }
    | none =>
      match s.crewHeld p crew vs with
      | [] =>
        let once := actsOnce (pairC p)
        let go := s.crewGo lc lk
        andThen (runCrew run p (!once) others s) fun t =>
        andThen (runMember run p true lc lk t) fun t =>
          let npc := t.issue.npc
          let t' := if t.issue.gone then t else t.finishPair lc lk p npc s go
          .next { others.foldl (fun t m => t.finishPair m.1 m.2 p npc s go) t' with issue := Issue.none }
      | ws => .next (s.holdAll ws)

/-- The capability id of R431: the lowest in the object's mask that the die lacks, else 63 (Table Translation-1). -/
def capOf (mask : Word) : Nat := ((List.range 63).find? fun n => n ≠ 0 && mask.getLsbD n).getD 63

/-- The capability id that a slot's TRANSLATE fault reports. -/
def State.capId (s : State) (v : Virt) : Nat := capOf (match s.object v.handle with | some o => o.caps | none => 0)

/-- A pair that does not go through its words: a step boundary or an operation lowered to a fault (R84, R430, R431). -/
def specialPair (s : State) (c k : Nat) (sl : Slot) : Option Instr :=
  match s.tpair sl sl.pc.toNat with
  | none => none
  | some t => match t.act with
    | .boundary (some xs) => some (.stepCommOpen c k xs)
    | .boundary none => some (.stepComputeOpen c k)
    | .fault translate =>
      some (.loweredFaultReached c k translate t.id (match sl.virt with | some v => s.capId v | none => 63))
    | _ => none

/-- R136, item 4: the pair at which a ready crew stands cannot issue yet and does not trap: its members that wait. -/
def State.stalls (s : State) (c k : Nat) (sl : Slot) : List ((Nat × Nat) × Wait) :=
  if s.atEntry sl || (specialPair s c k sl).isSome
    || (s.fetchTrap c sl).isSome then []
  else match decodePair (s.pairWords c sl).1 (s.pairWords c sl).2 with
    | .error _ => []
    | .ok p =>
      let vs := s.crewVerdicts p (sl.crew c k)
      if (crewTrap vs).isSome then [] else s.crewHeld p (sl.crew c k) vs

/-- The issue of the pair at which the slot stands, with its crew. -/
def issueAt (run : Runner) (c k : Nat) (s : State) : Host.Outcome State Fault Refusal :=
  match s.slot c k with
  | none => .next s
  | some sl =>
    match sl.virt with
    | some v => if s.atEntry sl then .next (s.enterRegion c k sl v) else issuePair s sl
    | none => issuePair s sl
where
  /-- Fetch, decode and run. -/
  issuePair (s : State) (sl : Slot) : Host.Outcome State Fault Refusal :=
    match specialPair s c k sl with
    | some i => run i s
    | none =>
      match s.fetchTrap c sl with
      | some t => .next { ((s.begin c k).trapPair t false false) with issue := Issue.none }
      | none =>
        let w := s.pairWords c sl
        match decodePair w.1 w.2 with
        | .error (.illop a op) =>
          andThen (run (.unassignedOpcode a (BitVec.ofNat 9 op)) (s.begin c k)) fun s => .next { s with issue := Issue.none }
        | .error r =>
          let t := (s.begin c k).rejectTrap w.1 r
          .next { ((s.begin c k).trapPair t.1 t.2 false) with issue := Issue.none }
        | .ok p => runPair run p (sl.crew c k) s

end Sys2Proof.Machine
end

