-- ==== Sys2Proof/Machine/Build.lean ====
section
/-!
DEFINITION. TRANSLATION_BUILD (R426-R434): one region of a body, as its bytes stand in memory, becomes a translation of a
die, with its recovery maps in the overflow area. What of it is the model's choice is logs 84 and 85.
-/
namespace Sys2Proof.Machine

/-- The type table of a body as far as its bytes can be read: a byte that Table Nalfen-1 does not admit is of no kind, so
that only what names its register is faulty (R430). -/
def State.typesRead (s : State) (o : CodeObject) (b : Body) : List Byte :=
  match s.typesOf o b with
  | some ts => ts
  | none => match uleb (s.devBytes o.ctx (o.types.1 + b.typeOff) (min (o.types.2 - b.typeOff) (2 ^ 20 + 3))) with
    | some (n, r) => (r.take n).map fun t => if typeByteOk t then t else 0xFF
    | none => []

/-- A body as its bytes, type table and carry table stand in memory (R430, R516). -/
def State.unitOf (s : State) (o : CodeObject) (b : Body) : Unit_ :=
  let carry := parseCarry b.ncarry b.carryOff (s.devBytes o.ctx o.tasks.1 o.tasks.2)
  let all := scanOps (b.len + 1) 0 (s.devBytes o.ctx (o.code + b.off) b.len) ++ [endOp b.len]
  let bases := baseRegs ((b.reads ++ b.writes).map Prod.fst)
  let also (at_ : Nat) : List Nat := bases ++ (b.steps.filter fun e => e.at_ == at_).flatMap fun e =>
    baseRegs (e.xfers.flatMap fun x => [x.1, x.2.1])
  { ts := s.typesRead o b, syms := o.syms, off := b.off, all := all, live := liveIn all also (all.length + 2) [],
    carry := carry.getD [], carryBad := carry.isNone, reads := b.reads, writes := b.writes, steps := b.steps }

/-- The frame layout at an entry: the carry set of the blocking operation before it (R428). -/
def Unit_.entryLive (u : Unit_) (entry : Nat) : List CarryLoc :=
  match u.all.find? fun x => x.next == entry && decide (x.op.at_ < entry) with
  | some x => if x.op.blocking then u.carrySet x else []
  | none => []

/-- The pair of an entry at which nothing can be lowered (R430). -/
def faultPair (off : Nat) : TPair :=
  { w0 := nopWords.1, w1 := nopWords.2, op := off, id := 0x1FF, nextOp := off, act := .fault false, fills := [], moves := [],
    pops := [], final := true, blocking := false, exempt := false, noFtz := false, live := [], liveAfter := [], rmap := 0,
    rmapAfter := 0, carry := [] }

/-- A recovery map (R275). -/
def mapBytes (cs : List CarryLoc) : List Byte := leBytes 8 cs.length ++ cs.flatMap fun c => leBytes 8 (mapEntry c).toNat

/-- The recovery maps of a list of pairs: their addresses and lengths. -/
def mapsOf (ps : List TPair) : List (Nat × Nat) := (ps.flatMap fun p =>
  [(p.rmap, 8 + 8 * p.live.length), (p.rmapAfter, 8 + 8 * p.liveAfter.length)]).filter fun x => decide (x.1 ≠ 0)

/-- The place of a recovery map of n bytes in the upper half of the overflow area: the next one, or the first after a map
in use, that no map in use reaches (R434). -/
def mapPlace (next : Nat) (used : List (Nat × Nat)) (n : Nat) : Nat :=
  let lo := overflowBase + overflowSize / 2
  (((lo + 8 * (next % 2 ^ 29)) :: lo :: used.map fun x => x.1 + x.2).find? fun a =>
    decide (a + n ≤ overflowBase + overflowSize) && used.all fun x => decide (a + n ≤ x.1) || decide (x.1 + x.2 ≤ a)).getD lo

/-- A recovery map is written to the upper half of the overflow area: the state and its address; 0 where no register is
live (Table Traps-2). -/
def State.putMap (s : State) (used : List (Nat × Nat)) (cs : List CarryLoc) : State × Nat :=
  if cs.isEmpty then (s, 0) else
  let l := mapBytes cs
  let at_ := mapPlace s.mapWords used l.length
  ({ s.writePa (overflowMem + (at_ - overflowBase)) l.length (ofBytes l) with
     mapWords := (at_ - overflowBase - overflowSize / 2 + l.length) / 8 }, at_)

/-- The maps of a translation's pairs, beside those of the translations kept. -/
def State.putMaps (s : State) (ps : List TPair) : State × List TPair :=
  let kept := mapsOf (s.translations.flatMap fun x => x.2.2.pairs)
  ps.foldl (fun (s, l) p =>
    let (s, a) := s.putMap (kept ++ mapsOf l) p.live
    let (s, b) := s.putMap (kept ++ mapsOf (l ++ [{ p with rmap := a, rmapAfter := 0 }])) p.liveAfter
    (s, l ++ [{ p with rmap := a, rmapAfter := b }])) (s, [])

/-- A translation is still used: by a slot, by the image of a written-back record, or by a record that trapped in the
object (R434). -/
def State.transUsed (s : State) (t : TransSpec) : Bool :=
  let runs (sl : Slot) : Bool := match sl.virt with | some v => v.base == t.base | none => false
  (s.occupied.any fun (c, k) => match s.slot c k with | some sl => runs sl | none => false)
  || (s.suspended.any fun u => runs u.img || u.others.any fun x => runs x.2)
  || s.ctxs.any fun (x, c) => c.alive && (List.range (bits (s.pool x) 31 0)).any fun i =>
      let r := s.readRec x i
      i ≠ 0 && recState r = 5 && recVpc r / 2 ^ 44 == t.handle

/-- The native base address of a new translation: the lowest place of the overflow area's lower half that is free. -/
def State.freshBase (s : State) : Nat :=
  overflowBase + 2 ^ 18 * (((List.range (s.translations.length + 1)).find? fun i =>
    !s.translations.any fun x => x.2.2.base == overflowBase + 2 ^ 18 * i).getD 0)

/-- A translation is installed on a die; one of the same entry is dropped, and dropped ones that nothing uses are freed. -/
def State.installTrans (s : State) (d : Nat) (t : TransSpec) : State :=
  let old := s.translations.map fun (e, f, x) =>
    (e, if e == d && x.handle == t.handle && x.off == t.off && x.body == t.body then 1 else f, x)
  { s with translations := (old.filter fun x => x.2.1 == 0 || s.transUsed x.2.2) ++ [(d, 0, t)] }

/-- The region of an entry of a body. -/
def State.buildRegion (s : State) (o : CodeObject) (b : Body) (off : Nat) : TransSpec :=
  let gen := (sget 0 s.handleGen o.handle).toNat
  let entry := off - b.off
  let fault : TransSpec := { handle := o.handle, gen := gen, off := off, body := b.off, base := s.freshBase, types := [],
                             reads := [], writes := [], entryLive := [], pairs := [faultPair off], srcs := [(off, 1)] }
  let u := s.unitOf o b
  let bodies := o.bodies.filterMap fun x => (s.typesOf o x).map fun ts => (⟨x.off, ts⟩ : BodyTypes)
  let (ps, srcs) := u.region bodies entry
  let t := { fault with types := u.ts, reads := b.reads.map fun (r, n) => (u.base r, n),
                        writes := b.writes.map fun (r, n) => (u.base r, n), entryLive := u.entryLive entry }
  if ps.isEmpty then t else { t with pairs := ps, srcs := srcs }

/-- TRANSLATION_BUILD (R426, R427, R432): the region that an operation of a body begins is built and installed. The build
is one step, so that GEN is the same at its end. -/
def execTranslationBuild (die handle : Nat) (at_ : RegionEntry) (s : State) : Host.Outcome State Fault Refusal :=
  match s.object handle with
  | none => .next s
  | some o => match o.bodies.find? fun b => b.off == at_.body with
    | none => .next s
    | some b =>
      if die < 8 && !(s.die die).lost && decide (b.off ≤ at_.off) && decide (at_.off ≤ b.off + b.len) then
        let t := s.buildRegion o b at_.off
        let (s, ps) := s.putMaps t.pairs
        .next (s.installTrans die { t with pairs := ps })
      else .next s

end Sys2Proof.Machine
end

