-- ==== Sys2Proof/Machine/Life.lean ====
section
/-!
DEFINITION. The life of a continuation in and out of its slot: the end of a wait (R63, R66, R116, R142), step
boundaries (R84, R85), results on their way (R139), write-back, eviction and wake (R66, R67, R76), and pickup (R55,
R124, R412, R414, R515).
-/
namespace Sys2Proof.Machine

/-! ## The end of a wait -/

/-- A slot's wait is over, and the next one of its pair begins. -/
def State.nextWait (s : State) (c k : Nat) (after : List Wait) (gapDone : Bool) : State :=
  s.modSlot c k fun sl => { sl with
    hold := nextHold s.now after, gapUntil := if gapDone then s.now else sl.gapUntil,
    readySince := if gapDone then s.now else max s.now sl.gapUntil }

/-- The innermost domain of a slot: its level and index (R84). -/
def Slot.innermost (sl : Slot) : Option (Nat × Nat) :=
  (List.range 8).findSome? fun l =>
    let d : Half := sget 0 sl.csrs.domm l
    if d = 0 then none else some (l, d.toNat)

/-- R84: the boundary advances the phase as `phase` does; the waits that are left. -/
def State.stepPhase (s : State) (c k : Nat) (sl : Slot) (after : List Wait) : State × List Wait :=
  match sl.innermost with
  | none => (s, after)
  | some (l, d) =>
    let s := s.release c k
    if l = 0 then (s, .stall (.phase0 (sl.phase0 + 1 - sl.csrs.lead.setWidth 32)) :: after)
    else
      let p : Half := BitVec.ofNat 32 (domOpen (s.domain sl.ctx d))
      (s.arrive sl.ctx d 1, .stall (.phase l d (p + 1)) :: after)

/-- Word 0 of the packet of a transfer (R85, R385): a COPY, ORDERED after the first. -/
def xferWord (core ch j : Nat) : Nat := 2 + (if j = 0 then 0 else 256) + ch * 2 ^ 16 + core * 2 ^ 32

/-- The number of calls in force in a slot's program: each body that is running has steps of its own. -/
def Slot.callDepth (sl : Slot) : Nat := match sl.virt with | some v => v.calls.length | none => 0

/-- R84: one COPY packet for each transfer of a step, in the listed order. -/
def State.stepPush (s : State) (c k : Nat) (ts : List (Nat × Nat × Nat × Nat)) : State :=
  match s.slot c k with
  | none => s
  | some sl =>
    let (s, ids) := ts.zipIdx.foldl (fun (acc : State × List (Nat × Half)) x =>
      let ((dst, src, len, ch), j) := x
      let id : Half := sget 0 (acc.1.core c).xnext ch
      let ws := [xferWord c ch j, src, dst, len, 0, 0, 0, 0].map (BitVec.ofNat 64)
      (acc.1.handPacket c k 1 ws, acc.2 ++ [(ch, id)])) (s, [])
    let r : RecId := ⟨sl.ctx, sl.idx⟩
    { s with stepIds := s.stepIds.filter (fun x => !(x.1 == r && x.2.1 == c && x.2.2.1 == sl.callDepth)) ++
        [(r, c, sl.callDepth, ids)] }

/-- The wait of slot k of core c is over: what it gives, and what follows. A pair that was ready and passed over before it
had to wait keeps its earlier ready cycle (R137). -/
def State.endHold (s : State) (c k : Nat) : State :=
  match s.slot c k with
  | none => s
  | some sl =>
    match sl.hold with
    | none => s
    | some h =>
      if !s.waitOver c sl h.w then s
      else if h.reissue then s.modSlot c k fun sl => { sl with
        hold := none, readySince := if sl.readySince < h.since then sl.readySince else max s.now sl.gapUntil }
      else match h.w with
        | .phase0 _ | .stall (.phase0 _) => (s.advance0 c k).nextWait c k h.after false
        | .line _ _ (some n) (some d) => (s.lateResult c k d n.toNat true).nextWait c k h.after false
        | .claim _ _ d old => (s.lateResult c k d old.toNat true).nextWait c k h.after false
        | .results | .drain => s.nextWait c k h.after true
        | .eret => (s.eretNow c k).nextWait c k h.after true
        | .evRoom cl l d => s.registerWait c k cl l d
        | .stepPhase => let (s, l) := s.stepPhase c k sl h.after; s.nextWait c k l false
        | .stepPush ts => (s.stepPush c k ts).nextWait c k h.after false
        | .retire a b => { (s.begin c k).retireCur a b with issue := s.issue }
        | .away wake w => { s.writeBack c k 4 wake 0 w false with issue := s.issue }
        | _ => s.nextWait c k h.after false

/-- RELEASE_WINDOW (R481): a waiter satisfied by a close, a flip or a fire is made ready. -/
def execReleaseWindow (core slot : Nat) (s : State) : Host.Outcome State Fault Refusal :=
  match (s.slot core slot).bind Slot.hold with
  | some ⟨.group _ _ _, _, _, _⟩ | some ⟨.phase _ _ _, _, _, _⟩ | some ⟨.line _ _ _ _, _, _, _⟩
  | some ⟨.stall (.phase _ _ _), _, _, _⟩ => .next (s.endHold core slot)
  | _ => .next s

/-! ## Step boundaries (R84) -/

/-- The pair of a boundary is over: the crew goes on at the next pair. -/
def State.passBoundary (s : State) (crew : List (Nat × Nat)) : State :=
  crew.foldl (fun s m => match s.slot m.1 m.2 with
    | some sl => s.finishPair m.1 m.2 (.lone 0 false .nopC 0) (sl.pc + 8) s .seq
    | none => s) s

/-- R84: a transfer outside the sets, when CHK bit 1 is set. The size reported is the transfer's, at most 256 (R272,
log 76). -/
def Slot.xferFault (sl : Slot) (x : Xfer) : Option Trap :=
  match sl.virt with
  | none => none
  | some v =>
    if !sl.csrs.chk.getLsbD 1 then none
    else if !sl.inSet v.reads (sl.baseVal x.src) x.len then
      some (memTrap SETFAULT .load (sl.baseVal x.src) (max 1 (min x.len 256)))
    else if !sl.inSet v.writes (sl.baseVal x.dest) x.len then
      some (memTrap SETFAULT .store (sl.baseVal x.dest) (max 1 (min x.len 256)))
    else none

/-- The phase that a boundary advances must be one at which an arrival can be made (R120, R305), and no earlier write may
have failed (R371). -/
def State.boundaryFault (s : State) (sl : Slot) : Option Trap :=
  match sl.innermost with
  | none => none
  | some (l, d) =>
    if (s.domHole sl.ctx d).isSome then s.domHole sl.ctx d
    else if l ≠ 0 && s.domBad sl.ctx d l then some (protTrap 0x005)
    else if sl.failedNr then some (trapInfo MCHECK 2) else none

/-- The waits and acts of a boundary, on the leader's slot; a member of a gang pushes its own transfers. -/
def State.openStep (s : State) (crew : List (Nat × Nat)) (own : Nat → Nat → List Wait) : State :=
  let s := crew.zipIdx.foldl (fun (s : State) x =>
    let ((c, k), j) := x
    let ws := own c k
    match nextHold s.now (if j = 0 then ws else ws.filter (· ≠ .stepPhase)) with
    | some h => s.modSlot c k fun sl => { sl with hold := some h }
    | none => s) s
  s.passBoundary crew

/-- The slot stands at a pair of its translation that is this step of the device. -/
def State.standsAt (s : State) (c k : Nat) (a : TAct) : Bool :=
  match s.slot c k with
  | none => false
  | some sl => match sl.virt, s.tpair sl sl.pc.toNat with
    | some v, some t => v.entered && t.act == a
    | _, _ => false

/-- STEP_COMM_OPEN (R84): checks, then the phase, then one packet for each transfer. -/
def execStepCommOpen (core slot : Nat) (xs : List Xfer) (s : State) : Host.Outcome State Fault Refusal :=
  match s.slot core slot with
  | none => .next s
  | some sl =>
    if !s.standsAt core slot (.boundary (some xs)) then .next s else
    let crew := sl.crew core slot
    let bad := crew.findSome? fun m => ((s.slot m.1 m.2).bind fun x =>
      (xs.findSome? x.xferFault).orElse fun _ => s.boundaryFault x).map fun t => (m, t)
    match bad with
    | some (m, t) => .next { ((s.begin m.1 m.2).trapPair t false false) with issue := Issue.none }
    | none => .next (s.openStep crew fun c k => match s.slot c k with
        | some x => [.stepPhase, .stepPush (xs.map fun x' => (x.baseVal x'.dest, x.baseVal x'.src, x'.len, x'.ch))]
        | none => [])

/-- STEP_COMPUTE_OPEN (R84): the transfers of the step before, then the phase. -/
def execStepComputeOpen (core slot : Nat) (s : State) : Host.Outcome State Fault Refusal :=
  match s.slot core slot with
  | none => .next s
  | some sl =>
    if !s.standsAt core slot (.boundary none) then .next s else
    let crew := sl.crew core slot
    match crew.findSome? fun m => ((s.slot m.1 m.2).bind s.boundaryFault).map fun t => (m, t) with
    | some (m, t) => .next { ((s.begin m.1 m.2).trapPair t false false) with issue := Issue.none }
    | none =>
      let r : RecId := ⟨sl.ctx, sl.idx⟩
      let waits (c : Nat) : List Wait := s.stepIds.filterMap fun x =>
        if x.1 = r && x.2.2.1 = sl.callDepth && (x.2.1 = c || crew.length = 1) then some (.stepXfers x.2.1 x.2.2.2) else none
      let s' := s.openStep crew fun c _ => waits c ++ [.stepPhase]
      .next { s' with stepIds := s'.stepIds.filter fun x => !(x.1 == r && x.2.2.1 == sl.callDepth) }

/-! ## Faults of the pair itself -/

/-- UNASSIGNED_OPCODE (R22 step 1, R43): the pair being issued traps ILLOP. -/
def execUnassignedOpcode (aslot : Bool) (op : BitVec 9) (s : State) : Host.Outcome State Fault Refusal :=
  match s.cur with
  | none => .next s
  | some sl => .next (if sl.pc = s.issue.pc then s.trapPair (trapInfo ILLOP op.toNat) aslot false else s)

/-- LOWERED_FAULT_REACHED (R430, R431): TRANSLATE with its capability id, or PROT of kind 4, at the operation. -/
def execLoweredFaultReached (core slot : Nat) (translate : Bool) (id cap : Nat) (s : State) :
    Host.Outcome State Fault Refusal :=
  let t := if translate then trapInfo TRANSLATE (id % 512 + cap % 64 * 2 ^ 16) else protTrap id
  .next (if s.standsAt core slot (.fault translate) then
    { ((s.begin core slot).trapPair t false false) with issue := Issue.none } else s)

/-! ## Results (R139) -/

/-- RESULT_DELIVERY: a result of variable latency reaches its slot; one that a proxy still works on does not. -/
def execResultDelivery (core slot id : Nat) (s : State) : Host.Outcome State Fault Refusal :=
  match s.slot core slot with
  | none => .next s
  | some sl =>
    if (s.reqs.any fun q => q.ctx == sl.ctx && q.idx == sl.idx && q.pend == some id)
        || !(sl.pending.any fun p => p.id == id && decide (p.due < s.now)) then .next s
    else .next (s.modSlot core slot (Slot.deliver s.now id))

/-! ## Leaving the slot (R66, R419) -/

/-- No matrix work of a member's pair is left (R241, R266). -/
def State.matrixDone (s : State) (c : Nat) (m : Nat × Nat) : Bool :=
  match (s.slot m.1 m.2).bind Slot.hold with
  | some h => !(h.after.any Wait.matrixWork) && (m.1 = c || !h.w.matrixWork)
  | none => true

/-- A member has no CSR write of this cycle that is still to take effect (R134). -/
def State.csrsDone (s : State) (m : Nat × Nat) : Bool :=
  match s.slot m.1 m.2 with
  | some sl => sl.csrPend.isEmpty
  | none => true

/-- The slot waits at a blocking point whose condition does not hold, and may be written back there. -/
def State.canLeave (s : State) (c k : Nat) : Option Hold :=
  match s.slot c k with
  | none => none
  | some sl => match sl.hold with
    | none => none
    | some h =>
      let trans := match sl.gangInfo with | some g => g.transient | none => false
      if h.w.blocking && !trans && !s.waitOver c sl h.w && (sl.crew c k).all (s.matrixDone c) && (sl.crew c k).all s.csrsDone
      then some h else none

/-- HOLD_EXPIRY (R66): after 4,096 cycles the continuation is written back in state 4. -/
def execHoldExpiry (core slot : Nat) (s : State) : Host.Outcome State Fault Refusal :=
  match s.canLeave core slot with
  | none => .next s
  | some h => .next (if h.since + Config.holdCycles ≤ s.now then s.writeBackHeld core slot 4 else s)

/-! ## Finishing on the continuation's behalf (R63) -/

/-- No atomic of the record is left at a proxy (R64). -/
def State.proxyDone (s : State) (ctx idx : Nat) : Bool :=
  s.reqs.all fun q => !(q.ctx == ctx && q.idx == idx)

/-- The wake condition of a written-back record holds (R67), every member's included. One that is only tried again, is
tried in a later cycle. -/
def State.suspOver (s : State) (u : Susp) : Bool :=
  let past (c : Nat) (sl : Slot) (w : Wait) : Bool := match w with
    | .results => true
    | w => s.waitOver c sl w
  s.proxyDone u.ctx u.idx && past u.core u.img u.w
  && (!u.w.retried || (match u.img.hold with | some h => decide (h.since < s.now) | none => true))
  && u.others.all fun (c, sl) => match sl.hold with | some h => past c sl h.w | none => true

/-- The model's slot in which an image is finished. -/
def ghost : Nat := 8

/-- Put the image of a written-back record, and its crew's, into the model's own slots. Results that have come due meanwhile
stand in it (R139). -/
def State.raiseImage (s : State) (u : Susp) : State :=
  let cores := u.core :: u.others.map Prod.fst
  let ms := cores.map fun c => (c, ghost)
  let fix (sl : Slot) : Slot := { Slot.applyResults s.now sl with
    pickup := s.now,
    hold := sl.hold.map fun h => { h with since := s.now },
    gangInfo := sl.gangInfo.map fun g => { g with leaderCore := u.core, leaderSlot := ghost, members := ms } }
  let img : Slot := { u.img with hold := some ⟨u.w, s.now, u.reissue, (u.img.hold.map Hold.after).getD []⟩ }
  u.others.foldl (fun s m => s.putSlot m.1 ghost (some (fix m.2))) (s.putSlot u.core ghost (some (fix img)))

/-- End the waits of a slot that are over, one after another. -/
def State.endHolds (c k : Nat) : Nat → State → State
  | 0, s => s
  | n + 1, s => match (s.slot c k).bind Slot.hold with
    | none => s
    | some _ => State.endHolds c k n (s.endHold c k)

def isTimer : Wait → Bool
  | .timer _ => true
  | _ => false

/-- What is left of the wait of an image once its pair has acted: results are delivered where it is stored. -/
def Slot.stillWaits (sl : Slot) : Option Hold :=
  match sl.hold with
  | none => none
  | some h => match h.w with
    | .results | .drain | .reads | .flagsOwed | .until _ => none
    | _ => some h

/-- The images in the model's slots wait on: the record keeps its state, with the wake word of its new wait. -/
def State.suspendAgain (s : State) (u : Susp) (sl : Slot) (w : Wait) (reissue : Bool) : State :=
  let others := u.others.filterMap fun m => (s.slot m.1 ghost).map fun x => (m.1, x)
  let (wake, arg) := s.wakeOf u.core sl w
  let s := if wake = 0 then s else
    let s := s.modRec u.ctx u.idx fun x => setWake x wake
    s.devWrite sl.ctx sl.frame.toNat 64 (putBits (s.frameHdr sl.ctx sl.frame.toNat) 191 128 arg)
  { s with suspended := s.suspended.map fun x =>
      if x.ctx == u.ctx && x.idx == u.idx then { x with img := sl, others := others, w := w, reissue := reissue } else x }

/-- Every register that is carried is sound in the images; else the first that is poisoned (R277). -/
def State.imagePoison (s : State) (crew : List (Nat × Nat)) (sl : Slot) : Option Nat :=
  crew.findSome? fun m => (s.slot m.1 m.2).bind fun x => s.slotPoison { x with hold := sl.hold, pc := sl.pc, lastPc := sl.lastPc }

/-- BLOCKED_OPERATION_FINISH (R63): the blocking operation is finished in the image, and its results go to the frame or
the container. A pair that traps there, or whose results cannot be saved, is left as it was, and the continuation runs it
in a slot when it is picked up; a result that comes in poisoned traps there (log 72). A pair that waits again, for
something else, goes on waiting; one that ends its continuation's stay leaves nothing here. -/
def State.finishBlocked (s0 : State) (u : Susp) : State :=
  let leave (r : Redo) : State := { s0 with suspended := s0.suspended.map fun x =>
    if x.ctx == u.ctx && x.idx == u.idx then { x with finished := true, redo := r, w := .results } else x }
  let crew := (u.core, ghost) :: u.others.map fun m => (m.1, ghost)
  let s := s0.raiseImage u
  let s := crew.foldl (fun s m => State.endHolds m.1 m.2 1 s) s
  let s := if u.reissue then
      (match issueAt planRun u.core ghost s with
        | .next s => crew.foldl (fun s m => s.csrNow m.1 m.2 16) s
        | _ => s)
    else s
  let clear (s : State) : State := crew.foldl (fun s m => s.putSlot m.1 m.2 none) s
  match s.slot u.core ghost with
  | none =>
    if recState (s.readRec u.ctx u.idx) = 5 then leave .pair
    else
      let s := clear s
      { s with suspended := s.suspended.filter fun x => !(x.ctx == u.ctx && x.idx == u.idx) }
  | some sl =>
    let holds := crew.filterMap fun m => (s.slot m.1 m.2).bind Slot.stillWaits
    if !holds.isEmpty then
      clear (s.suspendAgain u sl (match sl.stillWaits with | some h => h.w | none => .until 0) (holds.any Hold.reissue))
    else if !s.proxyDone u.ctx u.idx then clear (s.suspendAgain u { sl with hold := none } .results false)
    else
    let s := crew.foldl (fun s m => s.modSlot m.1 m.2 fun sl => { Slot.drain s.now sl with hold := none }) s
    match s.slot u.core ghost with
    | none => s
    | some sl =>
      match s.imagePoison crew sl with
      | some r =>
        let others := u.others.filterMap fun m => (s.slot m.1 ghost).map fun x => (m.1, x)
        { clear s with suspended := (clear s).suspended.map fun x => if x.ctx == u.ctx && x.idx == u.idx then
            { x with img := sl, others := others, finished := true, reissue := false, redo := .poison r, w := .results } else x }
      | none =>
      let others := u.others.filterMap fun m => (s.slot m.1 ghost).map fun x => (m.1, x)
      match s.storeAgain u.core sl (bits (s.frameHdr sl.ctx sl.frame.toNat) 191 128) with
      | .error _ => leave .pair
      | .ok s =>
        let s := clear s
        { s with suspended := s.suspended.map fun x =>
            if x.ctx == u.ctx && x.idx == u.idx then
              { x with img := sl, others := others, finished := true, reissue := false,
                       w := if isTimer x.w then x.w else .results } else x }

def State.suspOf (s : State) (ctx idx : Nat) : Option Susp := s.suspended.find? fun u => u.ctx == ctx && u.idx == idx

def execBlockedOperationFinish (ctx idx : Nat) (s : State) : Host.Outcome State Fault Refusal :=
  match s.suspOf ctx idx with
  | none => .next s
  | some u => .next (if u.finished || !s.suspOver u then s else s.finishBlocked u)

/-! ## Wake (R67, R76) -/

/-- The die whose chain a record enters on waking or at RESUME: the one of the core in its frame header. -/
def State.wakeDie (s : State) (ctx idx : Nat) : Nat :=
  s.dieFor (dieOf (bits (s.frameHdr ctx (recFrame (s.readRec ctx idx))) 73 64))

/-- The record cannot be picked up: state 5 with its trap (R55), or a fatal XLATE (R60). NPC is that of the container for a
native record; a VIRT record, and one that is in no slot, has no native pair, and 0 stands there (log 73). -/
def State.refuseRec (s : State) (d c k : Nat) (r : RecId) (t : Trap) : State :=
  let rc := s.readRec r.ctx r.idx
  let npc := if !t.fatal && recVpc rc / 2 ^ 44 = 0 then
      ofBytes (((getField (s.containerFields r.ctx r.idx) 7 0).getD []).take 8)
    else 0
  s.recordTrap d c k r.ctx r.idx t (recVpc rc) npc (s.ltime (s.launchOfRec r.ctx r.idx) (s.imageOfRec r.ctx r.idx))

/-- R60: the pool's header, the record, its frame with the spill area in use, or a descriptor of its domains has no
translation: where. -/
def State.lostRec (s : State) (ctx idx : Nat) : Option Nat :=
  let r := s.readRec ctx idx
  let f := recFrame r
  (((s.devWritable ctx (s.recVa ctx 0) 64).orElse fun _ => (s.devWritable ctx (s.recVa ctx idx) 64).orElse fun _ =>
    (s.devWritable ctx f 64).orElse fun _ =>
      s.devWritable ctx f (64 + min (bits (s.frameHdr ctx f) 31 0) (s.frameStride ctx - 64))).map Prod.snd).orElse fun _ =>
    s.lostDomain ctx (bits (s.pool ctx) 351 320) 8 (recDom r)

/-- A written-back record becomes ready; an evicted one at the head of its chain. -/
def State.wakeRec (s : State) (ctx idx : Nat) : State :=
  let r := s.readRec ctx idx
  let s := { s with suspended := s.suspended.filter fun u => !(u.ctx == ctx && u.idx == idx) || u.redo ≠ Redo.none }
  let d := s.wakeDie ctx idx
  let s := if recState r = 7 then { s with headed := s.headed.filter (· ≠ ⟨ctx, idx⟩) ++ [⟨ctx, idx⟩] } else s
  ((s.unregister ctx idx).modRec ctx idx fun x => setWake (setState x 2) 0).makeReady d (recPrio r) ⟨ctx, idx⟩
    (recState r = 7)

/-- The record wakes; one whose frame or record the device can no longer read has a fatal XLATE in place of that (R60). -/
def State.wakeSusp (s : State) (u : Susp) : State :=
  match s.lostRec u.ctx u.idx with
  | some a =>
    let s := (s.unregister u.ctx u.idx).refuseRec (dieOf u.core) u.core u.img.slotNo ⟨u.ctx, u.idx⟩ ⟨XLATE, memInfo 1 a 64, a, true⟩
    { s with suspended := s.suspended.filter fun x => !(x.ctx == u.ctx && x.idx == u.idx) }
  | none => s.wakeRec u.ctx u.idx

/-- The record is written back, in state 4 or 7. -/
def State.standsBack (s : State) (u : Susp) : Bool := recState (s.readRec u.ctx u.idx) ∈ [4, 7]

/-- WAKE: the wake condition of a record in state 4 or 7 holds, and what it owed is in place. -/
def execWake (ctx idx : Nat) (s : State) : Host.Outcome State Fault Refusal :=
  match s.suspOf ctx idx with
  | none => .next s
  | some u => .next (if u.finished && !isTimer u.w && s.standsBack u && s.suspOver u then s.wakeSusp u else s)

/-- TIMER_WAKE: LTIME has reached the operand. -/
def execTimerWake (ctx idx : Nat) (s : State) : Host.Outcome State Fault Refusal :=
  match s.suspOf ctx idx with
  | none => .next s
  | some u => .next (if u.finished && isTimer u.w && s.standsBack u && s.suspOver u then s.wakeSusp u else s)

/-! ## Pickup (R55, R124, R412, R414) -/

/-- The container of a record, when it is its own and holds something. -/
def State.ownContainer (s : State) (ctx idx : Nat) : Option Nat :=
  let h := s.containerHdr ctx idx
  if (s.saved.any fun x => x.1 == ⟨ctx, idx⟩) && hdrMagic h = 0x56415343 && hdrCause h ≠ 0 then some h else none

/-- The fields that this part restores (R452); none when the restore is refused. -/
def State.ownFields (s : State) (ctx idx : Nat) (h : Nat) : Option (List Field) :=
  let fs := s.containerFields ctx idx
  if hdrRev h = Config.containerRev then some fs else foreignFields fs

/-- An operation of a body starts at an offset, its `.endt` among them (log 88). -/
def Body.startsOp (b : Body) (off : Nat) : Bool := b.ops.contains off || off == b.off + b.len

/-- R55: the first check that fails. -/
def State.recFault (s : State) (ctx idx : Nat) : Option Trap :=
  let r := s.readRec ctx idx
  let prot : Trap := protTrap 0
  if (s.readVa ⟨ctx, true, 0⟩ .load (s.recVa ctx idx) 64).2 || crc16 r 62 ≠ recChk r then some (trapInfo MCHECK 1)
  else if bits r 255 250 ≠ 0 || bits r 239 237 ≠ 0 || 4 < recGang r || 10 ≤ recWakeType r then some prot
  else if recVpc r / 2 ^ 44 = 0 then
    match s.ownContainer ctx idx with
    | none => some prot
    | some h => match s.ownFields ctx idx h with
      | none => some prot
      | some fs => match getField fs 7 0 with
        | none => some prot
        | some d => if recVpc r ≠ 0 || ofBytes (d.take 8) % 8 ≠ 0 then some prot
            else if (s.domms ctx (recDom r)).isNone then some prot else none
  else match s.object (recVpc r / 2 ^ 44) with
    | none => some prot
    | some o =>
      if !(o.bodies.any fun b => b.startsOp (recVpc r % 2 ^ 44)) then some prot
      else if (s.domms ctx (recDom r)).isNone then some prot
      else match s.ownContainer ctx idx with
        | none => none
        | some h => if (s.ownFields ctx idx h).isNone then some prot else none

/-- The registers of a VIRT = 1 trap that no native file holds: in their frame slots, where the leader's frame has room
for them, else as the model has kept them. -/
def State.hiddenVals (s : State) (ctx idx frame m : Nat) (map : List CarryLoc) : List (Nat × Nat × Nat × Nat) :=
  let hid := inFrame map
  if m = 0 && spillOf hid + 64 ≤ s.frameStride ctx then
    mapVals hid (s.refill ctx frame hid { s := [], v := [], p := [], la := VReg.zero, lc := VReg.zero })
  else ((s.virtKept.find? fun y => y.1.1 == ⟨ctx, idx⟩ && y.1.2 == m).map fun y => y.2.vals).getD []

/-- The registers of a VIRT = 1 trap, read at the places its recovery map names (R275, R280); on a part of another
revision those in registers stand in VIRT (R452). -/
def State.trapVals (s : State) (ctx idx frame m : Nat) (rev : Nat) (map : List CarryLoc) (fs : List Field) :
    List (Nat × Nat × Nat × Nat) :=
  (if rev = Config.containerRev then mapVals (map.filter fun c => decide (c.loc < hiddenReg)) (regsOfFields fs m)
  else virtOf ((getField fs 8 m).getD [])) ++ s.hiddenVals ctx idx frame m map

/-- What pickup reads of a member's state. -/
structure Restored where
  fields : List Field
  /-- the registers stand in the fields, not in the frame. -/
  fromFields : Bool
  vals : List (Nat × Nat × Nat × Nat)

/-- The restored state of member m of a record (R124, R280, R312, R451, R452, R515). -/
def State.restored (s : State) (ctx idx m : Nat) (r : Nat) : Restored :=
  match s.ownContainer ctx idx with
  | none => ⟨[], false, []⟩
  | some h =>
    let fs := (s.ownFields ctx idx h).getD []
    if hdrCause h = 1 then
      let map := ((s.saved.find? fun x => x.1 == ⟨ctx, idx⟩).map Prod.snd).getD []
      ⟨fs, true, s.trapVals ctx idx (recFrame r) m (hdrRev h) map fs⟩
    else if hdrCause h = 3 && m ≠ 0 then ⟨fs, true, virtOf ((getField fs 8 m).getD [])⟩
    else ⟨fs, false, []⟩

/-- The program of member m of a record that its VPC names: the calls and the body in force when it left its slots, where
the VPC still lies in that body (log 86); else a task that begins there. -/
def State.virtOfRec (s : State) (ctx idx m vpc : Nat) (x : Restored) : Virt :=
  let h := vpc / 2 ^ 44
  let off := vpc % 2 ^ 44
  let bodies := match s.object h with | some o => o.bodies | none => []
  let body := (bodies.find? fun b => b.ops.contains off).orElse fun _ => bodies.find? fun b => b.startsOp off
  let fresh : Virt := { handle := h, off := off, body := (body.map Body.off).getD 0, gen := 0,
                        base := 0, entered := false, src := 1, vals := [], passed := false, calls := [], reads := [],
                        writes := [] }
  let v := match s.virtKept.find? fun y => y.1.1 == ⟨ctx, idx⟩ && y.1.2 == m with
    | some (_, v) => if v.handle == h && bodies.any (fun b => b.off == v.body && b.startsOp off) then
        { v with off := off, passed := v.passed && v.off == off } else fresh
    | none => fresh
  { v with src := if x.fromFields then 2 else 1, vals := x.vals }

/-- The slot of member m of a record as pickup loads it. No mark of a poisoned register outlives the stay in a slot
(log 77). -/
def State.loadSlot (s : State) (c k ctx idx m : Nat) (gi : Option Gang) : Slot :=
  let r := s.readRec ctx idx
  let hd := s.frameHdr ctx (recFrame r)
  let domms := (s.domms ctx (recDom r)).getD []
  let native := recVpc r / 2 ^ 44 = 0
  let x := s.restored ctx idx m r
  let cs := if native || (getField x.fields 6 m).isSome then csrsOfFields x.fields m domms else csrsOfFrame hd domms
  let clean : Regs := { s := [], v := [], p := [], la := VReg.zero, lc := VReg.zero }
  let va := s.recVa ctx idx
  { ctx := ctx, idx := idx, recVa := BitVec.ofNat 64 va, recPa := (s.physOf ctx va).getD 0,
    gen := BitVec.ofNat 16 (recGen r), prio := recPrio r, gang := recGang r, matrix := recMatrix r,
    launch := s.launchOfRec ctx idx, image := s.imageOfRec ctx idx, native := native,
    virt := if native then none else some (s.virtOfRec ctx idx m (recVpc r) x),
    pc := if native then BitVec.ofNat 64 (ofBytes ((getField x.fields 7 m).getD [])) else 0, lastPc := 0,
    args := BitVec.ofNat 64 (recArgs r), frame := BitVec.ofNat 64 (recFrame r), dom := BitVec.ofNat 32 (recDom r),
    regs := if native then regsOfFields x.fields m else clean,
    csrs := cs, pickup := s.now, pending := [], csrPend := [], nextId := 0, seq := 1, issuedAt := s.now, gapUntil := s.now,
    readySince := s.now, hold := none, quantum := [], qcount := 0, asm := [], poisoned := [], failedNr := false, failedNor := false, noEvict := false,
    phase0 := BitVec.ofNat 32 (bits hd 63 32), touched := BitVec.ofNat 10 (recTouched r ||| 2 ^ dieOf c),
    slotNo := k, gangInfo := gi }

/-- R289: a cluster is assigned to a context, in its reset state. A `gfuse` that is pending on it stays so (R314). -/
def State.assignCluster (s : State) (cl x : Nat) : State :=
  let cores := (List.range 16).map fun i => coreAt cl (i % 4) (i / 4)
  let s := cores.foldl (fun s c => s.modCore c fun y => { y with fifo := sput (sput y.fifo 4 []) 5 [] }) s
  { s.modClus cl fun y => { Cluster.reset with holder := some x, fuses := y.fuses } with
    flights := s.flights.filter fun f => !(f.port < 8 && clusterOf f.core == cl) }

/-- R414: a record is placed on a core of a cluster; one that no context holds is assigned anew. -/
def State.takeCluster (s : State) (cl x : Nat) : State :=
  match s.holderNow cl with
  | none => s.assignCluster cl x
  | some _ => s

/-- The core of a record's frame header. -/
def State.recCore (s : State) (ctx r : Nat) : Nat := bits (s.frameHdr ctx (recFrame r)) 73 64

/-- R412, R414: slot of core c may take record r. -/
def State.mayTake (s : State) (d c : Nat) (r : RecId) : Bool :=
  let rc := s.readRec r.ctx r.idx
  let cl := clusterOf c
  let level0 := match s.domms r.ctx (recDom rc) with
    | some l => decide (sget (0 : Half) l 0 ≠ 0)
    | none => false
  recGang rc = 0
  && (!recPinned rc || s.recCore r.ctx rc = c)
  && !(recMatrix rc && (s.ownerSlot c).isSome)
  && (match (s.die d).drain with | some (k, _) => clusterOf k ≠ cl | none => true)
  && (!level0 || (match s.holderNow cl with | none => true | some x => x == r.ctx))
  && !(s.core c).dead

/-- The ready records of a die, highest priority first, each chain in order. -/
def Die.readyList (x : Die) : List RecId :=
  (List.range 32).reverse.flatMap fun p => sget [] x.ready p

/-- The record that a free slot of core c takes (R76, R412). -/
def State.pickFor (s : State) (d c : Nat) : Option RecId := (s.die d).readyList.find? (s.mayTake d c)

def State.freeAt (s : State) (c k : Nat) : Bool := decide (k < 8) && (s.slot c k).isNone

/-- The first pickup of a launch's records, or of the records restored from an image, starts its timebase (R146, R409). -/
def State.firstPickup (s : State) (r : RecId) : State :=
  match s.launchOfRec r.ctx r.idx with
  | none => match s.imageOfRec r.ctx r.idx with
    | some i => if s.images.any fun x => x.1 == i then s else { s with images := s.images ++ [(i, s.now)] }
    | none => s
  | some l => s.modLaunch l fun x => { x with firstPickup := some (x.firstPickup.getD s.now) }

/-- The matrix unit of a core at the pickup of an owner (R129, R266): INB is cleared when it is another context's. -/
def State.takeMatrix (s : State) (c ctx idx m : Nat) : State :=
  let fs := (s.restored ctx idx m (s.readRec ctx idx)).fields
  s.modCore c fun x =>
    let x := x.restoreMatrix fs m
    { x with inb := if x.inb = .empty || x.inbCtx = some ctx then x.inb else .empty }

/-- The member of a level-0 domain on its core (R75, R309). -/
def State.showMember (s : State) (c : Nat) (sl : Slot) : State :=
  let d : Half := sget 0 sl.csrs.domm 0
  if d = 0 then s else s.modCore c fun x => { x with member := some (sl.ctx, d), count0 := sl.phase0 }

/-- R449: the container has been read. -/
def State.clearCause (s : State) (ctx idx : Nat) : State :=
  match s.ownContainer ctx idx with
  | none => s
  | some _ => s.devWrite ctx (s.containerVa ctx idx + 21) 1 0

/-- Of a program's registers those that are live, and the linkage entries that its operation has read; every other one is
zero of its type (R124). -/
def keepLive (ts : List Byte) (live : List CarryLoc) (r : Regs) : Regs :=
  let x := live.foldl (fun (x : Regs) c => match c.kind with
    | 1 => { x with s := sset 0 x.s c.loc (r.sr c.loc) }
    | 2 => { x with v := sset VReg.zero x.v c.loc (r.vr c.loc) }
    | 3 => { x with p := sset 0 x.p c.loc (r.pr c.loc) }
    | _ => x) (zeroRegs ts)
  (List.range 32).foldl (fun x j => { x with s := sset 0 x.s (linkReg j) (r.sr (linkReg j)) }) x

/-- An image as it stands in a slot again: no result is outstanding, and of a Nalfen program's registers those that its pair
still needs are named (R124). -/
def State.resumed (s : State) (sl : Slot) : Slot :=
  let x := Slot.drain s.now sl
  match x.virt.bind fun v => s.translationAt v.base, s.tpair x x.pc.toNat with
  | some t, some p => { x with regs := keepLive t.types p.live x.regs }
  | _, _ => x

/-- A picked-up record whose operation could not be finished for it takes up its images again (log 72): the pair is to
issue once more, or the poisoned register traps. -/
def State.takeUp (s0 : State) (r : RecId) (places : List (Nat × Nat)) : State :=
  let s := s0.acceptReqs r.ctx r.idx true
  match s.suspOf r.ctx r.idx with
  | none => s0
  | some u =>
    let imgs := u.img :: u.others.map Prod.snd
    let s := { s with suspended := s.suspended.filter fun x => !(x.ctx == r.ctx && x.idx == r.idx) }
    let s := (places.zip imgs).foldl (fun (s : State) x => s.modSlot x.1.1 x.1.2 fun now =>
      { (if u.redo = .pair then s.resumed x.2 else Slot.drain s.now x.2) with
        pickup := s.now, hold := none, issuedAt := s.now, gapUntil := s.now, readySince := s.now, touched := now.touched,
        gangInfo := now.gangInfo, prio := now.prio, slotNo := now.slotNo }) s
    match u.redo with
    | .poison c =>
      let (lead, k) := places.headD (0, 0)
      s.takeTrap lead k (trapInfo MCHECK (2 + regInfo c * 256)) false true u.img.holdPc u.img.afterPc
    | _ => s

/-- A record is picked up by one slot, or by one slot of each core of a gang, the leader's first. -/
def State.pickUp (s : State) (d : Nat) (r : RecId) (places : List (Nat × Nat)) : State :=
  let (lead, k) := places.headD (0, 0)
  let s := s.unchain r
  match s.lostRec r.ctx r.idx with
  | some a => s.refuseRec d lead k r ⟨XLATE, memInfo 1 a 64, a, true⟩
  | none =>
  match s.recFault r.ctx r.idx with
  | some t => s.refuseRec d lead k r t
  | none =>
    let s := (s.firstPickup r).takeCluster (clusterOf lead) r.ctx
    let gang : Option Gang := if places.length ≤ 1 then none else some ⟨places.length, 0, lead, k, false, places⟩
    let s' := places.zipIdx.foldl (fun (t : State) x =>
      let ((c, k), m) := x
      let sl := s.loadSlot c k r.ctx r.idx m (gang.map fun g => { g with index := m })
      let t := (t.putSlot c k (some sl)).showMember c sl
      if sl.matrix then t.takeMatrix c r.ctx r.idx m else t) s
    ((s'.clearCause r.ctx r.idx).modRec r.ctx r.idx fun x => setWake (setState x 3) 0).takeUp r places

end Sys2Proof.Machine
end

