-- ==== Sys2Proof/Machine/Packets.lean ====
section
/-!
DEFINITION. What launches and engine operations share (R380-R394): packets and their fields, shared queues, transfer ids
and their completion, and the inbox.
-/
namespace Sys2Proof.Machine

/-! ## Packet fields (Table Engines-1); a packet is a number of 512 bits -/

def Packet.n (p : Packet) : Nat := p.words.toNat
def Packet.type (p : Packet) : Nat := bits p.n 7 0
def Packet.ordered (p : Packet) : Bool := bit p.n 8
def Packet.overlap (p : Packet) : Bool := bit p.n 9
def Packet.notify (p : Packet) : Bool := bit p.n 10
def Packet.acq (p : Packet) : Bool := bit p.n 11
def Packet.rel (p : Packet) : Bool := bit p.n 12
def Packet.channel (p : Packet) : Nat := bits p.n 17 16
def Packet.prio (p : Packet) : Nat := bits p.n 28 24
def Packet.ncore (p : Packet) : Nat := bits p.n 41 32
def Packet.tag (p : Packet) : Nat := bits p.n 63 48
/-- Reserved bits of bytes 0-7. -/
def Packet.headerBad (p : Packet) : Bool :=
  bits p.n 15 13 ≠ 0 || bits p.n 23 18 ≠ 0 || bits p.n 31 29 ≠ 0 || bits p.n 47 42 ≠ 0

/-! ## Completion (R385, R387, R389) -/

/-- XFDONE of a channel advances over what is complete. -/
def Core.advance (ch : Nat) : Nat → Core → Core
  | 0, x => x
  | n + 1, x =>
    let d : Half := sget 0 x.xfdone ch
    if x.xcomp.contains (ch, d) then
      Core.advance ch n { x with xfdone := sset 0 x.xfdone ch (d + 1), xcomp := x.xcomp.filter (· ≠ (ch, d)) }
    else x

/-- Mark an id of a channel complete. -/
def State.markComplete (s : State) (core ch : Nat) (id : Half) : State :=
  s.modCore core fun x => Core.advance ch (x.xcomp.length + 1) { x with xcomp := x.xcomp ++ [(ch, id)] }

/-- A message that finds no room is lost (R389). -/
def State.loseMessage (s : State) (c : Nat) : State :=
  s.modCore c fun x => { x with lost := if x.lost = BitVec.allOnes 32 then x.lost else x.lost + 1 }

/-- INBOX_MESSAGE (R389): to the inbox, the spill ring, or lost. -/
def State.message (s : State) (c : Nat) (w : Word) : State :=
  let x := s.core c
  if x.inbox.length < 64 then s.modCore c fun x => { x with inbox := x.inbox ++ [w] }
  else if x.spillBase = 0 || 512 ≤ x.ringCount then s.loseMessage c
  else
    let va := x.spillBase.toNat + 8 * ((x.ringHead + x.ringCount) % 512)
    if (s.devWritable x.spillCtx va 8).isSome then s.loseMessage c
    else (s.devWrite x.spillCtx va 8 w.toNat).modCore c fun x => { x with ringCount := x.ringCount + 1 }

/-- The completion message of Table Engines-6. -/
def messageOf (p : Packet) (status : Nat) : Word :=
  BitVec.ofNat 64 (p.xid.toNat + p.channel * 2 ^ 32 + status * 2 ^ 40 + p.tag * 2 ^ 48)

/-- R387, step 2: the operation is complete, and its message is sent, in one step. -/
def State.complete (s : State) (p : Packet) (status : Nat) : State :=
  let s := s.markComplete p.ncore p.channel p.xid
  if p.notify then s.message p.ncore (messageOf p status) else s

/-! ## Shared queues (R392-R394) -/

def State.queue (s : State) (q : Nat) : Option Queue := s.queues.find? fun x => x.id == q
def Queue.n (q : Queue) : Nat := 2 ^ q.log2n

def State.queueRidx (s : State) (q : Queue) : Nat := s.devGet q.ctx q.ridx.toNat 8
def State.queueWidx (s : State) (q : Queue) : Nat := s.devGet q.ctx q.widx.toNat 8
/-- The slot that the engine serves next. -/
def State.queueSlot (s : State) (q : Queue) : Nat := q.ring + 64 * (s.queueRidx q % q.n)

/-- The next slot has been claimed and published (R393). -/
def State.queueReady (s : State) (q : Queue) : Bool :=
  let r := s.queueRidx q
  let ahead := (s.queueWidx q + 2 ^ 64 - r) % 2 ^ 64
  !q.err && decide (0 < ahead) && decide (ahead < 2 ^ 63) && decide (s.devGet q.ctx (s.queueSlot q + 56) 8 = r)

/-- Take the packet of the next slot: it gets its id, and RIDX moves on (R393). The read and the write reach the directory
(R323, R330). -/
def State.takeSlot (s : State) (q : Queue) : State × Packet :=
  let w : BitVec 512 := BitVec.ofNat 512 (s.devGet q.ctx (s.queueSlot q) 64)
  let s := s.devEffects State.unitReads .load q.ctx (s.queueSlot q) 64
  let (s, id) := s.takeId (pktNcore w) (pktChannel w)
  (s.devWrite q.ctx q.ridx.toNat 8 (s.queueRidx q + 1),
    { words := w, ctx := q.ctx, native := false, core := pktNcore w, queue := some q.id, xid := id, port := q.target + 1,
      by_ := none })

/-- R394: ERR of the descriptor shows that the queue has stopped. -/
def State.showErr (s : State) (q : Queue) : State := s.devWrite q.ctx (q.desc.toNat + 24) 1 1
def State.errShown (s : State) (q : Queue) : Bool := decide (s.devGet q.ctx (q.desc.toNat + 24) 1 = 1)

end Sys2Proof.Machine
end

