-- ==== Sys2Proof/Machine/Dispatcher.lean ====
section
/-!
DEFINITION. The dispatcher (R405-R425): launches, moves between dies, gang placement, classification, the supervisor's
requests, and the end of a context.
-/
namespace Sys2Proof.Machine

/-! ## The LAUNCH packet (Table Dispatch-1) -/

def lEntry (p : Packet) : Nat := bits p.n 127 64
def lArgs (p : Packet) : Nat := bits p.n 191 128
def lDone (p : Packet) : Nat := bits p.n 255 192
def lCount (p : Packet) : Nat := bits p.n 287 256
def lDom (p : Packet) : Nat := bits p.n 319 288
def lStride (p : Packet) : Nat := bits p.n 351 320
def lDies (p : Packet) : Nat := bits p.n 383 376
def lMatrix (p : Packet) : Bool := bit p.n 393
def lGang (p : Packet) : Nat := bits p.n 396 394
def lGopt (p : Packet) : Bool := bit p.n 397

/-- The CSRs of an initial record's frame header (R408). -/
def lCsrs (p : Packet) : Csrs :=
  { flags := 0, ftrap := BitVec.ofNat 8 (bits p.n 375 368), fctl := BitVec.ofNat 3 (bits p.n 386 384),
    chk := BitVec.ofNat 2 (bits p.n 388 387), lead := BitVec.ofNat 4 (bits p.n 392 389),
    quant := BitVec.ofNat 16 (bits p.n 367 352), time := 0, xflast := 0, domm := [] }

def BADPKT : Nat := 0x01
def TERMINATED : Nat := 0x0B
def GANGTIMEOUT : Nat := 0x2B

/-! ## Acceptance -/

/-- A packet that breaks R380, R381 or R405 in its header: it is refused with BADPKT, one of another type as soon as it is
read, a LAUNCH on start; no completion record of it is written (R387). -/
def launchRefused (p : Packet) : Bool :=
  p.type ≠ 1 || p.headerBad || p.ordered || p.acq || p.rel

/-- The launch of a queue that was accepted last since its registration (R410). -/
def State.lastLaunch (s : State) (q : Queue) : Option Nat :=
  ((s.launches.filter fun l => l.queue == q.id && l.pkt.type == 1 && decide (q.first ≤ l.id)).getLast?).map Launch.id

/-- LAUNCH_ACCEPT (R393, R405, R407): the dispatcher reads a slot, once. A packet of another type is refused (R381). -/
def execLaunchAccept (q : Nat) (s : State) : Host.Outcome State Fault Refusal :=
  match s.queue q with
  | none => .next s
  | some x =>
    if x.target ≠ 3 || !s.queueReady x then .next s
    else
      let prev := s.lastLaunch x
      let (s, p) := s.takeSlot x
      let bad := p.type ≠ 1
      let l : Launch :=
        { id := s.nextLaunch, queue := q, pkt := p, started := bad, done := bad, completed := false, live := 0,
          retired := 0, timesum := 0, accepted := s.now, firstPickup := none, terminated := false,
          status := if bad then BADPKT else 0, prev := prev, ops := 0, bytes := 0, winAt := s.now, cls := none }
      .next { s with launches := s.launches ++ [l], nextLaunch := s.nextLaunch + 1 }

/-! ## Start (R407, R408, R410) -/

/-- R445: the dispatcher at which a launch arrived starts none while its die's OVF is set. -/
def State.launchStopped (s : State) (l : Launch) : Bool :=
  match s.queue l.queue with
  | some q => (s.die (s.dieFor q.die)).ovf
  | none => false

/-- R410: a launch may start. A predecessor that is no longer listed has completed. -/
def State.launchMayStart (s : State) (l : Launch) : Bool :=
  !l.started && !s.launchStopped l && match l.prev.bind s.launch with
    | none => true
    | some p => if l.pkt.overlap then p.started else p.completed

/-- How many queues have their turn at a die before queue q (R411). -/
def State.turnOf (s : State) (d q : Nat) : Nat := (q + s.nextQueue - (s.die d).turn % max 1 s.nextQueue) % max 1 s.nextQueue

/-- The lowest die that a launch names. -/
def lowDie (p : Packet) : Nat := ((List.range 8).find? fun d => bit (lDies p) d).getD 8

/-- R411: no launch of higher PRIO waits to start on a die of this one, and among equal ones that share its lowest die it is
its queue's turn there. Where equal launches share a die that is the lowest of neither, none goes before the other
(log 93). -/
def State.launchFirst (s : State) (l : Launch) : Bool :=
  let d := lowDie l.pkt
  s.launches.all fun x => !(s.launchMayStart x &&
    ((decide (l.pkt.prio < x.pkt.prio) && (lDies l.pkt &&& lDies x.pkt) ≠ 0)
      || (l.pkt.prio == x.pkt.prio && bit (lDies x.pkt) d && decide (s.turnOf d x.queue < s.turnOf d l.queue))))

/-- The dies of a launch that are not lost (R453). -/
def State.launchDies (s : State) (p : Packet) : List Nat :=
  (List.range 8).filter fun d => bit (lDies p) d && !(s.die d).lost

/-- The cores of a level-0 rectangle, in row-major order. -/
def rectOf (d : Nat) : List Nat :=
  (List.range (bits d 287 280)).flatMap fun j => (List.range (bits d 279 272)).map fun i =>
    (bits d 271 264 + j) * 64 + bits d 263 256 + i

/-- Check 4 of Table Dispatch-3. -/
def State.launchDomBad (s : State) (p : Packet) : Bool :=
  match s.domms p.ctx (lDom p) with
  | none => true
  | some l =>
    let d0 : Half := sget 0 l 0
    if d0 = 0 then false
    else
      let d := s.domain p.ctx d0.toNat
      let x0 := bits d 263 256; let y0 := bits d 271 264; let w := bits d 279 272; let h := bits d 287 280
      w = 0 || 64 < w || h = 0 || 16 < h || 64 < x0 + w || 16 < y0 + h || lCount p ≠ w * h || lGang p ≠ 0
        || (rectOf d).any fun c => !bit (lDies p) (dieOf c)

/-- The first check of Table Dispatch-3 that fails; 0 when none does. -/
def State.launchStatus (s : State) (p : Packet) (maxprio : Nat) : Nat :=
  if launchRefused p || bits p.n 447 398 ≠ 0 || 4 < lGang p || lDies p = 0 || lDone p % 64 ≠ 0 || s.maxGang p.ctx < lGang p
      || (lMatrix p && !s.matrixAllowed p.ctx) || lCount p = 0 then BADPKT
  else if maxprio < p.prio then 0x07
  else match s.bodyOf (lEntry p) with
    | none => BADPKT
    | some (o, _) =>
      if o.ctx ≠ p.ctx then BADPKT
      else if s.frameStride p.ctx - 64 < o.spillMax then 0x08
      else if s.launchDomBad p then 0x0A
      else if (s.launchDies p).isEmpty then TERMINATED
      else if bits (s.pool p.ctx) 95 64 < lCount p then 0x09 else 0

/-- Record j of a launch (R408). -/
def launchRec (p : Packet) (j : Nat) (core : Option Nat) : NewRec :=
  { vpc := lEntry p, args := (lArgs p + j * lStride p) % 2 ^ 64, dom := lDom p, keys := [], prio := p.prio,
    gang := lGang p, matrix := lMatrix p, csrs := lCsrs p, core := core.getD 0, pinned := core.isSome }

/-- The counts of a rectangle before any of its members runs (R309). -/
def State.clearRect (s : State) (cores : List Nat) : State :=
  cores.foldl (fun s c => s.modCore c fun x => { x with member := none, count0 := 0, seen := [] }) s

/-- A record that is to enter a ready chain: its die, and what it is created from. -/
abbrev Entrant : Type := Nat × RecId × NewRec

/-- R408: the initial records are created, each with the die whose chain it enters. -/
def State.createAll (s : State) (l : Launch) : State × List Entrant :=
  let p := l.pkt
  let d0 : Half := sget 0 ((s.domms p.ctx (lDom p)).getD []) 0
  let rect := if d0 = 0 then [] else rectOf (s.domain p.ctx d0.toNat)
  let dies := s.launchDies p
  (List.range (lCount p)).foldl (fun (s, es) j =>
    let core := rect[j]?
    let n := launchRec p j core
    let (s, idx) := s.allocRec p.ctx
    let r : RecId := ⟨p.ctx, idx⟩
    let d := match core with
      | some c => s.dieFor (dieOf c)
      | none => dies.getD (j % dies.length) 0
    ((s.fillRecord p.ctx idx n).joinLaunch r (some l.id), es ++ [(d, r, n)])) (s.clearRect rect, [])

/-- NORECORD raises FAILS, as an allocation that finds no record does (R59). -/
def State.raiseFails (s : State) (ctx : Nat) : State :=
  let h := s.pool ctx
  s.putPool ctx (putBits h 127 96 (min (bits h 127 96 + 1) (2 ^ 32 - 1)))

/-- R411: the turn at a launch's dies passes to the next queue. -/
def State.passTurn (s : State) (l : Launch) : State :=
  (List.range 8).foldl (fun s d => if bit (lDies l.pkt) d then s.modDie d fun x => { x with turn := l.queue + 1 } else s) s

/-- The status with which a launch starts. -/
def State.startStatus (s : State) (x : Launch) : Nat :=
  s.launchStatus x.pkt (match s.queue x.queue with | some q => q.maxprio | none => 31)

/-- One launch starts: it is checked (R407), and its records are created. -/
def State.startLaunch (s : State) (x : Launch) : State × List Entrant :=
  let st := s.startStatus x
  let s := (s.modLaunch x.id fun y => { y with started := true, done := st ≠ 0, status := st, winAt := s.now }).passTurn x
  if st = 0x09 then (s.raiseFails x.pkt.ctx, []) else if st = 0 then s.createAll x else (s, [])

/-- The launches of one PRIO that may start now, one after another in their turn, each with its queue and its records. -/
def State.startOthers (p : Nat) : Nat → State → State × List (Nat × List Entrant)
  | 0, s => (s, [])
  | n + 1, s => match s.launches.find? fun y => s.launchMayStart y && s.launchFirst y && y.pkt.prio == p with
    | none => (s, [])
    | some y =>
      let (s, es) := s.startLaunch y
      let (s, l) := startOthers p n s
      (s, (y.queue, es) :: l)

/-- Lists taken in turns of up to n. -/
def inTurns {α : Type} (n : Nat) : Nat → List (List α) → List α
  | 0, _ => []
  | k + 1, ls => ls.flatMap (List.take n) ++ inTurns n k (ls.map (List.drop n))

/-- The records of each queue, the queues in order of their first launch. -/
def byQueue (l : List (Nat × List Entrant)) : List (List Entrant) :=
  ((l.map Prod.fst).eraseDups).map fun q => (l.filter fun x => x.1 == q).flatMap Prod.snd

/-- R411: the records of launches that start at once enter each die's chain in turns of up to 64 records per queue. -/
def State.enterAll (s : State) (l : List (Nat × List Entrant)) : State :=
  let qs := byQueue l
  let k := qs.foldl (fun m es => max m (es.length / 64 + 1)) 0
  (List.range 8).foldl (fun s d => (inTurns 64 k (qs.map fun es => es.filter fun e => e.1 == d)).foldl
    (fun s (_, r, n) => s.enter d r n) s) s

/-- LAUNCH_START (R407-R411): the launch starts, and with it every launch of its PRIO that may start at that moment. -/
def execLaunchStart (l : Nat) (s : State) : Host.Outcome State Fault Refusal :=
  match s.launch l with
  | none => .next s
  | some x =>
    if !s.launchMayStart x || !s.launchFirst x then .next s
    else
      let (s, es) := s.startLaunch x
      let (s, more) := State.startOthers x.pkt.prio s.launches.length s
      .next (s.enterAll ((x.queue, es) :: more))

/-! ## Completion (R409) -/

/-- The status reported. -/
def Launch.final (l : Launch) : Nat := if l.status ≠ 0 then l.status else if l.terminated then TERMINATED else 0

/-- The completion record of Table Dispatch-4. -/
def State.completionRecord (s : State) (l : Launch) : Nat :=
  let (wait, time) := match l.firstPickup with
    | some t => (t - l.accepted, s.now - t)
    | none => (0, 0)
  l.final + min l.retired (2 ^ 32 - 1) * 2 ^ 32 + time % 2 ^ 64 * 2 ^ 64 + min l.timesum (2 ^ 64 - 1) * 2 ^ 128
    + wait % 2 ^ 64 * 2 ^ 192

/-- LAUNCH_COMPLETE (R387, R409): the completion record, the id and the message. -/
def execLaunchComplete (l : Nat) (s : State) : Host.Outcome State Fault Refusal :=
  match s.launch l with
  | none => .next s
  | some x =>
    if !x.started || x.completed || !(x.done || x.live = 0) || 0 < x.live then .next s
    else
      let p := x.pkt
      let s := if lDone p = 0 || lDone p % 64 ≠ 0 || launchRefused p || (s.devWritable p.ctx (lDone p) 64).isSome then s
        else s.devWrite p.ctx (lDone p) 64 (s.completionRecord x)
      let s := (s.modLaunch l fun y => { y with completed := true }).complete p x.final
      .next { s with launches := s.launches.filter fun y => !(y.completed && !s.launches.any fun z => z.prev == some y.id) }

/-! ## Moves (R413) -/

/-- A die has a free slot that a record may take. -/
def State.dieHasSlot (s : State) (d : Nat) (r : RecId) : Bool :=
  (List.range 1024).any fun c => dieOf c == d && s.mayTake d c r && (List.range 8).any fun k => s.freeAt c k

/-- A record of a chain of die src that R413 lets move: unpinned, with no slot of the die that it may take, and, when it came
back from an eviction, at the head of its chain. -/
def State.movable (s : State) (src : Nat) (r : RecId) : Bool :=
  let rc := s.readRec r.ctx r.idx
  (s.die src).readyList.contains r && !recPinned rc && !s.dieHasSlot src r
    && (!s.headed.contains r || (sget [] (s.die src).ready (recPrio rc)).head? == some r)

/-- Die dst may receive a record: the record's launch may run there, it has a slot that the record may take, and no ready
record of equal or higher priority (R413). -/
def State.receives (s : State) (dst : Nat) (r : RecId) : Bool :=
  let rc := s.readRec r.ctx r.idx
  let allowed := match (s.launchOfRec r.ctx r.idx).bind s.launch with
    | some l => (s.launchDies l.pkt).contains dst
    | none => false
  let rival := (s.die dst).readyList.any fun x => decide (recPrio rc ≤ recPrio (s.readRec x.ctx x.idx))
  allowed && s.dieHasSlot dst r && !rival

/-- A record of a chain of die src may move to die dst: no record behind it in its chain may (R413). -/
def State.moveOpen (s : State) (r : RecId) (src dst : Nat) : Bool :=
  let behind := ((sget [] (s.die src).ready (recPrio (s.readRec r.ctx r.idx))).dropWhile (· ≠ r)).drop 1
  src ≠ dst && s.movable src r && s.receives dst r && !(behind.any fun x => s.movable src x && s.receives dst x)

/-- READY_RECORD_MOVE (R413): from a chain of a die without a slot for it to the tail of another die's. -/
def execReadyRecordMove (ctx idx src dst : Nat) (s : State) : Host.Outcome State Fault Refusal :=
  let r : RecId := ⟨ctx, idx⟩
  if s.moveOpen r src dst then .next ((s.unchain r).makeReady dst (recPrio (s.readRec ctx idx)) r false) else .next s

/-! ## Eviction (R66, R419) -/

/-- A ready record of priority above the slot's may take the slot once it is free, has no slot of the die that it may take
now and no move to another, and the slot is the first choice: lowest priority, then longest wait (R419). -/
def State.evictFor (s : State) (d c k : Nat) (sl : Slot) (h : Hold) (r : RecId) : Bool :=
  let p := recPrio (s.readRec r.ctx r.idx)
  let open_ (c k : Nat) : Bool := (s.putSlot c k none).mayTake d c r
  let others := s.occupied.filterMap fun (c', k') => match s.slot c' k', s.canLeave c' k' with
    | some x, some h' => if dieOf c' = d && x.prio < p && !x.noEvict && open_ c' k' then some (x.prio, h'.since) else none
    | _, _ => none
  decide (sl.prio < p) && open_ c k
  && !s.dieHasSlot d r && !((List.range 8).any fun e => s.moveOpen r d e)
  && others.all fun (q, t) => decide (sl.prio < q) || (sl.prio == q && decide (h.since ≤ t))

/-- The dispatcher has one of R419's two grounds to evict the slot: a ready record of higher priority, or a gang for
which the rectangle that its core lies in is drained. -/
def State.evictable (s : State) (c k : Nat) : Bool :=
  match s.slot c k, s.canLeave c k with
  | some sl, some h =>
    let d := dieOf c
    !sl.noEvict && (((s.die d).readyList.any (s.evictFor d c k sl h))
      || (match (s.die d).drain with
        | some (lead, r) => (rectCores lead (recGang (s.readRec r.ctx r.idx))).contains c
            && decide (sl.prio ≤ recPrio (s.readRec r.ctx r.idx))
        | none => false))
  | _, _ => false

/-- EVICTION (R66, R419): a waiting continuation is written back in state 7. -/
def execEviction (core slot : Nat) (s : State) : Host.Outcome State Fault Refusal :=
  .next (if s.evictable core slot then s.writeBackHeld core slot 7 else s)

/-! ## Gangs (R310, R420, R421) -/

/-- Cycles since a gang record began to wait. -/
def State.gangWaited (s : State) (r : RecId) : Nat :=
  match s.gangSince.find? fun x => x.1 == r with
  | some (_, t) => s.now - t
  | none => 0

def cyclesPerUs : Nat := 1300

/-- The lowest free slot of a core. -/
def State.freeSlotOf (s : State) (c : Nat) : Option Nat := (List.range 8).find? (s.freeAt c)

/-- A gang may stand on the rectangle led by a core, with its leader in slot k (R310). -/
def State.gangFits (s : State) (d : Nat) (r : RecId) (leader k : Nat) : Bool :=
  let rc := s.readRec r.ctx r.idx
  let cores := rectCores leader (recGang rc)
  decide (recGang rc ≠ 0) && rectOk leader (recGang rc) && decide (dieOf leader = d)
  && s.freeAt leader k
  && cores.all (fun c => (s.freeSlotOf c).isSome && !(s.core c).dead
      && !(recMatrix rc && (s.ownerSlot c).isSome))
  && (!recPinned rc || s.recCore r.ctx rc = leader)
  && (match (s.die d).drain with | some (k, x) => clusterOf k ≠ clusterOf leader || x == r | none => true)
  && (match s.holderNow (clusterOf leader) with | none => true | some x => x == r.ctx)

/-- No record before the gang in the die's chains can use a slot of the rectangle (R76, R421). -/
def State.gangTurn (s : State) (d : Nat) (r : RecId) (leader : Nat) : Bool :=
  let cores := rectCores leader (recGang (s.readRec r.ctx r.idx))
  ((s.die d).readyList.takeWhile (· ≠ r)).all fun q =>
    !(cores.any fun c => s.mayTake d c q)
    && !((List.range 1024).any fun c => dieOf c == d && (List.range 8).any fun k => s.gangFits d q c k)

/-- The places of a gang: the leader in its slot, every other member in the lowest free slot of its core. -/
def State.gangPlaces (s : State) (leader k g : Nat) : List (Nat × Nat) :=
  (rectCores leader g).map fun c => (c, if c = leader then k else (s.freeSlotOf c).getD 0)

/-- GANG_PLACE (R310, R421). -/
def execGangPlace (die ctx idx leader slot : Nat) (s : State) : Host.Outcome State Fault Refusal :=
  let r : RecId := ⟨ctx, idx⟩
  if (s.die die).readyList.contains r && s.gangFits die r leader slot && s.gangTurn die r leader && !(s.die die).ovf
      && !(s.die die).lost then
    let s := s.modDie die fun x => { x with drain := match x.drain with | some (_, y) => if y = r then none else x.drain | none => none }
    .next (s.pickUp die r (s.gangPlaces leader slot (recGang (s.readRec ctx idx))))
  else .next s

/-- A gang stands on no rectangle that is free now, and stands at the head of its priority's chain: it waits (R421). -/
def State.gangStalled (s : State) (d : Nat) (r : RecId) : Bool :=
  let rc := s.readRec r.ctx r.idx
  decide (recGang rc ≠ 0) && (sget [] (s.die d).ready (recPrio rc)).head? == some r
    && !((List.range 1024).any fun c => dieOf c == d && (List.range 8).any fun k => s.gangFits d r c k)

/-- The waits of gangs as they stand: one that begins to wait is timed from now, one that no longer waits is not timed. -/
def State.timeGangs (s : State) : State :=
  let waits := s.dies.flatMap fun (d, x) => x.readyList.filter (s.gangStalled d)
  { s with gangSince := (s.gangSince.filter fun x => waits.contains x.1)
      ++ (waits.filter fun r => !(s.gangSince.any fun x => x.1 == r)).map fun r => (r, s.now) }

/-- The rectangle of a gang's shape led by core c is one that its context may hold (R414). -/
def State.rectOpen (s : State) (d : Nat) (r : RecId) (c : Nat) : Bool :=
  let rc := s.readRec r.ctx r.idx
  rectOk c (recGang rc) && dieOf c == d && (rectCores c (recGang rc)).all (fun m => !(s.core m).dead)
  && (!recPinned rc || s.recCore r.ctx rc = c)
  && (match s.holderNow (clusterOf c) with | none => true | some x => x == r.ctx)

/-- Free slots on the rectangle led by core c. -/
def State.rectRoom (s : State) (c g : Nat) : Nat :=
  (rectCores c g).foldl (fun n m => n + ((List.range 8).filter fun k => s.freeAt m k).length) 0

/-- The rectangle of a cluster that a gang may hold and that has the most free slots. -/
def State.bestRect (s : State) (d : Nat) (r : RecId) (cl : Nat) : Option Nat :=
  let g := recGang (s.readRec r.ctx r.idx)
  (((List.range 16).map fun i => coreAt cl (i % 4) (i / 4)).filter (s.rectOpen d r)).foldl (fun best c => match best with
    | none => some c
    | some b => if s.rectRoom b g < s.rectRoom c g then some c else some b) none

/-- No cluster of the die has a rectangle for the gang with more free slots than the one led by core c. -/
def State.mostRoom (s : State) (d : Nat) (r : RecId) (c : Nat) : Bool :=
  let g := recGang (s.readRec r.ctx r.idx)
  (List.range 64).all fun k => match s.bestRect d r k with
    | some b => decide (s.rectRoom b g ≤ s.rectRoom c g)
    | none => true

/-- GANG_DRAIN (R421): a gang that has waited for GANGWAIT and still finds no rectangle free has a cluster drained, one with
a rectangle that has the most free slots; the leading core of that rectangle is kept with it. -/
def execGangDrain (die cluster ctx idx : Nat) (s : State) : Host.Outcome State Fault Refusal :=
  let r : RecId := ⟨ctx, idx⟩
  match s.bestRect die r cluster with
  | none => .next s
  | some c =>
    if s.gangStalled die r && (s.die die).drain.isNone && s.mostRoom die r c && (s.gangSince.any fun x => x.1 == r)
        && s.gangWait * cyclesPerUs ≤ s.gangWaited r then
      .next (s.modDie die fun x => { x with drain := some (c, r) })
    else .next s

/-- GANG_TIMEOUT (R421): after GANGLIMIT more, the record is released un-ganged or ends with GANGTIMEOUT. -/
def execGangTimeout (ctx idx : Nat) (s : State) : Host.Outcome State Fault Refusal :=
  let r : RecId := ⟨ctx, idx⟩
  if !(s.gangSince.any fun x => x.1 == r) || s.gangWaited r < (s.gangWait + s.gangLimit) * cyclesPerUs then .next s
  else
    let undrain (x : Die) : Die :=
      { x with drain := match x.drain with | some (_, y) => if y = r then none else x.drain | none => none }
    let s : State := { s with dies := s.dies.map fun (d, x) => (d, undrain x) }
    match (s.launchOfRec ctx idx).bind s.launch with
    | some l =>
      if lGopt l.pkt then
        .next { s.modRec ctx idx (fun x => putBits x 231 229 0) with gangSince := s.gangSince.filter fun x => x.1 ≠ r }
      else
        let s := (s.modLaunch l.id fun y => { y with status := GANGTIMEOUT }).unchain r
        .next (s.endRecord r 0 false)
    | none =>
      .next ((s.unchain r).endRecord r 0 false)

/-! ## Pickup (R76, R412) -/

/-- A gang that stands before record r in the die's chains is about to be placed on a rectangle with core c. -/
def State.gangBefore (s : State) (d c : Nat) (r : RecId) : Bool :=
  ((s.die d).readyList.takeWhile (· ≠ r)).any fun q =>
    (List.range 1024).any fun lead => dieOf lead == d && (rectCores lead (recGang (s.readRec q.ctx q.idx))).contains c
      && s.gangTurn d q lead && (List.range 8).any fun k => s.gangFits d q lead k

/-- RECORD_PICKUP (R55, R76, R124, R412): the head of the highest chain that the free slot may take. -/
def execRecordPickup (die core slot ctx idx : Nat) (s : State) : Host.Outcome State Fault Refusal :=
  if s.freeAt core slot && dieOf core = die && s.pickFor die core = some ⟨ctx, idx⟩ && !s.gangBefore die core ⟨ctx, idx⟩
      && !(s.die die).ovf && !(s.die die).lost then
    .next (s.pickUp die ⟨ctx, idx⟩ [(core, slot)])
  else .next s

/-! ## Classification (R415) -/

/-- 100 µs in cycles. -/
def classWindow : Nat := 100 * cyclesPerUs

/-- CLASSIFY_WINDOW: the window of a started launch closes after 100 µs, and the ratio of what was counted in it decides the
class. -/
def execClassifyWindow (l ops bytes : Nat) (s : State) : Host.Outcome State Fault Refusal :=
  match s.launch l with
  | none => .next s
  | some x =>
    if !x.started || x.completed || x.ops ≠ ops || x.bytes ≠ bytes || s.now < x.winAt + classWindow then .next s
    else .next (s.modLaunch l fun y =>
      { y with ops := 0, bytes := 0, winAt := s.now, cls := some (decide (s.classThresh * bytes ≤ ops)) })

/-- Resident records of the other class on a cluster: what the dispatcher prefers for a record of a classified launch. -/
def State.otherClass (s : State) (r : RecId) (cl : Nat) : Nat :=
  match ((s.launchOfRec r.ctx r.idx).bind s.launch).bind Launch.cls with
  | none => 0
  | some b => (s.occupied.filter fun (c, k) => clusterOf c == cl &&
      ((s.slot c k).bind fun sl => (sl.launch.bind s.launch).bind Launch.cls) == some (!b)).length

/-! ## Requests (R423, R424) -/

/-- The record that a request names. -/
def State.reqRec (s : State) (r : Req) : Option Nat :=
  let base := (s.ctx r.ctx).contpool.toNat
  if r.arg0 < base || (r.arg0 - base) % 64 ≠ 0 then none
  else
    let i := (r.arg0 - base) / 64
    if i = 0 || bits (s.pool r.ctx) 31 0 ≤ i then none else some i

/-- R279: the record as RESUME restores it from RECCOPY: all but VPC for a Nalfen record, and a PRIO that was lowered. -/
def resumedRec (r copy : Nat) : Nat :=
  let vpc := if recVpc copy / 2 ^ 44 = 0 then recVpc copy else recVpc r
  putBits (putBits copy 63 0 vpc) 228 224 (min (recPrio r) (recPrio copy))

/-- A container that software wrote counts as the record's from RESUME on. A Nalfen record of no launch that is resumed
from such a container is restored from an image of its context (R146, R513; log 70). -/
def State.adoptContainer (s : State) (ctx idx : Nat) : State :=
  let h := s.containerHdr ctx idx
  if hdrMagic h = 0x56415343 && hdrCause h ≠ 0 && !(s.saved.any fun x => x.1 == ⟨ctx, idx⟩) then
    let s := s.markSaved ⟨ctx, idx⟩ []
    if recVpc (s.readRec ctx idx) / 2 ^ 44 ≠ 0 && (s.launchOfRec ctx idx).isNone && (s.imageOfRec ctx idx).isNone then
      { s with imageOf := s.imageOf ++ [(ctx, idx, ctx)] }
    else s
  else s

/-- RESUME (R279, R280, R424). -/
def execResume (r : Req) (s : State) : Host.Outcome State Fault Refusal :=
  match s.reqRec r with
  | none => .next (s.putStatus r 1)
  | some idx =>
    let rc := s.readRec r.ctx idx
    if recState rc ≠ 5 || s.fatal.contains ⟨r.ctx, idx⟩ then .next (s.putStatus r 2)
    else
      let s := s.adoptContainer r.ctx idx
      let rec' := match (s.ownContainer r.ctx idx).bind fun _ => getField (s.containerFields r.ctx idx) 9 0 with
        | some d => resumedRec rc (ofBytes (d.take 64))
        | none => rc
      let s := s.writeRec r.ctx idx (setWake (setState rec' 2) 0)
      .next ((s.makeReady (s.wakeDie r.ctx idx) (recPrio rec') ⟨r.ctx, idx⟩ true).putStatus r 0)

/-- TIME of a record that is in no slot. -/
def State.recTime (s : State) (ctx idx : Nat) : Nat :=
  match (s.ownContainer ctx idx).bind fun _ => getField (s.containerFields ctx idx) 6 0 with
  | some d => ofBytes ((d.drop 48).take 8)
  | none => bits (s.frameHdr ctx (recFrame (s.readRec ctx idx))) 255 192

/-- A record in state 5 that still stands in its slots leaves them (R448). -/
def State.clearResident (s : State) (ctx idx : Nat) : State :=
  s.occupied.foldl (fun s (c, k) => match s.slot c k with
    | some sl => if sl.ctx = ctx && sl.idx = idx then
        (if sl.matrix then s.clearUnit c else s).freeSlot c k else s
    | none => s) s

/-- The end of a record in state 5: what `retire` does, with no join add (R280). -/
def State.terminateRec (s : State) (ctx idx : Nat) : State :=
  let rc := s.readRec ctx idx
  let domm := (s.domms ctx (recDom rc)).getD []
  let pa := (s.physOf ctx (s.recVa ctx idx)).getD 0
  let time := s.recTime ctx idx
  let s := (s.clearResident ctx idx).leaveWorld (s.recCore ctx rc) ctx pa domm
  (s.unregister ctx idx).endRecord ⟨ctx, idx⟩ time true

/-- TERMINATE (R280, R424). -/
def execTerminate (r : Req) (s : State) : Host.Outcome State Fault Refusal :=
  match s.reqRec r with
  | none => .next (s.putStatus r 1)
  | some idx =>
    if recState (s.readRec r.ctx idx) ≠ 5 then .next (s.putStatus r 2)
    else .next ((s.terminateRec r.ctx idx).putStatus r 0)

/-- R392: LOG2N and the ring base of a descriptor. -/
def queueOf (id desc ctx d maxprio widxPa : Nat) : Queue :=
  { id := id, desc := BitVec.ofNat 64 desc, ctx := ctx, ring := bits d 63 12 * 4096, log2n := bits d 204 200,
    widx := BitVec.ofNat 64 (bits d 127 64), ridx := BitVec.ofNat 64 (bits d 191 128), widxPa := widxPa,
    die := bits d 7 5, target := bits d 4 3, maxprio := maxprio, err := false, first := 0 }

/-- R392, R424: a descriptor that cannot be registered. -/
def State.queueBad (s : State) (ctx desc : Nat) : Bool :=
  match s.devRead ctx desc 64 with
  | .error _ => true
  | .ok d =>
    let n := bits d 204 200
    n < 4 || 16 < n || bits d 63 12 * 4096 % max 4096 (64 * 2 ^ n) ≠ 0 || desc % 64 ≠ 0

/-- The index words of a queue that is registered afresh start at 0, and its ERR is 0 (R392, log 94). -/
def State.startIndices (s : State) (ctx desc d : Nat) : State :=
  ((s.devWrite ctx (bits d 127 64) 8 0).devWrite ctx (bits d 191 128) 8 0).devWrite ctx (desc + 24) 1 0

/-- QREG (R392, R394, R410, R424): a stopped queue is registered again from its descriptor, with ERR cleared and its indices
as they stand; what it launches from then on has no earlier launch for a predecessor. -/
def execQreg (r : Req) (s : State) : Host.Outcome State Fault Refusal :=
  let d := s.devGet r.ctx r.arg0 64
  let q := queueOf s.nextQueue r.arg0 r.ctx d r.arg1 ((s.physOf r.ctx (bits d 127 64)).getD 0)
  match s.queues.find? fun q => q.ctx == r.ctx && q.desc.toNat == r.arg0 with
  | some old =>
    if !old.err then .next (s.putStatus r 3)
    else if s.queueBad r.ctx r.arg0 then .next (s.putStatus r 1)
    else
      let s := s.devWrite r.ctx (r.arg0 + 24) 1 0
      let again (x : Queue) : Queue := if x.id = old.id then { q with id := old.id, first := s.nextLaunch } else x
      .next ({ s with queues := s.queues.map again }.putStatus r 0)
  | none =>
    if s.queueBad r.ctx r.arg0 then .next (s.putStatus r 1)
    else
      let s := s.startIndices r.ctx r.arg0 d
      .next ({ s with queues := s.queues ++ [q], nextQueue := s.nextQueue + 1 }.putStatus r 0)

/-- QUNREG (R394, R424). -/
def execQunreg (r : Req) (s : State) : Host.Outcome State Fault Refusal :=
  match s.queues.find? fun q => q.ctx == r.ctx && q.desc.toNat == r.arg0 with
  | none => .next (s.putStatus r 1)
  | some q =>
    if (s.launches.any fun l => l.queue == q.id && !l.started) || (!q.err && s.queueRidx q ≠ s.queueWidx q) then
      .next (s.putStatus r 3)
    else .next ({ s with queues := s.queues.filter fun x => x.id ≠ q.id }.putStatus r 0)

/-- SETPARAM (R424). -/
def execSetparam (r : Req) (s : State) : Host.Outcome State Fault Refusal :=
  if r.arg1 = 0 || 2 ^ 32 ≤ r.arg1 || 3 ≤ r.arg0 then .next (s.putStatus r 1)
  else
    let s := if r.arg0 = 0 then { s with gangWait := r.arg1 } else if r.arg0 = 1 then { s with gangLimit := r.arg1 }
      else { s with classThresh := r.arg1 }
    .next (s.putStatus r 0)

/-! ## The end of a context (R72, R296, R328, R508) -/

/-- The LINK of every record in a ready chain or a waiter chain, written anew (R53). -/
def State.relinkAll (s : State) : State :=
  s.dies.foldl (fun (s : State) x =>
    let s := x.2.ready.foldl (fun (s : State) l => s.linkChain l.2) s
    x.2.keys.foldl (fun (s : State) e => match e.2 with
      | some k => s.linkChain k.waiters
      | none => s) s) s

/-- The end of a context: its continuations leave their slots and chains, its tiles, registrations, key entries and queues
go, and no wait of it is left. -/
def State.destroyCtx (s : State) (ctx : Nat) : State :=
  let s := s.occupied.foldl (fun (s : State) x => match s.slot x.1 x.2 with
    | some sl => if sl.ctx = ctx then
        ((if sl.matrix then s.clearUnit x.1 else s).releaseHolder sl.recPa).freeSlot x.1 x.2 else s
    | none => s) s
  let gone (r : RecId) : Bool := r.ctx == ctx
  let s := s.wake fun x => s.tiles.any fun t => t.ctx == ctx && t.probes unitAgent .atomic x
  let held := s.dies.flatMap fun (d, x) => x.keys.filterMap fun (e, o) => o.bind fun k =>
    if (match k.holder with | some r => gone r | none => false) then some (d * 65536 + e) else none
  let s : State := { s with
    tiles := s.tiles.filter fun t => t.ctx ≠ ctx,
    suspended := s.suspended.filter fun u => u.ctx ≠ ctx,
    queues := s.queues.filter fun q => q.ctx ≠ ctx,
    launches := s.launches.filter fun l => l.pkt.ctx ≠ ctx,
    launchOf := s.launchOf.filter fun x => !gone x.1,
    fatal := s.fatal.filter fun r => !gone r, reserving := s.reserving.filter fun r => !gone r,
    bornOn := s.bornOn.filter fun x => !gone x.1, saved := s.saved.filter fun x => !gone x.1,
    stepIds := s.stepIds.filter fun x => !gone x.1, gangSince := s.gangSince.filter fun x => !gone x.1,
    headed := s.headed.filter fun r => !gone r,
    imageOf := s.imageOf.filter fun x => x.1 ≠ ctx, images := s.images.filter fun x => x.1 ≠ ctx,
    reqs := s.reqs.filter fun q => q.ctx ≠ ctx,
    clusters := s.clusters.map fun (k, x) => (k, { x with
      regs := x.regs.filter fun r => r.ctx ≠ ctx, fuses := x.fuses.filter fun f => f.ctx ≠ ctx,
      holder := if x.holder = some ctx then none else x.holder }),
    dies := s.dies.map fun (d, x) => (d, { x with
      ready := x.ready.map fun (p, l) => (p, l.filter fun r => !gone r),
      keys := x.keys.map fun (e, o) => (e, o.map fun k => { k with waiters := k.waiters.filter fun r => !gone r }),
      tlb := x.tlb.filter fun t => t.ctx ≠ ctx,
      trapq := match x.trapq with | some q => if q.ctx = ctx then none else x.trapq | none => none }),
    fab := { s.fab with senders := s.fab.senders.filter fun x => x.ctx ≠ ctx, msgs := s.fab.msgs.filter fun m => m.ctx ≠ ctx } }
  let s := held.foldl State.passEntry s.relinkAll
  s.modCtx ctx fun _ => Ctx.none

/-- CONTEXT_DESTROY (R72, R328). -/
def execContextDestroy (ctx : Nat) (s : State) : Host.Outcome State Fault Refusal := .next (s.destroyCtx ctx)

end Sys2Proof.Machine
end

