-- ==== Sys2Proof/Machine/Engines.lean ====
section
/-!
DEFINITION. The engines (R380-R404, R498-R505): acceptance, copies, gathers and scatters, collectives, WAITID and MARKER,
and the completion of an operation.
-/
namespace Sys2Proof.Machine

/-! ## Operations -/

def State.op (s : State) (n : Nat) : Option EngOp := s.ops.find? fun o => o.id == n
def State.modOp (s : State) (n : Nat) (f : EngOp → EngOp) : State :=
  { s with ops := s.ops.map fun o => if o.id = n then f o else o }

/-- The issuer of a packet; a local-window address names the pushing core, or NCORE (R398). -/
def Packet.who (p : Packet) : Who := ⟨p.ctx, p.native, p.core⟩

/-- The operation ends with a status; an earlier status stays. -/
def EngOp.finish (st : Nat) (o : EngOp) : EngOp := { o with ended := true, status := if o.status = 0 then st else o.status }

/-- A failing entry: the status of the lowest is reported (R401). -/
def EngOp.failed (k st : Nat) (o : EngOp) : EngOp :=
  match o.failAt with
  | some j => if k < j then { o with failAt := some k, status := st } else o
  | none => { o with failAt := some k, status := st }

/-! ## Acceptance (R380, R381, R384, R393) -/

def cSrc (p : Packet) : Nat := bits p.n 127 64
def cDst (p : Packet) : Nat := bits p.n 191 128
def cLen (p : Packet) : Nat := bits p.n 255 192
def gIdx (p : Packet) : Nat := bits p.n 127 64
def gCount (p : Packet) : Nat := bits p.n 143 128 + 1
def gRowb (p : Packet) : Nat := bits p.n 159 144
def gToff (p : Packet) : Nat := bits p.n 191 160
def gDoff (p : Packet) : Nat := bits p.n 223 192
def gRows (p : Packet) : Nat := bits p.n 255 224
def gNsrc (p : Packet) : Nat := bits p.n 263 256
def gSrc (p : Packet) (n : Nat) : Nat := bits p.n (335 + 16 * n) (320 + 16 * n)
def xSrc (p : Packet) : Nat := bits p.n 127 64
def xDst (p : Packet) : Nat := bits p.n 191 128
def xCount (p : Packet) : Nat := bits p.n 255 192
def xGroup (p : Packet) : Nat := bits p.n 319 256
def xKind (p : Packet) : Nat := bits p.n 327 320
def xRop (p : Packet) : Nat := bits p.n 335 328
def xFmt (p : Packet) : Nat := bits p.n 343 336
def wCore (p : Packet) : Nat := bits p.n 73 64
def wCh (p : Packet) : Nat := bits p.n 81 80
def wId (p : Packet) : Half := BitVec.ofNat 32 (bits p.n 127 96)
def mAddr (p : Packet) : Nat := bits p.n 127 64
def mValue (p : Packet) : Nat := bits p.n 191 128

/-- Bytes of a collective's element (R503). -/
def elemBytes (fmt : Nat) : Nat := if fmt = 0 then 1 else if fmt = 12 then 2 else if fmt = 10 then 4 else 8

def copyBad (p : Packet) : Bool := bits p.n 447 320 ≠ 0 || cLen p = 0 || 2 ^ 48 < cLen p

def gatherBad (p : Packet) : Bool :=
  bits p.n 319 264 ≠ 0 || gNsrc p = 0 || 8 < gNsrc p || gRows p = 0 || gDoff p % 16 ≠ 0 || gToff p % 16 ≠ 0
    || gRowb p < 16 || 4096 < gRowb p || gRowb p % 16 ≠ 0 || gIdx p % 4 ≠ 0
    || (List.range (gNsrc p)).any fun n => decide (1024 ≤ gSrc p n)

/-- Table Engines-5 and R503: FMT 0 is for kinds 2 and 3 only. -/
def collBad (p : Packet) : Bool :=
  bits p.n 383 344 ≠ 0 || 3 < xKind p || (2 ≤ xKind p && xRop p ≠ 0) || 2 < xRop p
    || !([0, 9, 10, 12].contains (xFmt p)) || (xFmt p = 0 && xKind p < 2) || xCount p = 0 || 2 ^ 40 < xCount p
    || xGroup p % 16 ≠ 0 || xSrc p % elemBytes (xFmt p) ≠ 0 || xDst p % elemBytes (xFmt p) ≠ 0

/-- The types that a port, or the queue of its engine, accepts (Table Engines-2). -/
def acceptedTypes : Nat → List Nat
  | 1 => [2, 6, 7] | 2 => [3, 4, 6, 7] | 3 => [5, 6, 7] | _ => []

/-- A packet that is refused (R380, R381, R388). -/
def packetBad (p : Packet) : Bool :=
  p.headerBad || p.overlap || (p.rel && p.type ≠ 2 && p.type ≠ 5) || !(acceptedTypes p.port).contains p.type
    || match p.type with
      | 2 => copyBad p
      | 3 | 4 => gatherBad p
      | 5 => collBad p
      | 6 => bits p.n 79 74 ≠ 0 || bits p.n 95 82 ≠ 0 || bits p.n 447 128 ≠ 0
      | _ => bits p.n 447 192 ≠ 0

/-- The operation of a packet; a refused one completes at once (R387). -/
def State.addOp (s : State) (d : Nat) (p : Packet) : State :=
  let bad := packetBad p
  { s with
    ops := s.ops ++ [{ id := s.nextOp, pkt := p, die := d, started := bad, ended := bad, status := if bad then BADPKT else 0,
                       bytes := 0, refused := bad, rows := [], param := none, failAt := none, outSeg := none, completed := false }],
    nextOp := s.nextOp + 1 }

/-- PACKET_ACCEPT (R384): the front-end takes the packet pushed first. -/
def execPacketAccept (die : Nat) (s : State) : Host.Outcome State Fault Refusal :=
  match (s.die die).pushed with
  | [] => .next s
  | p :: l => .next ((s.modDie die fun d => { d with pushed := l }).addOp die p)

/-- QUEUE_SLOT_SERVE (R393, R394): the next slot of a queue of the engines; a stopped queue of any target shows ERR. -/
def execQueueSlotServe (q : Nat) (s : State) : Host.Outcome State Fault Refusal :=
  match s.queue q with
  | none => .next s
  | some x =>
    if x.err then .next (if s.errShown x then s else s.showErr x)
    else if x.target = 3 || !s.queueReady x then .next s
    else
      let (s, p) := s.takeSlot x
      .next (s.addOp x.die p)

/-! ## Order (R382, R386, R403) -/

/-- An id has completed. -/
def State.idDone (s : State) (core ch : Nat) (id : Half) : Bool :=
  let x := s.core core
  let d : Half := sget 0 x.xfdone ch
  decide ((d - (id + 1)).toNat < 2 ^ 31) || x.xcomp.contains (ch, id)

/-- a comes before b among the ids of one channel. -/
def idBefore (a b : Half) : Bool := a ≠ b && decide ((b - a).toNat < 2 ^ 31)

def samePlace (p q : Packet) : Bool := p.ncore == q.ncore && p.channel == q.channel

/-- R386, R403: an ordered operation waits for the next lower id and for every WAITID below it. -/
def State.orderOk (s : State) (p : Packet) : Bool :=
  !p.ordered || (s.idDone p.ncore p.channel (p.xid - 1) &&
    (s.ops.all fun o => !(o.pkt.type == 6 && samePlace o.pkt p && !o.completed && idBefore o.pkt.xid p.xid)) &&
    s.dies.all fun (_, d) => d.pushed.all fun q => !(q.type == 6 && samePlace q p && idBefore q.xid p.xid))

/-- It may start, its front-end's priorities aside. -/
def State.startable (s : State) (o : EngOp) : Bool := !o.started && !o.ended && s.orderOk o.pkt

/-- An operation is ready: a WAITID once its id has completed, a MARKER once every lower id of its channel has (R403, R404),
any other when it may start. -/
def State.opReady (s : State) (o : EngOp) : Bool :=
  let d (c ch : Nat) : Half := sget 0 (s.core c).xfdone ch
  s.startable o && (match o.pkt.type with
    | 6 => decide ((d (wCore o.pkt) (wCh o.pkt) - (wId o.pkt + 1)).toNat < 2 ^ 31)
    | 7 => d o.pkt.ncore o.pkt.channel == o.pkt.xid
    | _ => true)

/-- R382: of the ready operations a front-end serves one of the highest priority first. -/
def State.mayStart (s : State) (o : EngOp) : Bool :=
  s.opReady o && s.ops.all fun x => !(x.die == o.die && s.opReady x && decide (o.pkt.prio < x.pkt.prio))

/-! ## The sides of a transfer -/

/-- Where a byte of a transfer is: in a place of this device, or on another device by its key in `mem` (R497). -/
inductive Side where
  | place (p : Place)
  | remote (key : Nat)
  deriving DecidableEq, Repr

/-- The key of a physical address of another device: this device's own memory, a window of the pod, or bytes kept apart
(log 4). -/
def State.remoteKey (s : State) (dev pa : Nat) : Nat :=
  if dev = s.pkg.devId.toNat then pa
  else if dev / 1024 = s.pkg.devId.toNat / 1024 && pa < 2 ^ 41 then 0x0001000000000000 + dev % 1024 * 2 ^ 41 + pa
  else 2 ^ 61 + dev * 2 ^ 52 + pa

/-- R497, R498: the remote bytes of offset o of scale-out window w. -/
def State.scaleOutKey (s : State) (w o : Nat) : Option Nat :=
  let e := (sget 0 s.fab.scaleOut w).toNat
  let dev := bits e 20 0
  let base := bits e 51 40
  let ddr := if dev = s.pkg.devId.toNat then s.pkg.ddrBytes else Config.remoteDdr dev
  if !bit e 63 || (base ≠ 0 && ddr ≤ (base - 1) * 2 ^ 40 + o) then none
  else some (s.remoteKey dev (base * 2 ^ 40 + o))

/-- The side of an engine's access at va, or the code of its fault. `far`: a COPY or a MARKER, which alone reach the
scale-out windows. -/
def State.sideOf (s : State) (w : Who) (k : Acc) (far : Bool) (va : Nat) : Except Nat Side :=
  match s.placeOf w k false va with
  | .ok p => .ok (.place p)
  | .error c =>
    if c = PROT && far then
      match s.walk w.ctx va with
      | .leaf l _ _ => match s.region (l.pa + va % l.size) with
        | some (.scaleOut i o) =>
          if l.permits k w.native then
            match s.scaleOutKey i o with
            | some key => .ok (.remote key)
            | none => .error c
          else .error c
        | _ => .error c
      | _ => .error c
    else .error c

/-- Bytes from va to the next place where R399 may cut: a line of a window, a page. -/
def State.sideLen (s : State) (w : Who) (va : Nat) : Nat :=
  if isWindow va then 128 - va % 128
  else match s.walk w.ctx va with
    | .leaf l _ _ => l.size - va % l.size
    | _ => 1

/-- The status of a fault (Table Engines-7). -/
def faultStatus (side code : Nat) : Nat := if code = MCHECK then 6 else side

/-- n bytes from a side, and the offsets of those that are uncorrectable or out of reach. -/
def State.sideRead (s : State) (x : Side) (n : Nat) : List Byte × List Nat :=
  match x with
  | .remote k => (leBytes n (bytesAt s.mem k n), [])
  | .place (.spad c off) =>
    (leBytes n (bytesAt (s.core c).spad off n),
      if s.poison.isEmpty && !(s.die (dieOf c)).lost then []
      else (List.range n).filter fun i => s.placePoisoned (.spad c (off + i)) 1)
  | .place (.mem pa mt key) =>
    ((piecesOf pa n).flatMap fun (a, m) => leBytes m (s.viewBytes a m key),
      (piecesOf pa n).flatMap fun (a, m) =>
        if s.poison.isEmpty && !s.unreachable a then []
        else ((List.range m).filter fun i => s.placePoisoned (.mem (a + i) mt key) 1).map fun i => a + i - pa)
  | .place p => (leBytes n (s.readPlace p n), [])

/-- Bytes enter the write-combining buffer of a front-end for a line (R325). -/
def Line.putBuf (l : Line) (d off : Nat) (bs : List Byte) : Line :=
  let m : BitVec 128 := BitVec.ofNat 128 ((2 ^ bs.length - 1) * 2 ^ off)
  let wide : BitVec 1024 := BitVec.ofNat 1024 ((2 ^ (8 * bs.length) - 1) * 2 ^ (8 * off))
  let v : BitVec 1024 := BitVec.ofNat 1024 (ofBytes bs * 2 ^ (8 * off))
  if l.bufs.any fun b => b.1 == d then
    { l with bufs := l.bufs.map fun (e, mask, val) =>
        if e = d then (e, mask ||| m, mergeBits wide v val) else (e, mask, val) }
  else { l with bufs := l.bufs ++ [(d, m, v)] }

/-- One piece of an engine write, inside one line (R325, R328, R330, R491); the Bool says that it was out of reach. -/
def State.linePut (s : State) (d pa mt key : Nat) (bs : List Byte) : State × Bool :=
  let n := bs.length
  if s.unreachable pa then (s, true)
  else if mt = 0 && (s.tileAt pa).isNone then
    let l := (sget Line.inv s.lines (pa / 128)).putBuf d (pa % 128) bs
    let s := { s.freshen pa n key with lines := sset Line.inv s.lines (pa / 128) l }
    ((((s.homeAccept (1024 + d) pa .engineWrite).dropTlb pa n).widxWritten pa n).unpoison pa n, false)
  else
    let s := if mt = 0 then s.homeAccept (1024 + d) pa .engineWrite else s
    let s := s.writePa pa n (ofBytes bs) key
    (if mt = 1 then { s with backing := putBytes s.backing pa (ofBytes bs) n } else s, false)

/-- An engine write of bytes at a side by the front-end of die d. -/
def State.sideWrite (s : State) (d : Nat) (x : Side) (bs : List Byte) : State × Bool :=
  match x with
  | .remote k => ({ s with mem := splice s.mem k bs }, false)
  | .place (.spad c off) =>
    if (s.die (dieOf c)).lost then (s, true)
    else ((s.modCore c fun y => { y with spad := splice y.spad off bs }).unpoison (spadKey c off) bs.length, false)
  | .place (.mem pa mt key) => (piecesOf pa bs.length).foldl (fun (acc : State × Bool) (a, m) =>
      let (s, u) := acc.1.linePut d a mt key ((bs.drop (a - pa)).take m)
      (s, acc.2 || u)) (s, false)
  | _ => (s, false)

/-- TOUCHED of the record that pushed a packet (R70), in its slot or, once it has left, in memory. -/
def State.touchFor (s : State) (p : Packet) (b : BitVec 10) : State :=
  match p.by_ with
  | none => s
  | some (r, g) => match s.resident r.ctx r.idx with
    | some (c, k) => s.modSlot c k fun sl => if sl.gen.toNat = g then { sl with touched := sl.touched ||| b } else sl
    | none =>
      let rc := s.readRec r.ctx r.idx
      if recState rc ≠ 0 && recGen rc = g then
        s.modRec r.ctx r.idx fun v => putBits v 255 240 (recTouched v ||| b.toNat)
      else s

/-- The dies that serve an engine's access to n bytes of a side: those of the memory, and the front-end's. -/
def State.sideDies (s : State) (o : EngOp) (x : Side) (n : Nat) : BitVec 10 :=
  let own := BitVec.ofNat 10 (2 ^ o.die)
  match x with
  | .remote _ => own ||| 0x100#10
  | .place (.spad c _) => own ||| BitVec.ofNat 10 (2 ^ dieOf c)
  | .place (.mem pa _ _) | .place (.scope _ pa) =>
    (piecesOf pa n).foldl (fun b (a, _) => b ||| s.touchBits o.pkt.core a) own
  | .place _ => own

/-- An operation's access to n bytes of a side is served (R70). -/
def State.serves (s : State) (o : EngOp) (x : Side) (n : Nat) : State := s.touchFor o.pkt (s.sideDies o x n)

/-- Engine reads take effect in the directory (Table Die-4) and in TOUCHED. -/
def State.sideReadEffects (s : State) (o : EngOp) (x : Side) (n : Nat) : State :=
  let s : State := match x with
    | .place (.mem pa 0 _) => (piecesOf pa n).foldl (fun s (a, _) => s.homeAccept (1024 + o.die) a .engineRead) s
    | _ => s
  s.serves o x n

/-- The effects of an engine's reads of va .. va+n-1. -/
def State.readEffects (s : State) (o : EngOp) (va n : Nat) : State :=
  (piecesOf va n).foldl (fun s (a, m) => match s.sideOf o.pkt.who .load false a with
    | .ok x => s.sideReadEffects o x m
    | .error _ => s) s

/-- R277: destination bytes whose source was uncorrectable. -/
def State.poisonSide (s : State) (x : Side) (l : List Nat) : State :=
  match x with
  | .place (.spad c off) => { s with poison := l.foldl (fun m i => sset false m (spadKey c (off + i)) true) s.poison }
  | .place (.mem pa _ _) => { s with poison := l.foldl (fun m i => sset false m (pa + i) true) s.poison }
  | _ => s

/-- R218: granules of a scratchpad whose last byte, of those that the operation writes, has landed: the write is of n bytes
at off, and the operation's own bytes end at `stop`. `stop` is where the packet's length ends, so a granule of which an
operation that faults has written only a part keeps its bit (log 58). -/
def State.fillLanded (s : State) (x : Side) (n stop : Nat) : State :=
  match x with
  | .place (.spad c off) =>
    let last := if stop = off + n then (off + n + 15) / 16 else (off + n) / 16
    s.putGranules c (off / 16) true (last - off / 16)
  | _ => s

/-! ## COPY (R398, R399) -/

/-- R398: overlapping ranges. The values written to bytes whose sources the copy itself writes: the source as it stood, or as
the copy leaves it, for each byte by `late`. Ranges are d apart; `up`: the destination lies above the source. -/
def overlapMix (late : Nat → Bool) (up : Bool) (d : Nat) (l : List Byte) : List Byte :=
  if up then l.zipIdx.foldl (fun acc (b, i) => acc ++ [if d ≤ i && late i then acc.getD (i - d) b else b]) []
  else l.zipIdx.foldr (fun (b, i) acc => (if late i then acc.getD (d - 1) b else b) :: acc) []

/-- The bytes that a segment of n writes. -/
def State.copyBytes (s : State) (p : Packet) (l : List Byte) : List Byte :=
  let a := cSrc p
  let b := cDst p
  let late (i : Nat) : Bool := Config.overlapLate (s.freeCtr * 2 ^ 49 + i)
  if a < b && b < a + cLen p then overlapMix late true (b - a) l
  else if b < a && a < b + cLen p then overlapMix late false (a - b) l
  else l

/-- One segment is performed: read, then written (R399). -/
def State.transfer (s : State) (o : EngOp) (n : Nat) (src dst : Side) : State :=
  let (l, bad) := s.sideRead src n
  let bytes := s.copyBytes o.pkt l
  let (s, lost) := (((s.sideReadEffects o src n).serves o dst n).bump).sideWrite o.die dst bytes
  let stop := match dst with
    | .place (.spad _ off) => off + (cLen o.pkt - o.bytes)
    | _ => 0
  let s := (s.poisonSide dst bad).fillLanded dst n stop
  s.modOp o.id fun x =>
    let x := { x with bytes := x.bytes + n, outSeg := none,
                      status := if x.status = 0 && (lost || !bad.isEmpty) then 6 else x.status }
    if x.bytes = cLen o.pkt then x.finish 0 else x

/-- COPY (R386, R498): the copy starts; one between two scale-out windows reports SRCFAULT. -/
def execCopy (op : Nat) (s : State) : Host.Outcome State Fault Refusal :=
  match s.op op with
  | none => .next s
  | some o =>
    if o.pkt.type ≠ 2 || !s.mayStart o then .next s
    else
      let w := o.pkt.who
      let far : Bool := match s.sideOf w .load true (cSrc o.pkt), s.sideOf w .store true (cDst o.pkt) with
        | .ok (.remote _), .ok (.remote _) => true
        | _, _ => false
      .next (s.modOp op fun x => if far then { x.finish 2 with started := true } else { x with started := true })

/-- The local side of a segment that crosses the network. -/
def outSegOf (n key : Nat) (toRemote : Bool) (p : Place) : OutSeg :=
  match p with
  | .spad c off => ⟨n, key, toRemote, some c, off, 0, 0⟩
  | .mem pa mt k => ⟨n, key, toRemote, none, pa, mt, k⟩
  | _ => ⟨n, key, toRemote, none, 0, 0, 0⟩

def OutSeg.localSide (x : OutSeg) : Side :=
  match x.core with
  | some c => .place (.spad c x.at_)
  | none => .place (.mem x.at_ x.mt x.key)

/-- COPY_SEGMENT (R399, R499): the next segment is checked, and performed or sent. -/
def execCopySegment (op : Nat) (s : State) : Host.Outcome State Fault Refusal :=
  match s.op op with
  | none => .next s
  | some o =>
    if o.pkt.type ≠ 2 || !o.started || o.ended || o.outSeg.isSome then .next s
    else
      let w := o.pkt.who
      let a := cSrc o.pkt + o.bytes
      let b := cDst o.pkt + o.bytes
      let n := min (cLen o.pkt - o.bytes) (min (s.sideLen w a) (s.sideLen w b))
      match s.sideOf w .load true a, s.sideOf w .store true b with
      | .error c, _ => .next (s.modOp op (EngOp.finish (faultStatus 2 c)))
      | _, .error c => .next (s.modOp op (EngOp.finish (faultStatus 3 c)))
      | .ok (.remote _), .ok (.remote _) => .next (s.modOp op (EngOp.finish 2))
      | .ok (.remote k), .ok (.place p) => .next (s.modOp op fun x => { x with outSeg := some (outSegOf n k false p) })
      | .ok (.place p), .ok (.remote k) => .next (s.modOp op fun x => { x with outSeg := some (outSegOf n k true p) })
      | .ok (.place p), .ok (.place q) => .next (s.transfer o n (.place p) (.place q))

/-- SCALEOUT_SEGMENT_ACK (R499): every byte has been performed; or the transport has failed, and each remote byte then
holds its old value or the new one. -/
def execScaleoutSegmentAck (op : Nat) (ok : Bool) (s : State) : Host.Outcome State Fault Refusal :=
  match s.op op with
  | none => .next s
  | some o => match o.outSeg with
    | none => .next s
    | some x =>
      let here := x.localSide
      if ok then
        .next (if x.toRemote then s.transfer o x.n here (.remote x.remote) else s.transfer o x.n (.remote x.remote) here)
      else if x.toRemote then
        let (l, _) := s.sideRead here x.n
        let landed := l.zipIdx.foldl (fun m (b, i) =>
          if Config.scaleOutLanded (s.freeCtr * 2 ^ 49 + i) then sset 0 m (x.remote + i) b else m) s.mem
        .next ({ s with mem := landed }.bump.modOp op fun y => { y.finish 3 with outSeg := none })
      else .next (s.modOp op fun y => { y.finish 2 with outSeg := none })

/-! ## GATHER and SCATTER (R400, R401) -/

/-- The address by which a front-end's cache knows a granule at a side. -/
def Side.granule : Side → Option Nat
  | .place (.mem pa _ _) => some pa
  | .place (.spad c off) => some (spadKey c off)
  | _ => none

/-- The 16-byte granule of a parameter block at g, read once: from the front-end's cache, where an operation in service has
left it (R397), or from its side, which enters it there. An error is the status of a fault. -/
def State.readGranule (s : State) (o : EngOp) (g : Nat) : Except Nat (State × List Byte) :=
  match s.sideOf o.pkt.who .load false g with
  | .error c => .error (faultStatus 4 c)
  | .ok x =>
    match x.granule.bind fun a => (s.die o.die).pcache.find? fun e => e.2.1 == a with
    | some e => .ok (s, e.2.2)
    | none =>
      let (l, bad) := s.sideRead x 16
      if !bad.isEmpty then .error 6
      else
        let s := s.sideReadEffects o x 16
        .ok (match x.granule with
          | some a => s.modDie o.die fun d => { d with pcache := d.pcache ++ [(o.id, a, l)] }
          | none => s, l)

/-- The entries of the list that the granule at g holds. -/
def listEntries (o : EngOp) (g : Nat) (l : List Byte) : List (Nat × Nat) :=
  let a := gIdx o.pkt + 4 * o.bytes
  (List.range (min ((g + 16 - a) / 4) (gCount o.pkt - o.bytes))).map fun j =>
    (o.bytes + j, ofBytes ((l.drop (a - g + 4 * j)).take 4))

/-- A gather or scatter reads the next 16-byte granule of its list (R396, R397). -/
def State.readList (s : State) (o : EngOp) : State :=
  let g := (gIdx o.pkt + 4 * o.bytes) / 16 * 16
  match s.readGranule o g with
  | .error st => s.modOp o.id fun x =>
      let y := { (x.failed x.bytes st) with bytes := gCount o.pkt }
      if y.rows.isEmpty then { y with ended := true } else y
  | .ok (s, l) =>
    let rows := listEntries o g l
    s.modOp o.id fun x => { x with bytes := x.bytes + rows.length, rows := x.rows ++ rows }

def State.listStep (s : State) (op type : Nat) : State :=
  match s.op op with
  | none => s
  | some o =>
    if o.pkt.type ≠ type || o.ended then s
    else if !o.started then (if s.mayStart o then s.modOp op fun x => { x with started := true } else s)
    else if gCount o.pkt ≤ o.bytes then s
    else s.readList o

/-- GATHER and SCATTER (R400): the operation starts, then reads its list, granule by granule. -/
def execGather (op : Nat) (s : State) : Host.Outcome State Fault Refusal := .next (s.listStep op 3)
def execScatter (op : Nat) (s : State) : Host.Outcome State Fault Refusal := .next (s.listStep op 4)

/-- Every line of off .. off+n-1 of a core is allocated. -/
def State.spadOk (s : State) (c off n : Nat) : Bool :=
  decide (off + n ≤ spadLimit) && (piecesOf off n).all fun (a, _) => (s.core c).allocated (a / 128)

/-- R401: a slot whose entry fails is zero and full, where its lines are allocated. -/
def State.zeroSlot (s : State) (c off n : Nat) : State :=
  (piecesOf off n).foldl (fun s (a, m) =>
    if a < spadLimit && (s.core c).allocated (a / 128) && !(s.die (dieOf c)).lost then
      (s.writeSpad c a m 0).putGranules c (a / 16) true (m / 16)
    else s) s

/-- A row moves from one scratchpad to another. -/
def State.moveRow (s : State) (o : EngOp) (k fc fo tc fto : Nat) : State :=
  let n := gRowb o.pkt
  let (l, bad) := s.sideRead (.place (.spad fc fo)) n
  let dest : Side := .place (.spad tc fto)
  let s := (s.serves o (.place (.spad fc fo)) n).serves o dest n
  let s := (((s.sideWrite o.die dest l).1.poisonSide dest bad).putGranules tc (fto / 16) true (n / 16))
  if bad.isEmpty then s else s.modOp o.id (EngOp.failed k 6)

/-- One entry of a gather or scatter: its row lands, or is not moved (R400, R401). -/
def State.landRow (s : State) (o : EngOp) (k r : Nat) : State :=
  let p := o.pkt
  let n := r % gNsrc p
  let sc := gSrc p n
  let ro := gToff p + r / gNsrc p * gRowb p
  let nc := p.ncore
  let so := gDoff p + k * gRowb p
  let fails (st : Nat) (s : State) : State :=
    (if p.type = 3 then s.zeroSlot nc so (gRowb p) else s).modOp o.id (EngOp.failed k st)
  let there := s.spadOk sc ro (gRowb p)
  let here := s.spadOk nc so (gRowb p)
  if gRows p ≤ r then fails 5 s
  else if (s.die (dieOf sc)).lost || (s.die (dieOf nc)).lost then fails 6 s
  else if p.type = 3 then
    if !there then fails 2 s
    else if !here then fails 3 s
    else (s.moveRow o k sc ro nc so).modCore nc fun x => { x with gsrcNow := sset 0 x.gsrcNow n (sget 0 x.gsrcNow n + 1) }
  else if !here then fails 2 s
  else if !there then fails 3 s
  else s.moveRow o k nc so sc ro

/-- Rows of one source move in list order. -/
def firstOfSource (nsrc k : Nat) (l : List (Nat × Nat)) : Bool :=
  match l.find? fun x => x.1 == k with
  | none => false
  | some (_, r) => l.all fun (j, q) => !(decide (j < k) && q % nsrc == r % nsrc)

/-- GATHER_ROW_LAND (R400). -/
def execGatherRowLand (op k : Nat) (s : State) : Host.Outcome State Fault Refusal :=
  match s.op op with
  | none => .next s
  | some o => match o.rows.find? fun x => x.1 == k with
    | none => .next s
    | some (_, r) =>
      if !firstOfSource (gNsrc o.pkt) k o.rows then .next s
      else .next ((s.landRow o k r).modOp op fun x =>
        let x := { x with rows := x.rows.filter fun y => y.1 ≠ k }
        if x.rows.isEmpty && gCount o.pkt ≤ x.bytes then { x with ended := true } else x)

/-! ## Collectives (R402, R501-R505) -/

/-- Strictly ascending. -/
def ascending : List Nat → Bool
  | [] => true
  | [_] => true
  | a :: b :: l => decide (a < b) && ascending (b :: l)

/-- The group descriptor (R501) from the bytes of it that have been read: none while more are to be read, else GID, ROOT and
the member words, or the status. -/
def State.groupOf (s : State) (p : Packet) (l : List Byte) : Option (Except Nat (Nat × Nat × List Nat)) :=
  let h := ofBytes (l.take 16)
  let n := bits h 15 0
  let root := bits h 47 32
  if l.length < 16 then none
  else if bits h 127 96 ≠ 0 || bits h 95 64 = 0 || bits h 63 48 ≠ 0 || bits h 31 16 ≠ 0 || n < 2 || 4096 < n
      || (xKind p ≠ 3 && root ≠ 0) || n ≤ root then some (.error BADPKT)
  else if l.length < 16 + 4 * n then none
  else
    let ms := (List.range n).map fun r => ofBytes ((l.drop (16 + 4 * r)).take 4)
    let pod := s.pkg.devId.toNat / 1024
    some (if !ascending ms || (ms.any fun m => decide (2 ^ 31 ≤ m) || m / 2 ^ 20 ≠ pod)
        || !ms.contains (s.pkg.devId.toNat * 1024 + p.ncore) then .error BADPKT
      else .ok (bits h 95 64, root, ms))

/-- Every COLL of an instance that has posted ends. -/
def State.endColl (s : State) (c : Coll) (refused : Bool) (st : Nat) : State :=
  c.posted.foldl (fun s (_, n) => s.modOp n fun o =>
    if o.ended then o else { o.finish st with refused := refused, status := if refused then st else (o.finish st).status }) s

def State.modColl (s : State) (n : Nat) (f : Coll → Coll) : State :=
  { s with colls := s.colls.map fun c => if c.id = n then f c else c }

/-- The members of an instance on this device. -/
def State.localMembers (s : State) (c : Coll) : Nat := (c.members.filter fun m => m / 1024 == s.pkg.devId.toNat).length

/-- Operations whose completion is reported go, unless a collective still reads them; so do collectives that are over. -/
def State.sweepOps (s : State) : State :=
  let colls := s.colls.filter fun c => c.live || decide (c.posted.length < s.localMembers c)
  { s with colls := colls, ops := s.ops.filter fun o => !(o.completed && !colls.any fun c => c.posted.any fun x => x.2 == o.id) }

/-- R502: instance k of a GID gets one more member. -/
def State.post (s : State) (o : EngOp) (gid root : Nat) (l : List Nat) : State :=
  let p := o.pkt
  let me := s.pkg.devId.toNat * 1024 + p.ncore
  let key := me * 2 ^ 32 + gid
  let k := sget 0 s.collCount key
  let rank := (l.findIdx? (· == me)).getD 0
  let s := { s with collCount := sset 0 s.collCount key (k + 1) }
  match s.colls.find? fun c => c.gid == gid && c.inst == k && decide (c.posted.length < s.localMembers c) with
  | none =>
    let c : Coll := { id := s.nextOp, gid := gid, inst := k, nmem := l.length, posted := [(rank, o.id)], members := l,
                      root := root, kind := xKind p, fmt := xFmt p, rop := xRop p, count := xCount p, pos := 0, live := true }
    { s with colls := s.colls ++ [c], nextOp := s.nextOp + 1 }
  | some c =>
    let same := c.members == l && c.root == root && c.kind == xKind p && c.fmt == xFmt p && c.rop == xRop p
      && c.count == xCount p
    let c' := { c with posted := c.posted ++ [(rank, o.id)], live := c.live && same }
    let s := s.modColl c.id fun _ => c'
    if c'.live then s else s.endColl c' true BADPKT

/-- A collective reads the next granule of its group descriptor (R396); the whole of it posts the collective to the Slate die,
or refuses it. -/
def State.readGroup (s : State) (o : EngOp) (l : List Byte) : State :=
  match s.readGranule o (xGroup o.pkt + l.length) with
  | .error st => s.modOp o.id fun x => { x.finish st with param := none }
  | .ok (s, b) =>
    match s.groupOf o.pkt (l ++ b) with
    | none => s.modOp o.id fun x => { x with param := some (l ++ b) }
    | some (.error st) => s.modOp o.id fun x => { x.finish st with param := none, refused := true }
    | some (.ok (gid, root, ms)) =>
      ((s.modOp o.id fun x => { x with param := none }).touchFor o.pkt 0x100#10).post o gid root ms

/-- COLL (R396, R402, R502): the operation starts, then reads its group descriptor, granule by granule. -/
def execColl (op : Nat) (s : State) : Host.Outcome State Fault Refusal :=
  match s.op op with
  | none => .next s
  | some o =>
    if o.pkt.type ≠ 5 || o.ended then .next s
    else if !o.started then
      .next (if s.mayStart o then s.modOp op fun x => { x with started := true, param := some [] } else s)
    else match o.param with
      | some l => .next (s.readGroup o l)
      | none => .next s

/-- One level of the tree of R166. -/
def pairUp (f : Nat → Nat → Nat) : List (Option Nat) → List (Option Nat)
  | a :: b :: l => (match a, b with
      | some x, some y => some (f x y)
      | none, y => y
      | x, none => x) :: pairUp f l
  | l => l

/-- R504: the fixed tree over the ranks. -/
def treeOf (f : Nat → Nat → Nat) : Nat → List (Option Nat) → Nat
  | 0, l => (l.headD none).getD 0
  | n + 1, l => treeOf f n (pairUp f l)

/-- The reduction of the values of all ranks, rounding RNE in FMT. -/
def reduceRanks (fmt rop : Nat) (l : List Nat) : Nat :=
  let n := l.length.log2 + 1
  treeOf ((fmtOf fmt).amo rop) n (l.map some ++ List.replicate (2 ^ n - l.length) none)

/-- Element i of the source of rank q: its value and whether it is uncorrectable; a member elsewhere supplies a free
value. -/
def State.collElem (s : State) (c : Coll) (q i : Nat) : Nat × Bool :=
  let e := elemBytes c.fmt
  match (c.posted.find? fun x => x.1 == q).bind fun x => s.op x.2 with
  | none => (ofBytes ((List.range e).map fun b => Config.peerByte c.id q (i * e + b)), false)
  | some o => match s.sideOf o.pkt.who .load false (xSrc o.pkt + i * e) with
    | .ok x => let (l, bad) := s.sideRead x e; (ofBytes l, !bad.isEmpty)
    | .error _ => (0, false)

/-- Result element i at rank r (Table Fabric-4). -/
def State.collResult (s : State) (c : Coll) (r i : Nat) : Nat × Bool :=
  let all (j : Nat) : Nat × Bool :=
    let l := (List.range c.nmem).map fun q => s.collElem c q j
    (reduceRanks c.fmt c.rop (l.map Prod.fst), l.any Prod.snd)
  match c.kind with
  | 0 => all i
  | 1 => all (r * c.count + i)
  | 2 => s.collElem c (i / c.count) (i % c.count)
  | _ => s.collElem c c.root i

/-- The source elements that result elements i .. i+n-1 read: rank, first, count. -/
def collReads (c : Coll) (i n : Nat) : List (Nat × Nat × Nat) :=
  match c.kind with
  | 0 => (List.range c.nmem).map fun q => (q, i, n)
  | 1 => (List.range c.nmem).flatMap fun q => (List.range c.nmem).map fun r => (q, r * c.count + i, n)
  | 2 => (List.range c.nmem).filterMap fun q =>
      let lo := max i (q * c.count); let hi := min (i + n) ((q + 1) * c.count)
      if lo < hi then some (q, lo - q * c.count, hi - lo) else none
  | _ => [(c.root, i, n)]

/-- The status of the first fault of a range of addresses, if any. -/
def State.rangeStatus (s : State) (w : Who) (k : Acc) (side va n : Nat) : Option Nat :=
  (piecesOf va n).findSome? fun (a, _) => match s.sideOf w k false a with
    | .error c => some (faultStatus side c)
    | .ok _ => none

/-- The bytes of one member's chunk are written. -/
def State.writeChunk (s : State) (o : EngOp) (c : Coll) (total : Nat) (l : List (Nat × Bool)) : State :=
  let e := elemBytes c.fmt
  let bytes := l.flatMap fun (v, _) => leBytes e v
  let bad := l.flatMap fun (_, b) => List.replicate e b
  let va := xDst o.pkt + c.pos * e
  (piecesOf va bytes.length).foldl (fun s (a, m) =>
    match s.sideOf o.pkt.who .store false a with
    | .error _ => s
    | .ok x =>
      let k := a - va
      let (s, lost) := (s.serves o x m).sideWrite o.die x ((bytes.drop k).take m)
      let off := match x with | .place (.spad _ off) => off | _ => 0
      let s := (s.poisonSide x ((List.range m).filter fun i => bad.getD (k + i) false)).fillLanded x m
        (off + (total - c.pos) * e - k)
      if lost then s.modOp o.id fun y => { y with status := if y.status = 0 then 6 else y.status } else s) s

/-- The number of result elements of an instance. -/
def Coll.total (c : Coll) : Nat := if c.kind = 2 then c.nmem * c.count else c.count

/-- A member on another device differs from the others (R502). -/
def Coll.differs (c : Coll) : Bool :=
  (List.range c.nmem).any fun q => !(c.posted.any fun x => x.1 == q) && Config.peerDiffers c.id q

/-- The status of the first source fault of a chunk, if any: a member elsewhere may have one (R505). -/
def State.sourceFault (s : State) (c : Coll) (n : Nat) : Option Nat :=
  let e := elemBytes c.fmt
  (collReads c c.pos n).findSome? fun (q, i, m) =>
    match (c.posted.find? fun x => x.1 == q).bind fun x => s.op x.2 with
    | none => if Config.peerSourceFaults c.id q c.pos then some 2 else none
    | some o => s.rangeStatus o.pkt.who .load 2 (xSrc o.pkt + i * e) (m * e)

/-- One chunk of n result elements at every member of this device (R505). -/
def State.chunk (s : State) (c : Coll) (n : Nat) : State :=
  let e := elemBytes c.fmt
  if c.differs then (s.endColl c true BADPKT).modColl c.id fun c => { c with live := false } else
  match s.sourceFault c n with
  | some st => (s.endColl c false st).modColl c.id fun c => { c with live := false }
  | none =>
    let s := (collReads c c.pos n).foldl (fun s (q, i, m) =>
      match (c.posted.find? fun x => x.1 == q).bind fun x => s.op x.2 with
      | none => s
      | some o => s.readEffects o (xSrc o.pkt + i * e) (m * e)) s
    let results := c.posted.map fun (r, o) => (o, (List.range n).map fun j => s.collResult c r (c.pos + j))
    let s := results.foldl (fun (s : State) (x : Nat × List (Nat × Bool)) => match s.op x.1 with
      | none => s
      | some o =>
        if o.ended then s else
        match s.rangeStatus o.pkt.who .store 3 (xDst o.pkt + c.pos * e) (n * e) with
        | some st => s.modOp x.1 (EngOp.finish st)
        | none => (s.writeChunk o c c.total x.2).modOp x.1 fun y =>
            let y := { y with bytes := y.bytes + n * e,
                              status := if y.status = 0 && (x.2.any Prod.snd) then 6 else y.status }
            if c.pos + n = c.total then y.finish 0 else y) s
    s.modColl c.id fun x => { x with pos := x.pos + n, live := decide (x.pos + n < c.total) }

/-- COLL_CHUNK (R505): the next chunk of an instance that every member of this device has posted; a lost member ends it. -/
def execCollChunk (inst : Nat) (s : State) : Host.Outcome State Fault Refusal :=
  match s.colls.find? fun c => c.id == inst with
  | none => .next s
  | some c =>
    if !c.live || c.posted.length < s.localMembers c then .next s
    else if c.members.any fun m => s.fab.lostPeers.contains (m / 1024 % 1024) && m / 1024 ≠ s.pkg.devId.toNat then
      .next (((s.endColl c false 6).modColl inst fun c => { c with live := false }).sweepOps)
    else .next ((s.chunk c (min (4096 / elemBytes c.fmt) (c.total - c.pos))).sweepOps)

/-! ## WAITID and MARKER (R403, R404, R500) -/

/-- WAITID: it ends once its id has completed. -/
def execWaitid (op : Nat) (s : State) : Host.Outcome State Fault Refusal :=
  match s.op op with
  | none => .next s
  | some o =>
    if o.pkt.type ≠ 6 || !s.mayStart o then .next s
    else .next (s.modOp op fun x => { x.finish 0 with started := true })

/-- MARKER: after every lower id of its channel, VALUE is written at ADDR. -/
def execMarker (op : Nat) (s : State) : Host.Outcome State Fault Refusal :=
  match s.op op with
  | none => .next s
  | some o =>
    if o.pkt.type ≠ 7 || !s.mayStart o then .next s
    else
      let a := mAddr o.pkt
      .next (if a % 8 ≠ 0 then s.modOp op (EngOp.finish 3)
        else match s.sideOf o.pkt.who .store true a with
          | .error c => s.modOp op (EngOp.finish (faultStatus 3 c))
          | .ok x =>
            let (s, lost) := (s.serves o x 8).sideWrite o.die x (leBytes 8 (mValue o.pkt))
            let off := match x with | .place (.spad _ off) => off | _ => 0
            (s.fillLanded x 8 (off + 8)).modOp op (EngOp.finish (if lost then 6 else 0)))

/-! ## Completion (R387, R388) -/

/-- Every write-combining buffer of a front-end reaches home. -/
def State.releaseBufs (s : State) (d : Nat) : State :=
  s.lines.foldl (fun (s : State) (x : Nat × Line) =>
    if x.2.bufs.any fun b => b.1 == d then s.mergeBufs x.1 (· == d) else s) s

/-- The DONE word's address; 0 for a type without one. -/
def doneAddr (p : Packet) : Nat := if p.type = 2 then bits p.n 319 256 else if p.type = 5 then bits p.n 447 384 else 0

/-- R387 step 1, R388. -/
def State.writeDone (s : State) (o : EngOp) : State :=
  let a := doneAddr o.pkt
  if a = 0 || o.refused || a % 8 ≠ 0 then s
  else match s.sideOf o.pkt.who .store false a with
    | .error _ => s
    | .ok x =>
      let off := match x with | .place (.spad _ off) => off | _ => 0
      (((s.serves o x 8).sideWrite o.die x (leBytes 8 (o.bytes % 2 ^ 48 + o.status * 2 ^ 56))).1).fillLanded x 8 (off + 8)

/-- OPERATION_COMPLETE (R387): buffers merged, DONE, then XFDONE and the message in one step. -/
def execOperationComplete (op : Nat) (s : State) : Host.Outcome State Fault Refusal :=
  match s.op op with
  | none => .next s
  | some o =>
    if !o.ended || o.completed then .next s
    else
      let s := (s.releaseBufs o.die).writeDone o
      let s := (s.releaseBufs o.die).complete o.pkt o.status
      let s := s.modDie o.die fun d => { d with pcache := d.pcache.filter fun x => x.1 ≠ op }
      .next ((s.modOp op fun x => { x with completed := true }).sweepOps)

end Sys2Proof.Machine
end

