-- ==== Sys2Proof/Machine/Failures.lean ====
section
/-!
DEFINITION. What fails (R339, R453-R455): lost copies, die loss, and errors in storage.
-/
namespace Sys2Proof.Machine

/-! ## Agents; 0-1,023 cores, 1,024-1,031 front-ends, 1,032 the host, 1,040 + m pod member m -/

def hostAgent : Nat := 1032
def peerAgent (m : Nat) : Nat := 1040 + m

/-- n bytes read as uncorrectable from now on (R455). -/
def State.poisonRange (s : State) (a n : Nat) : State :=
  { s with poison := (List.range n).foldl (fun m i => sset false m (a + i) true) s.poison }

/-- R339: the copies of the agents chosen by `who` are taken as lost. Clean copies go; what was dirty is uncorrectable. -/
def State.loseCopies (s : State) (who : Nat → Bool) : State :=
  let mine (o : Option Nat) : Bool := match o with | some a => who a | none => false
  let s := s.lines.foldl (fun (s : State) (x : Nat × Line) =>
    let (k, l) := x
    let buf := l.bufs.any fun b => who (1024 + b.1)
    if mine l.owner || buf then
      let s := if (mine l.owner && l.st == .modified) || buf then s.poisonRange (128 * k) 128 else s
      let stay := l.bufs.filter fun b => !who (1024 + b.1)
      let left : Line := { l with st := if stay.isEmpty then .inv else l.st, owner := none, sharers := 0, bufs := stay }
      { s with lines := sset Line.inv s.lines k left }
    else s) s
  s.tiles.foldl (fun (s : State) t =>
    if mine t.owner && (t.st == .te || t.st == .tm) then
      (s.poisonRange t.base t.size).modTile t.base Tile.bringHome
    else s) s

/-! ## Die loss (R453) -/

def dieLost (d : Nat) : Trap := ⟨DIELOST, d, 0, true⟩

/-- TOUCHED of a record, as it stands where the record runs. -/
def State.touchedOf (s : State) (r : RecId) : Nat :=
  recTouched (s.readRec r.ctx r.idx) |||
    match s.resident r.ctx r.idx with
    | some (c, k) => (match s.slot c k with | some sl => (s.gangTouched sl).toNat | none => 0)
    | none => 0

/-- The records that the loss of die d reaches. -/
def State.lostBy (s : State) (d : Nat) : List RecId :=
  s.ctxs.flatMap fun (x, c) => if !c.alive then [] else
    (List.range (bits (s.pool x) 31 0)).filterMap fun i =>
      let st := recState (s.readRec x i)
      if i ≠ 0 && st ≠ 0 && st ≠ 6 && bit (s.touchedOf ⟨x, i⟩) d then some ⟨x, i⟩ else none

/-- The die whose ready or waiter chain holds a record. -/
def State.waitDie (s : State) (r : RecId) : Option Nat :=
  (s.chainDie r).orElse fun _ =>
    (s.dies.find? fun (_, x) => x.keys.any fun (_, e) => match e with
      | some e => e.waiters.contains r
      | none => false).map Prod.fst

/-- The own die of a record that is in no slot. -/
def State.ownDie (s : State) (r : RecId) : Nat :=
  let rc := s.readRec r.ctx r.idx
  if recPinned rc then dieOf (s.recCore r.ctx rc) else (s.waitDie r).getD (s.wakeDie r.ctx r.idx)

/-- The record waits for nothing any more. -/
def State.stopWaiting (s : State) (r : RecId) : State :=
  let s := (s.unchain r).unregister r.ctx r.idx
  let ls := s.dies.flatMap fun (_, x) => x.keys.filterMap fun (_, e) => e.bind fun e =>
    if e.waiters.contains r then some (e.waiters.filter (· ≠ r)) else none
  let s := ls.foldl State.linkChain s
  { s with suspended := s.suspended.filter fun u => !(u.ctx == r.ctx && u.idx == r.idx),
           reserving := s.reserving.filter (· ≠ r),
           dies := s.dies.map fun (d, x) => (d, { x with keys := x.keys.map fun (k, e) =>
             (k, e.map fun e => { e with waiters := e.waiters.filter (· ≠ r) }) }) }

/-- R453: one record takes state 5 with DIELOST. -/
def State.loseRecord (d : Nat) (s : State) (r : RecId) : State :=
  let rc := s.readRec r.ctx r.idx
  let own := s.ownDie r
  let s := match s.resident r.ctx r.idx with
    | some (c, k) => match s.slot c k with
      | some sl =>
        if recState rc = 5 then s.recordTrap (dieOf c) c k r.ctx r.idx (dieLost d) (recVpc rc) sl.lastPc.toNat
          (s.slotLtime sl) sl.gangInfo
        else s.takeTrap c k (dieLost d) false false sl.pc.toNat (sl.pc + 8).toNat
      | none => s
    | none => s.recordTrap own (s.recCore r.ctx rc) 0 r.ctx r.idx (dieLost d) (recVpc rc) 0
        (s.ltime (s.launchOfRec r.ctx r.idx) (s.imageOfRec r.ctx r.idx))
  let s := (s.stopWaiting r).modDie d fun x => { x with lostRecs := x.lostRecs ++ [r] }
  match s.launchOfRec r.ctx r.idx with
  | some l => s.modLaunch l fun x => { x with terminated := true }
  | none => s

/-- The dies' ready chains, held trap records and engine operations after the loss of die d: the lowest-numbered surviving
die takes the chains over. -/
def State.takeOver (s : State) (d : Nat) : State :=
  let lost := s.die d
  let t := s.liveDie
  let s := s.modDie d fun x => { x with ready := [], held := [], pushed := [], drain := none }
  let s := s.modDie t fun x => { x with
    ready := lost.ready.foldl (fun m (p, l) => sput m p (sget [] m p ++ l)) x.ready }
  let s := lost.ready.foldl (fun (s : State) x => s.linkChain (sget [] (s.die t).ready x.1)) s
  let s := lost.held.foldl (fun (s : State) h => s.appendTrap t h.fatal h.words) s
  let s := lost.pushed.foldl (fun (s : State) p => s.addOp d p) s
  { s with ops := s.ops.map fun o => if o.die = d && !o.ended then { o.finish 6 with started := true } else o }

/-- R327, R334: the loss of the holding die ends the migration of its lines, and the forwarding of the tiles in its near
slice pairs; the data that it held is uncorrectable (log 80). -/
def State.endMigrations (s : State) (d : Nat) : State :=
  let s := s.lines.foldl (fun (s : State) (x : Nat × Line) => match x.2.slice with
    | some sl => if sl / 16 = d then
        { s.poisonRange (128 * x.1) 128 with lines := smod Line.inv s.lines x.1 fun l => { l with slice := none } } else s
    | none => s) s
  s.tiles.foldl (fun (s : State) t => match t.target with
    | some g => if dieOf g = d then (s.poisonRange t.base t.size).modTile t.base Tile.bringHome else s
    | none => s) s

/-- R453: die d is lost; 8 is Slate and 9 is Umber, whose loss, once the records that it reaches have their DIELOST, ends
every context (R472). -/
def State.loseDie (s : State) (d : Nat) : State :=
  if (s.die d).lost || 10 ≤ d then s else
  let s := s.raiseVector 9
  let s := s.modDie d fun x => { x with lost := true }
  if 8 ≤ d then
    let s := (s.lostBy d).foldl (State.loseRecord d) s
    let s := s.ctxs.foldl (fun (s : State) x => s.destroyCtx x.1) s
    if d = 8 then s.modFab fun f => { f with lostPeers := f.members }
    else s.modPkg fun p => { p with cxlUp := false }
  else
    let s := (s.lostBy d).foldl (State.loseRecord d) s
    let s := (List.range 1024).foldl (fun (s : State) c =>
      if dieOf c = d then s.modCore c fun x => { x with dead := true } else s) s
    ((s.takeOver d).endMigrations d).loseCopies fun a => (a < 1024 && dieOf a = d) || a = 1024 + d

/-- DIE_LOSS. -/
def execDieLoss (die : Nat) (s : State) : Host.Outcome State Fault Refusal := .next (s.loseDie die)

/-- PROBE_TIMEOUT (R339): an agent, a core or a front-end, left a probe unanswered; its die is lost with it. -/
def execProbeTimeout (core : Nat) (s : State) : Host.Outcome State Fault Refusal :=
  .next (if core < 1024 then (s.loseCopies (· == core)).loseDie (dieOf core)
    else if core < 1032 then (s.loseCopies (· == core)).loseDie (core - 1024) else s)

/-! ## Soft errors (R454, R455, Table Package-6) -/

/-- A saturating count. -/
def bumpCount (x : Half) : Half := if x = BitVec.allOnes 32 then x else x + 1

/-- The unit that counts an error at a physical address: its stack, or its DDR5 channel (R474). -/
def unitOfPa (pa : Nat) : Nat :=
  if pa < 2 ^ 40 then 10 + 2 * (home pa / 16) + home pa % 2 else 26 + pa / 4096 % 12

/-- CORRECTABLE_ERROR (R454): corrected where it is read, and counted. -/
def execCorrectableError (unit : Nat) (s : State) : Host.Outcome State Fault Refusal :=
  .next (if unit < 38 then
    s.modPkg fun p => { p with counts := sset 0 p.counts unit (bumpCount (sget 0 p.counts unit)) } else s)

/-- An uncorrectable error is counted and reported to the host (R477). -/
def State.countError (s : State) (unit : Nat) : State :=
  (s.modPkg fun p => { p with counts := sset 0 p.counts (38 + unit) (bumpCount (sget 0 p.counts (38 + unit))) }).raiseVector 10

/-- A line holds data that exists nowhere else. -/
def State.dirty (s : State) (pa : Nat) : Bool :=
  match s.tileAt pa with
  | some t => t.st == .tm
  | none => let l := sget Line.inv s.lines (pa / 128); l.st == .modified || l.st == .multi

/-- A cached entry that is struck is dropped, to be fetched or built again (Table Failures-7): a translation of a die's
cache, which a slot that runs it goes on running (R434), ... -/
def State.dropTransAt (s : State) (d base : Nat) : State :=
  { s with translations := s.translations.map fun (e, x, t) => (e, if e = d && t.base = base then 1 else x, t) }

/-- ... a granule of its parameter-block cache, or a page translation. -/
def State.dropCached (s : State) (p : ErrPlace) : State :=
  match p with
  | .paramEntry d a => s.modDie d fun x => { x with pcache := x.pcache.filter fun e => e.2.1 ≠ a }
  | .pageEntry d ctx va => s.modDie d fun x =>
      { x with tlb := x.tlb.filter fun e => !(e.ctx == ctx && decide (e.va ≤ va) && decide (va < e.va + e.size)) }
  | .transEntry d base => s.dropTransAt d base
  | _ => s

/-- UNCORRECTABLE_ERROR (Table Failures-7). -/
def execUncorrectableError (p : ErrPlace) (s : State) : Host.Outcome State Fault Refusal :=
  match p with
  | .cleanLine pa =>
    if !s.deviceMem pa then .next s
    else
      let s := s.countError (home pa / 16)
      .next (if s.dirty pa then s.poisonRange (pa / 128 * 128) 128
        else if (s.tileAt pa).isSome then s
        else { s with lines := smod Line.inv s.lines (pa / 128) fun l => { Line.inv with slice := l.slice } })
  | .memory pa | .recordLine pa =>
    .next (if s.deviceMem pa then (s.countError (unitOfPa pa)).poisonRange (pa / 128 * 128) 128 else s)
  | .scratch core line =>
    .next (if (s.core core).allocated line then (s.countError (dieOf core)).poisonRange (spadKey core (128 * line)) 128 else s)
  | .register core slot code =>
    .next (match s.slot core slot with
      | none => s
      | some _ => (s.countError (dieOf core)).modSlot core slot fun sl =>
          { sl with poisoned := sl.poisoned.filter (· ≠ code) ++ [code] })
  | .dieState die => .next ((s.countError die).loseDie die)
  | .matrixAcc core => .next ((s.countError (dieOf core)).modCore core fun x => { x with accErr := min 2 (x.accErr + 1) })
  | .transEntry d _ | .paramEntry d _ | .pageEntry d _ _ => .next ((s.countError d).dropCached p)

end Sys2Proof.Machine
end

