-- ==== Sys2Proof/Machine/Shake.lean ====
section
/-!
DEFINITION. SHAKE256 (R93, R485), which the manual names and FIPS 202 defines (PRESUMED, log 30): the digest of a code
object. The permutation's state is five rows of five lanes; its round constants and rotations are computed by the
standard's own rules, so no table stands here.
-/
namespace Sys2Proof.Machine

/-- Bitwise exclusive or of two rows of lanes. -/
def rowXor (a b : List Word) : List Word := List.zipWith (· ^^^ ·) a b

/-- θ: each lane takes the parity of the column before it and, turned by one bit, of the column after it. -/
def mixColumns (rows : List (List Word)) : List (List Word) :=
  let parity := rows.foldl rowXor (List.replicate 5 0)
  let turned := parity.map fun w => w.rotateLeft 1
  rows.map (rowXor (rowXor (parity.rotateRight 1) (turned.rotateLeft 1)))

/-- The lane at row y, column x. -/
def laneAt (rows : List (List Word)) (x y : Nat) : Word := (rows.getD y []).getD x 0

/-- ρ and π together, by the walk (x, y) → (y, 2x + 3y) from (1, 0): the t-th lane met (t from 0) is turned by the
t-th partial sum 1 + … + (t + 1), and lands where the walk goes next. Answers (row, column, lane) of every lane met. -/
def scatterLanes (rows : List (List Word)) : Nat → Nat → Nat → Nat → Nat → List (Nat × Nat × Word)
  | 0, _, _, _, _ => []
  | left + 1, t, turn, x, y =>
    let x' := y
    let y' := (2 * x + 3 * y) % 5
    let turn' := turn + t + 1
    (y', x', (laneAt rows x y).rotateLeft (turn' % 64)) :: scatterLanes rows left (t + 1) turn' x' y'

/-- The rows after ρ and π; the lane at (0, 0) stays as it is. -/
def turnAndMove (rows : List (List Word)) : List (List Word) :=
  let met := (0, 0, laneAt rows 0 0) :: scatterLanes rows 24 0 0 1 0
  (List.range 5).map fun y => (List.range 5).map fun x =>
    ((met.find? fun m => m.1 == y && m.2.1 == x).map (·.2.2)).getD 0

/-- χ on one row. -/
def mixRow (row : List Word) : List Word :=
  rowXor row (List.zipWith (fun n nn => ~~~n &&& nn) (row.rotateLeft 1) (row.rotateLeft 2))

/-- One turn of the shift register behind ι, over x^8 + x^6 + x^5 + x^4 + 1. -/
def iotaTurn (r : Nat) : Nat := if 2 * r < 256 then 2 * r else Nat.xor (2 * r) 0x171

/-- Seven turns of the register: its output bit j goes to bit 2^j - 1 of the round's constant. Answers the constant and
the register after them. -/
def iotaWord : Nat → Nat → Word → Nat → Word × Nat
  | 0, _, w, r => (w, r)
  | left + 1, j, w, r =>
    iotaWord left (j + 1) (if r % 2 = 1 then w ||| (1#64 <<< (2 ^ j - 1)) else w) (iotaTurn r)

/-- ι: the constant goes into lane (0, 0). -/
def addConstant (k : Word) : List (List Word) → List (List Word)
  | (l :: row) :: rows => ((l ^^^ k) :: row) :: rows
  | rows => rows

/-- n rounds from register r. -/
def permuteRounds : Nat → Nat → List (List Word) → List (List Word)
  | 0, _, rows => rows
  | n + 1, r, rows =>
    let (k, r') := iotaWord 7 0 0 r
    permuteRounds n r' (addConstant k ((turnAndMove (mixColumns rows)).map mixRow))

/-- The 24 rounds of Keccak-f[1600]. -/
def permute (rows : List (List Word)) : List (List Word) := permuteRounds 24 1 rows

/-- The first n little-endian words of l, zeros past its end. -/
def wordsOfBytes : Nat → List Byte → List Word
  | 0, _ => []
  | n + 1, l => (l.take 8).foldr (fun b w => w <<< 8 ||| b.setWidth 64) 0 :: wordsOfBytes n (l.drop 8)

/-- n rows of five lanes. -/
def lanesInRows : Nat → List Word → List (List Word)
  | 0, _ => []
  | n + 1, l => l.take 5 :: lanesInRows n (l.drop 5)

/-- Take in n whole blocks of 136 bytes. -/
def takeBlocks : Nat → List Byte → List (List Word) → List (List Word)
  | 0, _, rows => rows
  | n + 1, l, rows =>
    takeBlocks n (l.drop 136) (permute (List.zipWith rowXor rows (lanesInRows 5 (wordsOfBytes 25 (l.take 136)))))

/-- What SHAKE256 puts after a message of len bytes: the bits 1111, then the padding 1 0 … 0 1 of the sponge. -/
def padFor (len : Nat) : List Byte :=
  match 135 - len % 136 with
  | 0 => [0x9F]
  | k + 1 => 0x1F :: (List.replicate k 0 ++ [0x80])

/-- The first n bytes (at most 136) of SHAKE256 of l. -/
def shake256 (n : Nat) (l : List Byte) : List Byte :=
  let msg := l ++ padFor l.length
  let rows := takeBlocks (msg.length / 136) msg (List.replicate 5 (List.replicate 5 0))
  (rows.flatten.flatMap fun (w : Word) => (List.range 8).map fun i => (w >>> (8 * i : Nat)).setWidth 8).take n

end Sys2Proof.Machine
end

