-- ==== Sys2Proof/Machine/Loader.lean ====
section
/-!
DEFINITION. The loader: code objects, their sections, tables and links (R93-R101). Where its sections stand in memory,
and which code a malformation gets that no rule names, is log 33.
-/
namespace Sys2Proof.Machine

/-! ## Sections (Tables Nalfen-6 to Nalfen-8) -/

/-- A section table entry. -/
structure Sect where
  type : Nat
  write : Bool
  zfill : Bool
  align : Nat
  off : Nat
  size : Nat
  deriving DecidableEq, Repr

/-- Entry i of the section table; none where a reserved bit is set, ALIGN is over 16, or the entry or the section
does not lie in the object (R94). -/
def parseSect (img : List Byte) (tab i : Nat) : Option Sect :=
  let e := le img (tab + 24 * i) 24
  let x : Sect := ⟨bits e 15 0, bit e 16, bit e 17, bits e 39 32, bits e 127 64, bits e 191 128⟩
  if tab + 24 * i + 24 ≤ img.length && bits e 31 18 = 0 && bits e 63 40 = 0 && x.align ≤ 16
    && (x.zfill || (x.off + x.size ≤ img.length && x.off % 2 ^ x.align = 0)) then some x else none

def knownType (t : Nat) : Bool := (0x8001 ≤ t && t ≤ 0x8009) || t == 0x000A || t == 0x000B

/-- The types that may stand only once (Table Nalfen-8), the first four of them required. -/
def singleTypes : List Nat := [0x8001, 0x8002, 0x8003, 0x8004, 0x8005, 0x8008]

/-- Two byte ranges have no byte in common. -/
def apart (a n b m : Nat) : Bool := n == 0 || m == 0 || decide (a + n ≤ b) || decide (b + m ≤ a)

/-- Every element is apart from every later one. -/
def allApart : List (Nat × Nat) → Bool
  | [] => true
  | (a, n) :: l => l.all (fun (b, m) => apart a n b m) && allApart l

/-- The sections of an object (R94, R95); none refuses with BADSECT. A required section without file bytes counts as missing
(log 82). -/
def parseSects (img : List Byte) : Option (List Sect) :=
  let n := le img 12 2
  let tab := le img 16 8
  if n = 0 || 4096 < n || tab % 8 ≠ 0 || tab < 64 then none else
  match (List.range n).mapM (parseSect img tab) with
  | none => none
  | some l =>
    let spans := (l.filter fun x => !x.zfill).map fun x => (x.off, x.size)
    if allApart ((0, 64) :: spans)
      && l.all (fun x => x.type != 0 && x.type != 0x8000)
      && singleTypes.all (fun t => decide ((l.filter fun x => x.type == t).length ≤ 1))
      && (singleTypes.take 4).all (fun t => l.any fun x => x.type == t && !x.zfill)
    then some l else none

/-- The bytes of a section. -/
def Sect.bytes (x : Sect) (img : List Byte) : List Byte := if x.zfill then [] else (img.drop x.off).take x.size

def sectOf (l : List Sect) (t : Nat) : Option Sect := l.find? fun x => x.type == t
def bytesOf (img : List Byte) (l : List Sect) (t : Nat) : List Byte :=
  match sectOf l t with
  | some x => x.bytes img
  | none => []

/-! ## Symbols, notes, relocations -/

/-- The symbol entries end where the first name begins. -/
def symCount (l : List Byte) : Nat → Nat → Nat → Nat
  | 0, i, _ => i
  | n + 1, i, bound => if 16 * i + 16 ≤ bound then symCount l n (i + 1) (min bound (le l (16 * i) 4)) else i

/-- The string at an offset, up to its NUL. -/
def strAt (l : List Byte) (a : Nat) : Option (List Byte) :=
  let r := l.drop a
  if r.contains 0 then some (r.takeWhile (· ≠ 0)) else none

/-- The symbols (Table Nalfen-8), the zero bytes of an entry ignored (R7); none where an entry is malformed. -/
def parseSyms (l : List Byte) : Option (List Sym) :=
  (List.range (symCount l (l.length / 16) 0 l.length)).mapM fun i =>
    let kind := le l (16 * i + 4) 1
    match strAt l (le l (16 * i) 4) with
    | some name => if 1 ≤ kind && kind ≤ 4 then some ⟨name, kind, le l (16 * i + 8) 8⟩ else none
    | none => none

/-- A note record (R99). -/
structure Note where
  name : List Byte
  mandatory : Bool
  value : List Byte
  deriving DecidableEq, Repr

def pad4 (n : Nat) : Nat := (n + 3) / 4 * 4

/-- The note records of a section; none where one is cut short. FLAGS beyond MANDATORY are ignored (R7, R99). -/
def parseNotes : Nat → List Byte → Option (List Note)
  | _, [] => some []
  | 0, _ => none
  | k + 1, l =>
    let n := le l 0 2
    let v := le l 4 4
    if l.length < 8 + pad4 n + pad4 v then none
    else (parseNotes k (l.drop (8 + pad4 n + pad4 v))).map fun ns =>
      ⟨(l.drop 8).take n, le l 2 2 % 2 = 1, (l.drop (8 + pad4 n)).take v⟩ :: ns

def noteCaps : List Byte := [0x63, 0x61, 0x6C, 0x62, 0x6F, 0x72, 0x2E, 0x63, 0x61, 0x70, 0x73]
def noteMinfmt : List Byte := [0x63, 0x61, 0x6C, 0x62, 0x6F, 0x72, 0x2E, 0x6D, 0x69, 0x6E, 0x66, 0x6D, 0x74]
def noteTool : List Byte := [0x63, 0x61, 0x6C, 0x62, 0x6F, 0x72, 0x2E, 0x74, 0x6F, 0x6F, 0x6C]
/-- The name of the body that an unbound lazy slot enters (R97). -/
def resolveName : List Byte := [0x5F, 0x72, 0x65, 0x73, 0x6F, 0x6C, 0x76, 0x65]

/-- The notes of every NOTES section. -/
def allNotes (img : List Byte) (l : List Sect) : Option (List Note) :=
  ((l.filter fun x => x.type == 0x000A).mapM fun x => parseNotes x.size (x.bytes img)).map List.flatten

/-- A relocation: the place in the object, the symbol, the kind. -/
structure Reloc where
  place : Nat
  sym : Nat
  kind : Nat
  deriving DecidableEq, Repr

/-- The relocations; none where one is malformed or does not lie in a section with file bytes. -/
def parseRelocs (l : List Byte) (sects : List Sect) (nsym : Nat) : Option (List Reloc) :=
  if l.length % 16 ≠ 0 then none else
  (List.range (l.length / 16)).mapM fun i =>
    let r : Reloc := ⟨le l (16 * i) 8, le l (16 * i + 8) 4, le l (16 * i + 12) 4⟩
    if r.sym < nsym && (r.kind == 1 || r.kind == 2)
      && sects.any (fun x => !x.zfill && decide (x.off ≤ r.place) && decide (r.place + 8 ≤ x.off + x.size))
    then some r else none

/-! ## Task descriptors (Table Nalfen-9, R96) -/

/-- A descriptor's fields. -/
structure Desc where
  raw : Nat
  deriving DecidableEq, Repr

def Desc.nkey (d : Desc) : Nat := bits d.raw 23 16
def Desc.nwrite (d : Desc) : Nat := bits d.raw 31 24
def Desc.nread (d : Desc) : Nat := bits d.raw 39 32
def Desc.nstep (d : Desc) : Nat := bits d.raw 47 40
def Desc.ncarry (d : Desc) : Nat := bits d.raw 63 48
def Desc.name (d : Desc) : Nat := bits d.raw 95 64
def Desc.codeOff (d : Desc) : Nat := bits d.raw 159 96
def Desc.codeLen (d : Desc) : Nat := bits d.raw 191 160
def Desc.typeOff (d : Desc) : Nat := bits d.raw 223 192
def Desc.spill (d : Desc) : Nat := bits d.raw 255 224
def Desc.keyOff (d : Desc) : Nat := bits d.raw 319 256
def Desc.setOff (d : Desc) : Nat := bits d.raw 383 320
def Desc.stepOff (d : Desc) : Nat := bits d.raw 447 384
def Desc.carryOff (d : Desc) : Nat := bits d.raw 511 448

/-- A set or transfer base: `%args`, or a scalar register of the body. -/
def baseOk (ts : List Byte) (b : Nat) : Bool := b == 0x80000002 || (decide (b < 2 ^ 31) && kindOf ts b == some 0)

/-- The set table of a body (R81). -/
def setsOk (tasks ts : List Byte) (d : Desc) : Bool :=
  let n := d.nread + d.nwrite
  d.nread ≤ 16 && d.nwrite ≤ 16 && (n == 0 || decide (d.setOff + 16 * n ≤ tasks.length)) &&
  (List.range n).all fun i =>
    let a := d.setOff + 16 * i
    let len := le tasks (a + 8) 8
    baseOk ts (le tasks a 4) && le tasks (a + 4) 4 == 0 && 1 ≤ len && len ≤ 2 ^ 48

/-- The key sources of a body (R80). -/
def Desc.keys (d : Desc) (tasks : List Byte) : List (Nat × Nat) :=
  (List.range d.nkey).map fun i => (le tasks (d.keyOff + 8 * i) 4, le tasks (d.keyOff + 8 * i + 4) 4)
def keysOk (tasks : List Byte) (d : Desc) : Bool :=
  d.nkey ≤ 4 && (d.nkey == 0 || decide (d.keyOff + 8 * d.nkey ≤ tasks.length)) &&
  (d.keys tasks).all fun (k, v) => k == 0 || (k == 1 && v % 4 == 0 && v ≤ 4092)

/-- The steps of a body: offset, kind and transfer count. -/
def Desc.steps (d : Desc) (tasks : List Byte) : List (Nat × Nat × Nat) :=
  (List.range d.nstep).map fun i =>
    let a := d.stepOff + 16 * i
    (le tasks a 4, le tasks (a + 4) 1, le tasks (a + 5) 1)

/-- Kinds alternate, beginning with compute. -/
def alternate : Nat → List (Nat × Nat × Nat) → Bool
  | _, [] => true
  | k, (_, k', _) :: l => k == k' && alternate (1 - k) l

/-- R83: an offset stands after a `call`, or inside a loop that a backward branch closes across it. -/
def badStepPlace (ops : List NOp) (at_ : Nat) : Bool :=
  ((ops.zip (ops.drop 1)).any fun (a, b) => a.id == 0x008 && b.at_ == at_)
  || ops.any fun o => match o.target with
    | some t => decide (t < (at_ : Int)) && decide (at_ ≤ o.at_)
    | none => false

/-- The step table of a body (R83, R85). No two steps name one offset, and a table that is not empty begins with an entry of
kind compute at offset 0, whether or not a `.step` line marks it (log 82). -/
def stepsOk (tasks ts : List Byte) (ops : List NOp) (d : Desc) : Bool :=
  (d.nstep == 0 || decide (d.stepOff + 16 * d.nstep ≤ tasks.length)) &&
  let l := d.steps tasks
  alternate 0 l && (match l with | [] => true | (o, _, _) :: _ => o == 0)
  && ((l.zip (l.drop 1)).all fun ((a, _), (b, _)) => decide (a < b))
  && ((l.drop 1).all fun (o, _, _) => !badStepPlace ops o)
  && (List.range d.nstep).all fun i =>
    let a := d.stepOff + 16 * i
    let n := le tasks (a + 5) 1
    let x := le tasks (a + 8) 8
    le tasks (a + 6) 2 == 0 && n ≤ 64 && (n == 0 || (le tasks (a + 4) 1 == 1 && decide (x + 16 * n ≤ tasks.length)))
    && (List.range n).all fun j =>
      let e := x + 16 * j
      baseOk ts (le tasks e 4) && baseOk ts (le tasks (e + 4) 4) && 1 ≤ le tasks (e + 8) 4 && le tasks (e + 12) 1 < 4
      && le tasks (e + 13) 3 == 0

/-- The offsets that step and carry entries name start operations (R92). -/
def entriesOk (tasks : List Byte) (ops : List NOp) (d : Desc) : Bool :=
  let start (o : Nat) : Bool := ops.any fun x => x.at_ == o
  (d.steps tasks).all (fun (o, _) => start o)
  && match parseCarry d.ncarry d.carryOff tasks with
    | none => true
    | some l => l.all fun (o, _) => start o

/-- R96 for one descriptor. -/
def descOk (tasks ts : List Byte) (syms : List Sym) (ops : List NOp) (d : Desc) : Bool :=
  bits d.raw 15 0 == 0 && setsOk tasks ts d && keysOk tasks d && stepsOk tasks ts ops d
  && (match parseCarry d.ncarry d.carryOff tasks with
      | none => false
      | some l => l.all fun (_, rs) => rs.all fun r => match kindOf ts r with
          | none => false
          | some k => k != 3)
  && (match syms[d.name]? with
      | some y => y.kind == 1
      | none => false)

/-! ## Linkage (R97) -/

/-- A linkage slot: its symbol and LAZY. -/
structure LinkSlot where
  sym : Nat
  lazy_ : Bool
  deriving DecidableEq, Repr

/-- The slots; none where one breaks R97. -/
def parseLinks (l : List Byte) (off : Nat) (syms : List Sym) : Option (List LinkSlot) :=
  if l.length % 16 ≠ 0 || off % 16 ≠ 0 then none else
  (List.range (l.length / 16)).mapM fun i =>
    let k := le l (16 * i + 8) 4
    match syms[k]? with
    | some y => if y.kind = 4 && le l (16 * i + 12) 4 < 2 then some ⟨k, le l (16 * i + 12) 4 = 1⟩ else none
    | none => none

/-! ## Placement -/

/-- Where each section stands: file sections at their offset, zero-fill ones one after another behind the object. -/
def placeSects : Nat → List Sect → List (Sect × Nat)
  | _, [] => []
  | n, x :: l =>
    if x.zfill then
      let a := ceilDiv n (2 ^ x.align) * 2 ^ x.align
      (x, a) :: placeSects (a + x.size) l
    else (x, x.off) :: placeSects n l

/-- Every piece of a range is mapped. -/
def State.mapped (s : State) (ctx va n : Nat) : Bool := (piecesOf va n).all fun (a, _) => (s.physOf ctx a).isSome

/-- Bytes written by the loader at a virtual address, whatever the page's permissions. -/
def State.install (s : State) (ctx : Nat) : List (Nat × Nat) → List Byte → State
  | [], _ => s
  | (a, m) :: ps, l => match s.physOf ctx a with
    | some pa => (s.writePa pa m (ofBytes (l.take m)) (s.keyAt ctx a)).install ctx ps (l.drop m)
    | none => s.install ctx ps (l.drop m)

/-! ## References to a handle (R101) -/

/-- A live record names a handle: by its VPC in memory, or by the body that it runs. A caller's handle that it will return to
does not count (log 98). -/
def State.recNames (s : State) (h : Nat) : Bool :=
  (s.ctxs.any fun (x, c) => c.alive && (List.range (bits (s.pool x) 31 0)).any fun i =>
    let r := s.readRec x i
    i ≠ 0 && recState r ≠ 0 && recVpc r / 2 ^ 44 == h)
  || (s.occupied.any fun (c, k) => match s.slot c k with
    | some sl => (match sl.virt with | some v => v.handle == h | none => false)
    | none => false)
  || s.suspended.any fun u => (match u.img.virt with | some v => v.handle == h | none => false)
    || u.others.any fun (_, sl) => (match sl.virt with | some v => v.handle == h | none => false)

/-- The linkage entries of an object that name a handle. -/
def State.linkNames (s : State) (o : CodeObject) (h : Nat) : Bool :=
  match o.linkage with
  | none => false
  | some (a, n) => (List.range n).any fun i => s.devGet o.ctx (a + 16 * i) 8 / 2 ^ 44 == h

def State.transNames (s : State) (h : Nat) : Bool := s.translations.any fun (_, _, t) => t.handle == h

/-- What a handle is named by, other than its own object's linkage. -/
def State.referenced (s : State) (h : Nat) : Bool :=
  s.recNames h || s.transNames h || s.objects.any fun o => o.handle != h && s.linkNames o h

/-- The lowest handle that may be given. -/
def State.freeHandleFrom (s : State) : Nat → Nat → Option Nat
  | 0, _ => none
  | n + 1, h => if (s.object h).isSome || s.referenced h then s.freeHandleFrom n (h + 1) else some h
def State.freeHandle (s : State) : Option Nat := s.freeHandleFrom 0xFFFFF 1

/-! ## LOAD_OBJECT (R100) -/

/-- A body with everything the checks need. -/
structure Parsed where
  desc : Desc
  ts : Option (List Byte)
  ops : Option (List NOp)
  deriving DecidableEq, Repr

/-- The bodies that the descriptors name. -/
def parseBodies (img : List Byte) (l : List Sect) : List Parsed :=
  let tasks := bytesOf img l 0x8002
  let types := bytesOf img l 0x8003
  let code := bytesOf img l 0x8001
  (List.range (min (le img 36 4) (tasks.length / 64))).map fun i =>
    let d : Desc := ⟨le tasks (64 * i) 64⟩
    ⟨d, parseTypes (types.drop d.typeOff), parseBody d.codeLen 0 ((code.drop d.codeOff).take d.codeLen)⟩

/-- The target of a link symbol: a body of that name in the object itself, else in the earliest loaded object that has one
(R97; the order is log 83). -/
def State.bound (s : State) (h : Nat) (own : List Body) (name : List Byte) : Option Nat :=
  match own.find? fun b => b.name == name with
  | some b => some (h * 2 ^ 44 + b.off)
  | none => s.objects.findSome? fun o => (o.bodies.find? fun b => b.name == name).map fun b => o.handle * 2 ^ 44 + b.off

/-- What each symbol stands for, its section and its linkage slot by `sec` and `slot`; kind 0 for a link symbol that no
slot names (R88). -/
def symVals (syms : List Sym) (h : Nat) (sec : Nat → Nat) (slot : Nat → Option Nat) : List SymVal :=
  syms.zipIdx.map fun (y, k) => match y.kind with
    | 1 => (1, h * 2 ^ 44 + y.value)
    | 2 => (2, sec 0x8006 + y.value)
    | 3 => (3, sec 0x8007 + y.value)
    | _ => match slot k with
      | some a => (4, a)
      | none => (0, 0)

/-- The value that a relocation writes. -/
def State.relocValue (s : State) (h place : Nat) (placed : List (Sect × Nat)) (own : List Body) (syms : List Sym)
    (r : Reloc) : Option Nat :=
  let secBase (t : Nat) : Option Nat := (placed.find? fun (x, _) => x.type == t).map fun (_, a) => place + a
  match syms[r.sym]? with
  | none => none
  | some y => match r.kind, y.kind with
    | 1, 2 => (secBase 0x8006).map (· + y.value)
    | 1, 3 => (secBase 0x8007).map (· + y.value)
    | 2, 1 => some (h * 2 ^ 44 + y.value)
    | 2, 4 => s.bound h own y.name
    | _, _ => none

/-- The image with bytes replaced. -/
def patch (img : List Byte) (a : Nat) (l : List Byte) : List Byte := img.take a ++ l ++ img.drop (a + l.length)

/-- R93: DIGEST is the first 24 bytes of SHAKE256 over the object with that field zero. -/
def digestOk (img : List Byte) : Bool :=
  shake256 24 (patch img 40 (List.replicate 24 0)) == (img.drop 40).take 24

/-- R100: the checks that need no table of the device, in the order of their codes; `0` when none fails. -/
def verify (img : List Byte) : Nat :=
  if img.length < 64 || le img 0 4 ≠ 0x4F464C4E || le img 6 2 ≠ 64 || le img 24 8 ≠ img.length || le img 8 4 ≠ 0 then 0x01
  else
    let sects := parseSects img
    let notes := sects.bind (allNotes img)
    let badFmt := match notes with
      | some ns => ns.any fun n => n.name == noteMinfmt && le n.value 1 1 != 1
      | none => false
    if le img 5 1 ≠ 1 || badFmt then 0x02
    else if !digestOk img then 0x03
    else match sects, notes with
    | some l, some ns =>
      match parseSyms (bytesOf img l 0x8004) with
      | none => 0x04
      | some syms =>
        if (parseRelocs (bytesOf img l 0x8008) l syms.length).isNone then 0x04
        else if l.any fun x => 0x8000 ≤ x.type && !knownType x.type then 0x05
        else if ns.any fun n => n.mandatory && n.name != noteCaps && n.name != noteMinfmt && n.name != noteTool then 0x06
        else
          let tasks := bytesOf img l 0x8002
          let code := bytesOf img l 0x8001
          let bs := parseBodies img l
          let bts : List BodyTypes := bs.filterMap fun b => b.ts.map fun t => ⟨b.desc.codeOff, t⟩
          let vals := symVals syms 0 id fun k => match sectOf l 0x8005 with
            | none => none
            | some x => match parseLinks (x.bytes img) x.off syms with
              | none => some 0
              | some ls => if ls.any (·.sym == k) then some 0 else none
          if bs.any fun b => b.ts.isNone then 0x07
          else if bs.any fun b => decide (b.desc.codeOff + b.desc.codeLen ≤ code.length) && (match b.ts, b.ops with
              | some ts, some ops =>
                let u : Unit_ := { ts := ts, syms := vals, off := b.desc.codeOff,
                                   all := scanOps (b.desc.codeLen + 1) 0 ((code.drop b.desc.codeOff).take b.desc.codeLen),
                                   live := [], carry := [], carryBad := false, reads := [], writes := [], steps := [] }
                !(u.all.all (u.opFits bts) && entriesOk tasks ops b.desc)
              | _, _ => true) then 0x08
          else if tasks.length < 64 * le img 36 4 then 0x09
          else if bs.any fun b => decide (code.length < b.desc.codeOff + b.desc.codeLen) || (match b.ts, b.ops with
              | some ts, some ops => !descOk tasks ts syms ops b.desc
              | _, _ => true) then 0x09
          else match sectOf l 0x8005 with
            | none => 0
            | some x => match parseLinks (x.bytes img) x.off syms with
              | none => 0x09
              | some ls =>
                if ls.any (·.lazy_) && !(bs.any fun b => match syms[b.desc.name]? with
                    | some y => y.name == resolveName
                    | none => false) then 0x09 else 0
    | _, _ => 0x04

/-- The ranges of a set table from the i-th. -/
def rangesOf (tasks : List Byte) (off i n : Nat) : List (Nat × Nat) :=
  (List.range n).map fun j => (le tasks (off + 16 * (i + j)) 4, le tasks (off + 16 * (i + j) + 8) 8)

/-- The steps of a body with their transfers. -/
def Desc.stepEntries (d : Desc) (tasks : List Byte) : List StepEntry :=
  (List.range d.nstep).map fun i =>
    let a := d.stepOff + 16 * i
    ⟨le tasks a 4, le tasks (a + 4) 1 = 1, (List.range (le tasks (a + 5) 1)).map fun j =>
      let e := le tasks (a + 8) 8 + 16 * j
      (le tasks e 4, le tasks (e + 4) 4, le tasks (e + 8) 4, le tasks (e + 12) 1)⟩

/-- The bodies of a verified object as the device keeps them. -/
def keptBodies (img : List Byte) (l : List Sect) (syms : List Sym) : List Body :=
  let tasks := bytesOf img l 0x8002
  (parseBodies img l).map fun b =>
    { off := b.desc.codeOff, len := b.desc.codeLen, spill := b.desc.spill, keys := b.desc.keys tasks,
      ops := (b.ops.getD []).map fun o => b.desc.codeOff + o.at_,
      name := match syms[b.desc.name]? with
        | some y => y.name
        | none => [],
      typeOff := b.desc.typeOff, carryOff := b.desc.carryOff, ncarry := b.desc.ncarry,
      reads := rangesOf tasks b.desc.setOff 0 b.desc.nread,
      writes := rangesOf tasks b.desc.setOff b.desc.nread b.desc.nwrite, steps := b.desc.stepEntries tasks }

/-- The entry that the loader sets in a linkage slot (R97). -/
def State.entryOf (s : State) (h : Nat) (own : List Body) (syms : List Sym) (k : LinkSlot) : Option Nat :=
  if k.lazy_ then (own.find? fun b => b.name == resolveName).map fun b => h * 2 ^ 44 + b.off
  else match syms[k.sym]? with
    | some y => s.bound h own y.name
    | none => none

/-- The pages of a section that is to be writable become so (R94, log 83). -/
def State.makeWritable (s : State) (ctx va n : Nat) : State :=
  (List.range (n / 65536 + 2)).foldl (fun s i =>
    let a := (va / 65536 + i) * 65536
    if n = 0 || va + n ≤ a then s else
    match s.walk ctx a with
    | .leaf l raw srcs => match srcs.getLast? with
      | some ea => if l.w then s else s.writePa ea 8 (raw + 2 ^ 4)
      | none => s
    | _ => s) s

/-- The level-0 descriptor of a `dom0` clause (Table Cluster-7). -/
def dom0Descriptor (x : Dom0) : Nat :=
  x.x0 % 256 * 2 ^ 256 + x.y0 % 256 * 2 ^ 264 + x.width % 256 * 2 ^ 272 + x.height % 256 * 2 ^ 280

/-- DOMCOUNT of a context's pool. -/
def State.domCount (s : State) (ctx : Nat) : Nat := bits (s.pool ctx) 351 320

/-- R406: the descriptors of an object's `dom0` clauses stand at the end of the context's domain table, and DOM of each
LAUNCH section, placed at these addresses, is set to its index. -/
def State.appendDom0 (s : State) (ctx : Nat) (launches : List Nat) (xs : List Dom0) : State :=
  xs.foldl (fun (s : State) x =>
    let n := s.domCount ctx
    let s := s.putDomain ctx n (dom0Descriptor x)
    let s := s.putPool ctx (putBits (s.pool ctx) 351 320 (n + 1))
    match launches[x.launch]? with
    | some a => s.install ctx (piecesOf (a + 36) 4) (leBytes 4 n)
    | none => s) s

/-- The mapped pages of the domain table extend over n new entries. -/
def State.domRoom (s : State) (ctx n : Nat) : Bool := s.mapped ctx (s.domVa ctx (s.domCount ctx)) (64 * n)

/-- The linkage slots of an image. -/
def linkSlots (img : List Byte) (l : List Sect) (syms : List Sym) : List LinkSlot :=
  match sectOf l 0x8005 with
  | some x => (parseLinks (x.bytes img) x.off syms).getD []
  | none => []

/-- The sections that are placed, with their offsets from the place of the object. -/
def placedSects (img : List Byte) (l : List Sect) : List (Sect × Nat) :=
  placeSects img.length (l.filter fun x => knownType x.type)

/-- The entry of each linkage slot of an image that is to be loaded; none where its symbol is unknown. -/
def State.linkEntries (s : State) (img : List Byte) (l : List Sect) (syms : List Sym) : List (Option Nat) :=
  (linkSlots img l syms).map (s.entryOf (s.freeHandle.getD 0) (keptBodies img l syms) syms)

/-- Its relocations, each with its value. -/
def State.relocValues (s : State) (img : List Byte) (place : Nat) (l : List Sect) (syms : List Sym) :
    List (Reloc × Option Nat) :=
  ((parseRelocs (bytesOf img l 0x8008) l syms.length).getD []).map fun r =>
    (r, s.relocValue (s.freeHandle.getD 0) place (placedSects img l) (keptBodies img l syms) syms r)

/-- Table Nalfen-10 for a verified object: 0x0A, a symbol that nothing defines (SYMUNK); 0x0B, no room (NOSPACE, R94, R97,
R406); else 0. -/
def State.loadFault (s : State) (ctx : Nat) (img : List Byte) (place : Nat) (l : List Sect) (syms : List Sym)
    (ndom : Nat) : Nat :=
  if (s.linkEntries img l syms).any (·.isNone) || (s.relocValues img place l syms).any fun x => x.2.isNone then 0x0A
  else if s.freeHandle.isNone || !((placedSects img l).all fun (x, a) =>
        (place + a) % 2 ^ x.align == 0 && (x.type != 0x8005 || (place + a) % 16 == 0) && s.mapped ctx (place + a) x.size)
      || !s.domRoom ctx ndom then 0x0B
  else 0

/-- A verified object is installed, unless `loadFault` refuses it. -/
def State.finishLoad (s : State) (ctx : Nat) (img : List Byte) (place : Nat) (l : List Sect) (syms : List Sym)
    (dom0 : List Dom0) : State :=
  let hn := s.freeHandle.getD 0
  let own := keptBodies img l syms
  let placed := placedSects img l
  let link := sectOf l 0x8005
  let slots := linkSlots img l syms
  let at_ (t : Nat) : Nat := place + ((placed.find? fun (x, _) => x.type == t).map Prod.snd).getD 0
  let size (t : Nat) : Nat := ((sectOf l t).map Sect.size).getD 0
  let bad := s.loadFault ctx img place l syms dom0.length
  if bad ≠ 0 then { s with loaded := (bad, 0) }
  else
    let img := (s.relocValues img place l syms).foldl (fun im (r, v) => patch im r.place (leBytes 8 (v.getD 0))) img
    let img := match link with
      | none => img
      | some x => ((List.range slots.length).zip (s.linkEntries img l syms)).foldl (fun im (i, v) =>
          patch im (x.off + 16 * i) (leBytes 8 (v.getD 0))) img
    let t := placed.foldl (fun (t : State) (x, a) =>
      let t := t.install ctx (piecesOf (place + a) x.size) (if x.zfill then List.replicate x.size 0 else x.bytes img)
      if x.write then t.makeWritable ctx (place + a) x.size else t) s
    let t := t.appendDom0 ctx ((placed.filter fun x => x.1.type == 0x8009).map fun x => place + x.2) dom0
    let code := sectOf l 0x8001
    let caps := ((allNotes img l).getD []).foldl (fun (c : Nat) n => if n.name == noteCaps then c ||| le n.value 0 8 else c) 0
    let slot (k : Nat) : Option Nat := (slots.findIdx? fun x => x.sym == k).map fun i => at_ 0x8005 + 16 * i
    { t with
        objects := t.objects ++
          [{ handle := hn, ctx := ctx, code := at_ 0x8001, codeLen := size 0x8001,
             codeWrite := (code.map (·.write)).getD false, types := (at_ 0x8003, size 0x8003),
             tasks := (at_ 0x8002, size 0x8002), spillMax := le img 32 4, caps := BitVec.ofNat 64 caps,
             syms := symVals syms hn at_ slot, bodies := own,
             linkage := link.map fun x => (place + x.off, slots.length) }],
        handleGen := sset 0 t.handleGen hn 0,
        loaded := (0, hn) }

/-- LOAD_OBJECT: verify and install a code object (R92-R101). Its `dom0` clauses come with the request (log 83). -/
def execLoadObject (ctx : Nat) (image : List Byte) (place : LoadPlace) (s : State) :
    Host.Outcome State Fault Refusal :=
  match verify image with
  | 0 => match parseSects image with
    | some l => .next (s.finishLoad ctx image place.base l ((parseSyms (bytesOf image l 0x8004)).getD []) place.dom0)
    | none => .next { s with loaded := (0x04, 0) }
  | c => .next { s with loaded := (c, 0) }

/-- UNLOAD_OBJECT: refused while a reference remains (R101). -/
def execUnloadObject (handle : Nat) (s : State) : Host.Outcome State Fault Refusal :=
  .next (if s.referenced handle then s else { s with objects := s.objects.filter fun o => o.handle != handle })

end Sys2Proof.Machine
end

