-- ==== Sys2Proof/Machine/MemEvents.lean ====
section
/-!
DEFINITION. The events of memory: requests at a home slice and buffers that arrive there (R323, R326), migration (R327),
page walks (R440), and the words of rings and channels (R286).
-/
namespace Sys2Proof.Machine

/-- An agent may make a request of a kind for the line of pa. -/
def State.requestOk (s : State) (a pa : Nat) (k : HomeKind) : Bool :=
  (match s.region pa with | some r => r.plain | none => false) &&
  (if a < 1024 then k = .load || k = .store || k = .atomic
   else if a < 1032 then k = .engineRead || k = .engineWrite
   else s.deviceMem pa && (if a = hostAgent then k = .load || k = .store
     else decide (1040 ≤ a) && s.fab.members.contains (a - 1040) && k ≠ .engineRead))

/-- The members that hold copies of the 2 KiB region of pa (R490). -/
def State.addSharer (s : State) (m pa : Nat) : State :=
  s.modFab fun f =>
    let l := sget [] f.regions (pa / 2048)
    { f with regions := sput f.regions (pa / 2048) (if l.contains m then l else l ++ [m]) }

/-- HOME_REQUEST (R323): one request accepted at a home. A front-end's write takes an empty buffer first; a peer's engine
write is merged on arrival (R491). -/
def execHomeRequest (agent pa : Nat) (k : HomeKind) (s : State) : Host.Outcome State Fault Refusal :=
  if !s.requestOk agent pa k then .next s
  else if 1040 ≤ agent then
    .next ((s.addSharer (agent - 1040) pa).homeAccept agent pa (if k = .engineWrite then .atomic else k))
  else if k = .engineWrite && (s.tileAt pa).isNone then
    let taken : Line := (sget Line.inv s.lines (pa / 128)).putBuf (agent - 1024) 0 []
    .next ({ s with lines := sset Line.inv s.lines (pa / 128) taken }.homeAccept agent pa k)
  else .next (s.homeAccept agent pa k)

/-- ENGINE_BUFFER_MERGE (R326): the buffer of a die's front-end for a line arrives at home. -/
def execEngineBufferMerge (die line : Nat) (s : State) : Host.Outcome State Fault Refusal :=
  .next (s.mergeBufs line (· == die))

/-- LINE_MIGRATION (R327): home hands a line's data to a slice of another die; lines of tiles stay. -/
def execLineMigration (line slice : Nat) (s : State) : Host.Outcome State Fault Refusal :=
  let pa := line * 128
  if s.deviceMem pa && (s.tileAt pa).isNone && slice < 128 && slice / 16 ≠ home pa / 16 && !(s.die (slice / 16)).lost then
    .next { s with lines := smod Line.inv s.lines line fun l => { l with slice := some slice } }
  else .next s

/-- MIGRATION_END (R327): home takes the data back. -/
def execMigrationEnd (line : Nat) (s : State) : Host.Outcome State Fault Refusal :=
  .next { s with lines := smod Line.inv s.lines line fun l => { l with slice := none } }

/-- PAGE_WALK (R439, R440): a walk that finds a leaf is cached on the die with the entries it was built from. -/
def execPageWalk (die ctx : Nat) (va : Word) (s : State) : Host.Outcome State Fault Refusal :=
  match s.cachedLeaf ctx va.toNat with
  | some e => .next (s.cacheLeaf die e)
  | none => .next s

/-- PORT_WORD_DELIVERY (R286): a pushed word enters its FIFO; words of one sender to one port keep their order. -/
def execPortWordDelivery (n : Nat) (s : State) : Host.Outcome State Fault Refusal :=
  match s.flights[n]? with
  | none => .next s
  | some f =>
    if (s.flights.take n).any fun g => g.src == f.src && g.core == f.core && g.port == f.port then .next s
    else
      let s := { s with flights := s.flights.eraseIdx n }
      .next (s.modCore f.core fun x => { x with fifo := sput x.fifo f.port (sget [] x.fifo f.port ++ [f.word]) })

end Sys2Proof.Machine
end

