-- ==== Sys2Proof/Machine/Package.lean ====
section
/-!
DEFINITION. The package and the world outside it (R472-R494): power, starts, keys, attestation, the host's and the peers'
requests.
-/
namespace Sys2Proof.Machine

/-! ## Power (R478, R479) -/

/-- The grants of compute dies d, d+1, … out of what is left of the budget. -/
def grantsFrom (n : Nat) : Nat → Nat → Nat → List (Nat × Nat)
  | 0, _, _ => []
  | k + 1, d, left => let g := min (Config.powerGrant n d) left; (d, g) :: grantsFrom n k (d + 1) (left - g)

/-- The budget after a tick (R479). -/
def nextBudget (budget : Nat) (temps : List Nat) : Nat :=
  if temps.any fun t => decide (95 < t) then budget - 250 else min 4500 (budget + 250)

/-- The module has stopped or started: nothing of what it was doing is left; memory, package and fabric stay. -/
def State.wiped (s : State) : State :=
  { State.reset with now := s.now, agenda := s.agenda, freeCtr := s.freeCtr, mem := s.mem, backing := s.backing,
                     poison := s.poison, pkg := s.pkg, fab := s.fab }

/-- R479: the module stops at once, and every context is lost. -/
def State.stopModule (s : State) : State := s.wiped.modPkg fun p => { p with stopped := true, running := false }

/-- A compute die is granted less than it asks for (R478). -/
def throttled (draws : List Nat) (grants : List (Nat × Nat)) (d : Nat) : Bool :=
  match grants.find? fun g => g.1 == d with
  | some (_, g) => decide (g < draws.getD d 0)
  | none => false

/-- A tick of the arbiter at temperatures up to 110 °C (R478, R479): the budget, the grants, the cores gated. -/
def State.regulate (s : State) (draws temps : List Nat) : State :=
  let b := nextBudget s.pkg.budget temps
  let grants := grantsFrom s.freeCtr 8 0 (b - (draws.drop 8).foldl (· + ·) 0)
  let gate : Nat → Bool := throttled draws grants
  let s : State := if temps.any fun t => decide (95 < t) then s.raiseVector 11 else s
  let s : State := (s.modPkg fun p => { p with budget := b, grants := grants }).bump
  let s : State := (List.range 1024).foldl (fun (s : State) c =>
    if (s.core c).gated == gate (dieOf c) then s else s.modCore c fun x => { x with gated := gate (dieOf c) }) s
  (List.range 8).foldl (fun (s : State) d => s.modDie d fun x =>
    { x with sleeping := if gate d then ((List.range 1024).filter fun c => dieOf c == d) ++ [1024 + d] else [] }) s

/-- POWER_ARBITER_TICK (R478, R479): demand of C0-C7 and the measured draw of the rest in W, and the temperature of every
die in °C. -/
def execPowerArbiterTick (draws temps : List Nat) (s : State) : Host.Outcome State Fault Refusal :=
  if !s.pkg.running then .next s
  else if temps.any fun t => decide (110 < t) then .next s.stopModule
  else .next (s.regulate draws temps)

/-- THERMAL_SHUTDOWN (R479). -/
def execThermalShutdown (s : State) : Host.Outcome State Fault Refusal := .next s.stopModule

/-! ## Start (R482, R483) -/

def startFailCode : StartFail → Nat
  | .bist => 0x10 | .fuse => 0x11 | .hbm => 0x12 | .ddr => 0x13 | .link => 0x14 | .auth => 0x15 | .rollback => 0x16

/-- A warm start runs no such phase. -/
def coldOnly : StartFail → Bool
  | .bist | .hbm | .ddr => true
  | _ => false

/-- Device memory: HBM4 and DDR5. -/
def State.inDevice (s : State) (a : Nat) : Bool := decide (a < 2 ^ 40 + s.pkg.ddrBytes)

/-- The bytes of a map outside a range written zero. -/
def clearRange {α : Type} (m : List (Nat × α)) (lo hi : Nat) : List (Nat × α) :=
  m.filter fun c => !(decide (lo ≤ c.1) && decide (c.1 < hi))

/-- Memory after the training phases of a cold start: what no phase has written zero holds free values (log 2). -/
def State.trained (s : State) (hbm ddr : Bool) : State :=
  let top := 2 ^ 40 + s.pkg.ddrBytes
  { s with mem := clearRange s.mem 0 top, backing := clearRange s.backing 0 top,
           poison := clearRange (clearRange s.poison 0 top) (2 ^ 60) (2 ^ 61),
           pkg := { s.pkg with keyOf := clearRange s.pkg.keyOf 0 (top / 16), staleKeys := (if hbm then [] else [(0, 2 ^ 40)])
             ++ (if ddr || s.pkg.ddrBytes = 0 then [] else [(2 ^ 40, s.pkg.ddrBytes)]) } }

/-- The leaves under a table with their pages. -/
def State.leavesUnder (s : State) : Nat → Nat → List Leaf
  | 0, _ => []
  | n + 1, table => (List.range 1024).flatMap fun i =>
    match readEntry (s.viewBytes (table + 8 * i) 8 0) (4 - n) with
    | none => []
    | some (.inr l) => [l]
    | some (.inl t) => s.leavesUnder n t

/-- The pages of device memory that some context maps under a key that f chooses (R438). -/
def State.keyedPages (s : State) (f : Nat → Bool) : List (Nat × Nat) :=
  s.ctxs.flatMap fun (_, c) => if !c.alive then [] else
    (s.leavesUnder 4 c.ptbase.toNat).filterMap fun l => if f l.key && s.deviceMem l.pa then some (l.pa, l.size) else none

/-- The units of device memory that are stored under a key id that f chooses (R438). -/
def State.storedUnder (s : State) (f : Nat → Bool) : List (Nat × Nat) :=
  s.pkg.keyOf.filterMap fun (u, k) => if f k && s.deviceMem (16 * u) then some (16 * u, 16) else none

/-- R482: what a warm start keeps of memory: the contents of HBM4 and DDR5; pages under keys 1-63 read under other keys. -/
def State.kept (s : State) : State :=
  { s with mem := s.backing.filter (fun c => s.inDevice c.1) ++ s.mem.filter (fun c => !s.inDevice c.1),
           poison := clearRange s.poison (2 ^ 60) (2 ^ 61),
           pkg := { s.pkg with staleKeys := s.pkg.staleKeys ++ s.storedUnder fun k => k ≠ 0 } }

/-- What every start loses and clears, and keys 1-63 with it. -/
def State.cleared (s : State) : State :=
  (s.wiped.modPkg fun p => { p with keys := [], attest := 0, grants := [], stopped := false }).modFab fun f =>
    { f with scaleOut := [], regions := [], msgs := [], senders := [] }

/-- The end of a start: vector 0, the count of failures, recovery mode (R483). -/
def State.started (s : State) (warm : Bool) (fail : Option StartFail) : State :=
  (match fail with
  | none => s.modPkg fun p => { p with running := true, recovery := false, failed := 0, warm := warm, failCode := 0,
                                       cxlUp := true, startCycle := s.now }
  | some f => s.modPkg fun p => { p with running := false, failed := p.failed + 1, warm := warm, failCode := startFailCode f,
                                         recovery := p.recovery || decide (3 ≤ p.failed + 1) }).raiseVector 0

/-- COLD_START (R482, R483), with the phase that fails, if one does. -/
def execColdStart (fail : Option StartFail) (s : State) : Host.Outcome State Fault Refusal :=
  let s' := match fail with
    | some .bist | some .fuse | some .hbm => s.trained false false
    | some .ddr => s.trained true false
    | _ => s.trained true true
  .next (s'.cleared.started false fail)

/-- WARM_START (R479, R482, R483): not after the module has stopped, nor in recovery mode. -/
def execWarmStart (fail : Option StartFail) (s : State) : Host.Outcome State Fault Refusal :=
  if s.pkg.stopped || s.pkg.recovery || (match fail with | some f => coldOnly f | none => false) then .next s
  else .next (s.kept.cleared.started true fail)

/-- RECOVERY_IMAGE_WRITE (R483): in recovery mode only. -/
def execRecoveryImageWrite (image : List Byte) (s : State) : Host.Outcome State Fault Refusal :=
  .next (if s.pkg.recovery then s.modPkg fun p => { p with image := image } else s)

/-! ## The security processor (R475, R486) -/

/-- Table Package-7, the n-th report of device `dev` with `failed` failed starts: the nonce, the device's bytes, then what the
identity key and the fuses alone determine, zero-padded. -/
def reportBytes (n dev failed : Nat) (nonce : List Byte) : List Byte :=
  let len := min 1280 (Config.signatureLength n)
  (List.range 32).map (fun i => nonce.getD i 0) ++ (List.range 8).map (Config.reportId dev failed)
    ++ (List.range 256).map (fun i => Config.reportByte n (40 + i))
    ++ leBytes 8 len ++ (List.range 1280).map fun i => if i < len then Config.reportByte n (304 + i) else 0

/-- ATTEST (R486): the report goes to the host's buffer; the control word becomes 2, or 3. -/
def execAttest (nonce : List Byte) (buf : Nat) (s : State) : Host.Outcome State Fault Refusal :=
  if !s.pkg.cxlUp || 2 ^ 48 < buf + 2048 then .next (s.modPkg fun p => { p with attest := 3 })
  else
    let pa := 0x000E000000000000 + buf
    let l := reportBytes s.freeCtr s.pkg.devId.toNat s.pkg.failed nonce
    let s := s.flushRun pa l.length
    .next ({ s with mem := splice s.mem pa l, backing := splice s.backing pa l }.bump.modPkg fun p => { p with attest := 2 })

/-- KEY_INSTALL (R475): lines under the id are written back and dropped, then the key is new. -/
def execKeyInstall (id : Nat) (s : State) : Host.Outcome State Fault Refusal :=
  if id = 0 || 64 ≤ id then .next s
  else
    let units := s.storedUnder fun k => k = id
    let s := (s.keyedPages (fun k => k = id) ++ units).foldl (fun (s : State) x => s.flushRun x.1 x.2) s
    .next (s.modPkg fun p => { p with keys := sset false p.keys id true, staleKeys := p.staleKeys ++ units })

/-! ## The host (R476, R477, R493) -/

/-- CXL_LINK_FAILURE: host memory is unreachable, and no die is lost. -/
def execCxlLinkFailure (s : State) : Host.Outcome State Fault Refusal := .next (s.modPkg fun p => { p with cxlUp := false })

/-- HOST_SNOOP: a line of host memory goes back to the host with its dirty data. -/
def execHostSnoop (pa : Nat) (s : State) : Host.Outcome State Fault Refusal :=
  .next (if s.region pa = some .host then s.flushRun (pa / 128 * 128) 128 else s)

/-- HOST_RECALL_TIMEOUT: the host's copies are lost, and its memory is out of reach. -/
def execHostRecallTimeout (pa : Nat) (s : State) : Host.Outcome State Fault Refusal :=
  .next (if s.deviceMem pa then (s.loseCopies (· == hostAgent)).modPkg fun p => { p with cxlUp := false } else s)

/-- HOST_CONDITION_READ: the vector may be raised again. -/
def execHostConditionRead (vec : Nat) (s : State) : Host.Outcome State Fault Refusal :=
  .next (s.modPkg fun p => { p with vectors := p.vectors.filter (· ≠ vec) })

/-! ## Peers (R489-R494) -/

/-- A line of a peer's window. -/
def State.isPeer (s : State) (pa : Nat) : Bool :=
  match s.region pa with | some (.peer _ _) => true | _ => false

/-- PEER_PROBE: a line homed on a peer is invalidated, or recalled clean; dirty data goes home. -/
def execPeerProbe (pa : Nat) (inval : Bool) (s : State) : Host.Outcome State Fault Refusal :=
  let a := pa / 128 * 128
  .next (if !s.isPeer pa then s else if inval then s.flushRun a 128 else s.cleanRun a 128)

/-- PEER_LOSS: accesses to the window fail; the peer's dirty lines of this device are uncorrectable, its clean copies and its
sharer entries go, and messages between the two are lost. -/
def execPeerLoss (m : Nat) (s : State) : Host.Outcome State Fault Refusal :=
  if !s.fab.members.contains m || s.fab.lostPeers.contains m || m = s.pkg.devId.toNat % 1024 then .next s
  else
    let dev := s.pkg.devId.toNat / 1024 * 1024 + m
    .next ((s.loseCopies (· == peerAgent m)).modFab fun f =>
      { f with lostPeers := f.lostPeers ++ [m],
               regions := f.regions.filterMap fun (r, l) =>
                 let l := l.filter (· ≠ m); if l.isEmpty then none else some (r, l),
               msgs := f.msgs.filter fun x => x.dev ≠ dev })

/-- PEER_RETURN: the peer has completed a start, and its window serves again. -/
def execPeerReturn (m : Nat) (s : State) : Host.Outcome State Fault Refusal :=
  .next (s.modFab fun f => { f with lostPeers := f.lostPeers.filter (· ≠ m) })

end Sys2Proof.Machine
end

