-- ==== Sys2Proof/Machine/Dispatch.lean ====
section
/-! DEFINITION. The one dispatch: each instruction to its meaning. -/
namespace Sys2Proof.Machine

def exec (i : Instr) (s : State) : Host.Outcome State Fault Refusal :=
  match i with
  | .br off => Sys2Proof.Machine.execBr off s
  | .brpAny off => Sys2Proof.Machine.execBrpAny off s
  | .brpAll off => Sys2Proof.Machine.execBrpAll off s
  | .brpNone off => Sys2Proof.Machine.execBrpNone off s
  | .brsZ off => Sys2Proof.Machine.execBrsZ off s
  | .brsNz off => Sys2Proof.Machine.execBrsNz off s
  | .brsLt off => Sys2Proof.Machine.execBrsLt off s
  | .brsGe off => Sys2Proof.Machine.execBrsGe off s
  | .call off => Sys2Proof.Machine.execCall off s
  | .callr d a => Sys2Proof.Machine.execCallr d a s
  | .jmpr a => Sys2Proof.Machine.execJmpr a s
  | .ret a => Sys2Proof.Machine.execRet a s
  | .loop off => Sys2Proof.Machine.execLoop off s
  | .spawn d a b cr => Sys2Proof.Machine.execSpawn d a b cr s
  | .spawnk d a b cr => Sys2Proof.Machine.execSpawnk d a b cr s
  | .retire a b => Sys2Proof.Machine.execRetire a b s
  | .susp a => Sys2Proof.Machine.execSusp a s
  | .suspon a b => Sys2Proof.Machine.execSuspon a b s
  | .phase l => Sys2Proof.Machine.execPhase l s
  | .parrive d l => Sys2Proof.Machine.execParrive d l s
  | .pwait l b => Sys2Proof.Machine.execPwait l b s
  | .gfuse d a b => Sys2Proof.Machine.execGfuse d a b s
  | .gsplit d => Sys2Proof.Machine.execGsplit d s
  | .evwait l => Sys2Proof.Machine.execEvwait l s
  | .evsig l b => Sys2Proof.Machine.execEvsig l b s
  | .barr d g => Sys2Proof.Machine.execBarr d g s
  | .bwait g b => Sys2Proof.Machine.execBwait g b s
  | .bmask g b => Sys2Proof.Machine.execBmask g b s
  | .oarr d l b => Sys2Proof.Machine.execOarr d l b s
  | .owait l b => Sys2Proof.Machine.execOwait l b s
  | .xwait ch b => Sys2Proof.Machine.execXwait ch b s
  | .fence k scope => Sys2Proof.Machine.execFence k scope s
  | .tfence => Sys2Proof.Machine.execTfence s
  | .qstat d p => Sys2Proof.Machine.execQstat d p s
  | .chbind d n b => Sys2Proof.Machine.execChbind d n b s
  | .ld sz d a imm => Sys2Proof.Machine.execLd sz d a imm s
  | .ldx sz d a b => Sys2Proof.Machine.execLdx sz d a b s
  | .ldAcq sz d a scope => Sys2Proof.Machine.execLdAcq sz d a scope s
  | .st sz d a imm => Sys2Proof.Machine.execSt sz d a imm s
  | .stx sz d a b => Sys2Proof.Machine.execStx sz d a b s
  | .stRel sz d a scope => Sys2Proof.Machine.execStRel sz d a scope s
  | .vld d a tag => Sys2Proof.Machine.execVld d a tag s
  | .vlds d base tag => Sys2Proof.Machine.execVlds d base tag s
  | .vst d a imm => Sys2Proof.Machine.execVst d a imm s
  | .vsts d base => Sys2Proof.Machine.execVsts d base s
  | .vgath w d a b => Sys2Proof.Machine.execVgath w d a b s
  | .vscat w d a b => Sys2Proof.Machine.execVscat w d a b s
  | .ldfe64 d a => Sys2Proof.Machine.execLdfe64 d a s
  | .ldfe64c d a => Sys2Proof.Machine.execLdfe64c d a s
  | .ldfeV d a tag => Sys2Proof.Machine.execLdfeV d a tag s
  | .ldfeVc d a tag => Sys2Proof.Machine.execLdfeVc d a tag s
  | .stfe64 d a imm => Sys2Proof.Machine.execStfe64 d a imm s
  | .stfeV d a imm => Sys2Proof.Machine.execStfeV d a imm s
  | .fecl a b => Sys2Proof.Machine.execFecl a b s
  | .feset a b => Sys2Proof.Machine.execFeset a b s
  | .amoAdd w f at_ => Sys2Proof.Machine.execAmoAdd w f at_ s
  | .amoAnd w f at_ => Sys2Proof.Machine.execAmoAnd w f at_ s
  | .amoOr w f at_ => Sys2Proof.Machine.execAmoOr w f at_ s
  | .amoXor w f at_ => Sys2Proof.Machine.execAmoXor w f at_ s
  | .amoSmin w f at_ => Sys2Proof.Machine.execAmoSmin w f at_ s
  | .amoSmax w f at_ => Sys2Proof.Machine.execAmoSmax w f at_ s
  | .amoNmin w f at_ => Sys2Proof.Machine.execAmoNmin w f at_ s
  | .amoNmax w f at_ => Sys2Proof.Machine.execAmoNmax w f at_ s
  | .amoSwap w d a b at_ => Sys2Proof.Machine.execAmoSwap w d a b at_ s
  | .famoFadd t f at_ => Sys2Proof.Machine.execFamoFadd t f at_ s
  | .famoFmin t f at_ => Sys2Proof.Machine.execFamoFmin t f at_ s
  | .famoFmax t f at_ => Sys2Proof.Machine.execFamoFmax t f at_ s
  | .cas f at_ => Sys2Proof.Machine.execCas f at_ s
  | .cflush d a b => Sys2Proof.Machine.execCflush d a b s
  | .cwb d a b => Sys2Proof.Machine.execCwb d a b s
  | .cinv d a b => Sys2Proof.Machine.execCinv d a b s
  | .tcinv d a b => Sys2Proof.Machine.execTcinv d a b s
  | .spalloc d a b => Sys2Proof.Machine.execSpalloc d a b s
  | .spfree d a b => Sys2Proof.Machine.execSpfree d a b s
  | .tdecl d a b => Sys2Proof.Machine.execTdecl d a b s
  | .tundecl d a b => Sys2Proof.Machine.execTundecl d a b s
  | .tfwd d a b => Sys2Proof.Machine.execTfwd d a b s
  | .csrr d num => Sys2Proof.Machine.execCsrr d num s
  | .csrw num d => Sys2Proof.Machine.execCsrw num d s
  | .csrs num d => Sys2Proof.Machine.execCsrs num d s
  | .csrc num d => Sys2Proof.Machine.execCsrc num d s
  | .trap n => Sys2Proof.Machine.execTrap n s
  | .eret a => Sys2Proof.Machine.execEret a s
  | .nopC => Sys2Proof.Machine.execNopC s
  | .add d a b => Sys2Proof.Machine.execAdd d a b s
  | .sub d a b => Sys2Proof.Machine.execSub d a b s
  | .mul d a b => Sys2Proof.Machine.execMul d a b s
  | .mulhS d a b => Sys2Proof.Machine.execMulhS d a b s
  | .mulhN d a b => Sys2Proof.Machine.execMulhN d a b s
  | .divS d a b => Sys2Proof.Machine.execDivS d a b s
  | .divN d a b => Sys2Proof.Machine.execDivN d a b s
  | .remS d a b => Sys2Proof.Machine.execRemS d a b s
  | .remN d a b => Sys2Proof.Machine.execRemN d a b s
  | .and d a b => Sys2Proof.Machine.execAnd d a b s
  | .or d a b => Sys2Proof.Machine.execOr d a b s
  | .xor d a b => Sys2Proof.Machine.execXor d a b s
  | .andn d a b => Sys2Proof.Machine.execAndn d a b s
  | .shl d a b => Sys2Proof.Machine.execShl d a b s
  | .shr d a b => Sys2Proof.Machine.execShr d a b s
  | .sar d a b => Sys2Proof.Machine.execSar d a b s
  | .rot d a b => Sys2Proof.Machine.execRot d a b s
  | .minS d a b => Sys2Proof.Machine.execMinS d a b s
  | .maxS d a b => Sys2Proof.Machine.execMaxS d a b s
  | .minN d a b => Sys2Proof.Machine.execMinN d a b s
  | .maxN d a b => Sys2Proof.Machine.execMaxN d a b s
  | .clz d a => Sys2Proof.Machine.execClz d a s
  | .popc d a => Sys2Proof.Machine.execPopc d a s
  | .sel d a b => Sys2Proof.Machine.execSel d a b s
  | .mov d a => Sys2Proof.Machine.execMov d a s
  | .lea d a b => Sys2Proof.Machine.execLea d a b s
  | .sext d a b => Sys2Proof.Machine.execSext d a b s
  | .zext d a b => Sys2Proof.Machine.execZext d a b s
  | .add32 d a b => Sys2Proof.Machine.execAdd32 d a b s
  | .sub32 d a b => Sys2Proof.Machine.execSub32 d a b s
  | .mul32 d a b => Sys2Proof.Machine.execMul32 d a b s
  | .addi d a imm => Sys2Proof.Machine.execAddi d a imm s
  | .andi d a imm => Sys2Proof.Machine.execAndi d a imm s
  | .ori d a imm => Sys2Proof.Machine.execOri d a imm s
  | .xori d a imm => Sys2Proof.Machine.execXori d a imm s
  | .shli d a imm => Sys2Proof.Machine.execShli d a imm s
  | .shri d a imm => Sys2Proof.Machine.execShri d a imm s
  | .sari d a imm => Sys2Proof.Machine.execSari d a imm s
  | .setEq d a b => Sys2Proof.Machine.execSetEq d a b s
  | .setNe d a b => Sys2Proof.Machine.execSetNe d a b s
  | .setLt d a b => Sys2Proof.Machine.execSetLt d a b s
  | .setGe d a b => Sys2Proof.Machine.execSetGe d a b s
  | .setLtn d a b => Sys2Proof.Machine.execSetLtn d a b s
  | .setGen d a b => Sys2Proof.Machine.execSetGen d a b s
  | .pand d a b => Sys2Proof.Machine.execPand d a b s
  | .por d a b => Sys2Proof.Machine.execPor d a b s
  | .pxor d a b => Sys2Proof.Machine.execPxor d a b s
  | .pnot d a => Sys2Proof.Machine.execPnot d a s
  | .pset d a mode => Sys2Proof.Machine.execPset d a mode s
  | .pget d a mode => Sys2Proof.Machine.execPget d a mode s
  | .vadd d a b => Sys2Proof.Machine.execVadd d a b s
  | .vsub d a b => Sys2Proof.Machine.execVsub d a b s
  | .vmul d a b => Sys2Proof.Machine.execVmul d a b s
  | .vmulh d a b => Sys2Proof.Machine.execVmulh d a b s
  | .vand d a b => Sys2Proof.Machine.execVand d a b s
  | .vor d a b => Sys2Proof.Machine.execVor d a b s
  | .vxor d a b => Sys2Proof.Machine.execVxor d a b s
  | .vshl d a b => Sys2Proof.Machine.execVshl d a b s
  | .vshr d a b => Sys2Proof.Machine.execVshr d a b s
  | .vsar d a b => Sys2Proof.Machine.execVsar d a b s
  | .vmin d a b => Sys2Proof.Machine.execVmin d a b s
  | .vmax d a b => Sys2Proof.Machine.execVmax d a b s
  | .vabs d a => Sys2Proof.Machine.execVabs d a s
  | .vmad d a b => Sys2Proof.Machine.execVmad d a b s
  | .vpopc d a => Sys2Proof.Machine.execVpopc d a s
  | .vdot d a b => Sys2Proof.Machine.execVdot d a b s
  | .vcmpEq d a b => Sys2Proof.Machine.execVcmpEq d a b s
  | .vcmpNe d a b => Sys2Proof.Machine.execVcmpNe d a b s
  | .vcmpLt d a b => Sys2Proof.Machine.execVcmpLt d a b s
  | .vcmpGe d a b => Sys2Proof.Machine.execVcmpGe d a b s
  | .vsel d a b => Sys2Proof.Machine.execVsel d a b s
  | .fadd d a b => Sys2Proof.Machine.execFadd d a b s
  | .fsub d a b => Sys2Proof.Machine.execFsub d a b s
  | .fmul d a b => Sys2Proof.Machine.execFmul d a b s
  | .fma d a b => Sys2Proof.Machine.execFma d a b s
  | .fms d a b => Sys2Proof.Machine.execFms d a b s
  | .fnma d a b => Sys2Proof.Machine.execFnma d a b s
  | .fnms d a b => Sys2Proof.Machine.execFnms d a b s
  | .fmin d a b => Sys2Proof.Machine.execFmin d a b s
  | .fmax d a b => Sys2Proof.Machine.execFmax d a b s
  | .fabs d a => Sys2Proof.Machine.execFabs d a s
  | .fneg d a => Sys2Proof.Machine.execFneg d a s
  | .fdiv d a b => Sys2Proof.Machine.execFdiv d a b s
  | .fsqrt d a => Sys2Proof.Machine.execFsqrt d a s
  | .frcp d a => Sys2Proof.Machine.execFrcp d a s
  | .frsq d a => Sys2Proof.Machine.execFrsq d a s
  | .fexp2 d a => Sys2Proof.Machine.execFexp2 d a s
  | .flog2 d a => Sys2Proof.Machine.execFlog2 d a s
  | .fclass d a => Sys2Proof.Machine.execFclass d a s
  | .fcmpEq d a b => Sys2Proof.Machine.execFcmpEq d a b s
  | .fcmpLt d a b => Sys2Proof.Machine.execFcmpLt d a b s
  | .fcmpLe d a b => Sys2Proof.Machine.execFcmpLe d a b s
  | .fcmpUn d a b => Sys2Proof.Machine.execFcmpUn d a b s
  | .cvt d a b => Sys2Proof.Machine.execCvt d a b s
  | .cvtq d a b => Sys2Proof.Machine.execCvtq d a b s
  | .cvtdq d a b => Sys2Proof.Machine.execCvtdq d a b s
  | .vbcast d a b => Sys2Proof.Machine.execVbcast d a b s
  | .vshuf d a b => Sys2Proof.Machine.execVshuf d a b s
  | .vslideUp d a b => Sys2Proof.Machine.execVslideUp d a b s
  | .vslideDn d a b => Sys2Proof.Machine.execVslideDn d a b s
  | .vext d a b => Sys2Proof.Machine.execVext d a b s
  | .vins d a b => Sys2Proof.Machine.execVins d a b s
  | .vcmpr d a => Sys2Proof.Machine.execVcmpr d a s
  | .vlane d a b => Sys2Proof.Machine.execVlane d a b s
  | .vredAdd d a => Sys2Proof.Machine.execVredAdd d a s
  | .vredMin d a => Sys2Proof.Machine.execVredMin d a s
  | .vredMax d a => Sys2Proof.Machine.execVredMax d a s
  | .vredAnd d a => Sys2Proof.Machine.execVredAnd d a s
  | .vredOr d a => Sys2Proof.Machine.execVredOr d a s
  | .fredAdd d a => Sys2Proof.Machine.execFredAdd d a s
  | .fredMin d a => Sys2Proof.Machine.execFredMin d a s
  | .fredMax d a => Sys2Proof.Machine.execFredMax d a s
  | .vtag d a b => Sys2Proof.Machine.execVtag d a b s
  | .vtagq d a => Sys2Proof.Machine.execVtagq d a s
  | .mzero t s32 => Sys2Proof.Machine.execMzero t s32 s
  | .mlda n a => Sys2Proof.Machine.execMlda n a s
  | .mldb a => Sys2Proof.Machine.execMldb a s
  | .mring code => Sys2Proof.Machine.execMring code s
  | .mma t a p => Sys2Proof.Machine.execMma t a p s
  | .mband n a => Sys2Proof.Machine.execMband n a s
  | .mst t a l => Sys2Proof.Machine.execMst t a l s
  | .mldt t a l => Sys2Proof.Machine.execMldt t a l s
  | .mfence => Sys2Proof.Machine.execMfence s
  | .mchk d => Sys2Proof.Machine.execMchk d s
  | .nopA => Sys2Proof.Machine.execNopA s
  | .stepCommOpen core slot xs => Sys2Proof.Machine.execStepCommOpen core slot xs s
  | .stepComputeOpen core slot => Sys2Proof.Machine.execStepComputeOpen core slot s
  | .trapqRidxAdvance die ridx => Sys2Proof.Machine.execTrapqRidxAdvance die ridx s
  | .trapqbaseWrite die ctx base => Sys2Proof.Machine.execTrapqbaseWrite die ctx base s
  | .savebaseWrite ctx base => Sys2Proof.Machine.execSavebaseWrite ctx base s
  | .quantWrite core slot v => Sys2Proof.Machine.execQuantWrite core slot v s
  | .inboxstWrite core v => Sys2Proof.Machine.execInboxstWrite core v s
  | .csrWrite core slot num v => Sys2Proof.Machine.execCsrWrite core slot num v s
  | .resultDelivery core slot id => Sys2Proof.Machine.execResultDelivery core slot id s
  | .blockedOperationFinish ctx idx => Sys2Proof.Machine.execBlockedOperationFinish ctx idx s
  | .recordPickup die core slot ctx idx => Sys2Proof.Machine.execRecordPickup die core slot ctx idx s
  | .holdExpiry core slot => Sys2Proof.Machine.execHoldExpiry core slot s
  | .eviction core slot => Sys2Proof.Machine.execEviction core slot s
  | .wake ctx idx => Sys2Proof.Machine.execWake ctx idx s
  | .timerWake ctx idx => Sys2Proof.Machine.execTimerWake ctx idx s
  | .readyRecordMove ctx idx src dst => Sys2Proof.Machine.execReadyRecordMove ctx idx src dst s
  | .keyReserve ctx idx => Sys2Proof.Machine.execKeyReserve ctx idx s
  | .launchAccept q => Sys2Proof.Machine.execLaunchAccept q s
  | .launchStart l => Sys2Proof.Machine.execLaunchStart l s
  | .launchComplete l => Sys2Proof.Machine.execLaunchComplete l s
  | .gangPlace die ctx idx leader slot => Sys2Proof.Machine.execGangPlace die ctx idx leader slot s
  | .gangDrain die cluster ctx idx => Sys2Proof.Machine.execGangDrain die cluster ctx idx s
  | .gangTimeout ctx idx => Sys2Proof.Machine.execGangTimeout ctx idx s
  | .gfuseDecide cluster leader size tag => Sys2Proof.Machine.execGfuseDecide cluster leader size tag s
  | .gfuseTimeout core slot => Sys2Proof.Machine.execGfuseTimeout core slot s
  | .classifyWindow l ops bytes => Sys2Proof.Machine.execClassifyWindow l ops bytes s
  | .resume r => Sys2Proof.Machine.execResume r s
  | .terminate r => Sys2Proof.Machine.execTerminate r s
  | .qreg r => Sys2Proof.Machine.execQreg r s
  | .qunreg r => Sys2Proof.Machine.execQunreg r s
  | .setparam r => Sys2Proof.Machine.execSetparam r s
  | .packetAccept die => Sys2Proof.Machine.execPacketAccept die s
  | .queueSlotServe q => Sys2Proof.Machine.execQueueSlotServe q s
  | .copy op => Sys2Proof.Machine.execCopy op s
  | .copySegment op => Sys2Proof.Machine.execCopySegment op s
  | .gather op => Sys2Proof.Machine.execGather op s
  | .scatter op => Sys2Proof.Machine.execScatter op s
  | .gatherRowLand op k => Sys2Proof.Machine.execGatherRowLand op k s
  | .coll op => Sys2Proof.Machine.execColl op s
  | .collChunk inst => Sys2Proof.Machine.execCollChunk inst s
  | .waitid op => Sys2Proof.Machine.execWaitid op s
  | .marker op => Sys2Proof.Machine.execMarker op s
  | .operationComplete op => Sys2Proof.Machine.execOperationComplete op s
  | .scaleoutSegmentAck op ok => Sys2Proof.Machine.execScaleoutSegmentAck op ok s
  | .homeRequest agent pa k => Sys2Proof.Machine.execHomeRequest agent pa k s
  | .engineBufferMerge die line => Sys2Proof.Machine.execEngineBufferMerge die line s
  | .atomicAtHome ctx ea w op v => Sys2Proof.Machine.execAtomicAtHome ctx ea w op v s
  | .proxyAtomic n => Sys2Proof.Machine.execProxyAtomic n s
  | .lineMigration line slice => Sys2Proof.Machine.execLineMigration line slice s
  | .migrationEnd line => Sys2Proof.Machine.execMigrationEnd line s
  | .probeTimeout core => Sys2Proof.Machine.execProbeTimeout core s
  | .pageWalk die ctx va => Sys2Proof.Machine.execPageWalk die ctx va s
  | .translationBuild die handle entry => Sys2Proof.Machine.execTranslationBuild die handle entry s
  | .portWordDelivery n => Sys2Proof.Machine.execPortWordDelivery n s
  | .phase0Publish core nbr => Sys2Proof.Machine.execPhase0Publish core nbr s
  | .barrierObjectArrival ctx dom weight => Sys2Proof.Machine.execBarrierObjectArrival ctx dom weight s
  | .domainFlip ctx dom => Sys2Proof.Machine.execDomainFlip ctx dom s
  | .releaseWindow core slot => Sys2Proof.Machine.execReleaseWindow core slot s
  | .eventPageLoad core slot cluster line => Sys2Proof.Machine.execEventPageLoad core slot cluster line s
  | .eventPageStore ctx cluster line => Sys2Proof.Machine.execEventPageStore ctx cluster line s
  | .mringReceive core => Sys2Proof.Machine.execMringReceive core s
  | .mstStorePerform core n => Sys2Proof.Machine.execMstStorePerform core n s
  | .matrixIdle core => Sys2Proof.Machine.execMatrixIdle core s
  | .matrixStartGrant die => Sys2Proof.Machine.execMatrixStartGrant die s
  | .powerArbiterTick draws temps => Sys2Proof.Machine.execPowerArbiterTick draws temps s
  | .thermalShutdown => Sys2Proof.Machine.execThermalShutdown s
  | .dieLoss die => Sys2Proof.Machine.execDieLoss die s
  | .uncorrectableError p => Sys2Proof.Machine.execUncorrectableError p s
  | .correctableError unit => Sys2Proof.Machine.execCorrectableError unit s
  | .cxlLinkFailure => Sys2Proof.Machine.execCxlLinkFailure s
  | .hostSnoop pa => Sys2Proof.Machine.execHostSnoop pa s
  | .hostRecallTimeout pa => Sys2Proof.Machine.execHostRecallTimeout pa s
  | .peerLoss m => Sys2Proof.Machine.execPeerLoss m s
  | .peerArrivalMessage dev ctx dom => Sys2Proof.Machine.execPeerArrivalMessage dev ctx dom s
  | .coldStart fail => Sys2Proof.Machine.execColdStart fail s
  | .warmStart fail => Sys2Proof.Machine.execWarmStart fail s
  | .recoveryImageWrite image => Sys2Proof.Machine.execRecoveryImageWrite image s
  | .attest nonce buf => Sys2Proof.Machine.execAttest nonce buf s
  | .keyInstall id => Sys2Proof.Machine.execKeyInstall id s
  | .loadObject ctx image place => Sys2Proof.Machine.execLoadObject ctx image place s
  | .unloadObject handle => Sys2Proof.Machine.execUnloadObject handle s
  | .ownerWrite core line h => Sys2Proof.Machine.execOwnerWrite core line h s
  | .feWrite core line v => Sys2Proof.Machine.execFeWrite core line v s
  | .bindHolderWrite core n h => Sys2Proof.Machine.execBindHolderWrite core n h s
  | .bindRouteWrite core n r => Sys2Proof.Machine.execBindRouteWrite core n r s
  | .unassignedOpcode aslot op => Sys2Proof.Machine.execUnassignedOpcode aslot op s
  | .loweredFaultReached core slot translate id cap => Sys2Proof.Machine.execLoweredFaultReached core slot translate id cap s
  | .contextDestroy ctx => Sys2Proof.Machine.execContextDestroy ctx s
  | .peerProbe pa inval => Sys2Proof.Machine.execPeerProbe pa inval s
  | .peerReturn m => Sys2Proof.Machine.execPeerReturn m s
  | .hostConditionRead vec => Sys2Proof.Machine.execHostConditionRead vec s

end Sys2Proof.Machine
end

