-- ==== Sys2Proof/Machine/Place.lean ====
section
/-!
DEFINITION. A pair placed where the next step issues it (log 31): context 0 with two page tables that map its first
64 GiB to the same physical addresses, the pair in memory, and a native continuation (R515) at it in slot 0 of core 0,
whose issue is the next move.
-/
namespace Sys2Proof.Machine

/-- Physical addresses of the two tables and of the pair. -/
def placeRoot : Nat := 0x10000
def placeTable : Nat := 0x12000
def placeCode : Nat := 0x20000

/-- The continuation at the pair. -/
def placeSlot (now : Nat) : Slot :=
  { ctx := 0, idx := 1, recVa := 0x40040, recPa := 0x40040, gen := 0, prio := 0, gang := 0, matrix := false,
    launch := none, image := none, native := decide (placeCode < 2 ^ 44), virt := none, pc := BitVec.ofNat 64 placeCode, lastPc := 0,
    args := 0, frame := 0x50000, dom := 0,
    regs := { s := [], v := [], p := [], la := VReg.zero, lc := VReg.zero },
    csrs := { flags := 0, ftrap := 0, fctl := 0, chk := 0, lead := 0, quant := 0, time := 0, xflast := 0, domm := [] },
    pickup := now, pending := [], csrPend := [], nextId := 0, seq := 1, issuedAt := 0, gapUntil := now, readySince := now, hold := none,
    quantum := [], qcount := 0, asm := [], poisoned := [], failedNr := false, failedNor := false, noEvict := false, phase0 := 0, touched := 0,
    slotNo := 0, gangInfo := none }

/-- The context's CSRs: its root table and its pool. -/
def placeCtx : Ctx :=
  { alive := true, ptbase := BitVec.ofNat 64 placeRoot, savebase := 0, scopetab := 0, cap := 0, contpool := 0x40000,
    saveOk := false }

/-- The pair w in place. -/
def State.placePair (s : State) (w : Nat) : State :=
  let s := s.writePa placeRoot 8 (placeTable + 1)
  let s := s.writePa placeTable 8 0x7B
  let s := s.writePa placeCode 8 w
  let s := s.modCtx 0 fun _ => placeCtx
  let s := s.modCore 0 fun x => { x with slots := sput x.slots 0 (some (placeSlot s.now)), lastIssue := none, gated := false,
                                         dead := false }
  { s with agenda := [.issue 0 0], issue := Issue.none, pkg := { s.pkg with running := true, stopped := false } }

end Sys2Proof.Machine
end

