-- ==== Sys2Proof/Machine/Work.lean ====
section
/-!
DEFINITION. What the dispatcher counts of a pair that issues (R415): the MACs of `mma`, the enabled elements of vector
arithmetic, and the bytes of loads and matrix reads served beyond the issuing core's local array.
-/
namespace Sys2Proof.Machine

/-- Vector arithmetic (chapter 8): the integer, floating-point and reduction operations over elements. -/
def vectorArith : Instr → Bool
  | .vadd _ _ _ | .vsub _ _ _ | .vmul _ _ _ | .vmulh _ _ _ | .vand _ _ _ | .vor _ _ _ | .vxor _ _ _ | .vshl _ _ _
  | .vshr _ _ _ | .vsar _ _ _ | .vmin _ _ _ | .vmax _ _ _ | .vabs _ _ | .vmad _ _ _ | .vpopc _ _ | .vdot _ _ _
  | .vcmpEq _ _ _ | .vcmpNe _ _ _ | .vcmpLt _ _ _ | .vcmpGe _ _ _ | .fadd _ _ _ | .fsub _ _ _ | .fmul _ _ _ | .fma _ _ _
  | .fms _ _ _ | .fnma _ _ _ | .fnms _ _ _ | .fmin _ _ _ | .fmax _ _ _ | .fabs _ _ | .fneg _ _ | .fdiv _ _ _ | .fsqrt _ _
  | .frcp _ _ | .frsq _ _ | .fexp2 _ _ | .flog2 _ _ | .fclass _ _ | .fcmpEq _ _ _ | .fcmpLt _ _ _ | .fcmpLe _ _ _
  | .fcmpUn _ _ _ | .vredAdd _ _ | .vredMin _ _ | .vredMax _ _ | .vredAnd _ _ | .vredOr _ _ | .fredAdd _ _ | .fredMin _ _
  | .fredMax _ _ => true
  | _ => false

/-- The operations of an instruction (log 95). -/
def operationsOf (s : State) (i : Instr) : Nat :=
  match i with
  | .mma _ _ _ => match (unitOf s).cur with | some b => 4096 * b.k | none => 0
  | i => if vectorArith i then ((List.range (2048 / opWidth s i)).filter (enabled s (opWidth s i))).length else 0

/-- What an instruction loads: addresses and lengths. -/
def loadsOf (s : State) (i : Instr) : List (Nat × Nat) :=
  let desc (a : SSrc) : ADesc := adescOf (descAt s (readS s i 1 a).toNat)
  match i with
  | .ld z _ a imm => [(sum (readS s i 1 a) (scaled imm (ldBytes z)), ldBytes z)]
  | .ldx z _ a b => [(sum (readS s i 1 a) (readS s i 2 b), ldBytes z)]
  | .ldAcq z _ a _ => [((readS s i 1 a).toNat, ldBytes (AcqSize.ld z))]
  | .vld _ a _ => [((readS s i 1 a).toNat, 256)]
  | .vlds _ g tag =>
    let n := tagWidth tag / 8
    (strided (readS s i 1 (evenS g)) (readS s i 1 (oddS g)) (256 / n)).map fun a => (a, n)
  | .vgath w _ a b => (indexed s w (readS s i 1 a) b).map fun x => (x, w2Bytes w)
  | .mlda _ a => [((readS s i 1 a).toNat, 32)]
  | .mldb a => [((readS s i 1 a).toNat, 32), ((desc a).addr.toNat, (desc a).dataLen), ((desc a).sbase.toNat, (desc a).scaleLen)]
  | .mldt _ a l => (rowsOf (readS s i 1 a).toNat l).map fun r => (r, layRow l)
  | _ => []

/-- The bytes of them that the core's own local array does not serve. -/
def fetchedOf (s : State) (i : Instr) : Nat :=
  (loadsOf s i).foldl (fun n (ea, m) =>
    (piecesOf ea m).foldl (fun n (a, k) => if ownLag s a = 0 then n + k else n) n) 0

/-- What one member's pair counts: operations and fetched bytes. -/
def State.workOf (s : State) (c k : Nat) (p : Pair) : Nat × Nat :=
  let s := (s.begin c k).enterPair c k
  let cs : State := { s with issue := s.issue.forC p }
  let a : Nat × Nat := match p with
    | .normal _ _ ci ia pe =>
      let as : State := { s with issue := s.issue.forA ci pe }
      (operationsOf as ia, fetchedOf as ia)
    | .lone _ _ _ _ => (0, 0)
  (operationsOf cs (pairC p) + a.1, fetchedOf cs (pairC p) + a.2)

/-- The pair at which a slot stands, unless it has none to issue. -/
def State.standingPair (s : State) (c k : Nat) (sl : Slot) : Option Pair :=
  if s.atEntry sl || (specialPair s c k sl).isSome || (s.fetchTrap c sl).isSome then none
  else match decodePair (s.pairWords c sl).1 (s.pairWords c sl).2 with
    | .ok p => some p
    | .error _ => none

/-- R415: the work of a crew's pair, as it stood in s when it issued, counts for the crew's launch. -/
def State.countWork (t s : State) (c k : Nat) (sl : Slot) : State :=
  match sl.launch, s.standingPair c k sl with
  | some l, some p =>
    (sl.crew c k).foldl (fun t m =>
      let w := s.workOf m.1 m.2 p
      t.modLaunch l fun x => { x with ops := x.ops + w.1, bytes := x.bytes + w.2 }) t
  | _, _ => t

end Sys2Proof.Machine
end

