-- ==== Sys2Proof/Machine/Sched.lean ====
section
/-!
DEFINITION. What moves next (log 1). The spec fixes the order of the device's steps only in part; the model takes its
agenda first, and otherwise the first event that can happen, then the issue of a pair (R136-R138), then the CSR writes of
the cycle (R134), then the next cycle.
-/
namespace Sys2Proof.Machine

/-- What a step of the device answers. -/
abbrev Answer := Host.Outcome State Fault Refusal

/-- The first answer of a list of choices. -/
def firstOf (s : State) : List (State → Option Answer) → Option Answer
  | [] => none
  | f :: l => match f s with
    | some r => some r
    | none => firstOf s l

/-- The slots in use, without the model's own. -/
def State.inUse (s : State) : List (Nat × Nat) := s.occupied.filter fun x => decide (x.2 < 8)

/-! ## Events that happen by themselves; each makes progress -/

def evProxy (s : State) : Option Answer := if s.reqs.isEmpty then none else some (execProxyAtomic 0 s)

/-- A variable-latency result may be delivered from the cycle after its pair's on. -/
def Slot.dueResult (s : State) (sl : Slot) : Option Nat :=
  (sl.pending.find? fun p => p.owed && decide (p.due < s.now)
    && !(s.reqs.any fun q => q.ctx == sl.ctx && q.idx == sl.idx && q.pend == some p.id)).map Pending.id

def evResult (s : State) : Option Answer :=
  s.inUse.findSome? fun (c, k) => (s.slot c k).bind fun sl =>
    (Slot.dueResult s sl).map fun id => execResultDelivery c k id s

def evFlight (s : State) : Option Answer := if s.flights.isEmpty then none else some (execPortWordDelivery 0 s)

def evPacket (s : State) : Option Answer :=
  (s.dies.find? fun (_, x) => !x.pushed.isEmpty).map fun (d, _) => execPacketAccept d s

/-- A queue that its engine serves: a slot is ready, or ERR is to be shown. -/
def evQueue (s : State) : Option Answer :=
  s.queues.findSome? fun q =>
    if q.err then
      if s.errShown q || (s.devWritable q.ctx (q.desc.toNat + 24) 1).isSome then none
      else some (execQueueSlotServe q.id s)
    else if !s.queueReady q || (s.devWritable q.ctx q.ridx.toNat 8).isSome then none
    else if q.target = 3 then some (execLaunchAccept q.id s)
    else some (execQueueSlotServe q.id s)

/-- The next act of one engine operation. -/
def State.opAct (s : State) (o : EngOp) : Option Answer :=
  if o.completed then none
  else if o.ended then some (execOperationComplete o.id s)
  else match o.pkt.type with
  | 2 =>
    if !o.started then (if s.mayStart o then some (execCopy o.id s) else none)
    else if o.outSeg.isSome then some (execScaleoutSegmentAck o.id true s)
    else some (execCopySegment o.id s)
  | 3 | 4 =>
    if !o.started && !s.mayStart o then none
    else match o.rows with
      | (k, _) :: _ => some (execGatherRowLand o.id k s)
      | [] => some (if o.pkt.type = 3 then execGather o.id s else execScatter o.id s)
  | 5 => if o.param.isSome || s.mayStart o then some (execColl o.id s) else none
  | 6 => if s.mayStart o then some (execWaitid o.id s) else none
  | 7 => if s.mayStart o then some (execMarker o.id s) else none
  | _ => none

def evOp (s : State) : Option Answer := s.ops.findSome? s.opAct

/-- A chunk of an instance all of whose members are on this device, or one of whose members is lost. -/
def evColl (s : State) : Option Answer :=
  (s.colls.find? fun c => c.live && decide (s.localMembers c ≤ c.posted.length)
    && (c.members.all (fun m => m / 1024 == s.pkg.devId.toNat)
      || c.members.any fun m => s.fab.lostPeers.contains (m / 1024 % 1024) && m / 1024 != s.pkg.devId.toNat)).map
    fun c => execCollChunk c.id s

/-- The end of a wait that is over (RELEASE_WINDOW among them). -/
def evHold (s : State) : Option Answer :=
  (s.inUse.find? fun (c, k) => match s.slot c k with
    | some sl => (match sl.hold with
      | some h => s.waitOver c sl h.w && (!h.w.retried || decide (h.since < s.now))
      | none => false)
    | none => false).map fun (c, k) => .next (s.endHold c k)

/-- A slot stalled at a region entry has its region built (R427). -/
def evBuild (s : State) : Option Answer :=
  (s.inUse.findSome? fun (c, k) => (s.slot c k).bind fun sl => match sl.hold, sl.virt with
    | some ⟨.translation, _, _, _⟩, some v =>
      if (s.lookup (dieOf c) v).isSome || (s.die (dieOf c)).lost then none
      else ((s.object v.handle).bind fun o => o.bodies.find? fun b => b.off == v.body && decide (b.off ≤ v.off)
        && decide (v.off ≤ b.off + b.len)).map fun _ => (dieOf c, v)
    | _, _ => none).map fun (d, v) => execTranslationBuild d v.handle ⟨v.off, v.body⟩ s

def evReserve (s : State) : Option Answer := s.reserving.head?.map fun r => execKeyReserve r.ctx r.idx s

/-- The request's slot still stands at its `gfuse`. -/
def State.fuses (s : State) (f : FuseReq) : Bool :=
  match (s.slot f.core f.slot).bind Slot.hold with
  | some ⟨.fuse _ _ _ _, _, _, _⟩ => true
  | _ => false

def evFuse (s : State) : Option Answer :=
  s.clusters.findSome? fun (k, x) => x.fuses.findSome? fun f =>
    match s.fuseReady k f.leader f.size f.tag with
    | some rs => if rs.all s.fuses then some (execGfuseDecide k f.leader f.size f.tag s) else none
    | none => if s.fuses f && f.at_ + Config.gfuseCycles ≤ s.now then some (execGfuseTimeout f.core f.slot s) else none

def evPublish (s : State) : Option Answer :=
  s.cores.findSome? fun (c, x) => x.member.bind fun (ctx, d) =>
    ((s.rectNeighbours c ctx d.toNat).find? fun n => rises (sget 0 (s.core n).seen c) x.count0).map
      fun n => execPhase0Publish c n s

def evRing (s : State) : Option Answer :=
  (s.cores.find? fun (_, x) => match x.ring with
    | none => false
    | some r => match r.phase with
      | .waiting => decide ((s.core r.succ).inb = .empty)
      | .streaming t => decide (t ≤ s.now) && decide (r.fin ≤ s.now)
      | .committed => match x.inb with | .full _ => true | _ => false).map
    fun (c, _) => execMringReceive c s

def evMst (s : State) : Option Answer :=
  (s.cores.find? fun (_, x) => match x.mst with | g :: _ => decide (g.due < s.now) | [] => false).map fun (c, _) =>
    execMstStorePerform c 0 s

def evGrant (s : State) : Option Answer :=
  ((List.range 8).find? fun d => !(s.grantQueue d).isEmpty).map fun d => execMatrixStartGrant d s

def evMatrixIdle (s : State) : Option Answer :=
  (s.cores.find? fun (_, x) => !x.matIdle && decide (x.lastMma + Config.cycles10us ≤ s.now)).map fun (c, _) =>
    execMatrixIdle c s

/-- A written-back record: what it waits for holds (R63, R67). -/
def evSuspended (s : State) : Option Answer :=
  (s.suspended.find? fun u => s.standsBack u && s.suspOver u).map fun u =>
    if !u.finished then execBlockedOperationFinish u.ctx u.idx s
    else if isTimer u.w then execTimerWake u.ctx u.idx s else execWake u.ctx u.idx s

def dieServes (x : Die) : Bool := !x.lost && !x.ovf && x.ready.any fun p => !p.2.isEmpty

/-- The core of a die with the record that its lowest free slot takes: of the cores where that record may go, one on a
cluster with the most records of the other class (R415). -/
def State.nextPickup (s : State) (d : Nat) : Option (Nat × Nat × RecId) :=
  let open_ : List (Nat × Nat × RecId) := (List.range 1024).filterMap fun c =>
    if dieOf c ≠ d then none else
    ((List.range 8).find? (s.freeAt c)).bind fun k => (s.pickFor d c).map fun r => (c, k, r)
  open_.head?.map fun x => (open_.filter fun y => y.2.2 == x.2.2).foldl (fun b y =>
    if s.otherClass b.2.2 (clusterOf b.1) < s.otherClass y.2.2 (clusterOf y.1) then y else b) x

/-- A free slot of a die that may take a ready record. -/
def evPickup (s : State) : Option Answer :=
  ((s.dies.filter fun x => decide (x.1 < 8) && dieServes x.2).map Prod.fst).findSome? fun d =>
    (s.nextPickup d).map fun (c, k, r) => execRecordPickup d c k r.ctx r.idx s

/-- The first rectangle of a die where a ready gang fits. -/
def evGang (s : State) : Option Answer :=
  ((s.dies.filter fun x => decide (x.1 < 8) && dieServes x.2)).findSome? fun (d, x) =>
    (x.readyList.filter fun r => decide (recGang (s.readRec r.ctx r.idx) ≠ 0)).findSome? fun r =>
      (List.range 1024).findSome? fun c =>
        if dieOf c ≠ d then none else
        ((List.range 8).find? fun k => s.gangFits d r c k && s.gangTurn d r c).map fun k => execGangPlace d r.ctx r.idx c k s

/-- A gang begins or ends to wait for a rectangle (R421). -/
def evGangWait (s : State) : Option Answer :=
  let t := s.timeGangs
  if t.gangSince = s.gangSince then none else some (.next t)

/-- GANGWAIT has passed: the first cluster with a rectangle that has the most free slots drains (R421). -/
def evDrain (s : State) : Option Answer :=
  s.gangSince.findSome? fun (r, _) =>
    if s.gangWaited r < s.gangWait * cyclesPerUs then none else
    (s.dies.find? fun (_, x) => x.drain.isNone && x.readyList.contains r).bind fun (d, _) =>
      if !s.gangStalled d r then none else
      ((List.range 64).find? fun k => match s.bestRect d r k with
        | some c => s.mostRoom d r c
        | none => false).map fun k => execGangDrain d k r.ctx r.idx s

def evGangTimeout (s : State) : Option Answer :=
  (s.gangSince.find? fun (r, _) => decide ((s.gangWait + s.gangLimit) * cyclesPerUs ≤ s.gangWaited r)).map fun (r, _) =>
    execGangTimeout r.ctx r.idx s

/-- A waiting slot that the dispatcher has a ground to evict (R419). -/
def evEvict (s : State) : Option Answer :=
  if s.dies.all fun x => x.2.readyList.isEmpty then none else
  (s.inUse.find? fun (c, k) => s.evictable c k).map fun (c, k) => execEviction c k s

def evLaunch (s : State) : Option Answer :=
  s.launches.findSome? fun l =>
    if s.launchMayStart l && s.launchFirst l then some (execLaunchStart l.id s)
    else if l.started && !l.completed && l.live = 0 then some (execLaunchComplete l.id s) else none

def evHoldExpiry (s : State) : Option Answer :=
  (s.inUse.find? fun (c, k) => match s.canLeave c k with
    | some h => decide (h.since + Config.holdCycles ≤ s.now)
    | none => false).map fun (c, k) => execHoldExpiry c k s

/-- A launch's window of classification closes (R415). -/
def evClassify (s : State) : Option Answer :=
  (s.launches.find? fun l => l.started && !l.completed && decide (l.winAt + classWindow ≤ s.now)).map fun l =>
    execClassifyWindow l.id l.ops l.bytes s

/-- Supervisor code has moved RIDX by a store, and a held trap record finds room (R444). -/
def evHeld (s : State) : Option Answer :=
  s.dies.findSome? fun (d, x) => match x.trapq with
    | none => none
    | some q =>
      if x.held.isEmpty || ((s.drainHeld d).die d).held.length = x.held.length then none
      else some (execTrapqRidxAdvance d (BitVec.ofNat 64 (s.devGet q.ctx (q.base.toNat + 8) 8)) s)

/-! ## Issue (R136-R138) -/

/-- The core may issue a pair in this cycle; a gated core issues in one cycle of four (R478). -/
def State.coreIssues (s : State) (c : Nat) : Bool :=
  let x := s.core c
  !x.dead && x.lastIssue != some s.now && (!x.gated || s.now % 4 = 0)

/-- R136. -/
def State.slotReady (s : State) (c k : Nat) : Bool :=
  match s.slot c k with
  | some sl => sl.hold.isNone && decide (sl.gapUntil ≤ s.now) && decide (k < 8)
  | none => false

/-- Every member of a slot's crew is ready, on a core that may issue (R138). -/
def State.crewReady (s : State) (c k : Nat) : Bool :=
  match s.slot c k with
  | some sl => (sl.crew c k).all fun (mc, mj) => s.slotReady mc mj && s.coreIssues mc
  | none => false

/-- A crew whose turn its gap has reached, and whose pair cannot issue yet, is not ready (R136). -/
def evStall (s : State) : Option Answer :=
  (s.inUse.findSome? fun (c, k) => (s.slot c k).bind fun sl =>
    if (sl.crew c k).head? == some (c, k) && (sl.crew c k).all fun m => s.slotReady m.1 m.2 then
      match s.stalls c k sl with
      | [] => none
      | ws => some ws
    else none).map fun ws => .next (s.holdAll ws)

/-- The events in the order in which the model takes them. -/
def events : List (State → Option Answer) :=
  [evProxy, evResult, evFlight, evPacket, evQueue, evOp, evColl, evBuild, evHold, evReserve, evFuse, evPublish, evRing, evMst,
   evGrant, evMatrixIdle, evSuspended, evGang, evPickup, evGangWait, evEvict, evDrain, evGangTimeout, evLaunch, evClassify,
   evHeld, evHoldExpiry, evStall]

/-- The priority at which a slot is compared: its leader's (R138). -/
def State.issuePrio (s : State) (sl : Slot) : Nat :=
  match sl.gangInfo with
  | some g => (match s.slot g.leaderCore g.leaderSlot with | some x => x.prio | none => sl.prio)
  | none => sl.prio

/-- The cycle since which a slot is ready: a gang's is ready when every member is (R138). -/
def State.since (s : State) (c k : Nat) (sl : Slot) : Nat :=
  (sl.crew c k).foldl (fun m x => match s.slot x.1 x.2 with
    | some y => max m y.readySince
    | none => m) sl.readySince

/-- R137: slot j goes before slot k. -/
def State.issueBefore (s : State) (c j k : Nat) : Bool :=
  match s.slot c j, s.slot c k with
  | some a, some b =>
    let p := s.issuePrio a
    let q := s.issuePrio b
    let m := s.since c j a
    let n := s.since c k b
    decide (q < p) || (p == q && (decide (m < n) || (m == n && decide (j < k))))
  | some _, none => true
  | _, _ => false

/-- The slot that a core selects: of those ready with their crews on cores that may still issue in the cycle, so that the
member cores of a gang select its slot together, and a core on which another slot goes before it issues that one first
(R138, log 91). -/
def State.bestSlot (s : State) (c : Nat) : Option Nat :=
  ((List.range 8).filter (s.crewReady c)).foldl (fun b k => match b with
    | none => some k
    | some j => if s.issueBefore c k j then some k else some j) none

/-- A crew is selected on every core of its own (R138). -/
def State.selected (s : State) (crew : List (Nat × Nat)) : Bool := crew.all fun (mc, mj) => s.bestSlot mc == some mj

/-- The leader of the first crew selected on every core of its own. -/
def State.nextIssue (s : State) : Option (Nat × Nat) :=
  s.cores.findSome? fun (c, _) => (s.bestSlot c).bind fun k => (s.slot c k).bind fun sl =>
    if s.selected (sl.crew c k) then (sl.crew c k).head? else none

/-- A member of the crew waits to issue the same pair again, or has only entered a translation. A pair whose trap could not
be saved has used its cycle. -/
def State.notIssued (s : State) (before : Slot) (crew : List (Nat × Nat)) : Bool :=
  (crew.any fun (c, k) => match (s.slot c k).bind Slot.hold with
    | some h => h.reissue && h.w != .saveFault
    | none => false)
  || s.atEntry before

/-- The pair has used the issue cycle of its cores (R137). -/
def State.markIssued (s : State) (before : Slot) (crew : List (Nat × Nat)) : State :=
  if s.notIssued before crew then s
  else crew.foldl (fun t m => t.modCore m.1 fun x => { x with lastIssue := some s.now }) s

/-- The pair has issued from slot k of core c: its cores have used their cycle, and its work is counted (R415). -/
def State.afterIssue (t s : State) (sl : Slot) (c k : Nat) : State :=
  let crew := sl.crew c k
  if t.notIssued sl crew then t else (t.markIssued sl crew).countWork s c k sl

/-- ISSUE of the crew of slot k of core c. -/
def issueCrew (run : Runner) (c k : Nat) (s : State) : Answer :=
  match s.slot c k with
  | none => .next s
  | some sl => andThen (issueAt run c k s) fun t => .next (t.afterIssue s sl c k)

/-! ## The end of a cycle -/

/-- A CSR write of this cycle that has not taken effect yet. -/
def State.csrDue (s : State) : Option (Nat × Nat × Slot × Nat × Nat × Word) :=
  s.inUse.findSome? fun (c, k) => (s.slot c k).bind fun sl => match sl.csrPend with
    | (n, o, v) :: _ => some (c, k, sl, n, o, v)
    | [] => none

/-- R183: the rows counted in a cycle reach their counters at its end, after the writes of the cycle. -/
def Core.countRows (x : Core) : Core :=
  if x.gsrcNow.isEmpty then x else
  { x with gsrc := x.gsrcNow.foldl (fun m (n, k) => sset 0 m n (sget 0 m n + k)) x.gsrc, gsrcNow := [] }

/-- The next cycle: what is due in it reaches registers and latches. -/
def State.tick (s : State) : State :=
  ({ s with now := s.now + 1, cores := s.cores.map fun (c, x) => (c, Core.countRows x) }).mapSlots fun _ _ sl =>
    Slot.applyResults (s.now + 1) sl

/-! ## One move -/

/-- The device left to itself. -/
def moveOn (run : Runner) (s : State) : Answer :=
  if !s.pkg.running then .next s.tick
  else match firstOf s events with
  | some r => r
  | none => match s.nextIssue with
    | some (c, k) => issueCrew run c k s
    | none => match s.csrDue with
      | some (c, k, sl, n, o, v) => run (csrEvent s c k sl n o v) s
      | none => .next s.tick

/-- A move of the agenda. One that cannot happen leaves the state as it is. Before a pair issues or the cycle ends, the
waits that are over end, and pairs that cannot issue wait (R136, R142). -/
def moveNamed (run : Runner) (m : Move) (s : State) : Answer :=
  match m with
  | .event i => if native i then .next s else run i s
  | .issue c k =>
    match s.slot c k with
    | some sl =>
      let again : State := { s with agenda := m :: s.agenda }
      if !s.pkg.running then .next s
      else match firstOf again [evHold, evStall] with
        | some r => r
        | none => if s.selected (sl.crew c k) && (sl.crew c k).head? == some (c, k) then issueCrew run c k s else .next s
    | none => .next s
  | .tick =>
    let again : State := { s with agenda := .tick :: s.agenda }
    match s.csrDue, firstOf again [evHold, evStall, evHoldExpiry, evGangWait] with
    | some (c, k, sl, n, o, v), _ => run (csrEvent s c k sl n o v) again
    | none, some r => if s.pkg.running then r else .next s.tick
    | none, none => .next s.tick

/-- What moves next. -/
def move (run : Runner) (s : State) : Answer :=
  match s.agenda with
  | m :: l => moveNamed run m { s with agenda := l }
  | [] => if s.pkg.stopped then .fault .moduleStopped else moveOn run s

end Sys2Proof.Machine
end

