-- ==== Sys2Proof/Machine/Step.lean ====
section
/-!
DEFINITION. One step of the device: what moves next, with the meanings of `exec`.
-/
namespace Sys2Proof.Machine

/-- One step. -/
def step (s : State) : Host.Outcome State Fault Refusal := move exec s

/-- The state with the pair `w` (word 0 in bits 31:0, word 1 in bits 63:32) where the next step fetches it: see
`State.placePair`. -/
def State.withFetchWord (s : State) (_nbits w : Nat) : State := s.placePair w

end Sys2Proof.Machine
end

