-- ==== Sys2Proof/Safety.lean ====
section
/-!
DEFINITION. The terms in which claims are made: when a pair may act at once, what a pair leaves once it has acted, where
an exact trap leaves a continuation, and what every step keeps.
-/
namespace Sys2Proof.Machine

/-! ## When an instruction acts at once -/

/-- R144: with CHK bit 0 on, no operand is stale and no write would be overtaken. -/
def chkClear (s : State) (i : Instr) : Bool :=
  match s.cur with
  | none => true
  | some sl => !sl.csrs.chk.getLsbD 0 || ((staleRead s i).isNone && (overwrite s i).isNone)

/-- R116: the slot has room for the variable-latency results of the instruction. -/
def quotaClear (s : State) (i : Instr) : Bool :=
  match s.cur with
  | none => true
  | some sl => decide (sl.outstanding + addsVariable s [i] ≤ 255)

/-- The conditions, common to every instruction, under which the pair of a slot acts in this cycle: its channel ports are
bound (R29), its words are there and what it pushes has room (R30), its cluster holds its rings (R289), nothing it reads is
stale under CHK or poisoned (R144, R277), and its results fit the quota (R116). -/
def clear (s : State) (i : Instr) : Bool :=
  s.cur.isSome && !s.issue.checked && (unbound s i).isNone && !(namesRing i && foreignCluster s)
  && s.portsReady s.issue.core (popsOfAll [i]) && chkClear s i && (poisonRead s i).isNone && roomFor s [i]
  && quotaClear s i

/-- The instruction acts: as one slot of a pair whose checks are made, or by itself where its conditions hold. -/
def acting (s : State) (i : Instr) : Bool := (s.cur.isSome && s.issue.checked) || clear s i

/-- What a pair leaves once its instruction has acted: its pushes take effect, then its pops (R30, R31). -/
def State.settled (t : State) (i : Instr) : State := (t.flushPushes).popAll [i]

/-- What is left of `s` when instruction i has made it `t`: as one slot of a pair, `t` itself (the pair's pushes and pops
follow once both slots have acted); by itself, `t` with its pushes and pops made. -/
def finished (s : State) (i : Instr) (t : State) : State := if s.issue.checked then t else t.settled i

/-- Instruction i, where it acts, makes `s` into `t`. -/
def Acts (i : Instr) (s t : State) : Prop := acting s i = true → exec i s = .next (finished s i t)

/-- Instruction i by itself, its common conditions met, traps with `t` and does nothing else (R21, R274). -/
def Traps (i : Instr) (s : State) (t : Trap) : Prop :=
  clear s i = true → exec i s = .next (s.trapPair t false false)

/-- Instruction i by itself, its common conditions met, does not issue yet: its slot waits for `w`. -/
def Waits (i : Instr) (s : State) (w : Wait) : Prop := clear s i = true → exec i s = .next (s.holdPair w true)

/-! ## Frames -/

/-- `t` is `s` but for the pair's own bookkeeping `iss` and for the slot whose pair issues, which becomes `f` of itself:
memory, the other slots, every other part of every core, and every other unit are as they were. -/
def OnlySlot (s t : State) (iss : Issue) (f : Slot → Slot) : Prop :=
  (∃ cs, t = { s with cores := cs, issue := iss }) ∧
  (∀ c, { t.core c with slots := [] } = { s.core c with slots := [] }) ∧
  (∀ c k, t.slot c k = if c = s.issue.core ∧ k = s.issue.slot then (s.slot c k).map f else s.slot c k)

/-! ## What every step keeps -/

/-- Memory and its persistent part are in canonical form. -/
def State.memOk (s : State) : Prop := Memory.wf s.mem = true ∧ Memory.wf s.backing = true

/-- Memory, its persistent part and the table of line entries are in canonical form. -/
def State.canon (s : State) : Prop := s.memOk ∧ swf Line.inv s.lines = true

/-! ## Observing -/

/-- The byte that a coherent read of a physical address finds, write-combining buffers recalled (R325). -/
def State.byteAt (s : State) (pa : Nat) : Byte := sget 0 (s.lineView (pa / 128)) pa
/-- A byte of a core's scratchpad. -/
def State.spadByte (s : State) (c off : Nat) : Byte := sget 0 (s.core c).spad off

end Sys2Proof.Machine
end

