-- ==== Sys2Proof/Certificates/Slice0/Obligations.lean ====
section
/-!
DEFINITION. The statements for the provers. The tables of the manual stand here as lists of rows, each a constructor and
its result as the manual's formula gives it; `Acts`, `Traps` and `Waits` (Safety) say what an instruction makes of a state.
-/
namespace Sys2Proof.Claims
open Sys2Proof.Machine

/-! ## Words for the tables -/

/-- A natural number modulo 2^64. -/
def nat64 (x : Nat) : Word := BitVec.ofNat 64 x
/-- An integer modulo 2^64. -/
def int64 (x : Int) : Word := BitVec.ofInt 64 x
/-- The count n of Table Scalar-2. -/
def countOf (b : Word) : Nat := b.toNat % 64
/-- k of `sext` and `zext`. -/
def widthOf (b : Word) : Nat := if b.toNat % 64 = 0 then 64 else b.toNat % 64
/-- 1 where the condition holds. -/
def truth (b : Bool) : Word := if b then 1 else 0

/-- Table Scalar-2, the 64-bit results of two operands, division and `sel` aside. -/
def wideRows : List ((SDst → SSrc → SSrc → Instr) × (Word → Word → Word)) :=
  [(.add, fun a b => nat64 (a.toNat + b.toNat)),
   (.sub, fun a b => int64 ((a.toNat : Int) - (b.toNat : Int))),
   (.mul, fun a b => nat64 (a.toNat * b.toNat)),
   (.mulhS, fun a b => int64 ((a.toInt * b.toInt) / 2 ^ 64)),
   (.mulhN, fun a b => nat64 (a.toNat * b.toNat / 2 ^ 64)),
   (.and, fun a b => a &&& b), (.or, fun a b => a ||| b), (.xor, fun a b => a ^^^ b), (.andn, fun a b => a &&& ~~~b),
   (.shl, fun a b => nat64 (a.toNat * 2 ^ countOf b)),
   (.shr, fun a b => nat64 (a.toNat / 2 ^ countOf b)),
   (.sar, fun a b => int64 (a.toInt / 2 ^ countOf b)),
   (.rot, fun a b => nat64 ((a.toNat * 2 ^ countOf b) % 2 ^ 64 ||| a.toNat / 2 ^ (64 - countOf b))),
   (.minS, fun a b => if a.toInt ≤ b.toInt then a else b), (.maxS, fun a b => if a.toInt ≤ b.toInt then b else a),
   (.minN, fun a b => if a.toNat ≤ b.toNat then a else b), (.maxN, fun a b => if a.toNat ≤ b.toNat then b else a)]

/-- Table Scalar-2, the addresses, extensions and 32-bit results. -/
def narrowRows : List ((SDst → SSrc → SSrc → Instr) × (Word → Word → Word)) :=
  [(.lea, fun a b => nat64 ((a.toNat + b.toNat) % 2 ^ 56)),
   (.sext, fun a b => sext64 (widthOf b) a.toNat), (.zext, fun a b => zext64 (widthOf b) a.toNat),
   (.add32, fun a b => sext64 32 ((a.toNat + b.toNat) % 2 ^ 32)),
   (.sub32, fun a b => sext64 32 (((a.toNat : Int) - (b.toNat : Int)) % 2 ^ 32).toNat),
   (.mul32, fun a b => sext64 32 ((a.toNat * b.toNat) % 2 ^ 32))]

/-- Table Scalar-2, three registers, division and `sel` aside. -/
def scalarRows : List ((SDst → SSrc → SSrc → Instr) × (Word → Word → Word)) := wideRows ++ narrowRows

/-- Table Scalar-2, one register. -/
def unaryRows : List ((SDst → SSrc → Instr) × (Word → Word)) :=
  [(.clz, fun a => if a = 0 then 64 else nat64 (63 - a.toNat.log2)),
   (.popc, fun a => nat64 ((List.range 64).countP fun k => a.getLsbD k)),
   (.mov, fun a => a)]

/-- Division and remainder (Tables Scalar-2 and Scalar-3). -/
def divisionRows : List ((SDst → SSrc → SSrc → Instr) × (Word → Word → Word)) :=
  [(.divS, fun a b => if b = 0 then BitVec.allOnes 64 else int64 (a.toInt.tdiv b.toInt)),
   (.divN, fun a b => if b = 0 then BitVec.allOnes 64 else nat64 (a.toNat / b.toNat)),
   (.remS, fun a b => if b = 0 then a else int64 (a.toInt - b.toInt * a.toInt.tdiv b.toInt)),
   (.remN, fun a b => if b = 0 then a else nat64 (a.toNat % b.toNat))]

/-- Table Scalar-4. -/
def immediateRows : List ((SDst → SSrc → BitVec 6 → Instr) × (Word → BitVec 6 → Word)) :=
  [(.addi, fun a m => int64 ((a.toNat : Int) + m.toInt)),
   (.andi, fun a m => a &&& int64 m.toInt), (.ori, fun a m => a ||| int64 m.toInt), (.xori, fun a m => a ^^^ int64 m.toInt),
   (.shli, fun a m => nat64 (a.toNat * 2 ^ m.toNat)), (.shri, fun a m => nat64 (a.toNat / 2 ^ m.toNat)),
   (.sari, fun a m => int64 (a.toInt / 2 ^ m.toNat))]

/-- The compares of R179. -/
def compareRows : List ((SDst → SSrc → SSrc → Instr) × (Word → Word → Bool)) :=
  [(.setEq, fun a b => decide (a.toNat = b.toNat)), (.setNe, fun a b => decide (a.toNat ≠ b.toNat)),
   (.setLt, fun a b => decide (a.toInt < b.toInt)), (.setGe, fun a b => decide (b.toInt ≤ a.toInt)),
   (.setLtn, fun a b => decide (a.toNat < b.toNat)), (.setGen, fun a b => decide (b.toNat ≤ a.toNat))]

/-- Table Scalar-5: the two-predicate forms, bit by bit. -/
def predicateRows : List ((PReg → PReg → PReg → Instr) × (Bool → Bool → Bool)) :=
  [(.pand, fun a b => a && b), (.por, fun a b => a || b), (.pxor, fun a b => a != b)]

end Sys2Proof.Claims

open Sys2Proof Sys2Proof.Machine Sys2Proof.Claims

/-! ## Scalar instructions (R175-R181) -/

/-- R175. -/
def Obligations.ScalarResultsFollowTable : Prop :=
  (∀ s d a b, ∀ r ∈ scalarRows,
    Acts (r.1 d a b) s (if predHolds s then
      giveS (r.1 d a b) d (r.2 (readS s (r.1 d a b) 1 a) (readS s (r.1 d a b) 2 b)) 0 s else s)) ∧
  (∀ s d a, ∀ r ∈ unaryRows,
    Acts (r.1 d a) s (if predHolds s then giveS (r.1 d a) d (r.2 (readS s (r.1 d a) 1 a)) 0 s else s))

/-- R176. -/
def Obligations.DivisionFollowsTableAndSetsIdz : Prop :=
  (∀ s d a b, ∀ r ∈ divisionRows,
    Acts (r.1 d a b) s (if predHolds s then
      giveS (r.1 d a b) d (r.2 (readS s (r.1 d a b) 1 a) (readS s (r.1 d a b) 2 b))
        (if readS s (r.1 d a b) 2 b = 0 then 0x80 else 0) s else s)) ∧
  (∀ a b : Word, a.toInt = -2 ^ 63 → b.toInt = -1 →
    int64 (a.toInt.tdiv b.toInt) = 0x8000000000000000 ∧ int64 (a.toInt - b.toInt * a.toInt.tdiv b.toInt) = 0)

/-- R177. -/
def Obligations.SelWritesTheChosenSource : Prop :=
  ∀ s d a b, Acts (.sel d a b) s
    (giveS (.sel d a b) d (if predHolds s then readS s (.sel d a b) 1 a else readS s (.sel d a b) 2 b) 0 s)

/-- R178. -/
def Obligations.ImmediateResultsFollowTable : Prop :=
  ∀ s d a m, ∀ r ∈ immediateRows,
    Acts (r.1 d a m) s (if predHolds s then giveS (r.1 d a m) d (r.2 (readS s (r.1 d a m) 1 a) m) 0 s else s)

/-- R179. -/
def Obligations.ComparesWriteOneOrZero : Prop :=
  ∀ s d a b, ∀ r ∈ compareRows,
    (popsOf (r.1 d a b) = [] → latency s (r.1 d a b) = some 1) ∧
    Acts (r.1 d a b) s (if predHolds s then
      giveS (r.1 d a b) d (truth (r.2 (readS s (r.1 d a b) 1 a) (readS s (r.1 d a b) 2 b))) 0 s else s)

/-- R180, R181: each result with the bits of pD that it writes; all 128 but for `pset` of a half. -/
def Obligations.PredicateInstructionsFollowTable : Prop :=
  (∀ s d a b, ∀ r ∈ predicateRows, ∃ v : Pred,
    (∀ k < 128, v.getLsbD k = r.2 ((readP s a.val).getLsbD k) ((readP s b.val).getLsbD k)) ∧
    Acts (r.1 d a b) s (if predHolds s then giveP (r.1 d a b) d v (BitVec.allOnes 128) 0 s else s)) ∧
  (∀ s d a, Acts (.pnot d a) s
    (if predHolds s then giveP (.pnot d a) d (~~~ readP s a.val) (BitVec.allOnes 128) 0 s else s)) ∧
  (∀ s d a, let x := readS s (.pset d a 0) 1 a
    Acts (.pset d a 0) s (if predHolds s then
      giveP (.pset d a 0) d (BitVec.ofNat 128 x.toNat) (BitVec.ofNat 128 (2 ^ 64 - 1)) 0 s else s)) ∧
  (∀ s d a, let x := readS s (.pset d a 1) 1 a
    Acts (.pset d a 1) s (if predHolds s then
      giveP (.pset d a 1) d (BitVec.ofNat 128 (x.toNat * 2 ^ 64)) (BitVec.ofNat 128 (2 ^ 128 - 2 ^ 64)) 0 s else s)) ∧
  (∀ s d a, let x := readS s (.pset d a 2) 1 a
    Acts (.pset d a 2) s (if predHolds s then
      giveP (.pset d a 2) d (if x.toNat % 2 = 1 then BitVec.allOnes 128 else 0) (BitVec.allOnes 128) 0 s else s)) ∧
  (∀ s d a, Acts (.pget d a 0) s
    (if predHolds s then giveS (.pget d a 0) d (nat64 ((readP s a.val).toNat % 2 ^ 64)) 0 s else s)) ∧
  (∀ s d a, Acts (.pget d a 1) s
    (if predHolds s then giveS (.pget d a 1) d (nat64 ((readP s a.val).toNat / 2 ^ 64)) 0 s else s)) ∧
  (∀ s d a, Acts (.pget d a 2) s (if predHolds s then
    giveS (.pget d a 2) d (nat64 ((List.range 128).countP fun k => (readP s a.val).getLsbD k)) 0 s else s))

namespace Sys2Proof.Claims
open Sys2Proof.Machine

/-- Instructions whose whole effect is on registers and flags: scalar, predicate and vector instructions, and both nops. -/
def registerOnly (i : Instr) : Bool :=
  (decide (0x100 ≤ opcode i) && decide (opcode i < 0x1E0)) || opcode i = 0x1FF || opcode i = 0x0E6

/-- The instruction names no queue port. -/
def noPorts (i : Instr) : Bool := (popsOf i).isEmpty && (pushesOf i).isEmpty

/-- The registers that an instruction names as destinations. -/
def destinations (i : Instr) : List RegDst :=
  (uses i).filterMap fun u => match u with
    | .ws _ d _ => some d.reg
    | .wv _ d => some d.reg
    | .wp _ d => some (.p d.val)
    | _ => none

/-- la of the slot whose pair issues. -/
def laOf (s : State) : Vec := match s.cur with | some sl => sl.regs.la.val | none => 0
/-- Scalar register n of the slot whose pair issues. -/
def sOf (s : State) (n : Nat) : Word := match s.cur with | some sl => sl.regs.sr n | none => 0

/-- Table Scalar-1: the conditional branches and when each is taken. -/
def branchRows : List ((BitVec 18 → Instr) × (State → Bool)) :=
  [(.br, fun _ => true),
   (.brpAny, fun s => (List.range 128).any fun k => (readP s 0).getLsbD k),
   (.brpAll, fun s => (List.range 128).all fun k => (readP s 0).getLsbD k),
   (.brpNone, fun s => (List.range 128).all fun k => !(readP s 0).getLsbD k),
   (.brsZ, fun s => decide ((laOf s).toNat % 2 ^ 64 = 0)), (.brsNz, fun s => decide ((laOf s).toNat % 2 ^ 64 ≠ 0)),
   (.brsLt, fun s => (laOf s).getLsbD 63), (.brsGe, fun s => !(laOf s).getLsbD 63)]

/-- pc + 8 × off, modulo 2^64. -/
def offsetTarget (s : State) (off : BitVec 18) : Word := int64 ((s.issue.pc.toNat : Int) + 8 * off.toInt)

/-- The pair goes on at t. -/
def goesTo (s : State) (t : Word) : State := { s with issue := { s.issue with npc := t } }

/-- The result of `loop`: readable from the next cycle whatever the pair's W (R170). -/
def loopResult (s : State) (off : BitVec 18) : Pending :=
  { Pending.blank with
    aslot := isA (.loop off), dst := .s 30, val := (sOf s 30 - 1).setWidth 2048, mask := BitVec.allOnes 2048,
    latch := some false, latchVal := ⟨(sOf s 30 - 1).setWidth 2048, 0⟩, fixed := false, due := s.now, delivered := true }

/-- A scalar result on its way to register n and the latch of its class. -/
def scalarPending (n : Fin 32) (v : Word) (aslot : Bool) (flags : Byte) (due : Nat) : Pending :=
  { Pending.blank with
    aslot := aslot, dst := .s n.val, val := v.setWidth 2048, mask := BitVec.allOnes 2048, flags := flags,
    latch := some aslot, latchVal := ⟨v.setWidth 2048, 0⟩, due := due }

/-- A vector result on its way to v register n and la, under a mask of bits. -/
def vectorPending (n : Fin 32) (v mask : Vec) (tag : Tag) (flags : Byte) (due : Nat) : Pending :=
  { Pending.blank with
    aslot := true, dst := .v n.val, val := v, mask := mask, tag := tag, flags := flags,
    latch := some true, latchVal := ⟨v, tag⟩, latchMask := mask, due := due }

end Sys2Proof.Claims

/-- The frame of the register instructions in a pair: the device changes only in what the slot owes itself, and what it
owes goes to registers that the instruction names. -/
def Obligations.RegisterInstructionsOnlyOweResults : Prop :=
  ∀ (s : State) (i : Instr), registerOnly i = true → noPorts i = true → s.cur.isSome = true → s.issue.checked = true →
    ∃ (t : State) (ps : List Pending), exec i s = .next t ∧ OnlySlot s t s.issue (fun sl => ps.foldl Slot.owe sl) ∧
      ∀ p ∈ ps, p.dst ∈ destinations i

/-- R25, R135, R139: a fixed-latency scalar result due in cycle n. Before it the slot keeps its registers; at n the register
and the latch hold the value; one cycle on its flags are in FLAGS and nothing is owed.
R139, R193: a fixed-latency vector result due in cycle n: la at n, the v register one cycle later, and the bits outside
the mask as they were; the tag changes as a whole. -/
def Obligations.FixedLatencyResultsLand : Prop :=
  (∀ (sl : Slot) (n : Fin 32) (v : Word) (aslot : Bool) (f : Byte) (due : Nat),
     sl.pending = [scalarPending n v aslot f due] →
     (∀ t < due, Slot.applyResults t sl = sl) ∧
     (let x := Slot.applyResults due sl
      x.regs.sr n.val = v ∧ (∀ m, m ≠ n.val → x.regs.sr m = sl.regs.sr m) ∧ x.regs.v = sl.regs.v ∧ x.regs.p = sl.regs.p ∧
      (if aslot then x.regs.la = ⟨v.setWidth 2048, 0⟩ ∧ x.regs.lc = sl.regs.lc
       else x.regs.lc = ⟨v.setWidth 2048, 0⟩ ∧ x.regs.la = sl.regs.la) ∧
      x.csrs = sl.csrs ∧
      let y := Slot.applyResults (due + 1) x
      y.regs = x.regs ∧ y.csrs = { sl.csrs with flags := sl.csrs.flags ||| f } ∧ y.pending = [])) ∧
  (∀ (sl : Slot) (n : Fin 32) (v m : Vec) (tag : Tag) (f : Byte) (due : Nat),
     sl.pending = [vectorPending n v m tag f due] →
     (let x := Slot.applyResults due sl
      x.regs.v = sl.regs.v ∧ x.regs.s = sl.regs.s ∧ x.regs.p = sl.regs.p ∧ x.regs.lc = sl.regs.lc ∧ x.csrs = sl.csrs ∧
      x.regs.la.tag = tag ∧ (∀ k < 2048, x.regs.la.val.getLsbD k = if m.getLsbD k then v.getLsbD k else sl.regs.la.val.getLsbD k) ∧
      let y := Slot.applyResults (due + 1) x
      (y.regs.vr n.val).tag = tag ∧
      (∀ k < 2048, (y.regs.vr n.val).val.getLsbD k = if m.getLsbD k then v.getLsbD k else (sl.regs.vr n.val).val.getLsbD k) ∧
      (∀ j, j ≠ n.val → y.regs.vr j = sl.regs.vr j) ∧ y.regs.s = sl.regs.s ∧ y.regs.la = x.regs.la ∧
      y.csrs = { sl.csrs with flags := sl.csrs.flags ||| f } ∧ y.pending = []))

/-- R168, R169: the offset-form branches; nothing but the pair's way on changes.
R169, R170: `call` and `loop`.
R11, R171: the indirect transfers, and their trap on a target that is not 8-byte aligned.
R44, R187. -/
def Obligations.ControlTransfersFollowTable : Prop :=
  (∀ s off, ∀ r ∈ branchRows,
     Acts (r.1 off) s (if r.2 s then goesTo s (offsetTarget s off) else s)) ∧
  ((∀ s off, Acts (.call off) s
     (goesTo (giveS (.call off) (.s 31) (nat64 (s.issue.pc.toNat + 8)) 0 s) (offsetTarget s off))) ∧
   (∀ s off, Acts (.loop off) s
     (if sOf s 30 = 1 then s.owe (loopResult s off) else goesTo (s.owe (loopResult s off)) (offsetTarget s off)))) ∧
  ((∀ s d a, let t := readS s (.callr d a) 1 a
     (t.toNat % 8 = 0 → Acts (.callr d a) s (goesTo (giveS (.callr d a) d (nat64 (s.issue.pc.toNat + 8)) 0 s) t)) ∧
     (t.toNat % 8 ≠ 0 → Traps (.callr d a) s (memTrap MISALIGN .fetch t.toNat 8))) ∧
   (∀ s a, ∀ k ∈ [Instr.jmpr, Instr.ret], let t := readS s (k a) 1 a
     (t.toNat % 8 = 0 → Acts (k a) s (goesTo s t)) ∧
     (t.toNat % 8 ≠ 0 → Traps (k a) s (memTrap MISALIGN .fetch t.toNat 8)))) ∧
  (∀ s, Acts .nopA s s ∧ Acts .nopC s s ∧ popsOf .nopA = [] ∧ popsOf .nopC = [] ∧ uses .nopA = [] ∧ uses .nopC = [])

/-! ## System instructions, fences, traps (R131-R135, R182-R186, R274, R278, R294, R353) -/

namespace Sys2Proof.Claims
open Sys2Proof.Machine

/-- Every FLAGS bit that an earlier pair of the slot owes has been delivered (R278). -/
def flagsIn (s : State) : Prop :=
  ∀ sl, s.cur = some sl → ∀ p ∈ sl.pending, (p.fixed = true → p.due < s.now) ∧
    (p.fixed = false → p.flags = 0 ∨ (p.delivered = true ∧ p.due < s.now))
/-- Every earlier pair of the slot has issued in an earlier cycle, and every variable-latency result of it has been
delivered in one (R186). -/
def resultsIn (s : State) : Prop :=
  ∀ sl, s.cur = some sl → sl.issuedAt < s.now ∧ ∀ p ∈ sl.pending, p.owed = false ∧ (p.fixed = true ∨ p.due < s.now)
/-- The same of a slot that waits. -/
def resultsOf (s : State) (sl : Slot) : Prop :=
  sl.issuedAt < s.now ∧ ∀ p ∈ sl.pending, p.owed = false ∧ (p.fixed = true ∨ p.due < s.now)
/-- The latches of slot k of core c are zero, and not poisoned (R186, R277). -/
def zeroLatches (s : State) (c k : Nat) : State :=
  s.modSlot c k fun sl =>
    { sl with regs := { sl.regs with la := ⟨0, 0⟩, lc := ⟨0, 0⟩ },
              poisoned := sl.poisoned.filter fun r => r ≠ 340 && r ≠ 341 }
/-- Every memory read of the slot has delivered (R353). -/
def readsIn (s : State) : Prop := ∀ sl, s.cur = some sl → ∀ p ∈ sl.pending, (p.memRead && p.owed) = false
/-- No write that the continuation, or a member of its gang, has posted has failed unreported, or fails as it is carried
out (R371); with `nor`, no non-ordering one either (R356). -/
def postedGood (s : State) (nor : Bool) : Prop := failedWrites s nor = none
/-- The same for what every release waits for. -/
def writesGood (s : State) : Prop := postedGood s false
/-- No atomic that the continuation has posted to the lines of n bytes at ea is left to carry out (R143). -/
def nonePosted (s : State) (ea n : Nat) : Prop :=
  ∀ sl, s.cur = some sl → s.posted sl.ctx sl.idx ea n = false

/-- FLAGS AND FTRAP of the slot whose pair issues. -/
def armed (s : State) : Byte := match s.cur with | some sl => sl.csrs.flags &&& sl.csrs.ftrap | none => 0

/-- The value of CSR `num` for the continuation whose pair issues. -/
def csrOf (s : State) (num : Nat) : Word := s.csr s.issue.core s.issue.slot num

/-- The writable CSRs whose write acts on themselves alone, with the bits that a write sets (Tables Core-3 to Core-6,
R131, R183): FLAGS, FTRAP, FCTL, CHK, LEAD, PTBASE and GSRC0-7. -/
def plainCsrs : List (Nat × Nat) :=
  [(0x010, 8), (0x011, 8), (0x012, 3), (0x020, 2), (0x038, 4), (0x0C2, 64), (0x058, 32), (0x059, 32), (0x05A, 32),
   (0x05B, 32), (0x05C, 32), (0x05D, 32), (0x05E, 32), (0x05F, 32)]

/-- What a CSR holds after operation 0 (write), 1 (set) or 2 (clear) with v, from its old value (R182). -/
def written (op : Nat) (old v : Word) : Word := if op = 0 then v else if op = 1 then old ||| v else old &&& ~~~v
/-- R423: the access to the request block that a value of DREQ names in bits 63:5. -/
def dreqAccess (s : State) (v : Word) : Option Trap := checkAccess s .atomic false (v.toNat / 32 * 32) 32 32

/-- The kinds of fence that release. -/
def releasing : FenceKind → Bool
  | .rel | .acqRel | .seq => true
  | .acq => false
/-- The kinds of fence that acquire. -/
def acquiring : FenceKind → Bool
  | .acq | .acqRel | .seq => true
  | .rel => false

end Sys2Proof.Claims

/-- R274 on a continuation in no placed gang, when the save succeeds: what it has posted is carried out, owed results reach
the registers, the native state goes to the container, the record takes state 5 with WAKE 0, the frame header keeps CORE and PHASE0, the trap record goes to
the die's queue, and the slot is released. -/
def Obligations.ExactTrapFollowsItsSteps : Prop :=
  ∀ (s s1 : State) (c k : Nat) (sl : Slot) (t : Trap) (aslot after : Bool) (pc npc : Nat),
    s.slot c k = some sl → sl.gangInfo = none → sl.matrix = false →
    let s' := (s.settleSlot c k).modSlot c k (Slot.drain s.now)
    ∃ x, s'.slot c k = some x ∧ x.pending = [] ∧ x.ctx = sl.ctx ∧ x.idx = sl.idx ∧ x.virt = sl.virt ∧
      x.gangInfo = none ∧ x.matrix = false ∧ x.recVa = sl.recVa ∧ x.frame = sl.frame ∧ x.phase0 = sl.phase0 ∧
      let sd := { x with quantum := [], qcount := 0 }
      let s0 := s'.unregister sl.ctx sl.idx
      let p := s'.trapPoint sd aslot after pc npc
      (s0.saveContainer sl.ctx sl.idx 1 1 sl.recVa.toNat (s0.trapFields 0 c sd p false) p.live = .ok s1 →
        let s2 := ((s1.leaveRecord c k sd 5 0 p.vpc).keepHidden ⟨sl.ctx, sl.idx⟩ [(c, k)] p.live).spillHidden sd p.live
        ∃ h, bits h 63 32 = sl.phase0.toNat ∧ bits h 79 64 = c % 2 ^ 16 ∧
          let s3 := s2.putFrame sl.ctx sl.idx sl.frame.toNat h
          s.takeTrap c k t aslot after pc npc =
            ((s3.appendTrap (dieOf c) t.fatal
              (trapRecord t aslot sl.virt.isSome false 0 k c sl.recVa.toNat p.vpc (t.npc sd p) p.rmap
                (s3.slotLtime sd))).markFatal ⟨sl.ctx, sl.idx⟩ t.fatal).freeSlot c k)

/-- R185: `trap N` takes TRAPINS with N, resuming at the pair after.
R278.
R186. -/
def Obligations.TrapTfenceAndEretFollowRules : Prop :=
  (∀ s (n : BitVec 12), Acts (.trap n) s (s.trapPair ⟨0x19, n.toNat, 0, false⟩ false true)) ∧
  ((∀ s, flagsIn s → armed s = 0 → Acts .tfence s s) ∧
   (∀ s, flagsIn s → armed s ≠ 0 → Traps .tfence s ⟨0x18, (armed s).toNat, 0, false⟩) ∧
   (∀ s, ¬ flagsIn s → Waits .tfence s .flagsOwed)) ∧
  ((∀ s a, supervisor s = true → (readS s (.eret a) 1 a).toNat % 8 = 0 → resultsIn s → writesGood s →
     Acts (.eret a) s (goesTo (zeroLatches (s.release s.issue.core s.issue.slot) s.issue.core s.issue.slot)
       (readS s (.eret a) 1 a))) ∧
   (∀ s a, supervisor s = true → (readS s (.eret a) 1 a).toNat % 8 = 0 → ¬ writesGood s →
     Traps (.eret a) s ⟨0x28, 2, 0, false⟩) ∧
   (∀ s a, supervisor s = true → (readS s (.eret a) 1 a).toNat % 8 = 0 → ¬ resultsIn s → writesGood s →
     Acts (.eret a) s (goesTo (s.holdPair .eret false) (readS s (.eret a) 1 a))) ∧
   (∀ (s : State) (c k : Nat) (sl : Slot) (h : Hold), s.slot c k = some sl → sl.hold = some h → h.w = .eret →
     h.reissue = false → h.after = [] → resultsOf s sl →
     s.endHold c k = (zeroLatches (s.release c k) c k).nextWait c k [] true) ∧
   (∀ s a, supervisor s = true → (readS s (.eret a) 1 a).toNat % 8 ≠ 0 →
     Traps (.eret a) s (memTrap MISALIGN .fetch (readS s (.eret a) 1 a).toNat 8)) ∧
   (∀ s a, supervisor s = false → Traps (.eret a) s ⟨0x07, 0, 0, false⟩))

/-- R353, R357, R371.
R357, R359: a flush of the quantum batch leaves it empty, and a release leaves the matrix owner no `mst` store and the
continuation no atomic outstanding at a proxy but a non-ordering one, for which `fence.seq` alone waits (R356). -/
def Obligations.FencesFlushWaitAndRelease : Prop :=
  ((∀ s k sc, (acquiring k = true → readsIn s) → (releasing k = true → postedGood s (decide (k = .seq))) →
     Acts (.fence k sc) s (if releasing k then s.releaseCrew s.issue.core s.issue.slot (decide (k = .seq))
       else s.flushQuantum s.issue.core s.issue.slot)) ∧
   (∀ s k sc, acquiring k = true → ¬ readsIn s → (releasing k = true → postedGood s (decide (k = .seq))) →
     Waits (.fence k sc) s .reads) ∧
   (∀ s k sc, releasing k = true → ¬ postedGood s (decide (k = .seq)) → Traps (.fence k sc) s ⟨0x28, 2, 0, false⟩)) ∧
  (∀ (s : State) (c k : Nat),
     (∀ sl nor, s.slot c k = some sl → sl.gangInfo = none → let t := s.releaseCrew c k nor
       (sl.matrix = true → (t.core c).mst = []) ∧ (∀ x, t.slot c k = some x → x.quantum = [] ∧ x.qcount = 0) ∧
       ∀ q ∈ t.reqs, q.ctx = sl.ctx → q.idx = sl.idx → nor = false ∧ q.nor = true) ∧
     (∀ sl g nor, s.slot c k = some sl → sl.gangInfo = some g → ∀ m ∈ g.members,
       ∀ x, (s.releaseCrew c k nor).slot m.1 m.2 = some x →
         x.quantum = [] ∧ x.qcount = 0 ∧ (x.matrix = true → ((s.releaseCrew c k nor).core m.1).mst = [])) ∧
     ∀ x, (s.flushQuantum c k).slot c k = some x → x.quantum = [] ∧ x.qcount = 0)

/-- R289, R294: what `qstat` reads; on the rings' ports only where the cluster is held by the continuation's context. -/
def Obligations.QstatReadsThePort : Prop :=
  ∀ (s : State) (d : SDst) (p : Fin 16) (sl : Slot), s.cur = some sl →
    let x := s.core s.issue.core
    let me := (s.leaderOf sl).recPa
    let mine := decide (8 ≤ p.val) && decide ((x.binding p.val).holder ≠ 0) && decide ((x.binding p.val).holder = me)
    let other := decide (8 ≤ p.val) && decide ((x.binding p.val).holder ≠ 0) && decide ((x.binding p.val).holder ≠ me)
    let room := if p.val = 0 ∨ p.val = 6 ∨ p.val = 7 then 0
      else if p.val ≤ 3 then 8 - (sget [] sl.asm p.val).length
      else if p.val ≤ 5 ∨ mine = true then s.roomAtStart s.issue.core p.val sl.ctx else 0
    let avail := if p.val = 0 then x.inbox.length
      else if p.val ≤ 3 ∨ p.val = 6 ∨ p.val = 7 then 0 else (sget [] x.fifo p.val).length
    ((p.val = 4 ∨ p.val = 5) → (s.clus (clusterOf s.issue.core)).holder ≠ some sl.ctx →
      Traps (.qstat d p) s ⟨0x12, 4 + 0x02A * 65536, 0, false⟩) ∧
    (((p.val = 4 ∨ p.val = 5) → (s.clus (clusterOf s.issue.core)).holder = some sl.ctx) →
      Acts (.qstat d p) s (giveS (.qstat d p) d
        (nat64 (avail + room * 2 ^ 16 + b2n mine * 2 ^ 32 + b2n other * 2 ^ 33)) 0 s))

/-- R133, R134, R182: the four CSR instructions. The old value goes to lc, and for `csrr` to D; the write is left for the
end of the cycle with its operation (0 write, 1 set, 2 clear).
R131, R134, R183: when a queued write takes effect, the CSR reads the written bits, and every other CSR of the
continuation and all of memory are as they were.
R133, R183, R441, R442, R444, R446, R447: the CSR writes that act on other state. -/
def Obligations.CsrsAreReadAndWritten : Prop :=
  ((∀ s d num, (csrSuper num.toNat = true → supervisor s = true) →
     Acts (.csrr d num) s (giveS (.csrr d num) d (csrOf s num.toNat) 0 s)) ∧
   (∀ s d num, csrSuper num.toNat = true → supervisor s = false →
     Traps (.csrr d num) s ⟨0x07, 1 + num.toNat * 65536, 0, false⟩) ∧
   (∀ r ∈ [(Instr.csrw, 0), (Instr.csrs, 1), (Instr.csrc, 2)], ∀ s num d,
     (csrWritable num.toNat = true ∨ (num = 0x055 ∧ supervisor s = true)) →
     (csrSuper num.toNat = true → supervisor s = true) →
     (num = 0x0C4 → dreqAccess s (written r.2 (csrOf s 0x0C4) (readS s (r.1 num d) 0 d)) = none) →
     (num = 0x0C4 ∨ num = 0x0C1 → writesGood s) →
       Acts (r.1 num d) s ((giveS (r.1 num d) .z (csrOf s num.toNat) 0 s).modCur fun sl =>
         { sl with csrPend := sl.csrPend ++ [(num.toNat, r.2, readS s (r.1 num d) 0 d)] })) ∧
   (∀ r ∈ [(Instr.csrw, 0), (Instr.csrs, 1), (Instr.csrc, 2)], ∀ s d t, supervisor s = true →
     dreqAccess s (written r.2 (csrOf s 0x0C4) (readS s (r.1 0x0C4 d) 0 d)) = some t → Traps (r.1 0x0C4 d) s t) ∧
   (∀ r ∈ [(Instr.csrw, 0), (Instr.csrs, 1), (Instr.csrc, 2)], ∀ s num d, supervisor s = true → num = 0x0C4 ∨ num = 0x0C1 →
     (num = 0x0C4 → dreqAccess s (written r.2 (csrOf s 0x0C4) (readS s (r.1 num d) 0 d)) = none) → ¬ writesGood s →
       Traps (r.1 num d) s ⟨0x28, 2, 0, false⟩) ∧
   (∀ r ∈ [(Instr.csrw, 0), (Instr.csrs, 1), (Instr.csrc, 2)], ∀ s num d,
     ¬ (csrWritable num.toNat = true ∨ (num = 0x055 ∧ supervisor s = true)) →
       Traps (r.1 num d) s ⟨0x02, 1, 0, false⟩) ∧
   (∀ r ∈ [(Instr.csrw, 0), (Instr.csrs, 1), (Instr.csrc, 2)], ∀ s num d,
     csrSuper num.toNat = true → supervisor s = false →
       Traps (r.1 num d) s ⟨0x07, 1 + num.toNat * 65536, 0, false⟩)) ∧
  (∀ (s : State) (c k : Nat) (sl : Slot) (v : Word), s.slot c k = some sl → ∀ r ∈ plainCsrs,
     ∃ t, exec (.csrWrite c k (BitVec.ofNat 12 r.1) v) s = .next t ∧ t.csr c k r.1 = nat64 (v.toNat % 2 ^ r.2) ∧
       (∀ n, n ≠ r.1 → t.csr c k n = s.csr c k n) ∧ t.mem = s.mem) ∧
  ((∀ s c k v sl, s.slot c k = some sl → ∃ t x, exec (.quantWrite c k v) s = .next t ∧ t.slot c k = some x ∧
     x.csrs.quant = v.setWidth 16 ∧ x.quantum = [] ∧ x.qcount = 0) ∧
   (∀ s c v, ∃ t, exec (.inboxstWrite c v) s = .next t ∧ (t.core c).lost = BitVec.ofNat 32 (v.toNat / 2 ^ 32) ∧
     (t.core c).inbox = (s.core c).inbox ∧ (t.core c).ringCount = (s.core c).ringCount ∧ t.mem = s.mem) ∧
   (∀ s ctx base, let s0 := s.releaseShared 0x0C1 base fun _ sl => sl.ctx == ctx
     let h := s0.devGet ctx base.toNat 64
     let ok := s0.saveAreaOk ctx base
     let s1 := s0.modCtx ctx fun x => { x with savebase := base, saveOk := ok }
     exec (.savebaseWrite ctx base) s = .next (if ok
       then (s1.preload ctx base.toNat (bits h 127 96 * bits h 95 64)).devWrite ctx (base.toNat + 16) 1 1
       else s1.devWrite ctx (base.toNat + 16) 1 2)) ∧
   (∀ s die ctx base, let s0 := s.releaseShared 0x0C0 base fun c sl => dieOf c == die && sl.ctx == ctx
     ∃ t, exec (.trapqbaseWrite die ctx base) s = .next t ∧
     (base = 0 ∨ base.toNat % 4096 ≠ 0 → (t.die die).trapqBase = base ∧ (t.die die).trapq = none ∧
       (t.die die).ovf = false ∧ (t.die die).held = (s0.die die).held ∧ t.mem = s0.mem)) ∧
   (∀ s die ridx, (s.die die).trapq = none → exec (.trapqRidxAdvance die ridx) s = .next s) ∧
   (∀ s die ridx q, (s.die die).trapq = some q → exec (.trapqRidxAdvance die ridx) s =
     .next ((s.devWrite q.ctx (q.base.toNat + 8) 8 ridx.toNat).drainHeld die)))

/-! ## Memory (R220-R236, R299) -/

namespace Sys2Proof.Claims
open Sys2Proof.Machine

/-- Bytes and sign of the scalar loads (R229). -/
def loadSizes : List (LdSize × Nat × Bool) :=
  [(.s8, 1, true), (.n8, 1, false), (.s16, 2, true), (.n16, 2, false), (.s32, 4, true), (.n32, 4, false), (.d64, 8, false)]
def acqSizes : List (AcqSize × Nat × Bool) := [(.s32, 4, true), (.n32, 4, false), (.d64, 8, false)]
def storeSizes : List (StSize × Nat) := [(.b8, 1), (.b16, 2), (.b32, 4), (.b64, 8)]

/-- sA + sext(B, 6) × n, modulo 2^64. -/
def withImm (a : Word) (m : BitVec 6) (n : Nat) : Nat := (int64 ((a.toNat : Int) + m.toInt * n)).toNat
/-- sA + sB, modulo 2^64. -/
def withReg (a b : Word) : Nat := (a.toNat + b.toNat) % 2 ^ 64

/-- Instruction i is a scalar load of n bytes at ea: it traps as the access check says; at an event-unit page it registers
and waits, or waits for room (R296, R299), and traps PROT where the context does not hold the cluster (the model's choice,
log 90); elsewhere its result is what memory holds, extended, once the atomics that the
continuation has posted to its lines are carried out (R143). -/
def Loads (i : Instr) (d : SDst) (n : Nat) (signed : Bool) (ea : Nat) (s : State) : Prop :=
  let w := issuer s
  let r := s.readVa w .load ea n
  let s' := s.lineEffects w .load .load ea n
  (∀ t, checkAccess s .load (n = 8) ea n n = some t → Traps i s t) ∧
  (checkAccess s .load (n = 8) ea n n = none →
    ((n ≠ 8 ∨ s.eventAt w .load ea = none) → nonePosted s ea n →
      Acts i s (giveLoad i d (if signed then sext64 (8 * n) r.1 else zext64 (8 * n) r.1) r.2 (ownLag s ea) s')) ∧
    ((n ≠ 8 ∨ s.eventAt w .load ea = none) → ¬ nonePosted s ea n → Waits i s (.posted ea n)) ∧
    (∀ cl line, n = 8 → s.eventAt w .load ea = some (cl, line) → s.holderNow cl ≠ some w.ctx →
      Traps i s (memTrap PROT .load ea 8)) ∧
    (∀ cl line, n = 8 → s.eventAt w .load ea = some (cl, line) → s.holderNow cl = some w.ctx →
      (256 ≤ (s.clus cl).regs.length → Waits i s .evFull) ∧
      ((s.clus cl).regs.length < 256 → Acts i s (s'.waitLine s.issue.core s.issue.slot cl line (some d)))))

/-- Instruction i is a scalar store of the low n bytes of v at ea, a release first where `rel` says so; at an event-unit
page it acts as `evsig`, a release (R298, R299). -/
def Stores (i : Instr) (n : Nat) (rel : Bool) (v : Word) (ea : Nat) (s : State) : Prop :=
  let w := issuer s
  let event := n = 8 ∧ (s.eventAt w .store ea).isSome = true
  let held := ∀ cl line, n = 8 → s.eventAt w .store ea = some (cl, line) → s.holderNow cl = some w.ctx
  (∀ t, checkAccess s .store (n = 8) ea n n = some t → Traps i s t) ∧
  (checkAccess s .store (n = 8) ea n n = none → ¬ held → Traps i s (memTrap PROT .store ea 8)) ∧
  (checkAccess s .store (n = 8) ea n n = none → held → (rel = true ∨ event) → ¬ writesGood s →
    Traps i s ⟨0x28, 2, 0, false⟩) ∧
  (checkAccess s .store (n = 8) ea n n = none → held → (rel = true ∨ event → writesGood s) →
    (¬ nonePosted s ea n → Waits i s (.posted ea n)) ∧
    (nonePosted s ea n →
      ((rel = true ∨ event) → let s0 := s.release s.issue.core s.issue.slot
        Acts i s (s0.storeVa (issuer s0) ea n v.toNat)) ∧
      (¬ (rel = true ∨ event) → Acts i s (s.storeVa (issuer s) ea n v.toNat))))

/-- The width in bits of an element of tag t, as strided accesses take it (R191, R232). -/
def widthOfTag (t : Tag) : Nat :=
  if t.toNat = 0 ∨ t.toNat = 7 ∨ t.toNat = 8 ∨ t.toNat = 9 then 64
  else if t.toNat = 5 ∨ t.toNat = 6 ∨ t.toNat = 10 ∨ t.toNat = 16 then 32
  else if t.toNat = 3 ∨ t.toNat = 4 ∨ t.toNat = 11 ∨ t.toNat = 12 then 16
  else 8

/-- Elements stored in increasing index: element j of v, n bytes, at address `at_ j`. -/
def storeElems (s : State) (n : Nat) (at_ : Nat → Nat) (v : Vec) : State :=
  (List.range (256 / n)).foldl (fun t j => t.storeVa (issuer t) (at_ j) n (elem v (8 * n) j)) s

/-- The element checks pass, or the first trap in increasing index. -/
def firstElemTrap (s : State) (k : Acc) (n : Nat) (at_ : Nat → Nat) : Option Trap :=
  (List.range (256 / n)).findSome? fun j => checkAccess s k false (at_ j) n n

/-- The wait of the first element whose lines have a posted atomic left (R143). -/
def firstElemWait (s : State) (n : Nat) (at_ : Nat → Nat) : Option Wait :=
  (List.range (256 / n)).findSome? fun j => postedWait s (at_ j) n

/-- No element comes sooner than R139 allows its own. -/
def elemDue (s : State) (n : Nat) (at_ : Nat → Nat) : Nat :=
  (List.range (256 / n)).foldl (fun m j => max m (ownLag s (at_ j))) 0

/-- R25, R233: the results of a gather, delivered together: D and lc, and with a z destination la too (log 89). -/
def gathered (s' : State) (i : Instr) (d : VDst) (v : Vec) (tag : Tag) (poison : Bool) (due : Nat) : State :=
  let p : Pending := { pendingOf s' i with
    fixed := false, due := due, dst := d.reg, val := v, tag := tag, mask := BitVec.allOnes 2048,
    latch := some (isA i), latchVal := ⟨v, tag⟩, poison := poison, memRead := true }
  s'.modCur fun sl => if d = .z then
      { sl with pending := sl.pending ++ [{ p with id := sl.nextId, seq := sl.seq },
                                          { p with id := sl.nextId, seq := sl.seq, part := 1, latch := some true }],
                nextId := sl.nextId + 1 }
    else { sl with pending := sl.pending ++ [{ p with id := sl.nextId, seq := sl.seq }], nextId := sl.nextId + 1 }

/-- The traces that reading the elements leaves. -/
def readElems (s : State) (n : Nat) (at_ : Nat → Nat) : State :=
  (List.range (256 / n)).foldl (fun t j => t.lineEffects (issuer t) .load .load (at_ j) n) s

end Sys2Proof.Claims

/-- R227: what becomes of one byte of an access, check by check.
R11, R227: an access of 1, 2, 4 or 8 bytes must be aligned, and then passes where its byte does. -/
def Obligations.AccessesAreCheckedInOrder : Prop :=
  (∀ (s : State) (w : Who) (k : Acc) (e : Bool) (va : Nat), k ≠ .fetch →
     (2 ^ 56 ≤ va → s.placeOf w k e va = .error XLATE) ∧
     (va < 2 ^ 56 → ∀ c off, window w.core va = some (c, off) →
       s.placeOf w k e va = if 0x180000 ≤ off ∨ sget 0 (s.core c).owner (off / 128) = 0 then .error LOCALRANGE
         else .ok (.spad c off)) ∧
     (va < 2 ^ 56 → window w.core va = none →
       (0x00FFFE0000000000 ≤ va → s.placeOf w k e va = .error XLATE) ∧
       (va < 0x00FFFE0000000000 →
         (s.walk w.ctx va = .none → s.placeOf w k e va = .error XLATE) ∧
         (∀ l raw srcs, s.walk w.ctx va = .leaf l raw srcs →
           (s.region (l.pa + va % l.size) = none → s.placeOf w k e va = .error XLATE) ∧
           (∀ r, s.region (l.pa + va % l.size) = some r → l.permits k w.native = false →
             s.placeOf w k e va = .error PROT) ∧
           (∀ r, s.region (l.pa + va % l.size) = some r → l.permits k w.native = true → r.plain = true →
             (k ≠ .load ∨ s.scopeOffset w.ctx va = none → s.placeOf w k e va = .ok (.mem (l.pa + va % l.size) l.mt l.key)) ∧
             (∀ o, k = .load → s.scopeOffset w.ctx va = some o →
               s.placeOf w k e va = .ok (.scope o (l.pa + va % l.size)))))))) ∧
  (∀ (s : State) (w : Who) (k : Acc) (e : Bool) (ea n : Nat), n = 1 ∨ n = 2 ∨ n = 4 ∨ n = 8 →
     (ea % n ≠ 0 → s.accessTrap w k e ea n n = some (memTrap MISALIGN k ea n)) ∧
     (ea % n = 0 → ∀ p, s.placeOf w k e ea = .ok p → s.accessTrap w k e ea n n = none) ∧
     (ea % n = 0 → ∀ c, s.placeOf w k e ea = .error c → c ≠ MCHECK → s.accessTrap w k e ea n n = some (memTrap c k ea n)) ∧
     (ea % n = 0 → s.placeOf w k e ea = .error MCHECK → s.accessTrap w k e ea n n = some ⟨MCHECK, 2, 0, false⟩))

/-- R229, R230, R299.
R229, R230, R299. -/
def Obligations.ScalarLoadsAndStoresMoveBytes : Prop :=
  ((∀ r ∈ loadSizes, ∀ s d a m, let i := Instr.ld r.1 d a m
     Loads i d r.2.1 r.2.2 (withImm (readS s i 1 a) m r.2.1) s) ∧
   (∀ r ∈ loadSizes, ∀ s d a b, let i := Instr.ldx r.1 d a b
     Loads i d r.2.1 r.2.2 (withReg (readS s i 1 a) (readS s i 2 b)) s) ∧
   (∀ r ∈ acqSizes, ∀ s d a sc, let i := Instr.ldAcq r.1 d a sc
     Loads i d r.2.1 r.2.2 (readS s i 1 a).toNat s)) ∧
  ((∀ r ∈ storeSizes, ∀ s d a m, let i := Instr.st r.1 d a m
     Stores i r.2 false (readS s i 0 d) (withImm (readS s i 1 a) m r.2) s) ∧
   (∀ r ∈ storeSizes, ∀ s d a b, let i := Instr.stx r.1 d a b
     Stores i r.2 false (readS s i 0 d) (withReg (readS s i 1 a) (readS s i 2 b)) s) ∧
   (∀ r ∈ storeSizes, ∀ s d a sc, let i := Instr.stRel r.1 d a sc
     Stores i r.2 true (readS s i 0 d) (readS s i 1 a).toNat s))

/-- What a store of n naturally aligned bytes at ea leaves, by where the address lies: in plain memory and in a scratchpad
its own bytes take the value and every other byte reads as before; elsewhere every byte reads as before. The address is
placed as the write places it, after the traces of the access. -/
def Obligations.StoreChangesItsOwnBytesOnly : Prop :=
  ∀ (s : State) (w : Who) (ea n v : Nat), n = 1 ∨ n = 2 ∨ n = 4 ∨ n = 8 → ea % n = 0 →
    let s' := s.lineEffects w .store .store ea n
    let t := s.storeVa w ea n v
    (∀ pa mt k pa' mt' k', s.placeOf w .store (n = 8) ea = .ok (.mem pa mt k) →
      s'.placeOf w .store (n = 8) ea = .ok (.mem pa' mt' k') →
      s'.unreachable pa' = false → pa' % n = 0 →
      (∀ j, t.byteAt j = if pa' ≤ j ∧ j < pa' + n then BitVec.ofNat 8 (v / 256 ^ (j - pa')) else s.byteAt j) ∧
      ∀ c o, t.spadByte c o = s.spadByte c o) ∧
    (∀ c off c' off', s.placeOf w .store (n = 8) ea = .ok (.spad c off) →
      s'.placeOf w .store (n = 8) ea = .ok (.spad c' off') → (s'.die (dieOf c')).lost = false →
      (∀ d o, t.spadByte d o = if d = c' ∧ off' ≤ o ∧ o < off' + n then BitVec.ofNat 8 (v / 256 ^ (o - off'))
        else s.spadByte d o) ∧
      ∀ j, t.byteAt j = s.byteAt j) ∧
    (∀ cl off, s.placeOf w .store (n = 8) ea = .ok (.event cl off) →
      (∀ j, t.byteAt j = s.byteAt j) ∧ ∀ c o, t.spadByte c o = s.spadByte c o)

/-- R231, R232, R233. -/
def Obligations.VectorAccessesMoveTheirElements : Prop :=
  (∀ s d a g, let i := Instr.vld d a g
    let ea := (readS s i 1 a).toNat
    (∀ t, checkAccess s .load false ea 256 16 = some t → Traps i s t) ∧
    (checkAccess s .load false ea 256 16 = none → ¬ nonePosted s ea 256 → Waits i s (.posted ea 256)) ∧
    (checkAccess s .load false ea 256 16 = none → nonePosted s ea 256 →
      Acts i s (giveVLoad i d (BitVec.ofNat 2048 (s.readVa (issuer s) .load ea 256).1) g
        (s.readVa (issuer s) .load ea 256).2 (ownLag s ea) (s.lineEffects (issuer s) .load .load ea 256)))) ∧
  (∀ s d a m, let i := Instr.vst d a m
    let ea := withImm (readS s i 1 a) m 256
    (∀ t, checkAccess s .store false ea 256 16 = some t → Traps i s t) ∧
    (checkAccess s .store false ea 256 16 = none → ¬ nonePosted s ea 256 → Waits i s (.posted ea 256)) ∧
    (checkAccess s .store false ea 256 16 = none → nonePosted s ea 256 →
      Acts i s (s.storeVa (issuer s) ea 256 (readV s 32 false d).toNat))) ∧
  (∀ s d g tag, let i := Instr.vlds d g tag
    let n := widthOfTag tag / 8
    let addr := fun j : Nat => (int64 ((readS s i 1 (.s ⟨2 * g.val, by omega⟩)).toNat +
      j * (readS s i 1 (.s ⟨2 * g.val + 1, by omega⟩)).toInt)).toNat
    (∀ t, firstElemTrap s .load n addr = some t → Traps i s t) ∧
    (firstElemTrap s .load n addr = none → ∀ w, firstElemWait s n addr = some w → Waits i s w) ∧
    (firstElemTrap s .load n addr = none → firstElemWait s n addr = none → ∃ v : Vec,
      (∀ j < 256 / n, elem v (8 * n) j = (s.readVa (issuer s) .load (addr j) n).1 % 2 ^ (8 * n)) ∧
      Acts i s (giveVLoad i d v tag ((List.range (256 / n)).any fun j => (s.readVa (issuer s) .load (addr j) n).2)
        (elemDue s n addr) (readElems s n addr)))) ∧
  (∀ s d g tag, tagOf s d = some tag → let i := Instr.vsts d g
    let n := widthOfTag tag / 8
    let addr := fun j : Nat => (int64 ((readS s i 1 (.s ⟨2 * g.val, by omega⟩)).toNat +
      j * (readS s i 1 (.s ⟨2 * g.val + 1, by omega⟩)).toInt)).toNat
    (∀ t, firstElemTrap s .store n addr = some t → Traps i s t) ∧
    (firstElemTrap s .store n addr = none → ∀ w, firstElemWait s n addr = some w → Waits i s w) ∧
    (firstElemTrap s .store n addr = none → firstElemWait s n addr = none →
      Acts i s (storeElems s n addr (readV s 32 false d)))) ∧
  (∀ r ∈ [(W2.w32, (4 : Nat)), (W2.w64, 8)], ∀ s a b signed,
    let e := 8 * r.2
    (tagOf s b = none ∧ signed = false ∨ tagOf s b = some (if r.2 = 4 then 6 else 8) ∧ signed = false ∨
      tagOf s b = some (if r.2 = 4 then 5 else 7) ∧ signed = true) →
    let idx := fun j : Nat => elem (readV s e false b) e j
    let addr := fun (x : Word) (j : Nat) =>
      (int64 (x.toNat + (if signed then toSigned e (idx j) else (idx j : Int)) * r.2)).toNat
    (∀ d tag, (tagOf s d.src = none ∧ tag = (if r.2 = 4 then 6 else 8) ∨ tagOf s d.src = some tag ∧ widthOfTag tag = e) →
      let i := Instr.vgath r.1 d a b
      (∀ t, firstElemTrap s .load r.2 (addr (readS s i 1 a)) = some t → Traps i s t) ∧
      (firstElemTrap s .load r.2 (addr (readS s i 1 a)) = none →
        ∀ w, firstElemWait s r.2 (addr (readS s i 1 a)) = some w → Waits i s w) ∧
      (firstElemTrap s .load r.2 (addr (readS s i 1 a)) = none → firstElemWait s r.2 (addr (readS s i 1 a)) = none →
        let s' := readElems s r.2 (addr (readS s i 1 a))
        ∃ v : Vec, (∀ j < 256 / r.2, elem v e j = (s.readVa (issuer s) .load (addr (readS s i 1 a) j) r.2).1 % 2 ^ e) ∧
          Acts i s (gathered s' i d v tag
            ((List.range (256 / r.2)).any fun j => (s.readVa (issuer s) .load (addr (readS s i 1 a) j) r.2).2)
            (s'.now + elemDue s r.2 (addr (readS s i 1 a)))))) ∧
    (∀ d, (tagOf s d = none ∨ ∃ tag, tagOf s d = some tag ∧ widthOfTag tag = e) →
      let i := Instr.vscat r.1 d a b
      (∀ t, firstElemTrap s .store r.2 (addr (readS s i 1 a)) = some t → Traps i s t) ∧
      (firstElemTrap s .store r.2 (addr (readS s i 1 a)) = none →
        ∀ w, firstElemWait s r.2 (addr (readS s i 1 a)) = some w → Waits i s w) ∧
      (firstElemTrap s .store r.2 (addr (readS s i 1 a)) = none → firstElemWait s r.2 (addr (readS s i 1 a)) = none →
        Acts i s (storeElems s r.2 (addr (readS s i 1 a)) (readV s e false d))))) ∧
  (∀ s a b d tag, tagOf s b = some tag → tag ≠ 5 → tag ≠ 6 → (∀ x, tagOf s d.src = some x → widthOfTag x = 32) →
    Traps (.vgath .w32 d a b) s ⟨TAGFAULT, 2 + tag.toNat * 256, 0, false⟩)

/-! ## Full/empty bits, scratchpad allocation (R220-R223, R234-R236) -/

namespace Sys2Proof.Claims
open Sys2Proof.Machine

/-- The full/empty bit of granule g (16 bytes) of a core's scratchpad. -/
def feBit (s : State) (c g : Nat) : Bool := (sget (0 : Byte) (s.core c).fe (g / 8)).getLsbD (g % 8)

/-- The bits of granules g .. g+n-1 of core c are `full` in t; every other bit of every core is as in s. -/
def setsBits (s t : State) (c g n : Nat) (full : Bool) : Prop :=
  ∀ d h, feBit t d h = if d = c ∧ g ≤ h ∧ h < g + n then full else feBit s d h

/-- n bytes at ea lie in the local window, in allocated lines. -/
def localRange (s : State) (ea n : Nat) : Prop :=
  localBase ≤ ea ∧ ea + n ≤ localBase + 0x180000 ∧
    ∀ j < n, sget 0 (s.core s.issue.core).owner ((ea - localBase + j) / 128) ≠ 0

/-- The line of scratchpad is held by a record other than the continuation's. -/
def heldByOther (s : State) (l : Nat) : Prop :=
  sget 0 (s.core s.issue.core).owner l ≠ 0 ∧ sget 0 (s.core s.issue.core).owner l ≠ holder s

/-- The range of `spalloc` and `spfree` is not legal (R221). -/
def rangeBad (off len : Nat) : Prop := off % 128 ≠ 0 ∨ len % 128 ≠ 0 ∨ len = 0 ∨ 0x180000 < off + len

end Sys2Proof.Claims

/-- R234: `ldfe` on the local window: it reads a full range, and empties it in the `.c` forms; it waits on a range not full;
elsewhere it traps LOCALRANGE after the alignment check.
R235: `stfe` stores and fills its granules, in a local or remote window; elsewhere it traps LOCALRANGE. -/
def Obligations.FullEmptyAccessesWaitAndFill : Prop :=
  ((∀ s a, ∀ r ∈ [(fun d => Instr.ldfe64 d a, false), (fun d => Instr.ldfe64c d a, true)], ∀ d,
     let i := r.1 d
     let ea := (readS s i 1 a).toNat
     let w := issuer s
     (ea % 8 ≠ 0 → Traps i s (memTrap MISALIGN .load ea 8)) ∧
     (ea % 8 = 0 → (ea < localBase ∨ localBase + 0x180000 ≤ ea ∨
       sget 0 (s.core s.issue.core).owner ((ea - localBase) / 128) = 0) → Traps i s (memTrap LOCALRANGE .load ea 8)) ∧
     (ea % 8 = 0 → localRange s ea 8 → feBit s s.issue.core ((ea - localBase) / 16) = false →
       Waits i s (.granules ((ea - localBase) / 16 * 16) 1)) ∧
     (ea % 8 = 0 → localRange s ea 8 → feBit s s.issue.core ((ea - localBase) / 16) = true → ∃ t,
       Acts i s (giveLoad i d (nat64 (s.readVa w .load ea 8).1) (s.readVa w .load ea 8).2 (ownLag s ea) t) ∧
       setsBits s t s.issue.core ((ea - localBase) / 16) (if r.2 then 1 else 0) false)) ∧
   (∀ s a g, ∀ r ∈ [(fun d => Instr.ldfeV d a g, false), (fun d => Instr.ldfeVc d a g, true)], ∀ d,
     let i := r.1 d
     let ea := (readS s i 1 a).toNat
     let w := issuer s
     (ea % 16 ≠ 0 → Traps i s (memTrap MISALIGN .load ea 256)) ∧
     (ea % 16 = 0 → localRange s ea 256 → (∃ k < 16, feBit s s.issue.core ((ea - localBase) / 16 + k) = false) →
       Waits i s (.granules (ea - localBase) 16)) ∧
     (ea % 16 = 0 → localRange s ea 256 → (∀ k < 16, feBit s s.issue.core ((ea - localBase) / 16 + k) = true) → ∃ t,
       Acts i s (giveVLoad i d (BitVec.ofNat 2048 (s.readVa w .load ea 256).1) g (s.readVa w .load ea 256).2 (ownLag s ea) t) ∧
       setsBits s t s.issue.core ((ea - localBase) / 16) (if r.2 then 16 else 0) false))) ∧
  ((∀ s d a m, let i := Instr.stfe64 d a m
     let ea := withImm (readS s i 1 a) m 8
     (ea % 8 ≠ 0 → Traps i s (memTrap MISALIGN .store ea 8)) ∧
     (ea % 8 = 0 → isWindow ea = false → Traps i s (memTrap LOCALRANGE .store ea 8)) ∧
     (ea % 8 = 0 → ∀ c off, window s.issue.core ea = some (c, off) → checkAccess s .store false ea 8 8 = none →
       ∃ t, Acts i s t ∧ setsBits (s.storeVa (issuer s) ea 8 (readS s i 0 d).toNat) t c (off / 16) 1 true ∧ ∀ e o,
         t.spadByte e o = (s.storeVa (issuer s) ea 8 (readS s i 0 d).toNat).spadByte e o)) ∧
   (∀ s d a m, let i := Instr.stfeV d a m
     let ea := withImm (readS s i 1 a) m 256
     (ea % 16 ≠ 0 → Traps i s (memTrap MISALIGN .store ea 256)) ∧
     (ea % 16 = 0 → stfeFault s ea 256 16 = none →
       Acts i s ((s.storeVa (issuer s) ea 256 (readV s 32 false d).toNat).fillGranules ea 256))))

/-- R236.
R221, R222, R223. -/
def Obligations.ScratchpadLinesAndFullBits : Prop :=
  (∀ s a b, ∀ r ∈ [(Instr.fecl a b, false), (Instr.feset a b, true)],
     let ea := (readS s r.1 1 a).toNat
     let len := (readS s r.1 2 b).toNat
     (ea % 16 ≠ 0 ∨ len % 16 ≠ 0 → Traps r.1 s (memTrap MISALIGN .store ea 16)) ∧
     (ea % 16 = 0 → len = 0 → Acts r.1 s s) ∧
     (ea % 16 = 0 → len % 16 = 0 → len ≠ 0 → (ea < localBase ∨ localBase + 0x180000 ≤ ea) →
       Traps r.1 s (memTrap LOCALRANGE .store ea 16)) ∧
     (ea % 16 = 0 → len % 16 = 0 → len ≠ 0 → localRange s ea len →
       ∃ t, Acts r.1 s t ∧ setsBits s t s.issue.core ((ea - localBase) / 16) (len / 16) r.2 ∧
         (∀ d o, t.spadByte d o = s.spadByte d o) ∧ t.mem = s.mem)) ∧
  (∀ s d a b,
     (∀ i ∈ [Instr.spalloc d a b, Instr.spfree d a b],
       let off := (readS s i 1 a).toNat
       let len := (readS s i 2 b).toNat
       (rangeBad off len → Acts i s (giveS i d 1 0 s)) ∧
       (∀ l, ¬ rangeBad off len → off / 128 ≤ l → l < (off + len) / 128 → heldByOther s l →
         (∀ m, off / 128 ≤ m → m < l → ¬ heldByOther s m) → Acts i s (giveS i d (nat64 (l * 128 * 2 ^ 32 + 2)) 0 s))) ∧
     (let i := Instr.spalloc d a b
      let off := (readS s i 1 a).toNat
      let len := (readS s i 2 b).toNat
      ¬ rangeBad off len → (∀ l, off / 128 ≤ l → l < (off + len) / 128 → ¬ heldByOther s l) →
       let fresh := (List.range (len / 128)).countP fun k => decide (sget 0 (s.core s.issue.core).owner (off / 128 + k) = 0)
       ∃ t, Acts i s (giveS i d (nat64 (fresh * 2 ^ 16)) 0 t) ∧
         (∀ c l, sget 0 (t.core c).owner l = if c = s.issue.core ∧ off / 128 ≤ l ∧ l < (off + len) / 128
           then holder s else sget 0 (s.core c).owner l) ∧
         (∀ c o, t.spadByte c o = if c = s.issue.core ∧ off ≤ o ∧ o < off + len ∧ sget 0 (s.core c).owner (o / 128) = 0
           then 0 else s.spadByte c o)) ∧
     (let i := Instr.spfree d a b
      let off := (readS s i 1 a).toNat
      let len := (readS s i 2 b).toNat
      ¬ rangeBad off len → (∀ l, off / 128 ≤ l → l < (off + len) / 128 → ¬ heldByOther s l) →
       let held := (List.range (len / 128)).countP fun k => decide (sget 0 (s.core s.issue.core).owner (off / 128 + k) ≠ 0)
       ∃ t, Acts i s (giveS i d (nat64 (held * 2 ^ 16)) 0 t) ∧
         ∀ c l, sget 0 (t.core c).owner l = if c = s.issue.core ∧ off / 128 ≤ l ∧ l < (off + len) / 128
           then 0 else sget 0 (s.core c).owner l))

/-! ## Atomics (R354-R376) -/

namespace Sys2Proof.Claims
open Sys2Proof.Machine

/-- ORDER of an atomic releases (R350). -/
def releasesFirst (x : Option AAttr) : Bool :=
  match x with
  | some a => decide (a.order = .rel ∨ a.order = .acqRel ∨ a.order = .seq)
  | none => false

/-- The use of an atomic. -/
def atomicUse (x : Option AAttr) : AUse := match x with | some a => a.use | none => .unpaired

/-- The device after an atomic's release. -/
def afterRelease (x : Option AAttr) (s : State) : State :=
  if releasesFirst x then s.release s.issue.core s.issue.slot else s
/-- Where an atomic's read-modify-write finds the device: after its release, and the traces of the access. -/
def beforeRmw (x : Option AAttr) (ea n : Nat) (s : State) : State :=
  let s1 := afterRelease x s
  s1.lineEffects (issuer s1) .atomic .atomic ea n

/-- A result of an atomic that delivers value m to register d, and, as the first part, to lc (R376). -/
def oldValue (s : State) (i : Instr) (sl : Slot) (d : RegDst) (part m lcv : Nat) : Pending :=
  { pendingOf s i with
    id := sl.nextId, seq := sl.seq, part := part, dst := d, val := BitVec.ofNat 2048 m, mask := BitVec.allOnes 2048,
    latch := if part = 0 then some false else none, latchVal := ⟨BitVec.ofNat 2048 lcv, 0⟩, memRead := true }

/-- R366, R376: instruction i is an atomic of w bits on the location at ea whose update of an old value is `new` (none
writes nothing), in a form that owes the results `ds`. `spur` is whether a speculative form fails of itself. -/
def Rmw (i : Instr) (w : Nat) (ea : Nat) (new : Nat → Option Nat) (ds : List RegDst) (x : Option AAttr) (s : State) : Prop :=
  let n := w / 8
  let s1 := afterRelease x s
  let s2 := beforeRmw x ea n s
  let spur : Place → Option Bool := fun p => if atomicUse x = .speculative
    then some ((s1.leaseFails s.issue.core p).getD (Config.spuriousFail s1.freeCtr)) else none
  let m := fun p => s2.readPlace p n
  let upd := fun p => if spur p = some true then none else new (m p)
  let lcv := fun p => match spur p with
    | none => m p % 2 ^ w
    | some true => 2
    | some false => if (new (m p)).isSome then 0 else 1
  (∀ t, checkAccess s .atomic false ea n n = some t → Traps i s t) ∧
  (checkAccess s .atomic false ea n n = none → releasesFirst x = true → ¬ writesGood s →
    Traps i s ⟨0x28, 2, 0, false⟩) ∧
  (∀ p sl, checkAccess s .atomic false ea n n = none → (releasesFirst x = true → writesGood s) →
    (atomicUse x ≠ .quantum ∨ ∀ y, s2.cur = some y → y.csrs.quant = 0) →
    s1.placeOf (issuer s1) .atomic false ea = .ok p → s2.cur = some sl →
    s2.proxied p = false → s2.placePoisoned p n = false → (∀ q ∈ s2.queues, ∀ pa mt k, p = .mem pa mt k → q.widxPa ≠ pa) →
    (∀ q ∈ s2.reqs, q.pa / 128 ≠ p.pa / 128) →
    ∃ t, Acts i s t ∧
      (∀ pa mt k, p = .mem pa mt k → pa % n = 0 → ∀ j, t.byteAt j = match upd p with
        | some r => if pa ≤ j ∧ j < pa + n then BitVec.ofNat 8 (r / 256 ^ (j - pa)) else s2.byteAt j
        | none => s2.byteAt j) ∧
      (∀ c off, p = .spad c off → ∀ d o, t.spadByte d o = match upd p with
        | some r => if d = c ∧ off ≤ o ∧ o < off + n then BitVec.ofNat 8 (r / 256 ^ (o - off)) else s2.spadByte d o
        | none => s2.spadByte d o) ∧
      ∃ sl', t.cur = some sl' ∧ sl'.regs = sl.regs ∧ sl'.csrs = sl.csrs ∧
        (ds = [] → sl'.pending = sl.pending) ∧
        (∀ d, ds = [d] → sl'.pending.drop sl.pending.length = [oldValue s2 i sl d 0 (m p % 2 ^ min w 64) (lcv p)]) ∧
        (∀ d e, ds = [d, e] → w = 128 → sl'.pending.drop sl.pending.length =
          [oldValue s2 i sl d 0 (m p % 2 ^ 64) (lcv p), oldValue s2 i sl e 1 (m p / 2 ^ 64 % 2 ^ 64) (lcv p)]))

/-- Table Atomics-2 and the famo rows: r from the width, the old value and the operand. -/
def amoRows : List ((W2 → AForm → Option AAttr → Instr) × (Nat → Nat → Nat → Nat)) :=
  [(.amoAdd, fun w m v => (m + v) % 2 ^ w), (.amoAnd, fun _ m v => m &&& v), (.amoOr, fun _ m v => m ||| v),
   (.amoXor, fun _ m v => m ^^^ v),
   (.amoSmin, fun w m v => if toSigned w m ≤ toSigned w v then m else v),
   (.amoSmax, fun w m v => if toSigned w v ≤ toSigned w m then m else v),
   (.amoNmin, fun _ m v => if m ≤ v then m else v), (.amoNmax, fun _ m v => if m ≤ v then v else m)]

/-- famo: operation 0 add, 1 minimum, 2 maximum, on each half of a packed format alone (R374). -/
def famoRows : List ((FFmt → AForm → Option AAttr → Instr) × Nat) := [(.famoFadd, 0), (.famoFmin, 1), (.famoFmax, 2)]
def famoWidths : List (FFmt × Nat × (Nat → Nat → Nat → Nat)) :=
  [(.bf16, 16, BF16.amo), (.f32, 32, F32.amo), (.f64, 64, F64.amo),
   (.bf16x2, 32, fun o m v => BF16.amo o (m % 2 ^ 16) (v % 2 ^ 16) + 2 ^ 16 * BF16.amo o (m / 2 ^ 16) (v / 2 ^ 16)),
   (.f32x2, 64, fun o m v => F32.amo o (m % 2 ^ 32) (v % 2 ^ 32) + 2 ^ 32 * F32.amo o (m / 2 ^ 32) (v / 2 ^ 32))]

end Sys2Proof.Claims

/-- R366, R372: the integer atomics. -/
def Obligations.IntegerAtomicsFollowTable : Prop :=
  (∀ r ∈ amoRows, ∀ z ∈ [(W2.w32, 32), (W2.w64, 64)], ∀ s a x,
    (∀ d b, let i := r.1 z.1 (.ret d a b) x
      Rmw i z.2 (readS s i 1 a).toNat (fun m => some (r.2 z.2 m ((readS s i 2 b).toNat % 2 ^ z.2))) [d.reg] x s) ∧
    (∀ d, let i := r.1 z.1 (.nr d a) x
      Rmw i z.2 (readS s i 1 a).toNat (fun m => some (r.2 z.2 m ((readS s i 0 d).toNat % 2 ^ z.2))) [] x s)) ∧
  (∀ z ∈ [(W2.w32, 32), (W2.w64, 64)], ∀ s d a b x, let i := Instr.amoSwap z.1 d a b x
    Rmw i z.2 (readS s i 1 a).toNat (fun _ => some ((readS s i 2 b).toNat % 2 ^ z.2)) [d.reg] x s)

/-- R366, R374: the floating atomics.
R375, R376: `cas` writes only where the old value is the expected one, and gives the old value to D. -/
def Obligations.FloatingAtomicsAndCas : Prop :=
  (∀ r ∈ famoRows, ∀ z ∈ famoWidths, ∀ s a x,
     (∀ d b, let i := r.1 z.1 (.ret d a b) x
       Rmw i z.2.1 (readS s i 1 a).toNat (fun m => some (z.2.2 r.2 m ((readS s i 2 b).toNat % 2 ^ z.2.1))) [d.reg] x s) ∧
     (∀ d, let i := r.1 z.1 (.nr d a) x
       Rmw i z.2.1 (readS s i 1 a).toNat (fun m => some (z.2.2 r.2 m ((readS s i 0 d).toNat % 2 ^ z.2.1))) [] x s)) ∧
  ((∀ s (d : SAcc) a b x, let i := Instr.cas (.w64 d a b) x
     Rmw i 64 (readS s i 1 a).toNat
       (fun m => if m = (readS s i 0 d.src).toNat then some (readS s i 2 b).toNat else none) [d.dst.reg] x s) ∧
   (∀ s (d : SAcc) a b x, let i := Instr.cas (.w32 d a b) x
     Rmw i 32 (readS s i 1 a).toNat
       (fun m => if m = (readS s i 0 d.src).toNat % 2 ^ 32 then some ((readS s i 2 b).toNat % 2 ^ 32) else none)
       [d.dst.reg] x s) ∧
   (∀ s (d b : Fin 16) a x, let i := Instr.cas (.w128 d a b) x
     let even := fun (f : Nat) (n : Fin 16) => (readS s i f (.s ⟨2 * n.val, by omega⟩)).toNat
     let odd := fun (f : Nat) (n : Fin 16) => (readS s i f (.s ⟨2 * n.val + 1, by omega⟩)).toNat
     Rmw i 128 (readS s i 1 a).toNat
       (fun m => if m = even 0 d + 2 ^ 64 * odd 0 d then some (even 2 b + 2 ^ 64 * odd 2 b) else none)
       [.s (2 * d.val), .s (2 * d.val + 1)] x s))

/-! ## Range operations, tiles, tcinv (R331-R338) -/

namespace Sys2Proof.Claims
open Sys2Proof.Machine

/-- The line overlaps bytes pa .. pa+m-1. -/
def touches (pa m line : Nat) : Prop := line * 128 < pa + m ∧ pa < line * 128 + 128

/-- R331: SHAPE. -/
def tileShape (b n : Nat) : Prop := (∃ k, n = 2 ^ k) ∧ 4096 ≤ n ∧ n ≤ 2 ^ 20 ∧ b % n = 0

end Sys2Proof.Claims

/-- R336, R337, Table Die-8, on a range of one page: the count, the coherent bytes as they were, and what becomes of each
line and of backing memory. The issuer's earlier posted writes are performed first, and the pair waits for the engine
operations that it pushed (log 96). -/
def Obligations.RangeOperationsActOnWholeLines : Prop :=
  ∀ s d a b, s.canon →
    (∀ i ∈ [Instr.cflush d a b, Instr.cwb d a b, Instr.cinv d a b],
      let va := (readS s i 1 a).toNat
      let n := (readS s i 2 b).toNat
      (n = 0 → Acts i s (giveS i d 0 0 s)) ∧
      (n ≠ 0 → 2 ^ 56 < va + n → Traps i s (memTrap XLATE .load (max va (2 ^ 56)) 1)) ∧
      (n ≠ 0 → va + n ≤ 2 ^ 56 → ∀ t, s.runs (issuer s) va n = .error t → Traps i s t) ∧
      (∀ run sl, n ≠ 0 → va + n ≤ 2 ^ 56 → s.runs (issuer s) va n = .ok run → s.cur = some sl → s.ownOps sl = true →
        Waits i s .ownOps) ∧
      (∀ run, n ≠ 0 → va + n ≤ 2 ^ 56 → s.runs (issuer s) va n = .ok run → (∀ sl, s.cur = some sl → s.ownOps sl = false) →
        ∃ t,
        Acts i s (giveS i d (nat64 (min ((va + n - 1) / 128 - va / 128 + 1) (2 ^ 32 - 1))) 0 t) ∧
        ∀ pa m leaf, leaf.mt = 0 →
          s.leavesOf (issuer s) (((va + n + 127) / 128 * 128 - va / 128 * 128) / 65536 + 2) (va / 128 * 128)
            ((va + n + 127) / 128 * 128 - va / 128 * 128) = .ok [(pa, m, leaf)] →
          let s0 := s.release s.issue.core s.issue.slot
          (∀ j, t.byteAt j = s0.byteAt j) ∧
          (i = .cflush d a b ∨ i = .cwb d a b → ∀ j, pa ≤ j → j < pa + m → sget 0 t.backing j = s0.byteAt j) ∧
          (i = .cflush d a b → ∀ line, touches pa m line → sget Line.inv t.lines line = Line.inv) ∧
          (i = .cwb d a b → ∀ line, touches pa m line → (sget Line.inv t.lines line).st ≠ .modified ∧
            (sget Line.inv t.lines line).bufs = []) ∧
          (i = .cinv d a b → ∀ line, touches pa m line → (sget Line.inv t.lines line).owner ≠ some s.issue.core)))

/-- R331, R332, Table Die-6: declaring and removing a tile, and each status.
R335: forwarding a tile, and each status. sB holds TARGET in bits 9:0 and SCOPE in bits 19:16.
R338. -/
def Obligations.TilesAndTranslationsAreManaged : Prop :=
  (∀ s d a b,
     (∀ i ∈ [Instr.tdecl d a b, Instr.tundecl d a b],
       let va := (readS s i 1 a).toNat
       let n := (readS s i 2 b).toNat
       (¬ tileShape va n → Acts i s (giveS i d 1 0 s)) ∧
       (tileShape va n → ∀ t, s.runs (issuer s) va n = .error t → Traps i s t) ∧
       (tileShape va n → ∀ rs, s.runs (issuer s) va n = .ok rs →
         (∃ r ∈ rs, r.2.2.mt ≠ 0 ∨ s.deviceMem r.1 = false) → Acts i s (giveS i d 4 0 s))) ∧
     (let i := Instr.tdecl d a b
      let va := (readS s i 1 a).toNat
      let n := (readS s i 2 b).toNat
      ∀ p m leaf, tileShape va n → s.runs (issuer s) va n = .ok [(p, m, leaf)] → leaf.mt = 0 → s.deviceMem p = true →
       (p % n ≠ 0 → Acts i s (giveS i d 4 0 s)) ∧
       (p % n = 0 → (∃ t ∈ s.tiles, t.base < p + n ∧ p < t.base + t.size) → Acts i s (giveS i d 2 0 s)) ∧
       (p % n = 0 → (∀ t ∈ s.tiles, ¬ (t.base < p + n ∧ p < t.base + t.size)) →
         64 ≤ (s.tiles.filter fun t => tileHome t.base == tileHome p).length → Acts i s (giveS i d 3 0 s)) ∧
       (p % n = 0 → (∀ t ∈ s.tiles, ¬ (t.base < p + n ∧ p < t.base + t.size)) →
         (s.tiles.filter fun t => tileHome t.base == tileHome p).length < 64 → ∃ t, Acts i s (giveS i d 0 0 t) ∧
           t.tiles = s.tiles ++ [⟨p, n, (issuer s).ctx, .ti, 0, none, none⟩] ∧ ∀ j, t.byteAt j = s.byteAt j)) ∧
     (let i := Instr.tundecl d a b
      let va := (readS s i 1 a).toNat
      let n := (readS s i 2 b).toNat
      ∀ p m leaf, tileShape va n → s.runs (issuer s) va n = .ok [(p, m, leaf)] → leaf.mt = 0 → s.deviceMem p = true →
       p % n = 0 →
       ((∀ t ∈ s.tiles, ¬ (t.base = p ∧ t.size = n ∧ t.ctx = (issuer s).ctx)) → Acts i s (giveS i d 5 0 s)) ∧
       ((∃ t ∈ s.tiles, t.base = p ∧ t.size = n ∧ t.ctx = (issuer s).ctx) → ∃ t, Acts i s (giveS i d 0 0 t) ∧
         (∀ x ∈ t.tiles, ¬ (x.base = p ∧ x.size = n ∧ x.ctx = (issuer s).ctx)) ∧ t.mem = s.mem ∧ t.lines = s.lines))) ∧
  (∀ s d a b, let i := Instr.tfwd d a b
     let va := (readS s i 1 a).toNat
     let ctl := (readS s i 2 b).toNat
     let target := ctl % 1024
     let scope := ctl / 65536 % 16
     let whole := ctl = target + scope * 65536
     (¬ whole → Traps i s ⟨ILLOPND, 5, 0, false⟩) ∧
     (whole → ∀ t, s.runs (issuer s) va 1 = .error t → Traps i s t) ∧
     (∀ p m leaf, whole → s.runs (issuer s) va 1 = .ok [(p, m, leaf)] →
       (leaf.mt ≠ 0 ∨ s.deviceMem p = false → Acts i s (giveS i d 4 0 s)) ∧
       (leaf.mt = 0 → s.deviceMem p = true →
         ((∀ t ∈ s.tiles, ¬ (t.base = p ∧ t.ctx = (issuer s).ctx)) → Acts i s (giveS i d 5 0 s)) ∧
         (∀ t, s.tiles.find? (fun t => t.base == p && t.ctx == (issuer s).ctx) = some t →
           (inScope (issuer s).core target scope = false → Acts i s (giveS i d 7 0 s)) ∧
           (inScope (issuer s).core target scope = true → 4 * 2 ^ 20 < s.nearBytes target p + t.size →
             Acts i s (giveS i d 6 0 s)) ∧
           (inScope (issuer s).core target scope = true → s.nearBytes target p + t.size ≤ 4 * 2 ^ 20 → ¬ writesGood s →
             Traps i s ⟨0x28, 2, 0, false⟩) ∧
           (inScope (issuer s).core target scope = true → s.nearBytes target p + t.size ≤ 4 * 2 ^ 20 → writesGood s →
             let s0 := s.release s.issue.core s.issue.slot
             ∃ u, Acts i s (giveS i d 0 0 u) ∧ u.mem = s0.mem ∧ u.lines = s0.lines ∧
               u.tiles = s0.tiles.map fun t => if t.base = p then
                 { t with st := .tf, sharers := clusterBit (clusterOf target), owner := none, target := some target }
               else t))))) ∧
  (∀ s d a b, let i := Instr.tcinv d a b
     let h := (readS s i 1 a).toNat / 2 ^ 44
     let off := (readS s i 1 a).toNat % 2 ^ 44
     let len := (readS s i 2 b).toNat
     let bad := ⟨PROT, 4 + 0x0D3 * 65536, 0, false⟩
     (s.object h = none → Traps i s bad) ∧
     (∀ o, s.object h = some o →
       (o.codeLen < off + len → Traps i s bad) ∧
       (off + len ≤ o.codeLen → supervisor s = false → o.codeWrite = false → Traps i s bad) ∧
       (off + len ≤ o.codeLen → (supervisor s = true ∨ o.codeWrite = true) → ¬ writesGood s →
         Traps i s ⟨0x28, 2, 0, false⟩) ∧
       (off + len ≤ o.codeLen → (supervisor s = true ∨ o.codeWrite = true) → writesGood s →
         let s0 := s.release s.issue.core s.issue.slot
         let g : Half := sget 0 s0.handleGen h
         (len = 0 → Acts i s (giveS i d (nat64 g.toNat) 0 s0)) ∧
         (len ≠ 0 → ∃ t, Acts i s (giveS i d (nat64 ((g.toNat + 1) % 2 ^ 32)) 0 t) ∧
           sget 0 t.handleGen h = g + 1 ∧ (∀ k, k ≠ h → sget 0 t.handleGen k = sget 0 s0.handleGen k) ∧
           (∀ e ∈ t.translations, e.2.2.handle = h → ∀ x ∈ e.2.2.srcs, x.1 < off + len → off < x.1 + x.2 → e.2.1 ≠ 0) ∧
           t.mem = s0.mem))))

/-! ## Tasks and clusters (R104-R122, R283-R315) -/

namespace Sys2Proof.Claims
open Sys2Proof.Machine

/-- The PROT of an instruction that is no memory access (R272). -/
def protOf (op : Nat) : Trap := ⟨PROT, 4 + op * 65536, 0, false⟩

/-- The cluster of the issuing core, and that the continuation's context holds it (R289). -/
def myCluster (s : State) : Nat := clusterOf s.issue.core
def holds (s : State) : Prop := ∀ sl, s.cur = some sl → (s.clus (myCluster s)).holder = some sl.ctx

/-- The continuation's slot is in no gang. -/
def lone (s : State) : Prop := ∀ sl, s.cur = some sl → sl.gangInfo = none

/-- The A-slot of the pair has left no matrix work behind it (R112, R241, R266). -/
def unitDone (s : State) : Prop :=
  ∀ sl h, s.cur = some sl → sl.hold = some h → h.reissue = true ∨ h.w.matrixWork = false

/-- What the slot of the pair does once its matrix work is done. -/
def thenDoes (s : State) (w : Wait) : State :=
  s.modCur fun sl => { sl with hold := sl.hold.map fun h => { h with after := h.after ++ [w] } }

/-- Priority that a creation asks for (R107). -/
def askedPrio (c : Creation) (sl : Slot) : Nat := match c.prio with | some p => p.val | none => sl.prio

/-- What a creation makes: the record's attributes and the frame header's CSRs (R108). -/
def asked (s : State) (sl : Slot) (c : Creation) (vpc args : Word) (keys : List Nat) : NewRec :=
  { vpc := vpc.toNat, args := args.toNat,
    dom := match c.dlevel with | some l => (sget 0 sl.csrs.domm l.val).toNat | none => 0,
    keys := keys, prio := askedPrio c sl, gang := c.gang.val, matrix := c.matrix, csrs := csrsOfFrame (s.frameHdr sl.ctx sl.frame.toNat) [],
    core := 0, pinned := false }

/-- The result and effect of a creation that passes its checks; s' is s with the traces of reading the key words. -/
def Creates (i : Instr) (d : SDst) (s s' : State) (sl : Slot) (n : NewRec) : Prop :=
  let p := (s'.release s'.issue.core s'.issue.slot).allocRec sl.ctx
  (p.2 = 0 → Acts i s (giveS i d 0 0 p.1)) ∧
  (p.2 ≠ 0 → ∃ t, Acts i s (giveS i d (nat64 (recGen (t.readRec sl.ctx p.2) * 2 ^ 32 + p.2)) 0 t) ∧
    t = ((p.1.fillRecord sl.ctx p.2 n).joinLaunch ⟨sl.ctx, p.2⟩ sl.launch).enter (dieOf s.issue.core) ⟨sl.ctx, p.2⟩ n)

/-- The wake words that `suspon` allows, and the wait of each (the table of R115). -/
def wakeAllowed (s : State) (sl : Slot) (w : Nat) (wt : Wait) : Prop :=
  let c := s.issue.core
  let k := myCluster s
  (∃ g gen, g < 16 ∧ gen < 2 ^ 32 ∧ w = 1 * 2 ^ 60 + k * 2 ^ 48 + g * 2 ^ 44 + gen ∧ wt = .group k g (BitVec.ofNat 32 gen)) ∨
  (∃ l ph, 1 ≤ l ∧ l < 8 ∧ ph < 2 ^ 32 ∧ sget 0 sl.csrs.domm l ≠ 0 ∧ w = 1 * 2 ^ 60 + 2 ^ 59 + l * 2 ^ 56 + ph ∧
    wt = .phase l (sget 0 sl.csrs.domm l).toNat (BitVec.ofNat 32 ph)) ∨
  (∃ p, (p = 0 ∨ p = 4 ∨ p = 5 ∨ 8 ≤ p ∧ p < 16 ∧ ((s.core c).binding p).holder = (s.leaderOf sl).recPa) ∧
    w = 2 * 2 ^ 60 + c * 2 ^ 36 + p * 2 ^ 32 ∧ wt = .ports [(p, 1)]) ∨
  (∃ ch id, ch < 4 ∧ id < 2 ^ 32 ∧ w = 5 * 2 ^ 60 + c * 2 ^ 36 + ch * 2 ^ 32 + id ∧ wt = .xfer ch (BitVec.ofNat 32 id)) ∨
  (∃ off n, off % 16 = 0 ∧ 1 ≤ n ∧ n ≤ 16 ∧ off + 16 * n ≤ 0x180000 ∧
    (∀ g < n, sget 0 (s.core c).owner ((off + 16 * g) / 128) = sl.recPa) ∧
    w = 6 * 2 ^ 60 + c * 2 ^ 36 + n * 2 ^ 24 + off ∧ wt = .granules off n) ∨
  (∃ t, t < 2 ^ 60 ∧ w = 9 * 2 ^ 60 + t ∧ wt = .timer t)

/-- The open phase of a domain: PHASE plus the whole MEMBERS that have arrived, modulo 2^32 (R306). -/
def openOf (d : Nat) : Nat := (d % 2 ^ 32 + d / 2 ^ 32 % 2 ^ 32 / (d / 2 ^ 64 % 2 ^ 32)) % 2 ^ 32

/-- The domain of the continuation at a level. -/
def levelDom (s : State) (l : Nat) : Nat := match s.cur with | some sl => (sget 0 sl.csrs.domm l).toNat | none => 0

/-- An arrival can be made at level l: it has a domain, whose descriptor can be read (R60) and is legal (R305). -/
def arrivable (s : State) (sl : Slot) (l : Nat) : Prop :=
  levelDom s l ≠ 0 ∧ s.domHole sl.ctx (levelDom s l) = none ∧ s.domBad sl.ctx (levelDom s l) l = false

/-- The wait for phase p at level l to close: past at once, or a hold in the slot (R118, R121). -/
def WaitsFor (i : Instr) (s t : State) (l : Nat) (p : Half) : Prop :=
  ∀ sl, t.cur = some sl →
    let have_ : Half := BitVec.ofNat 32 (domPhase (t.domain sl.ctx (levelDom s l)))
    let past := t.domHole sl.ctx (levelDom s l) = none ∧ (have_ - (p + 1)).toNat < 2 ^ 31
    (past → Acts i s t) ∧ (¬ past → Acts i s (t.holdPair (.phase l (levelDom s l) (p + 1)) false))

/-- A shape word of `gfuse` (R314): size code in bits 2:0, leader in bits 25:16. -/
def shapeWord (size leader : Nat) : Word := nat64 (size + leader * 2 ^ 16)

end Sys2Proof.Claims

/-- R107, R108, R109, R111: `spawn` and `spawnk`. -/
def Obligations.SpawnMakesARecord : Prop :=
  ∀ s d a b c sl, s.cur = some sl →
    (∀ r ∈ [(Instr.spawn d a b c, false, 0x010), (Instr.spawnk d a b c, true, 0x011)],
      let vpc := readS s r.1 1 a
      let args := readS s r.1 2 b
      (sl.prio < askedPrio c sl → sl.native = false → Traps r.1 s ⟨PRIV, 0, 0, false⟩) ∧
      (askedPrio c sl ≤ sl.prio ∨ sl.native = true →
        (s.bodyOf vpc.toNat = none → Traps r.1 s (protOf r.2.2)) ∧
        (∀ o bd, s.bodyOf vpc.toNat = some (o, bd) →
          (∀ t, s.poolHole sl.ctx = some t → Traps r.1 s t) ∧
          (s.poolHole sl.ctx = none → (r.2.1 = false ∧ bd.keys ≠ []) ∨ s.frameStride sl.ctx < bd.spill + 64 ∨
            s.maxGang sl.ctx < c.gang.val ∨ (c.matrix = true ∧ s.matrixAllowed sl.ctx = false) →
            64 ≤ s.frameStride sl.ctx → Traps r.1 s (protOf r.2.2)) ∧
          (s.poolHole sl.ctx = none → (r.2.1 = true ∨ bd.keys = []) → bd.spill + 64 ≤ s.frameStride sl.ctx →
            c.gang.val ≤ s.maxGang sl.ctx → (c.matrix = true → s.matrixAllowed sl.ctx = true) → writesGood s →
            (r.2.1 = true → s.keyFault (issuer s) args.toNat bd = none) →
            (∀ w, r.2.1 = true → s.keyWait vpc.toNat args.toNat = some w → Waits r.1 s w) ∧
            ((r.2.1 = true → s.keyWait vpc.toNat args.toNat = none) → Creates r.1 d s (if r.2.1 then s.keyEffects (issuer s) args.toNat bd else s) sl (asked s sl c vpc args
              (if r.2.1 then s.keyWords (issuer s) args.toNat bd else []))))))) ∧
    (∀ r0 n, n.vpc < 2 ^ 64 → n.args < 2 ^ 64 → n.dom < 2 ^ 32 → n.prio < 32 → n.gang < 8 →
      let r := newRecord r0 n
      bits r 63 0 = n.vpc ∧ bits r 191 128 = n.args ∧ bits r 223 192 = n.dom ∧ bits r 228 224 = n.prio ∧
      bits r 231 229 = n.gang ∧ bits r 232 232 = b2n n.matrix ∧ bits r 127 64 = bits r0 127 64 ∧
      bits r 236 234 = if n.keys.any (· ≠ 0) then 1 else 2)

/-- R112-R115: leaving a slot for good, for a time, or for a condition. -/
def Obligations.RetireAndSuspensionsLeaveTheSlot : Prop :=
  (∀ s a b, let i := Instr.retire a b
    let ea := readS s i 1 a
    (∀ sl, s.cur = some sl → sl.gangInfo ≠ none → Traps i s (protOf 0x012)) ∧
    (lone s → ea ≠ 0 → ∀ t, checkAccess s .atomic false ea.toNat 8 8 = some t → Traps i s t) ∧
    (lone s → (ea = 0 ∨ checkAccess s .atomic false ea.toNat 8 8 = none) → writesGood s → ¬ resultsIn s → Waits i s .drain) ∧
    (lone s → (ea = 0 ∨ checkAccess s .atomic false ea.toNat 8 8 = none) → writesGood s → resultsIn s →
      s.cur.isSome = true →
      (unitDone s → ∃ t, Acts i s t ∧ t.slot s.issue.core s.issue.slot = none ∧ t.issue.gone = true) ∧
      (¬ unitDone s → Acts i s (thenDoes s (.retire ea (readS s i 2 b)))))) ∧
  (∀ s a sl, s.cur = some sl → let i := Instr.susp a
    let wake := min (s.slotLtime sl + (readS s i 1 a).toNat) (2 ^ 60 - 1)
    (∀ g, sl.gangInfo = some g → g.transient = true → Traps i s (protOf 0x013)) ∧
    ((∀ g, sl.gangInfo = some g → g.transient = false) →
      (unitDone s → Acts i s
        ((s.passPair.writeBack s.issue.core s.issue.slot 4 (9 * 2 ^ 60 + wake) 0 (.timer wake) false).pairGone)) ∧
      (¬ unitDone s → Acts i s (thenDoes s (.away (9 * 2 ^ 60 + wake) (.timer wake)))))) ∧
  (∀ s a b sl, s.cur = some sl → let i := Instr.suspon a b
    let w := readS s i 1 a
    ((∃ g, sl.gangInfo = some g ∧ g.transient = true) ∨ readS s i 2 b ≠ 0 ∨
      w.toNat / 2 ^ 60 ∈ [0, 3, 7, 8, 10, 11, 12, 13, 14, 15] → Traps i s (protOf 0x014)) ∧
    (∀ wt, (∀ g, sl.gangInfo = some g → g.transient = false) → readS s i 2 b = 0 → wakeAllowed s sl w.toNat wt →
      s.issue.core < 1024 →
      (unitDone s → Acts i s ((s.passPair.writeBack s.issue.core s.issue.slot 4 w.toNat 0 wt false).pairGone)) ∧
      (¬ unitDone s → Acts i s (thenDoes s (.away w.toNat wt)))) ∧
    (∀ l, (∀ g, sl.gangInfo = some g → g.transient = false) → readS s i 2 b = 0 → l < 64 → s.issue.core < 1024 →
      w.toNat = 4 * 2 ^ 60 + myCluster s * 2 ^ 40 + l →
      (256 ≤ (s.clus (myCluster s)).regs.length → Waits i s .evFull) ∧
      ((s.clus (myCluster s)).regs.length < 256 →
        let t := s.registerLine (myCluster s) l sl.ctx sl.idx sl.gen
        (unitDone s → Acts i s
          ((t.passPair.writeBack s.issue.core s.issue.slot 4 w.toNat 0 (.line (myCluster s) l none none) false).pairGone)) ∧
        (¬ unitDone s → Acts i s (thenDoes t (.away w.toNat (.line (myCluster s) l none none)))))))

/-- R119-R122, R306, R308: arrivals and waits at levels 0 to 7. In a gang the instruction acts once, its results go to every
member (R106, R311), and they are told by `giveGang`. -/
def Obligations.PhasesArriveAndWait : Prop :=
  ∀ s sl, s.cur = some sl →
    let gives := fun (i : Instr) (d : SDst) (v : Word) (t : State) =>
      (sl.gangInfo = none → Acts i s (giveS i d v 0 t)) ∧ (sl.gangInfo ≠ none → Acts i s (giveGang i d v t))
    let c := s.issue.core
    let k := s.issue.slot
    (∀ l : Fin 8, ∀ i ∈ [(Instr.phase l, 0x015), (Instr.parrive .z l, 0x016)],
      (levelDom s l.val = 0 → Traps i.1 s (protOf i.2)) ∧
      (levelDom s l.val ≠ 0 → ∀ t, s.domHole sl.ctx (levelDom s l.val) = some t → Traps i.1 s t) ∧
      (levelDom s l.val ≠ 0 → s.domHole sl.ctx (levelDom s l.val) = none → s.domBad sl.ctx (levelDom s l.val) l.val = true →
        Traps i.1 s (protOf i.2))) ∧
    (∀ l : Fin 8, 1 ≤ l.val → arrivable s sl l.val → writesGood s →
      let p : Half := BitVec.ofNat 32 (openOf (s.domain sl.ctx (levelDom s l.val)))
      WaitsFor (.phase l) s ((s.release c k).arrive sl.ctx (levelDom s l.val) 1) l.val p) ∧
    (arrivable s sl 0 → writesGood s →
      let want : Half := sl.phase0 + 1 - sl.csrs.lead.setWidth 32
      let t := s.release c k
      let free := ∀ m ∈ t.neighbourCounts c sl.ctx (levelDom s 0), (m - want).toNat < 2 ^ 31
      (free → Acts (.phase 0) s (t.advance0 c k)) ∧ (¬ free → Acts (.phase 0) s (t.holdPair (.phase0 want) false))) ∧
    (∀ (d : SDst) (l : Fin 8), arrivable s sl l.val → writesGood s →
      gives (.parrive d l) d (nat64 (openOf (s.domain sl.ctx (levelDom s l.val))))
        ((s.release c k).arrive sl.ctx (levelDom s l.val) 1)) ∧
    (∀ l : Fin 8, ∀ i ∈ [Instr.phase l, Instr.parrive .z l], arrivable s sl l.val → ¬ writesGood s → Traps i s ⟨0x28, 2, 0, false⟩) ∧
    (∀ b, ∀ l : Fin 8, let i := Instr.pwait l b
      (levelDom s l.val = 0 → Traps i s (protOf 0x017)) ∧
      (levelDom s l.val ≠ 0 → ∀ t, s.domHole sl.ctx (levelDom s l.val) = some t → Traps i s t) ∧
      (levelDom s l.val ≠ 0 → s.domHole sl.ctx (levelDom s l.val) = none → WaitsFor i s s l.val ((readS s i 2 b).setWidth 32))) ∧
    (holds s → ∀ b, ∀ l : Fin 8, let i := Instr.owait l b
      (levelDom s l.val = 0 → Traps i s (protOf 0x026)) ∧
      (levelDom s l.val ≠ 0 → ∀ t, s.domHole sl.ctx (levelDom s l.val) = some t → Traps i s t) ∧
      (levelDom s l.val ≠ 0 → s.domHole sl.ctx (levelDom s l.val) = none → WaitsFor i s s l.val ((readS s i 2 b).setWidth 32))) ∧
    (holds s → ∀ (d : SDst) (l : Fin 8) b, let i := Instr.oarr d l b
      let w := (readS s i 2 b).toNat
      (2 ^ 16 ≤ w → Traps i s ⟨ILLOPND, 5, 0, false⟩) ∧
      (w < 2 ^ 16 → arrivable s sl l.val →
        gives i d (nat64 (openOf (s.domain sl.ctx (levelDom s l.val))))
          (if w = 0 then s else s.arrive sl.ctx (levelDom s l.val) w)))

/-- R295-R298: event lines. -/
def Obligations.EventLinesFireAndWait : Prop :=
  ∀ s, (∀ sl, s.cur = some sl → (s.clus (myCluster s)).holder ≠ some sl.ctx → ∀ l b,
      Traps (.evwait l) s (protOf 0x020) ∧ ((readS s (.evsig l b) 2 b).toNat < 128 → Traps (.evsig l b) s (protOf 0x021))) ∧
    (∀ sl (l : Fin 64), s.cur = some sl → holds s →
      (256 ≤ (s.clus (myCluster s)).regs.length → Waits (.evwait l) s .evFull) ∧
      ((s.clus (myCluster s)).regs.length < 256 → ∃ t, Acts (.evwait l) s t ∧
        (t.clus (myCluster s)).regs = (s.clus (myCluster s)).regs ++ [⟨l.val, sl.ctx, sl.idx, sl.gen⟩] ∧
        t.mem = s.mem ∧ ∀ x, t.slot s.issue.core s.issue.slot = some x → x.regs = sl.regs ∧ ∃ h, x.hold = some h ∧
          h.w = .line (myCluster s) l.val none none)) ∧
    (∀ sl (l : Fin 64) b, s.cur = some sl → holds s → let i := Instr.evsig l b
      let w := (readS s i 2 b).toNat
      let k := if w < 64 then myCluster s else w - 64
      (128 ≤ w → Traps i s ⟨ILLOPND, 5, 0, false⟩) ∧
      (w < 128 → s.holderNow k ≠ some sl.ctx → Traps i s (protOf 0x021)) ∧
      (w < 128 → s.holderNow k = some sl.ctx → ¬ writesGood s → Traps i s ⟨0x28, 2, 0, false⟩) ∧
      (w < 128 → s.holderNow k = some sl.ctx → writesGood s →
        Acts i s ((s.release s.issue.core s.issue.slot).fireLine k l.val))) ∧
    (∀ k l, let t := s.fireLine k l
      sget 0 (t.clus k).counts l = sget 0 (s.clus k).counts l + 1 ∧
      (∀ r ∈ (t.clus k).regs, r.line ≠ l) ∧ (∀ r ∈ (s.clus k).regs, r.line ≠ l → r ∈ (t.clus k).regs) ∧
      (∀ j, j ≠ k → t.clus j = s.clus j) ∧ (∀ c n, t.spadByte c n = s.spadByte c n) ∧ t.mem = s.mem)

/-- R300-R303: barrier groups, for a continuation whose context holds the cluster. In a gang the instruction acts once, and
its result goes to every member (R106, R311). -/
def Obligations.BarrierGroupsFollowTheirMask : Prop :=
  ∀ s sl (g : Fin 16), s.cur = some sl → holds s →
    let k := myCluster s
    let gives := fun (i : Instr) (d : SDst) (v : Word) (t : State) =>
      (sl.gangInfo = none → Acts i s (giveS i d v 0 t)) ∧ (sl.gangInfo ≠ none → Acts i s (giveGang i d v t))
    let x : Group := sget Group.reset (s.clus k).groups g.val
    let b : BitVec 16 := BitVec.ofNat 16 (2 ^ bitOf s.issue.core)
    let r := s.release s.issue.core s.issue.slot
    let put := fun (t : State) (y : Group) => t.modClus k fun c => { c with groups := sset Group.reset c.groups g.val y }
    (∀ d, let i := Instr.barr d g
      (x.arrived &&& b = 0 → x.mask &&& b = 0 → Traps i s (protOf 0x022)) ∧
      (x.arrived &&& b = 0 → x.mask &&& b ≠ 0 → writesGood s →
        (x.arrived ||| b ≠ x.mask →
          gives i d (nat64 x.gen.toNat) (put r { x with arrived := x.arrived ||| b })) ∧
        (x.arrived ||| b = x.mask → x.pend = none → x.held &&& x.mask ≠ x.mask →
          gives i d (nat64 x.gen.toNat) (put r ⟨x.gen + 1, x.mask, x.held &&& x.mask, 0, none⟩)) ∧
        (∀ m, x.arrived ||| b = x.mask → x.pend = some m → x.held &&& m ≠ m →
          gives i d (nat64 x.gen.toNat) (put r ⟨x.gen + 1, m, x.held &&& m, 0, none⟩))) ∧
      (x.arrived &&& b ≠ 0 → x.pend = none → x.mask &&& b ≠ 0 → x.held &&& b = 0 → writesGood s →
        gives i d (nat64 ((x.gen.toNat + 1) % 2 ^ 32)) (put r { x with held := x.held ||| b })) ∧
      (x.arrived &&& b ≠ 0 → x.pend = none → x.mask &&& b ≠ 0 → x.held &&& b ≠ 0 → writesGood s →
        Waits i s (.barrHeld g.val x.gen))) ∧
    (∀ w, let i := Instr.bwait g w
      let want : Half := (readS s i 2 w).setWidth 32 + 1
      ((x.gen - want).toNat < 2 ^ 31 → Acts i s s) ∧
      (¬ (x.gen - want).toNat < 2 ^ 31 → Acts i s (s.holdPair (.group k g.val want) false))) ∧
    (∀ w, let i := Instr.bmask g w
      let m := readS s i 2 w
      (2 ^ 16 ≤ m.toNat → Traps i s ⟨ILLOPND, 5, 0, false⟩) ∧
      (m.toNat < 2 ^ 16 → x.arrived = 0 → x.held = 0 →
        Acts i s (put s { x with mask := m.setWidth 16, pend := none })) ∧
      (m.toNat < 2 ^ 16 → ¬ (x.arrived = 0 ∧ x.held = 0) → Acts i s (put s { x with pend := some (m.setWidth 16) })))

/-- R290-R292, R310, R313-R315, R391: channels, transfer waits and gangs. A lone `gsplit` delivers a free value (the manual
gives none). In a gang `gsplit` acts for every member: in a transient one each goes on under its own record, in a placed
one under a new record, or, when the pool has too few, nothing but the result 0 comes of it. -/
def Obligations.ChannelsAndGangsFollowTheirRules : Prop :=
  ∀ s sl, s.cur = some sl →
    let c := s.issue.core
    (∀ (ch : Fin 4) b, let i := Instr.xwait ch b
      let id : Half := (readS s i 2 b).setWidth 32
      let past := (sget 0 (s.core c).xfdone ch.val - (id + 1)).toNat < 2 ^ 31
      (past → Acts i s s) ∧ (¬ past → Acts i s (s.holdPair (.xfer ch.val id) false))) ∧
    (∀ d (n : Fin 8) b, let i := Instr.chbind d n b
      let w := readS s i 2 b
      let p := 8 + n.val
      let old := (s.core c).binding p
      let me := (s.leaderOf sl).recPa
      let dx := (w.setWidth 8 : Byte).toInt
      let dy := ((w >>> 8).setWidth 8 : Byte).toInt
      let onGrid := 0 ≤ (c % 64 : Int) + dx ∧ (c % 64 : Int) + dx ≤ 63 ∧ 0 ≤ (c / 64 : Int) + dy ∧ (c / 64 : Int) + dy ≤ 15
      (2 ^ 32 ≤ w.toNat ∨ bits w.toNat 30 19 ≠ 0 ∨ (w.getLsbD 31 = true ∧ bits w.toNat 18 0 ≠ 0) →
        Traps i s ⟨ILLOPND, 5, 0, false⟩) ∧
      (w.toNat < 2 ^ 31 → bits w.toNat 30 19 = 0 → ¬ onGrid → Acts i s (giveS i d 1 0 s)) ∧
      (w.toNat < 2 ^ 31 → bits w.toNat 30 19 = 0 → onGrid → old.holder ≠ 0 → old.holder ≠ me →
        Acts i s (giveS i d 2 0 s)) ∧
      (w.toNat < 2 ^ 31 → bits w.toNat 30 19 = 0 → onGrid → (old.holder = 0 ∨ old.holder = me) →
        ∃ t, Acts i s (giveS i d 0 0 t) ∧
          (t.core c).binding p = ⟨me, sl.ctx, old.staged, w.setWidth 8, (w >>> 8).setWidth 8, (w >>> 16).setWidth 3⟩ ∧
          ∀ e q, ¬ (e = c ∧ q = p) → (t.core e).binding q = (s.core e).binding q) ∧
      (w.toNat = 2 ^ 31 → old.holder ≠ 0 → old.holder ≠ me → Acts i s (giveS i d 2 0 s)) ∧
      (w.toNat = 2 ^ 31 → old.holder = 0 → me ≠ 0 → Acts i s (giveS i d 0 0 s)) ∧
      (w.toNat = 2 ^ 31 → old.holder = me → ∃ t, Acts i s (giveS i d 0 0 t) ∧
        (t.core c).binding p = Bind.none ∧ sget [] (t.core c).fifo p = [])) ∧
    (∀ d a b, (∀ size leader, 1 ≤ size → size ≤ 4 → leader < 1024 → readS s (.gfuse d a b) 1 a ≠ shapeWord size leader) →
      Traps (.gfuse d a b) s ⟨ILLOPND, 5, 0, false⟩) ∧
    (∀ d a b size leader, let i := Instr.gfuse d a b
      1 ≤ size → size ≤ 4 → leader < 1024 → c < 1024 → readS s i 1 a = shapeWord size leader →
      (sl.gangInfo ≠ none ∨ sl.gang ≠ 0 → Traps i s (protOf 0x018)) ∧
      (sl.gangInfo = none → sl.gang = 0 →
        let inRect := ∃ j < 2 ^ size, c = leader + j / gangW size * 64 + j % gangW size
        let fits := leader % 64 % 4 % gangW size = 0 ∧ leader / 64 % 4 % gangH size = 0 ∧ inRect ∧ size ≤ s.maxGang sl.ctx
        let mine := fun f : FuseReq => f.core = c ∧ f.leader = leader ∧ f.size = size ∧ f.tag = readS s i 2 b
        (¬ fits → Acts i s (giveS i d 1 0 s)) ∧
        (fits → (∃ f ∈ (s.clus (myCluster s)).fuses, mine f) → Acts i s (giveS i d 3 0 s)) ∧
        (fits → (∀ f ∈ (s.clus (myCluster s)).fuses, ¬ mine f) →
          let req : FuseReq := ⟨c, s.issue.slot, sl.ctx, leader, size, readS s i 2 b, s.now⟩
          Acts i s ((s.modClus (myCluster s) fun x => { x with fuses := x.fuses ++ [req] }).holdPair
            (.fuse leader size (readS s i 2 b) d) false)))) ∧
    (∀ d, sl.gangInfo = none →
      Acts (.gsplit d) s (giveS (.gsplit d) d (Config.loneSplit s.freeCtr) 0 { s with freeCtr := s.freeCtr + 1 })) ∧
    (∀ d g, sl.gangInfo = some g → ∃ t, Acts (.gsplit d) s t ∧
      ∀ m ∈ g.members, ∀ x, s.slot m.1 m.2 = some x → ∃ y, t.slot m.1 m.2 = some y ∧ y.regs = x.regs ∧
        (g.transient = true → y.gangInfo = none ∧ y.idx = x.idx ∧ y.gen = x.gen) ∧
        (g.transient = false → g.members.length ≤ bits (s.pool sl.ctx) 95 64 → y.gangInfo = none ∧ y.gang = 0) ∧
        (g.transient = false → bits (s.pool sl.ctx) 95 64 < g.members.length → y.gangInfo = x.gangInfo ∧ y.idx = x.idx) ∧
        ∃ p ∈ y.pending, p.dst = d.reg ∧ p.val =
          if g.transient = true ∨ g.members.length ≤ bits (s.pool sl.ctx) 95 64 then
            (nat64 (y.gen.toNat * 2 ^ 32 + y.idx)).setWidth 2048 else 0)

/-! ## Vector instructions (R190-R209) -/

namespace Sys2Proof.Claims
open Sys2Proof.Machine

/-- R191: the tag of the first of these operands that names a register or a latch. -/
def typeOf (s : State) (l : List VSrc) : Option Tag := (l.find? VSrc.named).bind (tagOf s)

/-- The integer tags 1-8 (Table Formats-1); the odd ones are signed. -/
def integerTag (t : Tag) : Prop := 1 ≤ t.toNat ∧ t.toNat ≤ 8
def signedTag (t : Tag) : Bool := decide (t.toNat ≤ 8) && decide (t.toNat % 2 = 1)
/-- f64, f32, f16 and bf16. -/
def floatingTag (t : Tag) : Prop := 9 ≤ t.toNat ∧ t.toNat ≤ 12

/-- R148: the format tags that are assigned; any other traps TAGFAULT (R192). -/
def validTag (t : Tag) : Prop := t.toNat ≤ 16 ∨ 29 ≤ t.toNat

/-- R192: x satisfies the check "= t"; z and lit satisfy every check, lane the integer ones. -/
def carries (s : State) (x : VSrc) (t : Tag) : Prop :=
  if Sys2Proof.Machine.VSrc.named x then tagOf s x = some t else x = VSrc.lane → integerTag t

/-- lane stands for natural indices of the operation's width (R28). -/
def naturalTag (t : Tag) : Tag := if widthOfTag t = 64 then 8 else if widthOfTag t = 32 then 6 else 4

/-- x may stand where an integer tag of width e is asked for. -/
def carriesWidth (s : State) (x : VSrc) (e : Nat) : Prop :=
  if Sys2Proof.Machine.VSrc.named x then ∃ g, tagOf s x = some g ∧ integerTag g ∧ widthOfTag g = e else True

/-- An operand read as elements of t (R26-R28). -/
def readAt (s : State) (t : Tag) (x : VSrc) : Vec := readV s (widthOfTag t) (t = 9) x

/-- Mask mode (R193): element k of the result is f k where the predicate enables it; nothing else is written, and the flags
are those of the enabled elements. -/
def GivesElements (i : Instr) (d : VDst) (e : Nat) (tag : Tag) (f : Nat → Nat × Byte) (s : State) : Prop :=
  ∃ (v m : Vec) (fl : Byte),
    (∀ k < 2048 / e, enabled s e k = true → elem v e k = (f k).1 % 2 ^ e) ∧
    (∀ k < 2048 / e, elem m e k = if enabled s e k then 2 ^ e - 1 else 0) ∧
    (∀ b < 8, fl.getLsbD b = (List.range (2048 / e)).any fun k => enabled s e k && (f k).2.getLsbD b) ∧
    Acts i s (giveV i d v m tag fl s)

/-- Select mode (R193): the whole destination is written, element k with f k. -/
def GivesAll (i : Instr) (d : VDst) (e : Nat) (tag : Tag) (f : Nat → Nat) (s : State) : Prop :=
  ∃ v : Vec, (∀ k < 2048 / e, elem v e k = f k) ∧ Acts i s (giveV i d v (BitVec.allOnes 2048) tag 0 s)

/-- R127: a predicate written at width e, the bits of enabled elements only. -/
def GivesPredicate (i : Instr) (d : PReg) (e : Nat) (f : Nat → Bool × Byte) (s : State) : Prop :=
  ∃ (v m : Pred) (fl : Byte),
    (∀ k < 128, v.getLsbD k = if e = 8 then (f (2 * k)).1 && (f (2 * k + 1)).1 else (f (16 * k / e)).1) ∧
    (∀ k < 128, m.getLsbD k = enabled s e (16 * k / e)) ∧
    (∀ b < 8, fl.getLsbD b = (List.range (2048 / e)).any fun k => enabled s e k && (f k).2.getLsbD b) ∧
    Acts i s (giveP i d v m fl s)

/-- The trap of a wrong operation type: its field, the tag found, and no one tag required (R192). -/
def wrongType (l : List VSrc) (t : Tag) : Trap := trapInfo TAGFAULT ((if Sys2Proof.Machine.VSrc.named (l.getD 0 .z) then 1 else
  if Sys2Proof.Machine.VSrc.named (l.getD 1 .z) then 2 else 0) + t.toNat * 256)
/-- The trap of operand f, tagged g where t was asked for. -/
def wrongTag (f : Nat) (g t : Tag) : Trap := trapInfo TAGFAULT (f + g.toNat * 256 + t.toNat * 65536)

/-- Table Vector-4, B checked against t: by signedness and width, the element result. -/
def integerRows : List ((VDst → VSrc → VSrc → Instr) × (Bool → Nat → Nat → Nat → Nat)) :=
  [(.vadd, fun _ e a b => (a + b) % 2 ^ e), (.vsub, fun _ e a b => (((a : Int) - b) % 2 ^ e).toNat),
   (.vmul, fun _ e a b => a * b % 2 ^ e),
   (.vmulh, fun sg e a b => if sg then (toSigned e a * toSigned e b / 2 ^ e % 2 ^ e).toNat else a * b / 2 ^ e),
   (.vmin, fun sg e a b => if (if sg then decide (toSigned e a ≤ toSigned e b) else decide (a ≤ b)) then a else b),
   (.vmax, fun sg e a b => if (if sg then decide (toSigned e a ≤ toSigned e b) else decide (a ≤ b)) then b else a)]

def logicRows : List ((VDst → VSrc → VSrc → Instr) × (Nat → Nat → Nat)) :=
  [(.vand, fun a b => a &&& b), (.vor, fun a b => a ||| b), (.vxor, fun a b => a ^^^ b)]

def shiftRows : List ((VDst → VSrc → VSrc → Instr) × (Nat → Nat → Nat → Nat)) :=
  [(.vshl, fun e a k => a * 2 ^ k % 2 ^ e), (.vshr, fun _ a k => a / 2 ^ k),
   (.vsar, fun e a k => (toSigned e a / 2 ^ k % 2 ^ e).toNat)]

def unaryElementRows : List ((VDst → VSrc → Instr) × (Bool → Nat → Nat → Nat)) :=
  [(.vabs, fun sg e a => if sg then (toSigned e a).natAbs % 2 ^ e else a),
   (.vpopc, fun _ e a => (List.range e).countP fun k => a.testBit k)]

def elementCompares : List ((PReg → VSrc → VSrc → Instr) × (Bool → Nat → Nat → Nat → Bool)) :=
  [(.vcmpEq, fun _ _ a b => decide (a = b)), (.vcmpNe, fun _ _ a b => decide (a ≠ b)),
   (.vcmpLt, fun sg e a b => if sg then decide (toSigned e a < toSigned e b) else decide (a < b)),
   (.vcmpGe, fun sg e a b => if sg then decide (toSigned e b ≤ toSigned e a) else decide (b ≤ a))]

/-- R196: the sum of g products of width e into a 32-bit element. -/
def dotSum (sg : Bool) (e : Nat) (va vb : Vec) (d k : Nat) : Int :=
  d + ((List.range (32 / e)).map fun j =>
    let a := elem va e (32 / e * k + j)
    let b := elem vb e (32 / e * k + j)
    if sg then toSigned e a * toSigned e b else (a * b : Int)).sum

/-- The formats of the floating instructions. -/
def floatFormat (t : Tag) : Fmt := if t = 9 then F64 else if t = 10 then F32 else if t = 11 then F16 else BF16

/-- Rounding mode and FTZ of the slot whose pair issues (FCTL). -/
def modeOf (s : State) : Nat := match s.cur with | some sl => sl.csrs.fctl.toNat % 4 | none => 0
def flushing (s : State) : Bool := match s.cur with | some sl => sl.csrs.fctl.getLsbD 2 | none => false

/-- Table Vector-5 and R201: the binary floating instructions, each the exact operation rounded once (R159). -/
def floatRows : List ((VDst → VSrc → VSrc → Instr) × (Fmt → Nat → Bool → Nat → Nat → Nat × Byte)) :=
  [(.fadd, fun F rm z a b => (addX rm (F.val z a) (F.val z b)).finish F rm z),
   (.fsub, fun F rm z a b => (addX rm (F.val z a) (F.val z b).neg).finish F rm z),
   (.fmul, fun F rm z a b => (mulX (F.val z a) (F.val z b)).finish F rm z),
   (.fdiv, fun F rm z a b => (divX (F.val z a) (F.val z b)).finish F rm z),
   (.fmin, fun F _ z a b => F.minmax false z a b), (.fmax, fun F _ z a b => F.minmax true z a b)]

def accumulateRows : List ((VDst → VSrc → VSrc → Instr) × (Bool × Bool)) :=
  [(.fma, (false, false)), (.fms, (false, true)), (.fnma, (true, true)), (.fnms, (true, false))]

def floatUnaryRows : List ((VDst → VSrc → Instr) × (Fmt → Nat → Bool → Nat → Nat × Byte)) :=
  [(.fabs, fun F _ z a => F.signOp true z a), (.fneg, fun F _ z a => F.signOp false z a),
   (.fsqrt, fun F rm z a => (sqrtX (F.val z a)).finish F rm z), (.frcp, fun F rm z a => (rcpX (F.val z a)).finish F rm z),
   (.frsq, fun F rm z a => (rsqX (F.val z a)).finish F rm z), (.fexp2, fun F rm z a => (exp2X (F.val z a)).finish F rm z),
   (.flog2, fun F rm z a => (log2X (F.val z a)).finish F rm z)]

/-- R203: what each compare says of two values, and the flags it sets. -/
def floatCompares : List ((PReg → VSrc → VSrc → Instr) × (FVal → FVal → Bool) × (FVal → FVal → Byte)) :=
  [(.fcmpEq, (fun a b => !a.isNan && !b.isNan && !ltV a b && !ltV b a), fun a b => snan a ||| snan b),
   (.fcmpLt, (fun a b => !a.isNan && !b.isNan && ltV a b), fun a b => if a.isNan || b.isNan then fNV else 0),
   (.fcmpLe, (fun a b => !a.isNan && !b.isNan && !ltV b a), fun a b => if a.isNan || b.isNan then fNV else 0),
   (.fcmpUn, (fun a b => a.isNan || b.isNan), fun a b => snan a ||| snan b)]

end Sys2Proof.Claims

/-- R192, R193, R195-R198. -/
def Obligations.IntegerVectorResultsFollowTable : Prop :=
  (∀ r ∈ integerRows, ∀ s d a b t, typeOf s [a, b] = some t → let e := widthOfTag t
    (integerTag t → carries s b t → GivesElements (r.1 d a b) d e t
      (fun k => (r.2 (signedTag t) e (elem (readAt s t a) e k) (elem (readAt s t b) e k), 0)) s) ∧
    (¬ integerTag t → Traps (r.1 d a b) s (wrongType [a, b] t)) ∧
    (∀ g, integerTag t → tagOf s b = some g → g ≠ t → Traps (r.1 d a b) s (wrongTag 2 g t))) ∧
  (∀ r ∈ logicRows, ∀ s d a b t, typeOf s [a, b] = some t → let e := widthOfTag t
    (validTag t → GivesElements (r.1 d a b) d e t
      (fun k => (r.2 (elem (readAt s t a) e k) (elem (readAt s t b) e k), 0)) s) ∧
    (¬ validTag t → Traps (r.1 d a b) s (wrongType [a, b] t))) ∧
  (∀ r ∈ shiftRows, ∀ s d a b t, typeOf s [a, b] = some t → let e := widthOfTag t
    (integerTag t → carriesWidth s b e → GivesElements (r.1 d a b) d e t
      (fun k => (r.2 e (elem (readAt s t a) e k) (elem (readAt s t b) e k), 0)) s) ∧
    (¬ integerTag t → Traps (r.1 d a b) s (wrongType [a, b] t)) ∧
    (∀ g, integerTag t → tagOf s b = some g → ¬ (integerTag g ∧ widthOfTag g = e) → Traps (r.1 d a b) s (wrongTag 2 g 0))) ∧
  (∀ r ∈ unaryElementRows, ∀ s d a t, typeOf s [a] = some t → let e := widthOfTag t
    (integerTag t → GivesElements (r.1 d a) d e t (fun k => (r.2 (signedTag t) e (elem (readAt s t a) e k), 0)) s) ∧
    (¬ integerTag t → Traps (r.1 d a) s (wrongType [a] t))) ∧
  (∀ s d a b t, typeOf s [a, b, d.src] = some t → let e := widthOfTag t
    (integerTag t → carries s b t → carries s d.src t → GivesElements (.vmad d a b) d e t
      (fun k => ((elem (readAt s t d.src) e k + elem (readAt s t a) e k * elem (readAt s t b) e k) % 2 ^ e, 0)) s) ∧
    (¬ integerTag t → Traps (.vmad d a b) s (wrongType [a, b, d.src] t)) ∧
    (∀ g, integerTag t → tagOf s d.src = some g → g ≠ t → Traps (.vmad d a b) s (wrongTag 0 g t))) ∧
  (∀ s d a b t, typeOf s [a, b, d.src] = some t → let e := widthOfTag t
    let u : Tag := if signedTag t then 5 else 6
    (1 ≤ t.toNat → t.toNat ≤ 4 → carries s b t → carries s d.src u → GivesElements (.vdot d a b) d 32 u
      (fun k => ((dotSum (signedTag t) e (readAt s t a) (readAt s t b) (elem (readV s 32 false d.src) 32 k) k % 2 ^ 32).toNat, 0)) s) ∧
    (¬ (1 ≤ t.toNat ∧ t.toNat ≤ 4) → Traps (.vdot d a b) s (wrongType [a, b, d.src] t))) ∧
  (∀ r ∈ elementCompares, ∀ s d a b t, typeOf s [a, b] = some t → let e := widthOfTag t
    (integerTag t → carries s b t → GivesPredicate (r.1 d a b) d e
      (fun k => (r.2 (signedTag t) e (elem (readAt s t a) e k) (elem (readAt s t b) e k), 0)) s) ∧
    (¬ integerTag t → Traps (r.1 d a b) s (wrongType [a, b] t)) ∧
    (∀ g, integerTag t → tagOf s b = some g → g ≠ t → Traps (r.1 d a b) s (wrongTag 2 g t))) ∧
  (∀ s d a b t, typeOf s [a, b] = some t → let e := widthOfTag t
    (validTag t → carries s b t → GivesAll (.vsel d a b) d e t
      (fun k => if enabled s e k then elem (readAt s t a) e k else elem (readAt s t b) e k) s) ∧
    (¬ validTag t → Traps (.vsel d a b) s (wrongType [a, b] t)) ∧
    (∀ g, validTag t → tagOf s b = some g → g ≠ t → Traps (.vsel d a b) s (wrongTag 2 g t)))

/-- R192, R193, R199-R203. -/
def Obligations.FloatingVectorResultsFollowTable : Prop :=
  (∀ r ∈ floatRows, ∀ s d a b t, typeOf s [a, b] = some t → let e := widthOfTag t
    (floatingTag t → carries s a t → carries s b t → GivesElements (r.1 d a b) d e t (fun k =>
      r.2 (floatFormat t) (modeOf s) (flushing s) (elem (readAt s t a) e k) (elem (readAt s t b) e k)) s) ∧
    (¬ floatingTag t → Traps (r.1 d a b) s (wrongType [a, b] t)) ∧
    (floatingTag t → a = .lane → Traps (r.1 d a b) s (wrongTag 1 (naturalTag t) t)) ∧
    (floatingTag t → a ≠ .lane → b = .lane → Traps (r.1 d a b) s (wrongTag 2 (naturalTag t) t)) ∧
    (∀ g, floatingTag t → a ≠ .lane → tagOf s b = some g → g ≠ t → Traps (r.1 d a b) s (wrongTag 2 g t))) ∧
  (∀ r ∈ accumulateRows, ∀ s d a b t, typeOf s [a, b, d.src] = some t → let e := widthOfTag t
    (floatingTag t → carries s a t → carries s b t → carries s d.src t → GivesElements (r.1 d a b) d e t (fun k =>
      let F := floatFormat t
      let v := fun x => F.val (flushing s) (elem (readAt s t x) e k)
      (fmaX (modeOf s) r.2.1 r.2.2 (v a) (v b) (v d.src)).finish F (modeOf s) (flushing s)) s) ∧
    (¬ floatingTag t → Traps (r.1 d a b) s (wrongType [a, b, d.src] t)) ∧
    (floatingTag t → carries s d.src t → a = .lane → Traps (r.1 d a b) s (wrongTag 1 (naturalTag t) t)) ∧
    (floatingTag t → carries s d.src t → a ≠ .lane → b = .lane → Traps (r.1 d a b) s (wrongTag 2 (naturalTag t) t)) ∧
    (∀ g, floatingTag t → tagOf s d.src = some g → g ≠ t → Traps (r.1 d a b) s (wrongTag 0 g t))) ∧
  (∀ r ∈ floatUnaryRows, ∀ s d a t, typeOf s [a] = some t → let e := widthOfTag t
    (floatingTag t → GivesElements (r.1 d a) d e t (fun k =>
      r.2 (floatFormat t) (modeOf s) (flushing s) (elem (readAt s t a) e k)) s) ∧
    (¬ floatingTag t → Traps (r.1 d a) s (wrongType [a] t))) ∧
  (∀ s d a t, typeOf s [a] = some t → let e := widthOfTag t
    (floatingTag t → GivesElements (.fclass d a) d e (if e = 64 then 8 else if e = 32 then 6 else 4) (fun k =>
      ((floatFormat t).fclass (elem (readAt s t a) e k), 0)) s) ∧
    (¬ floatingTag t → Traps (.fclass d a) s (wrongType [a] t))) ∧
  (∀ r ∈ floatCompares, ∀ s d a b t, typeOf s [a, b] = some t → let e := widthOfTag t
    (floatingTag t → carries s a t → carries s b t → GivesPredicate (r.1 d a b) d e (fun k =>
      let v := fun x => (floatFormat t).val (flushing s) (elem (readAt s t x) e k)
      (r.2.1 (v a) (v b), r.2.2 (v a) (v b))) s) ∧
    (¬ floatingTag t → Traps (r.1 d a b) s (wrongType [a, b] t)) ∧
    (floatingTag t → a = .lane → Traps (r.1 d a b) s (wrongTag 1 (naturalTag t) t)) ∧
    (floatingTag t → a ≠ .lane → b = .lane → Traps (r.1 d a b) s (wrongTag 2 (naturalTag t) t)) ∧
    (∀ g, floatingTag t → a ≠ .lane → tagOf s b = some g → g ≠ t → Traps (r.1 d a b) s (wrongTag 2 g t)))

namespace Sys2Proof.Claims
open Sys2Proof.Machine

/-- Bits of a value of tag t, e2m1 as 4 (R204). -/
def valueWidth (t : Tag) : Nat := if t.toNat % 16 = 15 then 4 else widthOfTag t
/-- Values that a scaled data register holds (R205). -/
def scaledValues (t : Tag) : Nat := if t.toNat % 16 = 15 then 512 else 256

/-- R204: one destination value of `cvt`, from values of t to values of u. -/
def convertedValue (s : State) (t u : Tag) (part : Nat) (va : Vec) (j : Nat) : Nat × Byte :=
  let ns := 2048 / valueWidth t
  if valueWidth t < valueWidth u then
    convert t.toNat u.toNat (modeOf s) (flushing s) (elem va (valueWidth t) (part * (2048 / valueWidth u) + j))
  else if j / ns = part then convert t.toNat u.toNat (modeOf s) (flushing s) (elem va (valueWidth t) (j % ns))
  else (0, 0)

/-- r of R204: the parts that a conversion between these types has. -/
def conversionParts (t u : Tag) : Nat := max (valueWidth t) (valueWidth u) / min (valueWidth t) (valueWidth u)

/-- Integer to integer, by Table Formats-9: unchanged, or the nearest limit of the range and SAT. -/
def clamped (u : Tag) (v : Int) : Nat × Byte :=
  let n := widthOfTag u
  let lo : Int := if signedTag u then -2 ^ (n - 1) else 0
  let hi : Int := if signedTag u then 2 ^ (n - 1) - 1 else 2 ^ n - 1
  if v < lo then ((lo % 2 ^ n).toNat, fSAT) else if hi < v then ((hi % 2 ^ n).toNat, fSAT) else ((v % 2 ^ n).toNat, 0)

/-- R166: node i of level k of the tree over the live elements: its value, where some element below it is live, and the OR
of the flags of the nodes below it. -/
def treeNode (op : Nat → Nat → Nat × Byte) (leaf : Nat → Option Nat) : Nat → Nat → Option Nat × Byte
  | 0, i => (leaf i, 0)
  | k + 1, i =>
    let l := treeNode op leaf k (2 * i)
    let r := treeNode op leaf k (2 * i + 1)
    match l.1, r.1 with
    | some x, some y => (some (op x y).1, l.2 ||| r.2 ||| (op x y).2)
    | none, some y => (some y, l.2 ||| r.2)
    | x, none => (x, l.2 ||| r.2)

/-- Levels of the tree over the elements of width e. -/
def treeLevels (e : Nat) : Nat := if e = 8 then 8 else if e = 16 then 7 else if e = 32 then 6 else 5

/-- R208 and Table Formats-10: the operation and the identity of each integer reduction, by signedness and width. -/
def reductionRows : List ((SDst → VSrc → Instr) × (Bool → Nat → Nat → Nat → Nat) × (Bool → Nat → Nat)) :=
  [(.vredAdd, (fun _ e a b => (a + b) % 2 ^ e), fun _ _ => 0),
   (.vredMin, (fun sg e a b => if (if sg then decide (toSigned e a ≤ toSigned e b) else decide (a ≤ b)) then a else b),
    fun sg e => if sg then 2 ^ (e - 1) - 1 else 2 ^ e - 1),
   (.vredMax, (fun sg e a b => if (if sg then decide (toSigned e a ≤ toSigned e b) else decide (a ≤ b)) then b else a),
    fun sg e => if sg then 2 ^ (e - 1) else 0)]

def bitReductionRows : List ((SDst → VSrc → Instr) × (Nat → Nat → Nat) × (Nat → Nat)) :=
  [(.vredAnd, (fun a b => a &&& b), fun e => 2 ^ e - 1), (.vredOr, (fun a b => a ||| b), fun _ => 0)]

def floatReductionRows : List ((SDst → VSrc → Instr) × (Fmt → Nat → Bool → Nat → Nat → Nat × Byte) × (Fmt → Nat)) :=
  [(.fredAdd, (fun F rm z a b => (addX rm (F.val z a) (F.val z b)).finish F rm z), fun _ => 0),
   (.fredMin, (fun F _ z a b => F.minmax false z a b), fun F => F.infCode),
   (.fredMax, (fun F _ z a b => F.minmax true z a b), fun F => 2 ^ (F.e + F.f) + F.infCode)]

/-- The result of an integer reduction in sD (R208). -/
def placed (t : Tag) (x : Nat) : Word := if signedTag t then sext64 (widthOfTag t) x else nat64 x

/-- The elements of A that take part. -/
def liveElement (s : State) (e : Nat) (va : Vec) (k : Nat) : Option Nat := if enabled s e k then some (elem va e k) else none

/-- Table Vector-7, scalar B, mask mode: by count, B and the elements of A. -/
def permuteRows : List ((VDst → VSrc → SSrc → Instr) × (Nat → Nat → (Nat → Nat) → Nat → Nat)) :=
  [(.vbcast, fun n k x _ => x (k % n)), (.vslideUp, fun _ k x i => if k ≤ i then x (i - k) else 0),
   (.vslideDn, fun n k x i => if i + k < n then x (i + k) else 0)]

/-- The rational number that (−1)^neg × m × 2^x is. -/
def rational (neg : Bool) (m : Nat) (x : Int) : Rat := (if neg then -1 else 1) * m * 2 ^ x
/-- The magnitude of a rational number. -/
def mag (q : Rat) : Rat := if q < 0 then -q else q

end Sys2Proof.Claims

/-- R194, R204-R206, R209. What is read of Table Formats-9 for single values is `convert`; its integer rows and its NaN and
infinity columns follow. -/
def Obligations.ConversionsAndTagsFollowRules : Prop :=
  (∀ s d a b t, typeOf s [a] = some t → let c := (readS s (.cvt d a b) 2 b).toNat
    let u : Tag := BitVec.ofNat 5 c
    let part := c / 32 % 16
    let w := max 8 (valueWidth u)
    let good := c < 512 ∧ 1 ≤ u.toNat ∧ u.toNat ≤ 15 ∧ part < conversionParts t u
    let on := fun j => enabled s w (j * valueWidth u / w)
    let value := fun j => convertedValue s t u part (readAt s t a) j
    (1 ≤ t.toNat → t.toNat ≤ 15 →
      (good → ∃ (v m : Vec) (fl : Byte),
        (∀ j < 2048 / valueWidth u, on j = true → elem v (valueWidth u) j = (value j).1 % 2 ^ valueWidth u) ∧
        (∀ k < 2048 / w, elem m w k = if enabled s w k then 2 ^ w - 1 else 0) ∧
        (∀ x < 8, fl.getLsbD x = (List.range (2048 / valueWidth u)).any fun j => on j && (value j).2.getLsbD x) ∧
        Acts (.cvt d a b) s (giveV (.cvt d a b) d v m u fl s)) ∧
      (¬ good → Traps (.cvt d a b) s (trapInfo ILLOPND 5))) ∧
    (c < 512 → 1 ≤ u.toNat → u.toNat ≤ 15 → part = 0 → ¬ (1 ≤ t.toNat ∧ t.toNat ≤ 15) →
      Traps (.cvt d a b) s (wrongType [a] t))) ∧
  (∀ s d a b t, typeOf s [a] = some t → let c := (readS s (.cvtq d a b) 2 b).toNat
    let u : Tag := BitVec.ofNat 5 c
    let part := c / 32 % 16
    let ns := 2048 / widthOfTag t
    let good := c < 512 ∧ 29 ≤ u.toNat ∧ part < scaledValues u / ns
    let block := fun x => quantBlock t.toNat u.toNat ((List.range 8).map fun k => elem (readAt s t a) (widthOfTag t) (8 * x + k))
    (10 ≤ t.toNat → t.toNat ≤ 12 →
      (good → ∃ (v sc : Vec) (fl : Byte),
        (∀ j < scaledValues u, elem v (valueWidth u) j =
          if part * ns ≤ j ∧ j < (part + 1) * ns then ((block ((j - part * ns) / 8)).2.1.getD (j % 8) 0) % 2 ^ valueWidth u else 0) ∧
        (∀ x < 256, elem sc 8 x =
          if part * ns / 8 ≤ x ∧ x < (part + 1) * ns / 8 then (block (x - part * ns / 8)).1 % 256 else 0) ∧
        (∀ x < 8, fl.getLsbD x = (List.range (ns / 8)).any fun y => (block y).2.2.getLsbD x) ∧
        Acts (.cvtq d a b) s ((giveV (.cvtq d a b) d.lo v (BitVec.allOnes 2048) u fl s).modCur fun sl => sl.oweMore 1
          { pendingOf s (.cvtq d a b) with dst := d.hi.reg, val := sc, tag := 16, mask := BitVec.allOnes 2048 })) ∧
      (¬ good → Traps (.cvtq d a b) s (trapInfo ILLOPND 5))) ∧
    (good → ¬ (10 ≤ t.toNat ∧ t.toNat ≤ 12) → Traps (.cvtq d a b) s (wrongType [a] t))) ∧
  (∀ s d a b t, typeOf s [a.lo.src] = some t → let c := (readS s (.cvtdq d a b) 2 b).toNat
    let u : Tag := BitVec.ofNat 5 c
    let part := c / 32 % 16
    let nd := 2048 / widthOfTag u
    let good := c < 512 ∧ 9 ≤ u.toNat ∧ u.toNat ≤ 12 ∧ part < scaledValues t / nd
    let va := readV s 8 false a.lo.src
    let vm := readV s 8 false a.hi.src
    (29 ≤ t.toNat → tagOf s a.hi.src = some 16 →
      (good → GivesElements (.cvtdq d a b) d (widthOfTag u) u (fun j =>
        dequant t.toNat u.toNat (modeOf s) (elem va (valueWidth t) (part * nd + j)) (elem vm 8 ((part * nd + j) / 8))) s) ∧
      (¬ good → Traps (.cvtdq d a b) s (trapInfo ILLOPND 5))) ∧
    (good → ¬ (29 ≤ t.toNat) → Traps (.cvtdq d a b) s (wrongType [a.lo.src] t)) ∧
    (∀ g, good → 29 ≤ t.toNat → tagOf s a.hi.src = some g → g ≠ 16 → Traps (.cvtdq d a b) s (wrongTag 1 g 16))) ∧
  (∀ s d a b, let c := (readS s (.vtag d a b) 2 b).toNat
    ((c < 32 ∧ (c ≤ 16 ∨ 29 ≤ c)) → Acts (.vtag d a b) s
      (giveV (.vtag d a b) d (readV s 32 false a) (BitVec.allOnes 2048) (BitVec.ofNat 5 c) 0 s)) ∧
    (¬ (c < 32 ∧ (c ≤ 16 ∨ 29 ≤ c)) → Traps (.vtag d a b) s (trapInfo ILLOPND 5))) ∧
  (∀ s d a t, typeOf s [a] = some t →
    (validTag t → Acts (.vtagq d a) s (if predHolds s then giveS (.vtagq d a) d (nat64 t.toNat) 0 s else s)) ∧
    (¬ validTag t → Traps (.vtagq d a) s (wrongType [a] t))) ∧
  (∀ (t u : Tag) rm z c, integerTag t → integerTag u → convert t.toNat u.toNat rm z c =
    clamped u (if signedTag t then toSigned (widthOfTag t) c else (c % 2 ^ widthOfTag t : Nat))) ∧
  (∀ (t u : Tag) rm z c, 9 ≤ t.toNat → t.toNat ≤ 15 → let v := (fmtOf t.toNat).val z c
    (∀ q, v = .nan q → integerTag u → convert t.toNat u.toNat rm z c = (0, fNV)) ∧
    (∀ q, v = .nan q → 9 ≤ u.toNat → u.toNat ≤ 14 → convert t.toNat u.toNat rm z c = ((fmtOf u.toNat).qnan, if q then fNV else 0)) ∧
    (∀ q, v = .nan q → u.toNat = 15 → t ≠ u → convert t.toNat u.toNat rm z c = (0, fNV)) ∧
    (∀ n, v = .inf n → 9 ≤ u.toNat → u.toNat ≤ 15 → convert t.toNat u.toNat rm z c =
      if u.toNat = 13 ∨ u.toNat = 15 then ((fmtOf u.toNat).sign n + (fmtOf u.toNat).maxCode, fSAT)
      else ((fmtOf u.toNat).inf n, 0)) ∧
    (∀ n, v = .inf n → integerTag u → convert t.toNat u.toNat rm z c = ((clamped u (if n then -2 ^ 70 else 2 ^ 70)).1, fSAT)))

/-- R193, R207. -/
def Obligations.PermutesFollowTable : Prop :=
  (∀ r ∈ permuteRows, ∀ s d a b t, typeOf s [a] = some t → let e := widthOfTag t
    (validTag t → GivesElements (r.1 d a b) d e t (fun i =>
      (r.2 (2048 / e) (readS s (r.1 d a b) 2 b).toNat (elem (readAt s t a) e) i, 0)) s) ∧
    (¬ validTag t → Traps (r.1 d a b) s (wrongType [a] t))) ∧
  (∀ s d a b t, typeOf s [a, b] = some t → let e := widthOfTag t
    (validTag t → carriesWidth s b e → GivesElements (.vshuf d a b) d e t (fun i =>
      (elem (readAt s t a) e (elem (readAt s t b) e i % (2048 / e)), 0)) s) ∧
    (¬ validTag t → Traps (.vshuf d a b) s (wrongType [a, b] t)) ∧
    (∀ g, validTag t → tagOf s b = some g → ¬ (integerTag g ∧ widthOfTag g = e) → Traps (.vshuf d a b) s (wrongTag 2 g 0))) ∧
  (∀ s d a b t, typeOf s [a] = some t → let e := widthOfTag t
    let x := elem (readAt s t a) e ((readS s (.vext d a b) 2 b).toNat % (2048 / e))
    (validTag t → Acts (.vext d a b) s (if predHolds s then giveS (.vext d a b) d (placed t x) 0 s else s)) ∧
    (¬ validTag t → Traps (.vext d a b) s (wrongType [a] t))) ∧
  (∀ s d a b t, typeOf s [a] = some t → let e := widthOfTag t
    (validTag t → GivesAll (.vins d a b) d e t (fun k => if enabled s e k then (readS s (.vins d a b) 2 b).toNat % 2 ^ e
      else elem (readAt s t a) e k) s) ∧
    (¬ validTag t → Traps (.vins d a b) s (wrongType [a] t))) ∧
  (∀ s d a t, typeOf s [a] = some t → let e := widthOfTag t
    let live := ((List.range (2048 / e)).filter (enabled s e)).map (elem (readAt s t a) e)
    (validTag t → GivesAll (.vcmpr d a) d e t (fun k => live.getD k 0) s) ∧
    (¬ validTag t → Traps (.vcmpr d a) s (wrongType [a] t))) ∧
  (∀ s d a b, let x := (readS s (.vlane d a b) 1 a).toNat
    let y := (readS s (.vlane d a b) 2 b).toNat
    GivesElements (.vlane d a b) d 32 6 (fun i => ((x + i * y) % 2 ^ 32, 0)) s)

/-- R166, R167, R208. That an element which alone takes part is read under FTZ, and answers the canonical NaN if it is one,
is the model's reading (log 52). -/
def Obligations.ReductionsFoldTheFixedTree : Prop :=
  (∀ r ∈ reductionRows, ∀ s d a t, typeOf s [a] = some t → let e := widthOfTag t
    let root := treeNode (fun x y => (r.2.1 (signedTag t) e x y, 0)) (liveElement s e (readAt s t a)) (treeLevels e) 0
    (integerTag t → Acts (r.1 d a) s (giveS (r.1 d a) d (placed t (root.1.getD (r.2.2 (signedTag t) e))) 0 s)) ∧
    (¬ integerTag t → Traps (r.1 d a) s (wrongType [a] t))) ∧
  (∀ r ∈ bitReductionRows, ∀ s d a t, typeOf s [a] = some t → let e := widthOfTag t
    let root := treeNode (fun x y => (r.2.1 x y, 0)) (liveElement s e (readAt s t a)) (treeLevels e) 0
    (t.toNat ≤ 8 → Acts (r.1 d a) s (giveS (r.1 d a) d (placed t (root.1.getD (r.2.2 e))) 0 s)) ∧
    (¬ t.toNat ≤ 8 → Traps (r.1 d a) s (wrongType [a] t))) ∧
  (∀ r ∈ floatReductionRows, ∀ s d a t, typeOf s [a] = some t → let e := widthOfTag t
    let F := floatFormat t
    let x := fun k => elem (readAt s t a) e k
    let leaf := fun k => if enabled s e k then some (F.keep (F.val (flushing s) (x k)) (x k)) else none
    let root := treeNode (r.2.1 F (modeOf s) (flushing s)) leaf (treeLevels e) 0
    let c := root.1.getD (r.2.2 F)
    (floatingTag t → ∃ fl : Byte,
      (∀ b < 8, fl.getLsbD b = (root.2.getLsbD b || (List.range (2048 / e)).any fun k =>
        enabled s e k && (snan (F.val (flushing s) (x k))).getLsbD b)) ∧
      Acts (r.1 d a) s (giveS (r.1 d a) d (nat64 (if (F.val false c).isNan then F.qnan else c)) fl s)) ∧
    (¬ floatingTag t → Traps (r.1 d a) s (wrongType [a] t)))

/-- R159, R164: an exact value within the range of a format rounds to the code that the mode asks for, and NX says whether
the result differs from it. -/
def Obligations.RoundingIsCorrect : Prop :=
  ∀ F ∈ [F64, F32, F16, BF16, E4M3, E5M2, E2M1], ∀ (rm : Nat) (neg : Bool) (m : Nat) (x : Int), rm < 4 → m ≠ 0 →
    rational false m x ≤ rational false F.maxN F.maxQ →
    let r := F.round rm false neg m x false
    let y := rational neg m x
    ∃ m' x', F.val false r.1 = .fin neg m' x' ∧
      let v := rational neg m' x'
      (r.2 &&& fNX ≠ 0 ↔ v ≠ y) ∧
      ∀ c n k q, F.val false c = .fin n k q → let w := rational n k q
        (rm = 0 → mag (y - v) ≤ mag (y - w) ∧ (mag (y - v) = mag (y - w) → w ≠ v → r.1 % 2 = 0)) ∧
        (rm = 1 → mag v ≤ mag y ∧ (mag w ≤ mag y → mag w ≤ mag v)) ∧
        (rm = 2 → y ≤ v ∧ (y ≤ w → v ≤ w)) ∧
        (rm = 3 → v ≤ y ∧ (w ≤ y → w ≤ v))

/-! ## The matrix unit (R239-R264) -/

namespace Sys2Proof.Claims
open Sys2Proof.Machine

/-- The core of the pair that issues. -/
def coreOf (s : State) : Core := s.core s.issue.core
/-- R129: the continuation owns the matrix unit. -/
def ownsMatrix (s : State) : Prop := ∃ sl, s.cur = some sl ∧ sl.matrix = true

/-- R242, R246, R247: the descriptor of 32 bytes d is one that K up to kMax admits. -/
def goodDesc (d kMax : Nat) : Prop :=
  bits d 151 144 = 64 ∧ bits d 156 152 ∈ [31, 29, 1, 12] ∧ 1 ≤ bits d 143 128 ∧ bits d 143 128 ≤ kMax ∧
  bits d 63 0 % 16 = 0 ∧ (bits d 156 152 = 31 ∨ bits d 156 152 = 29 → bits d 127 64 % 16 = 0)

/-- In the local window. -/
def isLocal (a : Nat) : Prop := localBase ≤ a ∧ a < localBase + 0x1000000

/-- The bytes of a 32-byte descriptor at an address, and the traps of reading it. -/
def descBytes (s : State) (ea : Nat) : Nat := (s.readVa (issuer s) .load ea 32).1
def descTrap (s : State) (ea : Nat) : Option Trap :=
  match checkAccess s .load false ea 32 32 with
  | some t => some t
  | none => if (s.readVa (issuer s) .load ea 32).2 then some ⟨MCHECK, 2, 0, false⟩ else none

/-- The pair retires n cycles from now with flags fl (R241). -/
def Retires (i : Instr) (s u : State) (n : Nat) (fl : Byte) : Prop := Acts i s (u.retireIn n fl)

/-- The load of a matrix instruction, over these ranges of bytes: where the core's own array serves every byte, the pair
retires n cycles from now; from beyond the core the load is owed and delivered in a time of its own, and n − 4 more cycles
follow it (R265, R139). -/
def Fetches (i : Instr) (s u : State) (ranges : List (Nat × Nat)) (n : Nat) : Prop :=
  ((∀ r ∈ ranges, ∀ x ∈ piecesOf r.1 r.2, ownLag s x.1 = 3) → Retires i s u n 0) ∧
  (¬ (∀ r ∈ ranges, ∀ x ∈ piecesOf r.1 r.2, ownLag s x.1 = 3) → ∀ sl, u.cur = some sl → ∃ t x h, Acts i s t ∧
    t.cur = some x ∧ x.regs = sl.regs ∧ (∃ p, x.pending = sl.pending ++ [p] ∧ p.id = sl.nextId ∧ p.owed = true ∧ p.memRead = true) ∧
    x.hold = some h ∧ h.reissue = false ∧ h.w = .loaded sl.nextId ∧ h.after.head? = some (.delay (n - 4)) ∧
    (∀ c, { t.core c with slots := [] } = { u.core c with slots := [] }) ∧ ∀ j, t.byteAt j = u.byteAt j)

/-- Tile n of core x holds f and the tag; every other tile is as in y. -/
def TileIs (x y : Core) (n : Nat) (tag : Tag) (f : Nat → Nat → Half) : Prop :=
  (∀ i < 64, ∀ j < 64, x.tileElem n i j = f i j) ∧ x.tileTag n = tag ∧
  ∀ m, m ≠ n → x.tileTag m = y.tileTag m ∧ ∀ i < 64, ∀ j < 64, x.tileElem m i j = y.tileElem m i j

/-- Bytes of a block of a line (R243). -/
def lineBytes (fmt : Nat) : Nat := if fmt = 31 then 16 else if fmt = 12 then 64 else 32
def scaled (fmt : Nat) : Prop := fmt = 31 ∨ fmt = 29

/-- Rows of a tile in memory (R259), bytes of a row, bits of an element. -/
def tileRow (ea : Nat) (l : TileLayout) (i : Nat) : Nat := (ea + i * 2 ^ (l.stride.val + 7)) % 2 ^ 64
def rowBytes (l : TileLayout) : Nat := if l.form = 1 then 128 else 256
def elementBits (l : TileLayout) : Nat := if l.form = 1 then 16 else 32

/-- The trap of R130. -/
def notOwner (op : Nat) : Trap := ⟨PROT, 4 + op * 65536, 0, false⟩

/-- The A elements that one `mma` of s8 meets, from the scratchpad, and the B elements of CUR (R243, R253). -/
def s8A (s : State) (a : ADesc) (kofs i k : Nat) : Int :=
  toSigned 8 (s.spadByte s.issue.core (a.addr.toNat - localBase + (kofs + k / 32) * 2048 + i * 32 + k % 32)).toNat
def s8B (b : BTile) (j k : Nat) : Int := toSigned 8 (sget 0 b.data (k / 32 * 2048 + j * 32 + k % 32)).toNat

/-- The range of s32 (R256). -/
def clampS32 (v : Int) : Int := if v < -2 ^ 31 then -2 ^ 31 else if 2 ^ 31 - 1 < v then 2 ^ 31 - 1 else v

end Sys2Proof.Claims

/-- R130, R241: the matrix unit turns away a continuation that does not own it.
R245-R248, R251, R259-R264, for the owner of the unit. The INFO size of an operand outside the local window is a free
value (log 15). -/
def Obligations.MatrixInstructionsActOnTheUnit : Prop :=
  (∀ s, s.cur.isSome = true → ¬ ownsMatrix s →
     (∀ t z, Traps (.mzero t z) s (notOwner 0x1E0)) ∧ (∀ n a, Traps (.mlda n a) s (notOwner 0x1E1)) ∧
     (∀ a, Traps (.mldb a) s (notOwner 0x1E2)) ∧ (∀ c, Traps (.mring c) s (notOwner 0x1E3)) ∧
     (∀ t a p, cwBad (readS s (.mma t a p) 1 a) = false → Traps (.mma t a p) s (notOwner 0x1E4)) ∧
     (∀ n a, (readS s (.mband n a) 1 a).toNat < 65536 → Traps (.mband n a) s (notOwner 0x1E5)) ∧
     (∀ t a l, Traps (.mst t a l) s (notOwner 0x1E6)) ∧ (∀ t a l, Traps (.mldt t a l) s (notOwner 0x1E7)) ∧
     Traps .mfence s (notOwner 0x1E8) ∧ (∀ d, Traps (.mchk d) s (notOwner 0x1E9))) ∧
  (∀ s, ownsMatrix s →
     (∀ (t : Fin 16) z, ∃ u, Retires (.mzero t z) s u 2 0 ∧
       TileIs (coreOf u) (coreOf s) t.val (if z then 5 else 10) (fun _ _ => 0) ∧ u.mem = s.mem) ∧
     (∀ (n : Fin 4) a, let i := Instr.mlda n a
       let ea := (readS s i 1 a).toNat
       let d := descBytes s ea
       (∀ t, descTrap s ea = some t → Traps i s t) ∧
       (descTrap s ea = none → ¬ goodDesc d 65535 → Traps i s (notOwner 0x1E1)) ∧
       (descTrap s ea = none → goodDesc d 65535 → ¬ isLocal (bits d 63 0) →
         Traps i s (memTrap LOCALRANGE .load (bits d 63 0) (Config.operandSize s.freeCtr % 256 + 1))) ∧
       (descTrap s ea = none → goodDesc d 65535 → isLocal (bits d 63 0) → scaled (bits d 156 152) → ¬ isLocal (bits d 127 64) →
         Traps i s (memTrap LOCALRANGE .load (bits d 127 64) (Config.operandSize s.freeCtr % 256 + 1))) ∧
       (descTrap s ea = none → goodDesc d 65535 → isLocal (bits d 63 0) → (scaled (bits d 156 152) → isLocal (bits d 127 64)) →
         nonePosted s ea 32 → ∃ u, Fetches i s u [(ea, 32)] 6 ∧
           sget none (coreOf u).adesc n.val = some { addr := nat64 (bits d 63 0), sbase := nat64 (bits d 127 64), k := bits d 143 128,
                                                     fmt := bits d 156 152, band := BitVec.ofNat 16 (bits d 175 160) } ∧
           (∀ m, m ≠ n.val → sget none (coreOf u).adesc m = sget none (coreOf s).adesc m) ∧
           (coreOf u).tiles = (coreOf s).tiles ∧ (coreOf u).cur = (coreOf s).cur)) ∧
     (∀ a, let i := Instr.mldb a
       let ea := (readS s i 1 a).toNat
       let d := descBytes s ea
       let fmt := bits d 156 152
       let kb := bits d 143 128
       let nb := (kb + 31) / 32
       let data := nb * 64 * lineBytes fmt
       let scales := if fmt = 31 ∨ fmt = 29 then nb * 256 else 0
       (∀ t, descTrap s ea = some t → Traps i s t) ∧
       (descTrap s ea = none → ¬ goodDesc d 256 → Traps i s (notOwner 0x1E2)) ∧
       (∀ t, descTrap s ea = none → goodDesc d 256 → ([rangeLoadFault s (bits d 63 0) data, rangeLoadFault s (bits d 127 64) scales,
         dataPoison s (bits d 63 0) data, dataPoison s (bits d 127 64) scales].findSome? id) = some t → Traps i s t) ∧
       (descTrap s ea = none → goodDesc d 256 → rangeLoadFault s (bits d 63 0) data = none →
         rangeLoadFault s (bits d 127 64) scales = none → dataPoison s (bits d 63 0) data = none →
         dataPoison s (bits d 127 64) scales = none → nonePosted s ea 32 → nonePosted s (bits d 63 0) data →
         nonePosted s (bits d 127 64) scales →
         let rd := fun k => sget 0 (s.loadCells (bits d 63 0) data) k
         ∃ u b, Fetches i s u [(ea, 32), (bits d 63 0, data), (bits d 127 64, scales)]
             ((data + scales + 255) / 256 + 8) ∧ (coreOf u).cur = some b ∧ b.fmt = fmt ∧ b.k = kb ∧
           b.band = BitVec.ofNat 16 (bits d 175 160) ∧ b.scales = s.loadCells (bits d 127 64) scales ∧
           (∀ l < 64, ∀ k < 32 * nb, elemCode (fun x => sget 0 b.data x) fmt l (k / 32) (k % 32) =
             if k < kb then elemCode rd fmt l (k / 32) (k % 32) else 0) ∧
           (coreOf u).tiles = (coreOf s).tiles ∧ (coreOf u).adesc = (coreOf s).adesc)) ∧
     (∀ (n : Fin 5) a, let i := Instr.mband n a
       let v := (readS s i 1 a).toNat
       (65536 ≤ v → Traps i s ⟨ILLOPND, 5, 0, false⟩) ∧
       (v < 65536 → n.val = 4 → (coreOf s).cur = none → Traps i s (notOwner 0x1E5)) ∧
       (v < 65536 → n.val < 4 → sget none (coreOf s).adesc n.val = none → Traps i s (notOwner 0x1E5)) ∧
       (v < 65536 → n.val = 4 → ∀ b, (coreOf s).cur = some b → ∃ u, Retires i s u 2 0 ∧
         (coreOf u).cur = some { b with band := BitVec.ofNat 16 v } ∧ (coreOf u).adesc = (coreOf s).adesc) ∧
       (v < 65536 → n.val < 4 → ∀ x, sget none (coreOf s).adesc n.val = some x → ∃ u, Retires i s u 2 0 ∧
         sget none (coreOf u).adesc n.val = some { x with band := BitVec.ofNat 16 v } ∧
         (∀ m, m ≠ n.val → sget none (coreOf u).adesc m = sget none (coreOf s).adesc m) ∧ (coreOf u).cur = (coreOf s).cur)) ∧
     (∀ c : Fin 5, let i := Instr.mring c
       let nxt := ringSucc (2 ^ c.val) s.issue.core
       ∃ u, Acts i s (u.holdPair .ring false) ∧
         (coreOf u).ring = some ⟨(issuer s).ctx, nxt, (curBytes (coreOf s) + 255) / 256 + 4, s.now, (coreOf s).cur, .waiting⟩ ∧
         (coreOf u).cur = (coreOf s).cur ∧ (∀ n, (u.core n).inb = (s.core n).inb) ∧ u.mem = s.mem) ∧
     (∀ (t : Fin 16) a (l : TileLayout), let i := Instr.mst t a l
       let ea := (readS s i 1 a).toNat
       let tag : Tag := if l.form = 2 then 5 else 10
       let trap := (List.range 64).findSome? fun r => checkAccess s .store false (tileRow ea l r) (rowBytes l) 16
       ((coreOf s).tileTag t.val ≠ tag →
         Traps i s ⟨TAGFAULT, ((coreOf s).tileTag t.val).toNat * 256 + tag.toNat * 65536, 0, false⟩) ∧
       ((coreOf s).tileTag t.val = tag → ∀ x, trap = some x → Traps i s x) ∧
       ((coreOf s).tileTag t.val = tag → trap = none → ∀ x, tilePoison s t.val = some x → Traps i s x) ∧
       ((coreOf s).tileTag t.val = tag → trap = none → tilePoison s t.val = none → (coreOf s).mst ≠ [] → Waits i s .mstBusy) ∧
       ((coreOf s).tileTag t.val = tag → trap = none → tilePoison s t.val = none → (coreOf s).mst = [] →
         ∃ (u : State) (fl : Byte) (v : Nat → Nat),
         Retires i s u 4 fl ∧
         (∀ r < 64, ∀ j < 64, v r / 2 ^ (elementBits l * j) % 2 ^ elementBits l =
           (if l.form = 1 then (convert 10 12 (modeOf s) false ((coreOf s).tileElem t.val r j).toNat).1 % 2 ^ 16
            else ((coreOf s).tileElem t.val r j).toNat)) ∧
         (coreOf u).mst = ((List.range 64).flatMap fun r => granulesOf s (tileRow ea l r) (rowBytes l) (v r)) ∧
         (coreOf u).tiles = (coreOf s).tiles ∧ ∀ j, u.byteAt j = s.byteAt j)) ∧
     (∀ (t : Fin 16) a (l : TileLayout), let i := Instr.mldt t a l
       let ea := (readS s i 1 a).toNat
       let trap := (List.range 64).findSome? fun r => checkAccess s .load false (tileRow ea l r) (rowBytes l) 16
       let row := fun r => (s.readVa (issuer s) .load (tileRow ea l r) (rowBytes l)).1
       (∀ x, trap = some x → Traps i s x) ∧
       (trap = none → (∃ r < 64, (s.readVa (issuer s) .load (tileRow ea l r) (rowBytes l)).2 = true) →
         Traps i s ⟨0x28, 2, 0, false⟩) ∧
       (trap = none → (∀ r < 64, (s.readVa (issuer s) .load (tileRow ea l r) (rowBytes l)).2 = false) →
         (∀ r < 64, nonePosted s (tileRow ea l r) (rowBytes l)) → ∃ u,
         Fetches i s u ((List.range 64).map fun r => (tileRow ea l r, rowBytes l)) (rowBytes l * 64 / 256 + 4) ∧
         TileIs (coreOf u) (coreOf s) t.val (if l.form = 2 then 5 else 10) (fun r j =>
           let x := row r / 2 ^ (elementBits l * j) % 2 ^ elementBits l
           BitVec.ofNat 32 (if l.form = 1 then x * 65536 else x)) ∧ ∀ j, u.byteAt j = s.byteAt j)) ∧
     ((coreOf s).mst ≠ [] → Waits .mfence s .mstBusy) ∧ ((coreOf s).mst = [] → Retires .mfence s s 2 0) ∧
     (∀ d, let i := Instr.mchk d
       let x := coreOf s
       let inb := match x.inb with | .empty => 0 | .filling => 1 | .full _ => 2
       let adv := (List.range 4).foldl (fun n k => n + if (sget none x.adesc k).isSome then 2 ^ k else 0) 0
       let cur := match x.cur with | some t => 1 + t.fmt * 2 ^ 8 + t.k * 2 ^ 16 | none => 0
       ∃ u, Acts i s u ∧ (coreOf u).rpl = 0 ∧
         ∀ sl, s.cur = some sl → u.cur = (giveS i d (nat64 (cur + inb * 4 + adv * 16 + x.rpl.toNat * 2 ^ 32)) 0 s).cur))

/-- R252-R258, for the owner of the unit: the checks, the waits, and the result. Every element is promoted once a group; the
element of an s8 product whose groups are one is T + S clamped. -/
def Obligations.MmaAccumulatesOntoTheTile : Prop :=
  ∀ s (t : Fin 16) a (p : Fin 64), ownsMatrix s → let i := Instr.mma t a p
    let cw := (readS s i 1 a).toNat
    let n := (t.val + bits cw 23 20) % 16
    let x := coreOf s
    let desc := sget none x.adesc (cw % 4)
    let rsz := bits cw 18 16
    let kofs := bits cw 14 4
    let legal := cw < 2 ^ 24 ∧ bits cw 19 19 = 0 ∧ rsz ≤ 4 ∧ bits cw 15 15 = 0 ∧ bits cw 3 2 = 0
    (¬ legal → Traps i s ⟨ILLOPND, 5, 0, false⟩) ∧
    (legal → desc = none ∨ x.cur = none → (∀ d, desc = some d → x.tileTag n = if d.fmt = 1 then 5 else 10) →
      Traps i s (notOwner 0x1E4)) ∧
    (∀ d b, legal → desc = some d → x.cur = some b →
      let tag : Tag := if d.fmt = 1 then 5 else 10
      let nb := (b.k + 31) / 32
      (b.fmt ≠ d.fmt → Traps i s ⟨TAGFAULT, 1 + b.fmt * 256 + d.fmt * 65536, 0, false⟩) ∧
      (b.fmt = d.fmt → x.tileTag n ≠ tag → Traps i s ⟨TAGFAULT, (x.tileTag n).toNat * 256 + tag.toNat * 65536, 0, false⟩) ∧
      (b.fmt = d.fmt → x.tileTag n = tag → d.k < 32 * kofs + b.k → Traps i s (notOwner 0x1E4)) ∧
      (∀ y, b.fmt = d.fmt → x.tileTag n = tag → mmaFault i t.val (readS s i 1 a) s = some y → Traps i s y) ∧
      (b.fmt = d.fmt → x.tileTag n = tag → mmaFault i t.val (readS s i 1 a) s = none →
        (x.matIdle = true → Waits i s .startGrant) ∧
        (x.matIdle = false → swf 0 x.tiles = true → ∃ u tm fl, Retires i s u tm fl ∧
          (rsz ≠ 0 → (coreOf u).ring =
            some ⟨(issuer s).ctx, ringSucc (2 ^ rsz) s.issue.core, (curBytes x + 255) / 256, s.now + tm, some b, .waiting⟩ ∧
            ∀ n, (u.core n).inb = (s.core n).inb) ∧
          (rsz = 0 → (coreOf u).ring = x.ring) ∧
          TileIs (coreOf u) x n (x.tileTag n) (fun r j => (mmaElem (mmaOperands x d b kofs) (p.val + 1) r j (x.tileElem n r j)).1) ∧
          u.mem = s.mem ∧ (coreOf u).cur = x.cur ∧ (coreOf u).adesc = x.adesc ∧
          (d.fmt = 1 → nb ≤ p.val + 1 → 1 ≤ b.k → b.k ≤ 256 → swf 0 x.spad = true → swf 0 b.data = true → ∀ r < 64, ∀ j < 64,
            ((coreOf u).tileElem n r j).toInt =
              clampS32 ((x.tileElem n r j).toInt + ((List.range b.k).map fun k => s8A s d kofs r k * s8B b j k).sum)))))

/-! ## Encodings, the step, and what every step keeps (R12-R22, R36-R42, R130-R137, R295, R385) -/

namespace Sys2Proof.Claims
open Sys2Proof.Machine

/-- Pairs whose words the manual writes out, with what they stand for. -/
def writtenPairs : List (Nat × Nat × Pair) :=
  [-- 01_instruction_word, the three encoded pairs and the `br` example
   (0x39184081, 0x960C3042, .normal 3 true (.ld .d64 (.s 4) (.s 2) 1) (.fma (.v 3) (.v 1) (.v 2)) (some (1, false))),
   (0x8A043105, 0x22, .lone 0 true (.amoAdd .w64 (.ret (.s 3) (.s 4) (.s 5)) (some ⟨.unpaired, .rel, 2⟩)) 0x22),
   (0x840010AB, 0x000186A0, .lone 0 false (.add (.s 1) (.s 2) .lit) 100000),
   (0x0003FFFB, 0x07FC0000, .normal 0 false (.br 0x3FFFB) .nopA none),
   -- 04_task_instructions, `spawn.p12.d2`; Table Scalar-7; the CSR example
   (0x80405187, 0x0000122C, .lone 0 false (.spawn (.s 5) (.s 6) (.s 7) ⟨false, some 2, 0, some 12⟩) 0x122C),
   (0x03980000, 0x0481EA83, .normal 0 false .nopC (.addi (.s 30) .z 3) none),
   (0x03980000, 0x04605AAA, .normal 0 false .nopC (.mov (.s 5) .z) none),
   (0x09184080, 0x04802088, .normal 0 true (.ld .d64 (.s 4) (.s 2) 0) (.addi (.s 2) (.s 2) 8) none),
   (0x0033FFFF, 0x04005144, .normal 0 false (.loop 0x3FFFF) (.add (.s 5) (.s 5) (.s 4)) none),
   (0x00180003, 0x07FC0000, .normal 0 false (.brsLt 3) .nopA none),
   (0x80480AAA, 0, .lone 0 false (.retire .z .z) 0),
   (0x838AB012, 4, .lone 0 false (.csrs 0x012 .lit) 4),
   -- 05_core_state, gap 6; Table Memory-7
   (0x33980000, 0x06084042, .normal 6 false .nopC (.fmul (.v 4) (.v 1) (.v 2)) none),
   (0x0B505187, 0x07FC0000, .normal 0 true (.spalloc (.s 5) (.s 6) (.s 7)) .nopA none),
   (0x09A48240, 0x07FC0000, .normal 0 true (.ldfe64c (.s 8) (.s 9)) .nopA none),
   (0x01B020C0, 0x07FC0000, .normal 0 false (.stfe64 (.s 2) (.s 3) 0) .nopA none)]

/-- Words that no instruction has (R22, R40, R42), with the trap each raises: opcode 0x00D in the C-slot, an A-class word in
the C-slot, a C-class word in the A-slot, operand code 45 in A of `ld.64`, q6 as a source of `add`, and a lone `nop` whose
LIT is not zero. -/
def badPairs : List (Nat × Nat × Reject) :=
  [(0x00340000, 0x07FC0000, .illop false 0x00D), (0x07FC0000, 0x07FC0000, .illpair false),
   (0x03980000, 0x03980000, .illpair true), (0x01184B40, 0x07FC0000, .illopnd false 1),
   (0x03980000, 0x04005D84, .illopnd true 1), (0x83980000, 1, .illopnd false 3)]

/-- The slot's pair issues in this step, from the state r (log 1): by name from the agenda, once no wait ends and no pair has
to wait, or as the first crew that may issue when no other unit of the device has anything to do. -/
def issues (s r : State) (c k : Nat) : Prop :=
  (∃ l : List Move, s.agenda = .issue c k :: l ∧ r = { s with agenda := l } ∧ r.pkg.running = true ∧
    firstOf s [evHold, evStall] = none ∧ ∃ sl, r.slot c k = some sl ∧ r.selected (sl.crew c k) = true ∧ (sl.crew c k).head? = some (c, k)) ∨
  (s.agenda = [] ∧ s.pkg.stopped = false ∧ s.pkg.running = true ∧ firstOf s events = none ∧ s.nextIssue = some (c, k) ∧
    r = s)

/-- The words at the slot's pc, as one number. -/
def fetched (s : State) (c : Nat) (sl : Slot) : Nat := (s.readVa (sl.who c) .fetch sl.pc.toNat 8).1
/-- The pair at the slot's pc. -/
def decodesTo (s : State) (c : Nat) (sl : Slot) (p : Pair) : Prop :=
  decodePair (BitVec.ofNat 32 (fetched s c sl)) (BitVec.ofNat 32 (fetched s c sl / 2 ^ 32)) = .ok p

/-- What follows the slots' effects: pushes, pops, the next pc with gap and W, the core's issue cycle, and what the pair counts
as work (R18, R30, R137, R415); r is the state before the pair. -/
def retired (r : State) (c k : Nat) (sl : Slot) (p : Pair) (t : State) : State :=
  let t := (t.flushPushes).popAll (pairIs p)
  let u := if t.issue.gone then t else t.finishPair c k p t.issue.npc r .seq
  ({ u with issue := Issue.none }).afterIssue r sl c k

/-- R22: where a code of the A-slot alone is illegal, what step 3 finds in the C-slot comes first. -/
def otherSlotTrap (r : State) (w0 : Half) : Option Trap :=
  match decodeSlot w0 none with
  | .ok i => (planOf i).bind fun q => q.step { r with issue := { r.issue with lone := false, aslot := false } } 3
  | .error _ => none

/-- A pair that does not act has no issue of its own left; the cycle is used unless the slot waits to issue it again. -/
def unissued (r : State) (c k : Nat) (sl : Slot) (t : State) : State := ({ t with issue := Issue.none }).afterIssue r sl c k

end Sys2Proof.Claims

/-- R12-R17, R22-R40: no bit of an encoding is dropped. -/
def Obligations.DecodeOfEncodeIsThePair : Prop :=
  ∀ p : Pair, p.wf = true → decodePair (encodePair p).1 (encodePair p).2 = .ok p

/-- Every pair of words that decodes is the encoding of the pair it decodes to, which is well formed. -/
def Obligations.EncodeOfDecodeIsTheWords : Prop :=
  ∀ (w0 w1 : Half) (p : Pair), decodePair w0 w1 = .ok p → p.wf = true ∧ encodePair p = (w0, w1)

/-- The encodings that the manual works out, and some words that trap. -/
def Obligations.WordsOfTheManualDecode : Prop :=
  (∀ r ∈ writtenPairs, decodePair (BitVec.ofNat 32 r.1) (BitVec.ofNat 32 r.2.1) = .ok r.2.2) ∧
  (∀ r ∈ badPairs, decodePair (BitVec.ofNat 32 r.1) (BitVec.ofNat 32 r.2.1) = .error r.2.2)

/-- R12, R17-R22, R30, R136-R141: a step that issues the pair of a slot, a native continuation in no gang, reads the words at
its pc, makes the checks of both slots first, and runs the A-slot's instruction and then the C-slot's by `exec`, or the lone
instruction by `exec`. A pair whose checks trap only traps, and one whose checks wait only waits. -/
def Obligations.StepRunsTheDecodedPair : Prop :=
  ∀ (s r : State) (c k : Nat) (sl : Slot) (p : Pair),
    issues s r c k → r.slot c k = some sl → sl.virt = none → sl.gangInfo = none →
    r.fetchTrap c sl = none → decodesTo r c sl p →
    (match verdict (r.begin c k) (pairPlans (r.begin c k) p) with
     | .trap t aslot => step s = .next (unissued r c k sl ((r.begin c k).trapPair t aslot false))
     | .wait w => step s = .next (unissued r c k sl (r.holdSlot c k w true))
     | .go => match p with
       | .lone _ _ i _ =>
         step s = andThen (exec i { r.begin c k with issue := { (r.begin c k).issue.forC p with checked := true } })
           fun t => .next (retired r c k sl p t)
       | .normal _ _ i a pe =>
         let runA (u : State) := exec a { u with issue := { u.issue.forA i pe with checked := true } }
         let runC (u : State) := exec i { u with issue := { u.issue.forC p with checked := true } }
         step s = if accessFirst i then andThen (runC (r.begin c k)) fun u => andThen (runA u) fun t => .next (retired r c k sl p t)
           else andThen (runA (r.begin c k)) fun u =>
             andThen (runC (if leavesSlot i then u.flushPushes else u)) fun t => .next (retired r c k sl p t))

/-- R22 steps 1-3 and R172: words that do not decode, and a fetch that fails, trap and do nothing else. -/
def Obligations.StepTrapsOnWordsThatDoNotDecode : Prop :=
  ∀ (s r : State) (c k : Nat) (sl : Slot),
    issues s r c k → r.slot c k = some sl → sl.virt = none → sl.gangInfo = none →
    (∀ t, r.fetchTrap c sl = some t →
      step s = .next (unissued r c k sl ((r.begin c k).trapPair t false false))) ∧
    (r.fetchTrap c sl = none →
      let w := fetched r c sl
      ∀ e, decodePair (BitVec.ofNat 32 w) (BitVec.ofNat 32 (w / 2 ^ 32)) = .error e →
        let trap (info : Trap) (aslot : Bool) : Host.Outcome State Fault Refusal :=
          .next (unissued r c k sl ((r.begin c k).trapPair info aslot false))
        match e with
        | .illop aslot op => op < 512 → step s = trap ⟨0x01, op, 0, false⟩ aslot
        | .illpair aslot => step s = trap ⟨0x03, 0, 0, false⟩ aslot
        | .illopnd false field => step s = trap ⟨0x02, field, 0, false⟩ false
        | .illopnd true field =>
          let other := otherSlotTrap (r.begin c k) (BitVec.ofNat 32 w)
          (other = none → step s = trap ⟨0x02, field, 0, false⟩ true) ∧ ∀ t, other = some t → step s = trap t false
        | .noEncoding => step s = trap ⟨0x01, 0, 0, false⟩ false)

/-- Whatever a step does, memory, its persistent part and the line entries stay canonical, from
every state in which they are. -/
def Obligations.StepKeepsMemoryCanonical : Prop :=
  ∀ s t : State, s.canon → step s = .next t → t.canon

/-- The state after reset: R295 (fire counts and registrations), R385 (ids), Table Core-3 (core and die registers), R483
(count of failed starts); memory in canonical form and no pair being issued. -/
def Obligations.ResetLeavesWhatTheManualGives : Prop :=
  State.reset.canon ∧ State.reset.cur = none ∧
  (∀ k l, sget 0 (State.reset.clus k).counts l = (0 : Half) ∧ (State.reset.clus k).regs = []) ∧
  (∀ c n, (State.reset.core c).slots = [] ∧ sget 0 (State.reset.core c).xnext n = (0 : Half) ∧
    sget 0 (State.reset.core c).xfdone n = (0 : Half) ∧ sget 0 (State.reset.core c).gsrc n = (0 : Half) ∧
    (State.reset.core c).inbox = [] ∧ (State.reset.core c).lost = 0 ∧ (State.reset.core c).mreplay = 0 ∧
    (State.reset.core c).spillBase = 0 ∧ (State.reset.core c).dreq = 0) ∧
  (∀ d, (State.reset.die d).trapqBase = 0 ∧ (State.reset.die d).lost = false) ∧
  (∀ x, (State.reset.ctx x).savebase = 0 ∧ (State.reset.ctx x).ptbase = 0) ∧
  State.reset.pkg.failed = 0 ∧ State.reset.pkg.running = true

/-! ## Continuations between their pairs (R22, R55, R63, R66, R67, R84, R124, R139, R417, R430, R431, R481) -/

namespace Sys2Proof.Claims
open Sys2Proof.Machine

/-- The step of the device `i` makes `s` into `t`. -/
def Steps (i : Instr) (s t : State) : Prop := exec i s = .next t
/-- The step of the device `i` takes `s` to a state with P. -/
def StepsTo (i : Instr) (s : State) (P : State → Prop) : Prop := ∃ t, exec i s = .next t ∧ P t

/-- A slot in no gang, and its record. -/
def aloneAt (s : State) (c k : Nat) (sl : Slot) : Prop := s.slot c k = some sl ∧ sl.gangInfo = none

/-- A result that a proxy still works on. -/
def atProxy (s : State) (sl : Slot) (id : Nat) : Bool :=
  s.reqs.any fun q => q.ctx == sl.ctx && q.idx == sl.idx && q.pend == some id

/-- The waits that a close, a flip or a fire ends (R481), with the destination of a load from an event-unit page. -/
def windowed : Wait → Bool
  | .group _ _ _ | .phase _ _ _ | .line _ _ _ _ | .stall (.phase _ _ _) => true
  | _ => false
/-- What the end of a wait delivers: the count of a fired line, for a load (R299). -/
def delivered : Wait → Option (SDst × Half)
  | .line _ _ (some n) (some d) => some (d, n)
  | _ => none

/-- The transfers of a step as addresses (R84, R85). -/
def transfers (sl : Slot) (xs : List Xfer) : List (Nat × Nat × Nat × Nat) :=
  xs.map fun x => (sl.baseVal x.dest, sl.baseVal x.src, x.len, x.ch)

/-- The first fault that a member meets at a boundary with these transfers. -/
def boundaryTrap (s : State) (xs : List Xfer) (sl : Slot) : Option Trap :=
  (xs.findSome? sl.xferFault).orElse fun _ => s.boundaryFault sl

/-- A lone slot stands at a boundary of its translation, at the pair p. -/
def atBoundary (s : State) (c k : Nat) (sl : Slot) (a : Option (List Xfer)) (p : TPair) : Prop :=
  aloneAt s c k sl ∧ s.standsAt c k (.boundary a) = true ∧ s.tpair sl sl.pc.toNat = some p

/-- A gang stands at a boundary, every member with a translation and without a fault. -/
def gangAtBoundary (s : State) (c k : Nat) (a : Option (List Xfer)) (g : Gang) : Prop :=
  (s.slot c k).bind Slot.gangInfo = some g ∧ s.standsAt c k (.boundary a) = true ∧ g.members.Nodup ∧
  ∀ m ∈ g.members, ∃ x, s.slot m.1 m.2 = some x ∧ x.virt.isSome = true ∧ (s.tpair x x.pc.toNat).isSome = true ∧
    boundaryTrap s (a.getD []) x = none

/-- The slot stands after its boundary, with the wait h. -/
def standsAfter (t : State) (c k : Nat) (sl : Slot) (h : Hold) : Prop :=
  ∃ x, t.slot c k = some x ∧ x.pc = sl.pc + 8 ∧ x.hold = some h

/-- Every member of the gang stands after the boundary; the first waits for w1, member x of the others for w2 x. -/
def gangStandsAfter (s t : State) (g : Gang) (w1 : Wait) (w2 : Slot → Wait) : Prop :=
  ∀ m ∈ g.members, ∀ x, s.slot m.1 m.2 = some x → ∃ y h, t.slot m.1 m.2 = some y ∧ y.pc = x.pc + 8 ∧ y.hold = some h ∧
    h.w = if g.members.head? = some m then w1 else w2 x

/-- The trap alone, the slot's pair having been begun. -/
def trapAt (s : State) (c k : Nat) (t : Trap) : State := { ((s.begin c k).trapPair t false false) with issue := Issue.none }

/-- The slot that leads a slot's gang, or the slot itself. -/
def leaderOf (c k : Nat) (sl : Slot) : Nat × Nat :=
  match sl.gangInfo with
  | none => (c, k)
  | some g => (g.leaderCore, g.leaderSlot)

/-- What the continuation in a slot waits for: its own wait, or its gang's leader's. -/
def leaderWait (s : State) (sl : Slot) (h : Hold) : Wait :=
  match sl.gangInfo with
  | none => h.w
  | some g => match (s.slot g.leaderCore g.leaderSlot).bind Slot.hold with
    | some y => y.w
    | none => .until 0

/-- No member of the slot's crew keeps the words of a packet that it has not filled (R384). -/
def dropPackets (s : State) (c k : Nat) : State :=
  (match s.slot c k with | some x => x.crew c k | none => []).foldl
    (fun (u : State) (m : Nat × Nat) => u.modSlot m.1 m.2 fun y => { y with asm := [] }) s

/-- Waits that end with what they deliver and nothing else. -/
def plainWait : Wait → Bool
  | .results | .group _ _ _ | .phase _ _ _ | .xfer _ _ | .line _ _ _ _ | .claim _ _ _ _ => true
  | _ => false

/-- The record is at the end of some ready chain, or at its head. -/
def chained (t : State) (r : RecId) : Prop := ∃ d p, r ∈ sget [] (t.die d).ready p

end Sys2Proof.Claims

/-- R84, R139, R299, R430, R431, R481, R22 step 1: results arrive, waits end, step boundaries open, and operations lowered to
a fault fault. -/
def Obligations.ResultsWaitsAndBoundaries : Prop :=
  (∀ s c k sl id, s.slot c k = some sl →
    let due := atProxy s sl id = false ∧ ∃ p ∈ sl.pending, p.id = id ∧ p.due < s.now
    (¬ due → Steps (.resultDelivery c k id) s s) ∧
    (due → StepsTo (.resultDelivery c k id) s fun t =>
      t.slot c k = some { sl with pending := sl.pending.map fun p =>
        if p.id = id ∧ p.fixed = false ∧ p.delivered = false then { p with delivered := true, due := s.now } else p } ∧
      (∀ c' k', (c' ≠ c ∨ k' ≠ k) → t.slot c' k' = s.slot c' k') ∧ t.mem = s.mem ∧ t.lines = s.lines)) ∧
  (∀ (s : State) c k sl h, s.slot c k = some sl → sl.hold = some h →
    (windowed h.w = false ∨ s.waitOver c sl h.w = false → Steps (.releaseWindow c k) s s) ∧
    (windowed h.w = true → s.waitOver c sl h.w = true → StepsTo (.releaseWindow c k) s fun t => ∃ x, t.slot c k = some x ∧
      x.pc = sl.pc ∧
      (h.reissue = true → x.hold = none ∧ x.pending = sl.pending ∧
        x.readySince = if sl.readySince < h.since then sl.readySince else max s.now sl.gapUntil) ∧
      (h.reissue = false → x.hold = nextHold s.now h.after ∧ x.readySince = max s.now sl.gapUntil ∧
        match delivered h.w with
        | none => x.pending = sl.pending
        | some (d, n) => ∃ p, x.pending = sl.pending ++ [p] ∧ (sl.virt = none → p.dst = d.reg) ∧
            p.val = BitVec.ofNat 2048 n.toNat ∧ p.owed = true))) ∧
  (∀ (s : State) c k xs, (s.standsAt c k (.boundary (some xs)) = false → Steps (.stepCommOpen c k xs) s s) ∧
    (s.standsAt c k (.boundary none) = false → Steps (.stepComputeOpen c k) s s)) ∧
  (∀ (s : State) c k sl xs p, atBoundary s c k sl (some xs) p →
    (∀ t, boundaryTrap s xs sl = some t → Steps (.stepCommOpen c k xs) s (trapAt s c k t)) ∧
    (boundaryTrap s xs sl = none → StepsTo (.stepCommOpen c k xs) s fun t =>
      standsAfter t c k sl ⟨.stepPhase, s.now, false, .stepPush (transfers sl xs) :: p.waits⟩ ∧ t.mem = s.mem)) ∧
  (∀ (s : State) c k g xs, gangAtBoundary s c k (some xs) g → StepsTo (.stepCommOpen c k xs) s fun t =>
    gangStandsAfter s t g .stepPhase (fun x => .stepPush (transfers x xs)) ∧ t.mem = s.mem) ∧
  (∀ (s : State) c k sl p, atBoundary s c k sl none p →
    (∀ t, boundaryTrap s [] sl = some t → Steps (.stepComputeOpen c k) s (trapAt s c k t)) ∧
    (boundaryTrap s [] sl = none → ∀ n (ids : List (Nat × Half)), s.stepIds = [(⟨sl.ctx, sl.idx⟩, n, sl.callDepth, ids)] →
      StepsTo (.stepComputeOpen c k) s fun t =>
        standsAfter t c k sl ⟨.stepXfers n ids, s.now, false, .stepPhase :: p.waits⟩ ∧ t.stepIds = []) ∧
    (boundaryTrap s [] sl = none → (∀ x ∈ s.stepIds, x.1 ≠ ⟨sl.ctx, sl.idx⟩) →
      StepsTo (.stepComputeOpen c k) s fun t =>
        standsAfter t c k sl ⟨.stepPhase, s.now, false, p.waits⟩ ∧ t.stepIds = s.stepIds)) ∧
  (∀ (s : State) c k g, gangAtBoundary s c k none g → StepsTo (.stepComputeOpen c k) s fun t =>
    (∀ m ∈ g.members, ∀ x, s.slot m.1 m.2 = some x → ∃ y, t.slot m.1 m.2 = some y ∧ y.pc = x.pc + 8) ∧
    ∀ x ∈ t.stepIds, ∀ sl, s.slot c k = some sl → x.1 = ⟨sl.ctx, sl.idx⟩ → x.2.2.1 ≠ sl.callDepth) ∧
  (∀ s aslot op sl, s.cur = some sl → sl.pc = s.issue.pc →
    Steps (.unassignedOpcode aslot op) s (s.trapPair ⟨0x01, op.toNat, 0, false⟩ aslot false)) ∧
  (∀ s c k tr id cap,
    (s.standsAt c k (.fault tr) = false → Steps (.loweredFaultReached c k tr id cap) s s) ∧
    (s.standsAt c k (.fault tr) = true → Steps (.loweredFaultReached c k tr id cap) s (trapAt s c k
      (if tr then ⟨TRANSLATE, id % 512 + cap % 64 * 2 ^ 16, 0, false⟩ else ⟨PROT, 4 + id * 2 ^ 16, 0, false⟩))))

/-- R55, R63, R66, R67, R76, R124, R412, R417: a waiting continuation leaves its slot, what it waits for is finished on its
behalf, it becomes ready again, a free slot takes it, and a submitted record reserves its keys. -/
def Obligations.ContinuationsLeaveWakeAndReturn : Prop :=
  (∀ (s : State) c k,
    ((∀ h, s.canLeave c k = some h → s.now < h.since + 4096) → Steps (.holdExpiry c k) s s) ∧
    (s.evictable c k = false → Steps (.eviction c k) s s)) ∧
  (∀ (s : State) c k sl h, s.slot c k = some sl → s.canLeave c k = some h →
    ∀ r ∈ [(Instr.holdExpiry c k, 4), (Instr.eviction c k, 7)],
      (if r.2 = 4 then h.since + 4096 ≤ s.now else s.evictable c k = true) →
      let (c1, k1) := leaderOf c k sl
      let w := leaderWait s sl h
      let s1 := dropPackets (s.release c1 k1) c1 k1
      ∀ x, s1.slot c1 k1 = some x →
        (∀ a, s1.lostFrame x = some a → Steps r.1 s (s1.fatalXlate c1 k1 x a)) ∧
        (s1.lostFrame x = none → ∀ m a, s1.storeTrap c1 k1 x = some (m, a) →
          Steps r.1 s (s1.takeTrap m.1 m.2 a false true x.holdPc x.afterPc)) ∧
        (s1.lostFrame x = none → s1.storeTrap c1 k1 x = none →
          (∀ a, s1.storeSlot c1 x (s.wakeOf c sl h.w).2 = .error a → Steps r.1 s
            (s1.saveFault c1 k1 x 0 a (s1.trapPoint x false true x.holdPc x.afterPc) x.lastPc.toNat)) ∧
          ∀ s2, s1.storeSlot c1 x (s.wakeOf c sl h.w).2 = .ok s2 →
            StepsTo r.1 s fun t => (∀ m ∈ x.crew c1 k1, t.slot m.1 m.2 = none) ∧
              ∃ u, t.suspOf x.ctx x.idx = some u ∧ u.w = w ∧ u.reissue = h.reissue ∧ u.img.regs = x.regs)) ∧
  (∀ (s : State) ctx idx u, s.suspOf ctx idx = some u →
    (u.finished = true ∨ s.suspOver u = false → Steps (.blockedOperationFinish ctx idx) s s) ∧
    (u.finished = false → s.suspOver u = true → plainWait u.w = true → u.reissue = false → u.others = [] →
      (∀ h, u.img.hold = some h → h.after = []) → StepsTo (.blockedOperationFinish ctx idx) s fun t =>
        ∃ v, t.suspOf ctx idx = some v ∧ v.finished = true ∧ v.reissue = false) ∧
    (∀ r ∈ [(Instr.wake ctx idx, false), (Instr.timerWake ctx idx, true)],
      let due := u.finished = true ∧ isTimer u.w = r.2 ∧ s.standsBack u = true ∧ s.suspOver u = true
      (¬ due → Steps r.1 s s) ∧
      (∀ a, due → s.lostRec ctx idx = some a → StepsTo r.1 s fun t => t.suspOf ctx idx = none) ∧
      (due → s.lostRec ctx idx = none → StepsTo r.1 s fun t => chained t ⟨ctx, idx⟩ ∧
        ((∀ x ∈ s.suspended, x.ctx = ctx → x.idx = idx → x.redo = Redo.none) → t.suspOf ctx idx = none)))) ∧
  (∀ (s : State) d c k ctx idx, let r : RecId := ⟨ctx, idx⟩
    (s.freeAt c k && dieOf c = d && s.pickFor d c = some r && !s.gangBefore d c r && !(s.die d).ovf && !(s.die d).lost) =
      true →
    let s0 := s.unchain r
    (∀ a, s0.lostRec ctx idx = some a →
      Steps (.recordPickup d c k ctx idx) s (s0.refuseRec d c k r ⟨XLATE, memInfo 1 a 64, a, true⟩)) ∧
    (∀ t, s0.lostRec ctx idx = none → s0.recFault ctx idx = some t →
      Steps (.recordPickup d c k ctx idx) s (s0.refuseRec d c k r t)) ∧
    (s0.lostRec ctx idx = none → s0.recFault ctx idx = none →
      (s.suspOf ctx idx = none → StepsTo (.recordPickup d c k ctx idx) s fun t =>
        ∃ sl, t.slot c k = some sl ∧ sl.ctx = ctx ∧ sl.idx = idx ∧ sl.hold = none ∧ sl.pending = [] ∧ sl.csrPend = [] ∧
          sl.gangInfo = none ∧ sl.pickup = s.now ∧ sl.readySince = s.now) ∧
      (∀ u, s.suspOf ctx idx = some u → u.redo = Redo.pair → s.reqs = [] → StepsTo (.recordPickup d c k ctx idx) s fun t =>
        ∃ sl, t.slot c k = some sl ∧ sl.pc = u.img.pc ∧ sl.hold = none ∧ sl.pending = [] ∧ sl.gangInfo = none ∧
          sl.pickup = s.now ∧ (u.img.pending = [] → u.img.virt = none → sl.regs = u.img.regs)))) ∧
  (∀ (s : State) ctx idx, let r : RecId := ⟨ctx, idx⟩
    let i := Instr.keyReserve ctx idx
    (r ∉ s.reserving → Steps i s s) ∧
    (r ∈ s.reserving →
      let s0 := { s with reserving := s.reserving.filter (· ≠ r) }
      let held := recWake (s.readRec ctx idx) % 8
      (entriesOf (s.readRec ctx idx)).drop held = [] → Steps i s (s0.keysHeld r)) ∧
    (r ∈ s.reserving → ∀ p l,
      let s0 := { s with reserving := s.reserving.filter (· ≠ r) }
      let held := recWake (s.readRec ctx idx) % 8
      let s1 := s0.modRec ctx idx fun x =>
        putBits (setWake x (7 * 2 ^ 60 + held)) 255 240 (recTouched x ||| 2 ^ s0.dieFor (p / 65536))
      (entriesOf (s.readRec ctx idx)).drop held = p :: l →
      (∀ e, s1.keyEntry p = some e →
        Steps i s ((s1.putEntry p (some { e with waiters := e.waiters ++ [r] })).linkChain (e.waiters ++ [r]))) ∧
      (s1.keyEntry p = none → s1.entryStopped p = true → Steps i s (s1.putEntry p (some ⟨none, [r]⟩))) ∧
      (s1.keyEntry p = none → s1.entryStopped p = false →
        Steps i s ((s1.putEntry p (some ⟨some r, []⟩)).reserveFrom r (held + 1) l))))

/-! ## The dispatcher, code objects and walks (R92-R101, R310, R314, R392-R394, R405-R424, R427, R432, R440) -/

namespace Sys2Proof.Claims
open Sys2Proof.Machine

/-- A ready gang record and the place where it may stand (R310, R421). -/
def gangReady (s : State) (d : Nat) (r : RecId) (leader k : Nat) : Bool :=
  (s.die d).readyList.contains r && s.gangFits d r leader k && s.gangTurn d r leader && !(s.die d).ovf && !(s.die d).lost

/-- The state in which a gang record is picked up: it drains no cluster any more and stands in no chain. -/
def gangLeaves (s : State) (d : Nat) (r : RecId) : State :=
  (s.modDie d fun x => { x with drain := match x.drain with | some (_, y) => if y = r then none else x.drain | none => none }).unchain r

/-- The request's slot stands at its `gfuse`, whose result goes to d. -/
def fusesTo (s : State) (f : FuseReq) (d : SDst) (after : List Wait) : Prop :=
  ∃ sl since re, s.slot f.core f.slot = some sl ∧ sl.hold = some ⟨.fuse f.leader f.size f.tag d, since, re, after⟩

/-- No launch is left with the id, or it is completed. -/
def reported (t : State) (l : Nat) : Prop := ∀ y ∈ t.launches, y.id = l → y.completed = true

/-- The ready chain of a die in which a record of its priority stands. -/
def chainOf (s : State) (d : Nat) (r : RecId) : List RecId := sget [] (s.die d).ready (recPrio (s.readRec r.ctx r.idx))

/-- R413: the record may leave its chain of src; one that came back from an eviction, only from its head. -/
def mayLeave (s : State) (src : Nat) (r : RecId) : Prop :=
  (s.die src).readyList.contains r = true ∧ recPinned (s.readRec r.ctx r.idx) = false ∧ s.dieHasSlot src r = false ∧
  (r ∈ s.headed → (chainOf s src r).head? = some r)

/-- R413: die dst may receive the record. -/
def mayReceive (s : State) (dst : Nat) (r : RecId) : Prop :=
  (∃ n l, s.launchOfRec r.ctx r.idx = some n ∧ s.launch n = some l ∧ (s.launchDies l.pkt).contains dst = true) ∧
  s.dieHasSlot dst r = true ∧
  ∀ x ∈ (s.die dst).readyList, recPrio (s.readRec x.ctx x.idx) < recPrio (s.readRec r.ctx r.idx)

/-- R413: the record may move from a chain of src to one of dst, and none behind it in its chain may. -/
def mayMove (s : State) (r : RecId) (src dst : Nat) : Prop :=
  src ≠ dst ∧ mayLeave s src r ∧ mayReceive s dst r ∧
  ∀ x ∈ ((chainOf s src r).dropWhile (· ≠ r)).drop 1, ¬ (mayLeave s src x ∧ mayReceive s dst x)

/-- R421: the gang's best rectangle of a cluster: its context may hold it, and no such one of the cluster has more free
slots. -/
def bestOf (s : State) (d : Nat) (r : RecId) (cl c : Nat) : Prop :=
  let g := recGang (s.readRec r.ctx r.idx)
  let at_ (i : Nat) : Nat := coreAt cl (i % 4) (i / 4)
  (∃ i < 16, c = at_ i) ∧ s.rectOpen d r c = true ∧ ∀ i < 16, s.rectOpen d r (at_ i) = true → s.rectRoom (at_ i) g ≤ s.rectRoom c g

end Sys2Proof.Claims

/-- R393, R405-R411, R415: a launch is accepted once, starts with the status that Table Dispatch-3 gives, and is reported
once; a window of the classifier sets its class. -/
def Obligations.LaunchesAreAcceptedStartedAndReported : Prop :=
  (∀ (s : State) q x, s.queue q = some x →
    (x.target ≠ 3 ∨ s.queueReady x = false → Steps (.launchAccept q) s s) ∧
    (x.target = 3 → s.queueReady x = true → StepsTo (.launchAccept q) s fun t =>
      ∃ l, t.launches = s.launches ++ [l] ∧ t.nextLaunch = s.nextLaunch + 1 ∧ l.id = s.nextLaunch ∧ l.queue = q ∧
        l.pkt.words = BitVec.ofNat 512 (s.devGet x.ctx (x.ring + 64 * (s.queueRidx x % 2 ^ x.log2n)) 64) ∧
        l.accepted = s.now ∧ l.completed = false ∧
        (l.pkt.type ≠ 1 → l.started = true ∧ l.status = 0x01) ∧
        (l.pkt.type = 1 → l.started = false ∧ l.status = 0))) ∧
  (∀ (s : State) l x, s.launch l = some x →
    (s.launchMayStart x = false ∨ s.launchFirst x = false → Steps (.launchStart l) s s) ∧
    (s.launchMayStart x = true → s.launchFirst x = true →
      let maxprio := match s.queue x.queue with | some q => q.maxprio | none => 31
      let st := s.launchStatus x.pkt maxprio
      let s1 := (s.modLaunch x.id fun y => { y with started := true, done := st ≠ 0, status := st, winAt := s.now }).passTurn x
      let a := if st = 0 then s1.createAll x else if st = 0x09 then (s1.raiseFails x.pkt.ctx, []) else (s1, [])
      let b := State.startOthers x.pkt.prio a.1.launches.length a.1
      Steps (.launchStart l) s (b.1.enterAll ((x.queue, a.2) :: b.2))) ∧
    (x.started = false ∨ x.completed = true ∨ 0 < x.live → Steps (.launchComplete l) s s) ∧
    (x.started = true → x.completed = false → x.live = 0 → StepsTo (.launchComplete l) s fun t => reported t l) ∧
    (x.status < 2 ^ 32 →
      let r := s.completionRecord x
      bits r 31 0 = (if x.status ≠ 0 then x.status else if x.terminated then 0x0B else 0) ∧
      bits r 63 32 = min x.retired (2 ^ 32 - 1) ∧ bits r 191 128 = min x.timesum (2 ^ 64 - 1)) ∧
    (∀ ops bytes, let due := x.started = true ∧ x.completed = false ∧ x.ops = ops ∧ x.bytes = bytes ∧ x.winAt + 130000 ≤ s.now
      (¬ due → Steps (.classifyWindow l ops bytes) s s) ∧
      (due → Steps (.classifyWindow l ops bytes) s (s.modLaunch l fun y =>
        { y with ops := 0, bytes := 0, winAt := s.now, cls := some (decide (s.classThresh * bytes ≤ ops)) }))))

/-- R310, R314, R413, R420, R421: ready records move and gangs are placed, drained for, given up, and fused on demand. -/
def Obligations.GangsArePlacedAndFused : Prop :=
  (∀ s ctx idx src dst, let r : RecId := ⟨ctx, idx⟩
    (mayMove s r src dst → StepsTo (.readyRecordMove ctx idx src dst) s fun t =>
      t = (s.unchain r).makeReady dst (recPrio (s.readRec ctx idx)) r false ∧
        r ∈ sget [] (t.die dst).ready (recPrio (s.readRec ctx idx))) ∧
    (¬ mayMove s r src dst → Steps (.readyRecordMove ctx idx src dst) s s)) ∧
  (∀ s d ctx idx leader k, let r : RecId := ⟨ctx, idx⟩
    let s0 := gangLeaves s d r
    let g := recGang (s.readRec ctx idx)
    (gangReady s d r leader k = false → Steps (.gangPlace d ctx idx leader k) s s) ∧
    (∀ a, gangReady s d r leader k = true → s0.lostRec ctx idx = some a →
      StepsTo (.gangPlace d ctx idx leader k) s fun t => t.slot leader k = none) ∧
    (gangReady s d r leader k = true → g ≤ 4 → s0.lostRec ctx idx = none → s0.recFault ctx idx = none →
      s.suspOf ctx idx = none → StepsTo (.gangPlace d ctx idx leader k) s fun t => ∀ j < 2 ^ g, ∃ n sl,
        (s.gangPlaces leader k g)[j]? = some (leader + j / gangW g * 64 + j % gangW g, n) ∧
        t.slot (leader + j / gangW g * 64 + j % gangW g) n = some sl ∧ sl.ctx = ctx ∧ sl.idx = idx ∧
        sl.gangInfo = some ⟨2 ^ g, j, leader, k, false, s.gangPlaces leader k g⟩)) ∧
  (∀ (s : State) d cl ctx idx, let r : RecId := ⟨ctx, idx⟩
    (s.gangStalled d r = false ∨ s.bestRect d r cl = none → Steps (.gangDrain d cl ctx idx) s s) ∧
    ∀ c, s.bestRect d r cl = some c → bestOf s d r cl c ∧
      (s.gangStalled d r = true → (s.die d).drain = none → s.mostRoom d r c = true →
        (∃ x ∈ s.gangSince, x.1 = r) → s.gangWait * 1300 ≤ s.gangWaited r →
          StepsTo (.gangDrain d cl ctx idx) s fun t => (t.die d).drain = some (c, r))) ∧
  (∀ (s : State) ctx idx, let r : RecId := ⟨ctx, idx⟩
    let waits := (s.gangSince.any fun x => x.1 == r) = true ∧ (s.gangWait + s.gangLimit) * 1300 ≤ s.gangWaited r
    (¬ waits → Steps (.gangTimeout ctx idx) s s) ∧
    (waits → ∀ n l, s.launchOfRec ctx idx = some n → s.launch n = some l → lGopt l.pkt = true →
      StepsTo (.gangTimeout ctx idx) s fun t => (∀ x ∈ t.gangSince, x.1 ≠ r) ∧ t.launches = s.launches) ∧
    (waits → ∀ n l, s.launchOfRec ctx idx = some n → s.launch n = some l → lGopt l.pkt = false →
      StepsTo (.gangTimeout ctx idx) s fun t => ∀ y ∈ t.launches, y.id = l.id → y.status = 0x2B) ∧
    (waits → (∀ n, s.launchOfRec ctx idx = some n → s.launch n = none) →
      StepsTo (.gangTimeout ctx idx) s fun t => t.launches = s.launches)) ∧
  (∀ (s : State) cl leader size tag,
    (s.fuseReady cl leader size tag = none → Steps (.gfuseDecide cl leader size tag) s s) ∧
    (∀ rs, s.fuseReady cl leader size tag = some rs → (∀ f ∈ rs, ∃ d after, fusesTo s f d after) →
      StepsTo (.gfuseDecide cl leader size tag) s fun t => ∀ f ∈ rs, ∃ sl g p, t.slot f.core f.slot = some sl ∧
        sl.gangInfo = some g ∧ g.transient = true ∧ g.members = rs.map (fun f => (f.core, f.slot)) ∧
        (∀ x, rs.head?.bind (fun f => s.slot f.core f.slot) = some x → sl.pc = x.pc) ∧
        p ∈ sl.pending ∧ p.val = 0 ∧ p.owed = true)) ∧
  (∀ (s : State) c k f, (s.clus (clusterOf c)).fuses.find? (fun f => f.core == c && f.slot == k) = some f →
    (s.now < f.at_ + 65536 ∨ (s.fuseReady (clusterOf c) f.leader f.size f.tag).isSome = true →
      Steps (.gfuseTimeout c k) s s) ∧
    (f.at_ + 65536 ≤ s.now → s.fuseReady (clusterOf c) f.leader f.size f.tag = none → f.core = c → f.slot = k →
      ∀ d after, fusesTo s f d after → StepsTo (.gfuseTimeout c k) s fun t => ∃ sl p, t.slot c k = some sl ∧
        sl.hold = nextHold s.now after ∧ p ∈ sl.pending ∧ (sl.virt = none → p.dst = d.reg) ∧ p.val = 2 ∧ p.owed = true))

namespace Sys2Proof.Claims
open Sys2Proof.Machine

/-- R392, R424: the queue is registered as its descriptor in memory says. -/
def registersAs (s : State) (r : Req) (q : Queue) : Prop :=
  let d := s.devGet r.ctx r.arg0 64
  q.ctx = r.ctx ∧ q.desc = BitVec.ofNat 64 r.arg0 ∧ q.maxprio = r.arg1 ∧ q.err = false ∧ q.ring = bits d 63 12 * 4096 ∧
  q.log2n = bits d 204 200 ∧ q.widx = BitVec.ofNat 64 (bits d 127 64) ∧ q.ridx = BitVec.ofNat 64 (bits d 191 128) ∧
  q.die = bits d 7 5 ∧ q.target = bits d 4 3

end Sys2Proof.Claims

/-- R279, R280, R392, R394, R424, R72, R328, R508: what a supervisor's request does, with its STATUS, and the end of a
context. -/
def Obligations.RequestsActAndReport : Prop :=
  (∀ (s : State) r, s.reqRec r = none →
    Steps (.resume r) s (s.putStatus r 1) ∧ Steps (.terminate r) s (s.putStatus r 1)) ∧
  (∀ (s : State) r idx, s.reqRec r = some idx →
    let rc := s.readRec r.ctx idx
    (recState rc ≠ 5 → Steps (.resume r) s (s.putStatus r 2) ∧ Steps (.terminate r) s (s.putStatus r 2)) ∧
    (s.fatal.contains ⟨r.ctx, idx⟩ = true → Steps (.resume r) s (s.putStatus r 2)) ∧
    (recState rc = 5 → Steps (.terminate r) s ((s.terminateRec r.ctx idx).putStatus r 0)) ∧
    (recState rc = 5 → s.fatal.contains ⟨r.ctx, idx⟩ = false →
      (s.adoptContainer r.ctx idx).ownContainer r.ctx idx = none →
      let s1 := (s.adoptContainer r.ctx idx).writeRec r.ctx idx (setWake (setState rc 2) 0)
      Steps (.resume r) s ((s1.makeReady (s1.wakeDie r.ctx idx) (recPrio rc) ⟨r.ctx, idx⟩ true).putStatus r 0)) ∧
    (recState rc = 5 → s.fatal.contains ⟨r.ctx, idx⟩ = false →
      let s0 := s.adoptContainer r.ctx idx
      ∀ h d, s0.ownContainer r.ctx idx = some h → getField (s0.containerFields r.ctx idx) 9 0 = some d →
        let rec' := resumedRec rc (ofBytes (d.take 64))
        let s1 := s0.writeRec r.ctx idx (setWake (setState rec' 2) 0)
        recPrio rec' ≤ recPrio rc ∧
        Steps (.resume r) s ((s1.makeReady (s1.wakeDie r.ctx idx) (recPrio rec') ⟨r.ctx, idx⟩ true).putStatus r 0))) ∧
  (∀ (s : State) r, (s.queues.find? fun q => q.ctx == r.ctx && q.desc.toNat == r.arg0) = none →
    Steps (.qunreg r) s (s.putStatus r 1) ∧
    (s.queueBad r.ctx r.arg0 = true → Steps (.qreg r) s (s.putStatus r 1)) ∧
    (s.queueBad r.ctx r.arg0 = false → ∃ q, q.id = s.nextQueue ∧ registersAs s r q ∧
      let s1 := s.startIndices r.ctx r.arg0 (s.devGet r.ctx r.arg0 64)
      Steps (.qreg r) s ({ s1 with queues := s1.queues ++ [q], nextQueue := s1.nextQueue + 1 }.putStatus r 0))) ∧
  (∀ (s : State) r q, (s.queues.find? fun q => q.ctx == r.ctx && q.desc.toNat == r.arg0) = some q →
    (q.err = false → Steps (.qreg r) s (s.putStatus r 3)) ∧
    (q.err = true → s.queueBad r.ctx r.arg0 = true → Steps (.qreg r) s (s.putStatus r 1)) ∧
    (q.err = true → s.queueBad r.ctx r.arg0 = false →
      let s1 := s.devWrite r.ctx (r.arg0 + 24) 1 0
      ∃ n, n.id = q.id ∧ n.first = s1.nextLaunch ∧ registersAs s r n ∧
        Steps (.qreg r) s ({ s1 with queues := s1.queues.map fun (x : Queue) => if x.id = q.id then n else x }.putStatus r 0)) ∧
    ((∃ l ∈ s.launches, l.queue = q.id ∧ l.started = false) ∨ (q.err = false ∧ s.queueRidx q ≠ s.queueWidx q) →
      Steps (.qunreg r) s (s.putStatus r 3)) ∧
    ((∀ l ∈ s.launches, l.queue = q.id → l.started = true) → (q.err = true ∨ s.queueRidx q = s.queueWidx q) →
      Steps (.qunreg r) s ({ s with queues := s.queues.filter fun x => x.id ≠ q.id }.putStatus r 0))) ∧
  (∀ (s : State) r,
    (r.arg1 = 0 ∨ 2 ^ 32 ≤ r.arg1 ∨ 3 ≤ r.arg0 → Steps (.setparam r) s (s.putStatus r 1)) ∧
    (0 < r.arg1 → r.arg1 < 2 ^ 32 →
      (r.arg0 = 0 → Steps (.setparam r) s ({ s with gangWait := r.arg1 }.putStatus r 0)) ∧
      (r.arg0 = 1 → Steps (.setparam r) s ({ s with gangLimit := r.arg1 }.putStatus r 0)) ∧
      (r.arg0 = 2 → Steps (.setparam r) s ({ s with classThresh := r.arg1 }.putStatus r 0)))) ∧
  (∀ (s : State) ctx, StepsTo (.contextDestroy ctx) s fun t =>
    t.ctx ctx = Ctx.none ∧ (∀ c k sl, t.slot c k = some sl → sl.ctx ≠ ctx) ∧ (∀ x ∈ t.tiles, x.ctx ≠ ctx) ∧
    (∀ q ∈ t.queues, q.ctx ≠ ctx) ∧ (∀ l ∈ t.launches, l.pkt.ctx ≠ ctx) ∧ (∀ u ∈ t.suspended, u.ctx ≠ ctx) ∧
    (∀ q ∈ t.reqs, q.ctx ≠ ctx))

namespace Sys2Proof.Claims
open Sys2Proof.Machine

/-- A translation can be built on a die for the operation, or the end, at e.off of the body at e.body (R426). -/
def entryStands (s : State) (d h : Nat) (e : RegionEntry) : Prop :=
  d < 8 ∧ (s.die d).lost = false ∧ ∃ o b, s.object h = some o ∧ (o.bodies.find? fun b => b.off == e.body) = some b ∧
    b.off ≤ e.off ∧ e.off ≤ b.off + b.len

end Sys2Proof.Claims

/-- R92-R101, R427, R432, R439, R440: objects are installed whole or not at all and stay while a reference remains; builds
and walks are cached only as they may be. -/
def Obligations.ObjectsTranslationsAndWalks : Prop :=
  (∀ (s : State) ctx img place,
    (verify img ≠ 0 → Steps (.loadObject ctx img place) s { s with loaded := (verify img, 0) }) ∧
    (∀ l, verify img = 0 → parseSects img = some l →
      let code := s.loadFault ctx img place.base l ((parseSyms (bytesOf img l 0x8004)).getD []) place.dom0.length
      (s.domRoom ctx place.dom0.length = false → code ≠ 0) ∧
      (code ≠ 0 → Steps (.loadObject ctx img place) s { s with loaded := (code, 0) }) ∧
      (code = 0 → StepsTo (.loadObject ctx img place) s fun t => ∃ o, t.objects = s.objects ++ [o] ∧ o.ctx = ctx ∧
        t.loaded = (0, o.handle) ∧ sget (1 : Half) t.handleGen o.handle = 0))) ∧
  (∀ (s : State) h, (s.referenced h = true → Steps (.unloadObject h) s s) ∧
    (s.referenced h = false →
      Steps (.unloadObject h) s { s with objects := s.objects.filter fun o => o.handle != h })) ∧
  (∀ (s : State) d h (e : RegionEntry),
    let i := Instr.translationBuild d h e
    (¬ entryStands s d h e → Steps i s s) ∧
    (entryStands s d h e → StepsTo i s fun t => t.cores = s.cores ∧ t.objects = s.objects ∧
      ∃ x, (d, 0, x) ∈ t.translations ∧ x.handle = h ∧ x.off = e.off ∧ x.body = e.body ∧ x.pairs ≠ [] ∧
        x.gen = (sget (0 : Half) s.handleGen h).toNat ∧
        ∀ y ∈ t.translations, y.1 = d → y.2.1 = 0 → y.2.2.handle = h → y.2.2.off = e.off → y.2.2.body = e.body →
          y.2.2 = x)) ∧
  (∀ (s : State) d ctx va,
    (∀ l raw srcs, s.walk ctx va.toNat = .leaf l raw srcs → d < 8 → StepsTo (.pageWalk d ctx va) s fun t =>
      (t.die d).tlb.contains ⟨ctx, va.toNat / l.size * l.size, l.size, BitVec.ofNat 64 raw, srcs⟩ = true ∧
        t.mem = s.mem ∧ t.lines = s.lines ∧ t.cores = s.cores) ∧
    ((∀ l raw srcs, s.walk ctx va.toNat ≠ .leaf l raw srcs) → Steps (.pageWalk d ctx va) s s))

/-! ## The engines (R380-R404, R498-R505) -/

namespace Sys2Proof.Claims
open Sys2Proof.Machine

/-- The operation `op` alone has changed, by f. -/
def OpBecomes (i : Instr) (s : State) (op : Nat) (f : EngOp → EngOp) : Prop := Steps i s (s.modOp op f)

/-- A copy whose two ranges have no byte in common, by their addresses (R398). -/
def apart (p : Packet) : Prop := cDst p + cLen p ≤ cSrc p ∨ cSrc p + cLen p ≤ cDst p

/-- What a WAITID or MARKER waits for beside its order: the completion of its id, or of every lower id (R403, R404). -/
def idsPast (s : State) (o : EngOp) : Prop :=
  (o.pkt.type = 6 → ((sget (0 : Half) (s.core (wCore o.pkt)).xfdone (wCh o.pkt)) - (wId o.pkt + 1)).toNat < 2 ^ 31) ∧
  (o.pkt.type = 7 → sget (0 : Half) (s.core o.pkt.ncore).xfdone o.pkt.channel = o.pkt.xid)

/-- The operation is ready: neither started nor ended, its order and ids reached. -/
def opWaitsNot (s : State) (o : EngOp) : Prop :=
  o.started = false ∧ o.ended = false ∧ s.orderOk o.pkt = true ∧ idsPast s o

/-- R382: it is ready, and no ready operation of its front-end has a higher priority. -/
def maySettle (s : State) (o : EngOp) : Prop :=
  opWaitsNot s o ∧ ∀ x ∈ s.ops, x.die = o.die → opWaitsNot s x → x.pkt.prio ≤ o.pkt.prio

/-- The offset of a side in a scratchpad. -/
def spadOff : Side → Nat
  | .place (.spad _ off) => off
  | _ => 0

/-- Table Fabric-2, R499: a segment's two sides, checked, with the length to the next cut. -/
def segmentSides (s : State) (o : EngOp) : Except Nat Side × Except Nat Side :=
  (s.sideOf o.pkt.who .load true (cSrc o.pkt + o.bytes), s.sideOf o.pkt.who .store true (cDst o.pkt + o.bytes))
def segmentLen (s : State) (o : EngOp) : Nat :=
  min (cLen o.pkt - o.bytes) (min (s.sideLen o.pkt.who (cSrc o.pkt + o.bytes)) (s.sideLen o.pkt.who (cDst o.pkt + o.bytes)))

end Sys2Proof.Claims

/-- R381, R384-R388, R393, R394, R403, R404: packets and queue slots become operations once each; a WAITID or MARKER ends
when its condition holds; an operation that has ended is reported once. -/
def Obligations.OperationsAreAcceptedAndReported : Prop :=
  (∀ (s : State) d, ((s.die d).pushed = [] → Steps (.packetAccept d) s s) ∧
    (∀ p l, (s.die d).pushed = p :: l → StepsTo (.packetAccept d) s fun t => ∃ o, t.ops = s.ops ++ [o] ∧
      t.nextOp = s.nextOp + 1 ∧ (t.die d).pushed = l ∧ o.id = s.nextOp ∧ o.pkt = p ∧ o.die = d ∧
      (packetBad p = true → o.ended = true ∧ o.status = 0x01) ∧
      (packetBad p = false → o.started = false ∧ o.ended = false ∧ o.status = 0))) ∧
  (∀ (s : State) q x, s.queue q = some x →
    (x.err = true → Steps (.queueSlotServe q) s
      (if s.errShown x then s else s.devWrite x.ctx (x.desc.toNat + 24) 1 1)) ∧
    (x.err = false → x.target = 3 ∨ s.queueReady x = false → Steps (.queueSlotServe q) s s) ∧
    (x.err = false → x.target ≠ 3 → s.queueReady x = true → StepsTo (.queueSlotServe q) s fun t => ∃ o,
      t.ops = s.ops ++ [o] ∧ t.nextOp = s.nextOp + 1 ∧ o.id = s.nextOp ∧ o.die = x.die ∧ o.pkt.ctx = x.ctx ∧
      o.pkt.port = x.target + 1 ∧
      o.pkt.words = BitVec.ofNat 512 (s.devGet x.ctx (x.ring + 64 * (s.queueRidx x % 2 ^ x.log2n)) 64))) ∧
  (∀ (s : State) op o, s.op op = some o → o.pkt.type = 6 →
    (¬ maySettle s o → Steps (.waitid op) s s) ∧
    (maySettle s o → OpBecomes (.waitid op) s op fun x => { x.finish 0 with started := true })) ∧
  (∀ (s : State) op o, s.op op = some o → o.pkt.type = 7 →
    let a := mAddr o.pkt
    (¬ maySettle s o → Steps (.marker op) s s) ∧
    (maySettle s o → a % 8 ≠ 0 → OpBecomes (.marker op) s op (EngOp.finish 3)) ∧
    (maySettle s o → a % 8 = 0 → ∀ e, s.sideOf o.pkt.who .store true a = .error e →
      OpBecomes (.marker op) s op (EngOp.finish (if e = MCHECK then 6 else 3))) ∧
    (maySettle s o → a % 8 = 0 → ∀ x, s.sideOf o.pkt.who .store true a = .ok x →
      let w := (s.serves o x 8).sideWrite o.die x (leBytes 8 (mValue o.pkt))
      Steps (.marker op) s ((w.1.fillLanded x 8 (spadOff x + 8)).modOp op (EngOp.finish (if w.2 then 6 else 0))))) ∧
  (∀ (s : State) op o, s.op op = some o →
    (o.ended = false ∨ o.completed = true → Steps (.operationComplete op) s s) ∧
    (o.ended = true → o.completed = false → StepsTo (.operationComplete op) s fun t =>
      let u := ((((s.releaseBufs o.die).writeDone o).releaseBufs o.die).complete o.pkt o.status)
      t.mem = u.mem ∧ t.lines = u.lines ∧ t.cores = u.cores ∧ ∀ y ∈ t.ops, y.id = op → y.completed = true))

/-- R396-R402, R497-R505: copies, gathers, scatters and collectives start in order, take their parts one by one, and end
with the status of Table Engines-7. -/
def Obligations.TransfersMoveTheirBytes : Prop :=
  (∀ (s : State) op o, s.op op = some o → o.pkt.type = 2 →
    (s.mayStart o = false → Steps (.copy op) s s) ∧
    (s.mayStart o = true →
      ((∃ a b, s.sideOf o.pkt.who .load true (cSrc o.pkt) = .ok (.remote a) ∧
        s.sideOf o.pkt.who .store true (cDst o.pkt) = .ok (.remote b)) →
          OpBecomes (.copy op) s op fun x => { x.finish 2 with started := true }) ∧
      ((∀ a b, ¬ (s.sideOf o.pkt.who .load true (cSrc o.pkt) = .ok (.remote a) ∧
        s.sideOf o.pkt.who .store true (cDst o.pkt) = .ok (.remote b))) →
          OpBecomes (.copy op) s op fun x => { x with started := true })) ∧
    (o.started = true → o.ended = false → o.outSeg = none →
      let i := Instr.copySegment op
      let x := segmentSides s o
      let n := segmentLen s o
      (∀ e, x.1 = .error e → OpBecomes i s op (EngOp.finish (if e = MCHECK then 6 else 2))) ∧
      (∀ e y, x.1 = .ok y → x.2 = .error e → OpBecomes i s op (EngOp.finish (if e = MCHECK then 6 else 3))) ∧
      (∀ a b, x.1 = .ok (.remote a) → x.2 = .ok (.remote b) → OpBecomes i s op (EngOp.finish 2)) ∧
      (∀ a p, x.1 = .ok (.remote a) → x.2 = .ok (.place p) →
        OpBecomes i s op fun y => { y with outSeg := some (outSegOf n a false p) }) ∧
      (∀ b p, x.1 = .ok (.place p) → x.2 = .ok (.remote b) →
        OpBecomes i s op fun y => { y with outSeg := some (outSegOf n b true p) }) ∧
      (∀ p q, x.1 = .ok (.place p) → x.2 = .ok (.place q) → Steps i s (s.transfer o n (.place p) (.place q))) ∧
      (∀ c off c' off', x.1 = .ok (.place (.spad c off)) → x.2 = .ok (.place (.spad c' off')) → apart o.pkt →
        (s.die (dieOf c')).lost = false → StepsTo i s fun t => ∀ d j, t.spadByte d j =
          if d = c' ∧ off' ≤ j ∧ j < off' + n then s.spadByte c (off + (j - off')) else s.spadByte d j))) ∧
  (∀ (s : State) op o ok x, s.op op = some o → o.outSeg = some x → let i := Instr.scaleoutSegmentAck op ok
    (ok = true → Steps i s (if x.toRemote then s.transfer o x.n x.localSide (.remote x.remote)
      else s.transfer o x.n (.remote x.remote) x.localSide)) ∧
    (ok = false → x.toRemote = false → OpBecomes i s op fun y => { y.finish 2 with outSeg := none }) ∧
    (ok = false → x.toRemote = true → StepsTo i s fun t =>
      t.ops = (s.modOp op fun y => { y.finish 3 with outSeg := none }).ops ∧
      ∀ j, sget 0 t.mem j = sget 0 s.mem j ∨
        ∃ n < (s.sideRead x.localSide x.n).1.length, j = x.remote + n ∧
          sget 0 t.mem j = (s.sideRead x.localSide x.n).1.getD n 0)) ∧
  (∀ (s : State) op o, s.op op = some o → ∀ r ∈ [(Instr.gather op, 3), (Instr.scatter op, 4)],
    (o.pkt.type ≠ r.2 ∨ o.ended = true → Steps r.1 s s) ∧
    (o.pkt.type = r.2 → o.ended = false →
      (o.started = false → s.mayStart o = true → OpBecomes r.1 s op fun x => { x with started := true }) ∧
      (o.started = false → s.mayStart o = false → Steps r.1 s s) ∧
      (o.started = true → gCount o.pkt ≤ o.bytes → Steps r.1 s s) ∧
      (o.started = true → o.bytes < gCount o.pkt → Steps r.1 s (s.readList o)))) ∧
  (∀ (s : State) op o k r, s.op op = some o → (o.rows.find? fun x => x.1 == k) = some (k, r) →
    (firstOfSource (gNsrc o.pkt) k o.rows = false → Steps (.gatherRowLand op k) s s) ∧
    (firstOfSource (gNsrc o.pkt) k o.rows = true →
      Steps (.gatherRowLand op k) s ((s.landRow o k r).modOp op fun x =>
        let x := { x with rows := x.rows.filter fun y => y.1 ≠ k }
        if x.rows.isEmpty && gCount o.pkt ≤ x.bytes then { x with ended := true } else x) ∧
      (let n := r % gNsrc o.pkt
       let sc := gSrc o.pkt n
       firstOfSource (gNsrc o.pkt) k o.rows = true → o.pkt.type = 3 → r < gRows o.pkt →
       (s.die (dieOf sc)).lost = false → (s.die (dieOf o.pkt.ncore)).lost = false →
       s.spadOk sc (gToff o.pkt + r / gNsrc o.pkt * gRowb o.pkt) (gRowb o.pkt) = true →
       s.spadOk o.pkt.ncore (gDoff o.pkt + k * gRowb o.pkt) (gRowb o.pkt) = true →
         StepsTo (.gatherRowLand op k) s fun t => sget (0 : Half) (t.core o.pkt.ncore).gsrcNow n =
           sget (0 : Half) (s.core o.pkt.ncore).gsrcNow n + 1))) ∧
  (∀ (s : State) op o, s.op op = some o → o.pkt.type = 5 →
    (o.ended = true → Steps (.coll op) s s) ∧
    (o.ended = false → o.started = false →
      (s.mayStart o = false → Steps (.coll op) s s) ∧
      (s.mayStart o = true → OpBecomes (.coll op) s op fun x => { x with started := true, param := some [] })) ∧
    (o.ended = false → o.started = true →
      (o.param = none → Steps (.coll op) s s) ∧
      ∀ l, o.param = some l →
        (∀ e, s.readGranule o (xGroup o.pkt + l.length) = .error e →
          OpBecomes (.coll op) s op fun x => { x.finish e with param := none }) ∧
        ∀ t b, s.readGranule o (xGroup o.pkt + l.length) = .ok (t, b) →
          (t.groupOf o.pkt (l ++ b) = none → Steps (.coll op) s (t.modOp op fun x => { x with param := some (l ++ b) })) ∧
          (∀ e, t.groupOf o.pkt (l ++ b) = some (.error e) →
            Steps (.coll op) s (t.modOp op fun x => { x.finish e with param := none, refused := true })) ∧
          (∀ g root ms, t.groupOf o.pkt (l ++ b) = some (.ok (g, root, ms)) → Steps (.coll op) s
            (((t.modOp op fun x => { x with param := none }).touchFor o.pkt 0x100#10).post o g root ms)))) ∧
  (∀ (s : State) o g, ∀ x, s.sideOf o.pkt.who .load false g = .ok x →
    (∀ a n l, x.granule = some a → (s.die o.die).pcache.find? (fun e => e.2.1 == a) = some (n, a, l) →
      s.readGranule o g = .ok (s, l)) ∧
    ((∀ a, x.granule = some a → ∀ e ∈ (s.die o.die).pcache, e.2.1 ≠ a) → (s.sideRead x 16).2 = [] → o.die < 8 →
      ∃ t, s.readGranule o g = .ok (t, (s.sideRead x 16).1) ∧ ∀ a, x.granule = some a →
        (o.id, a, (s.sideRead x 16).1) ∈ (t.die o.die).pcache)) ∧
  (∀ (s : State) inst c, (s.colls.find? fun c => c.id == inst) = some c →
    (c.live = false ∨ c.posted.length < s.localMembers c → Steps (.collChunk inst) s s) ∧
    (c.live = true → s.localMembers c ≤ c.posted.length →
      let gone (m : Nat) : Prop := s.fab.lostPeers.contains (m / 1024 % 1024) = true ∧ m / 1024 ≠ s.pkg.devId.toNat
      ((∃ m ∈ c.members, gone m) → Steps (.collChunk inst) s
        (((s.endColl c false 6).modColl inst fun c => { c with live := false }).sweepOps)) ∧
      ((∀ m ∈ c.members, ¬ gone m) → Steps (.collChunk inst) s
        ((s.chunk c (min (4096 / elemBytes c.fmt) (c.total - c.pos))).sweepOps))))

/-! ## Homes, windows, rings and domains (R75, R221-R223, R251, R260, R286, R291, R295-R299, R304-R309, R323-R327, R366,
R370, R480, R506-R510) -/

namespace Sys2Proof.Claims
open Sys2Proof.Machine

/-- Table Die-2 for a core's request outside tiles, on a line with no buffer: the state that home records. -/
def grantOf (l : Line) (a : Nat) (k : HomeKind) : Line :=
  let me := clusterBit (clusterOf a)
  let his := match l.owner with | some o => if o < 1024 then clusterBit (clusterOf o) else 0 | none => 0
  match k, l.st with
  | .load, .inv => { l with st := .excl, owner := some a, sharers := me }
  | .load, .shared => { l with sharers := l.sharers ||| me }
  | .load, _ => if l.owner = some a then l else { l with st := .shared, owner := none, sharers := me ||| his }
  | .store, _ => { l with st := .modified, owner := some a, sharers := me }
  | _, _ => { l with st := .inv, owner := none, sharers := 0 }

/-- Bits 51:6 of a word: the record that OWNER or HOLDER names (Table Fabric-5, Table Fabric-6). -/
def holderOf (h : Word) : Nat := (h &&& 0x000FFFFFFFFFFFC0).toNat

/-- The starts of one interval on a die (R480): the first max(1, STEP / 48) units that asked. -/
def grantsNow (s : State) (d : Nat) : List Nat := (s.grantQueue d).take (max 1 (s.pkg.step / 48))

end Sys2Proof.Claims

/-- R323-R327, R366, R370: requests accepted at a home, buffers merged there, lines that migrate and return, and atomics
carried out at home or by a proxy. -/
def Obligations.HomesServeRequests : Prop :=
  (∀ (s : State) a pa k,
    (s.requestOk a pa k = false → Steps (.homeRequest a pa k) s s) ∧
    (s.requestOk a pa k = true → a < 1024 → s.tileAt pa = none →
      let l := sget Line.inv s.lines (pa / 128)
      (s.region pa = some .hbm ∨ s.region pa = some .ddr) → l.bufs = [] →
        StepsTo (.homeRequest a pa k) s fun t => sget Line.inv t.lines (pa / 128) = grantOf l a k ∧ t.mem = s.mem ∧
          ∀ j, j ≠ pa / 128 → sget Line.inv t.lines j = sget Line.inv s.lines j) ∧
    (s.requestOk a pa k = true → 1024 ≤ a → a < 1040 → k = .engineRead ∨ k = .load ∨ k = .store →
      Steps (.homeRequest a pa k) s (s.homeAccept a pa k)) ∧
    (s.requestOk a pa .engineWrite = true → 1024 ≤ a → a < 1040 → s.tileAt pa = none →
      let taken := (sget Line.inv s.lines (pa / 128)).putBuf (a - 1024) 0 []
      let s1 := { s with lines := sset Line.inv s.lines (pa / 128) taken }
      Steps (.homeRequest a pa .engineWrite) s (s1.homeAccept a pa .engineWrite)) ∧
    (s.requestOk a pa .engineWrite = true → 1024 ≤ a → a < 1040 → (s.tileAt pa).isSome = true →
      Steps (.homeRequest a pa .engineWrite) s (s.homeAccept a pa .engineWrite)) ∧
    (s.requestOk a pa k = true → 1040 ≤ a → Steps (.homeRequest a pa k) s
      ((s.addSharer (a - 1040) pa).homeAccept a pa (if k = .engineWrite then .atomic else k)))) ∧
  (∀ (s : State) d line, StepsTo (.engineBufferMerge d line) s fun t =>
    (∀ b ∈ (sget Line.inv t.lines line).bufs, b.1 ≠ d) ∧
    (∀ b ∈ (sget Line.inv s.lines line).bufs, b.1 ≠ d → b ∈ (sget Line.inv t.lines line).bufs) ∧
    (∀ j, j ≠ line → sget Line.inv t.lines j = sget Line.inv s.lines j) ∧
    ((∀ b ∈ (sget Line.inv s.lines line).bufs, b.1 = d) → ∀ pa, t.byteAt pa = s.byteAt pa)) ∧
  (∀ (s : State) line slice,
    let may := s.deviceMem (line * 128) = true ∧ s.tileAt (line * 128) = none ∧ slice < 128 ∧
      slice / 16 ≠ home (line * 128) / 16 ∧ (s.die (slice / 16)).lost = false
    (may → StepsTo (.lineMigration line slice) s fun t =>
      sget Line.inv t.lines line = { sget Line.inv s.lines line with slice := some slice } ∧ t.mem = s.mem) ∧
    (¬ may → Steps (.lineMigration line slice) s s) ∧
    StepsTo (.migrationEnd line) s fun t =>
      sget Line.inv t.lines line = { sget Line.inv s.lines line with slice := none } ∧ t.mem = s.mem) ∧
  (∀ (s : State) ctx ea w op v, let i := Instr.atomicAtHome ctx ea w op v
    (ea % (w / 8) ≠ 0 → Steps i s s) ∧
    (ea % (w / 8) = 0 → ∀ e, s.placeOf ⟨ctx, true, 0⟩ .atomic false ea = .error e → Steps i s s) ∧
    (ea % (w / 8) = 0 → ∀ p, s.placeOf ⟨ctx, true, 0⟩ .atomic false ea = .ok p → s.placePoisoned p (w / 8) = true →
      Steps i s s) ∧
    (ea % (w / 8) = 0 → ∀ pa key, s.placeOf ⟨ctx, true, 0⟩ .atomic false ea = .ok (.mem pa 0 key) →
      s.placePoisoned (.mem pa 0 key) (w / 8) = false →
        Steps i s (((s.unitWrites pa (w / 8)).rmwPlace (.mem pa 0 key) w op v false).1)) ∧
    (ea % (w / 8) = 0 → ∀ p, (∀ pa key, p ≠ .mem pa 0 key) → s.placeOf ⟨ctx, true, 0⟩ .atomic false ea = .ok p →
      s.placePoisoned p (w / 8) = false → Steps i s ((s.rmwPlace p w op v false).1))) ∧
  (∀ (s : State) n, (s.reqs[n]? = none → Steps (.proxyAtomic n) s s) ∧
    (∀ q, s.reqs[n]? = some q →
      let s1 := { s with reqs := s.reqs.eraseIdx n }
      let p : Place := .mem q.pa (if s.deviceMem q.pa then 1 else 0) q.key
      let behind := ∃ r ∈ s.reqs.take n, r.pa / 128 = q.pa / 128
      (behind → Steps (.proxyAtomic n) s s) ∧
      (¬ behind → s.proxyFails q.pa = true → q.pend = none →
        Steps (.proxyAtomic n) s ((s1.onRecord q.core q.ctx q.idx (Slot.holdFailure q.nor)).bump)) ∧
      (∀ id, ¬ behind → s.proxyFails q.pa = true → q.pend = some id → StepsTo (.proxyAtomic n) s fun t => t.mem = s.mem ∧
        ∀ c k sl, t.slot c k = some sl → c = q.core → sl.ctx = q.ctx → sl.idx = q.idx → ∀ x ∈ sl.pending, x.id = id →
          x.poison = true) ∧
      (¬ behind → s.proxyFails q.pa = false → Steps (.proxyAtomic n) s ((s1.perform q p).bump)) ∧
      (¬ behind → s.proxyFails q.pa = false → s.placePoisoned p (q.w / 8) = false → q.pend = none → q.spurious = none →
        Steps (.proxyAtomic n) s (((s1.rmwPlace p q.w q.op q.v false).1).bump))))

/-- R217-R223, R251, R260, R286, R291, R296-R299, R309, R480, R510: supervisor writes of the core state window, words and
tiles on their way, the matrix unit's stores and starts, event pages, and level-0 counts. -/
def Obligations.CoresAndClustersMoveOn : Prop :=
  (∀ (s : State) c line h,
    let o : Nat := sget 0 (s.core c).owner line
    (12288 ≤ line ∨ (holderOf h = 0 ∧ o = 0) ∨ (holderOf h ≠ 0 ∧ o ≠ 0) → Steps (.ownerWrite c line h) s s) ∧
    (line < 12288 → holderOf h = 0 → o ≠ 0 → StepsTo (.ownerWrite c line h) s fun t =>
      sget 0 (t.core c).owner line = 0 ∧ sget (0 : Byte) (t.core c).fe line = 0 ∧
        ∀ j, j / 128 = line → t.spadByte c j = 0) ∧
    (line < 12288 → holderOf h ≠ 0 → o = 0 → StepsTo (.ownerWrite c line h) s fun t =>
      sget 0 (t.core c).owner line = holderOf h ∧ sget (0 : Byte) (t.core c).fe line = 0 ∧
        ∀ j, j / 128 = line → t.spadByte c j = 0)) ∧
  (∀ (s : State) c line v,
    (line < 12288 → (s.core c).allocated line = true → StepsTo (.feWrite c line v) s fun t =>
      sget 0 (t.core c).fe line = v ∧ (t.core c).owner = (s.core c).owner ∧ (t.core c).spad = (s.core c).spad) ∧
    (12288 ≤ line ∨ (s.core c).allocated line = false → Steps (.feWrite c line v) s s)) ∧
  (∀ (s : State) c n h,
    (holderOf h = 0 → StepsTo (.bindHolderWrite c n h) s fun t =>
      (t.core c).binding n = Bind.none ∧ sget [] (t.core c).fifo n = []) ∧
    (holderOf h ≠ 0 → StepsTo (.bindHolderWrite c n h) s fun t =>
      (t.core c).binding n = { (s.core c).binding n with staged := holderOf h } ∧ (t.core c).fifo = (s.core c).fifo)) ∧
  (∀ (s : State) c n (r : Word), let b := (s.core c).binding n
    let ok := b.staged ≠ 0 ∧ (b.holder = 0 ∨ b.holder = b.staged) ∧
      routeOk c (r.setWidth 8) ((r >>> 8).setWidth 8) = true
    (ok → StepsTo (.bindRouteWrite c n r) s fun t => (t.core c).binding n =
      ⟨b.staged, s.ctxOfRecord b.staged, 0, r.setWidth 8, (r >>> 8).setWidth 8, (r >>> 16).setWidth 3⟩) ∧
    (¬ ok → Steps (.bindRouteWrite c n r) s s)) ∧
  (∀ (s : State) n f, s.flights[n]? = some f →
    let held := (s.flights.take n).any fun g => g.src == f.src && g.core == f.core && g.port == f.port
    (held = true → Steps (.portWordDelivery n) s s) ∧
    (held = false → StepsTo (.portWordDelivery n) s fun t => t.flights = s.flights.eraseIdx n ∧
      sget [] (t.core f.core).fifo f.port = sget [] (s.core f.core).fifo f.port ++ [f.word])) ∧
  (∀ (s : State) c n, StepsTo (.phase0Publish c n) s fun t =>
    let old : Half := sget 0 (s.core n).seen c
    let new := (s.core c).count0
    sget (0 : Half) (t.core n).seen c = if (new - old).toNat < 2 ^ 31 then new else old) ∧
  (∀ (s : State) c, ((s.core c).ring = none → Steps (.mringReceive c) s s) ∧
    (∀ r, (s.core c).ring = some r →
      (r.phase = .waiting → (s.core r.succ).inb ≠ .empty → Steps (.mringReceive c) s s) ∧
      (r.phase = .waiting → (s.core r.succ).inb = .empty → StepsTo (.mringReceive c) s fun t =>
        (t.core r.succ).inb = .filling ∧ (t.core c).ring = some { r with phase := .streaming (s.now + r.len) }) ∧
      (∀ e, r.phase = .streaming e → (s.now < e ∨ s.now < r.fin) → Steps (.mringReceive c) s s) ∧
      (∀ e, r.phase = .streaming e → e ≤ s.now → r.fin ≤ s.now → StepsTo (.mringReceive c) s fun t =>
        (t.core r.succ).inb = .full r.tile ∧ (t.core c).ring = some { r with phase := .committed }) ∧
      (r.phase = .committed → ∀ x, (s.core c).inb = .full x → StepsTo (.mringReceive c) s fun t =>
        (t.core c).cur = x ∧ (t.core c).inb = .empty ∧ (t.core c).ring = none ∧
        ∀ k sl h, s.slot c k = some sl → sl.hold = some h → h.w = .ring →
          ∃ y, t.slot c k = some y ∧ y.hold = some { h with w := .until (s.now + 1) }) ∧
      (r.phase = .committed → (∀ x, (s.core c).inb ≠ .full x) → Steps (.mringReceive c) s s))) ∧
  (∀ (s : State) c n, ((s.core c).mst[n]? = none → Steps (.mstStorePerform c n) s s) ∧
    (∀ g, (s.core c).mst[n]? = some g → (s.now ≤ g.due → Steps (.mstStorePerform c n) s s) ∧
      (g.due < s.now → Steps (.mstStorePerform c n) s
        ((s.performGranule c g).modCore c fun x => { x with mst := x.mst.eraseIdx n })))) ∧
  (∀ (s : State) c,
    ((s.core c).matIdle = true ∨ s.now < (s.core c).lastMma + 13000 → Steps (.matrixIdle c) s s) ∧
    ((s.core c).matIdle = false → (s.core c).lastMma + 13000 ≤ s.now → StepsTo (.matrixIdle c) s fun t =>
      (t.core c).matIdle = true ∧ ∀ d, d ≠ c → t.core d = s.core d)) ∧
  (∀ (s : State) d, StepsTo (.matrixStartGrant d) s fun t =>
    (∀ c ∈ grantsNow s d, (t.core c).matIdle = false ∧ (t.core c).lastMma = s.now) ∧
    (∀ c, c ∉ grantsNow s d → t.core c = s.core c)) ∧
  (∀ (s : State) c k cl line,
    (256 ≤ (s.clus cl).regs.length ∨ 64 ≤ line → Steps (.eventPageLoad c k cl line) s s) ∧
    ((s.clus cl).regs.length < 256 → line < 64 → ∀ sl, s.slot c k = some sl →
      StepsTo (.eventPageLoad c k cl line) s fun t =>
        (t.clus cl).regs = (s.clus cl).regs ++ [⟨line, sl.ctx, sl.idx, sl.gen⟩] ∧
        ∃ x h, t.slot c k = some x ∧ x.hold = some h ∧ h.w = .line cl line none (some .z) ∧ h.reissue = false)) ∧
  (∀ (s : State) ctx cl line,
    (s.holderNow cl ≠ some ctx ∨ 64 ≤ line → Steps (.eventPageStore ctx cl line) s s) ∧
    (s.holderNow cl = some ctx → line < 64 → StepsTo (.eventPageStore ctx cl line) s fun t =>
      sget (0 : Half) (t.clus cl).counts line = sget (0 : Half) (s.clus cl).counts line + 1 ∧
      (∀ r ∈ (t.clus cl).regs, r.line ≠ line) ∧ ∀ j, j ≠ line → sget (0 : Half) (t.clus cl).counts j =
        sget (0 : Half) (s.clus cl).counts j))

/-- R304-R308, R506-R508: an arrival is counted; a barrier object that is not then full does nothing more; a flip is taken
only by a domain that waits for one; a child on another device is remembered as a sender. -/
def Obligations.BarrierObjectsCountArrivals : Prop :=
  (∀ (s : State) ctx dom w,
    let s1 := s.putDomain ctx dom (putBits (s.domain ctx dom) 63 32 (min (domArrived (s.domain ctx dom) + w) (2 ^ 32 - 1)))
    let d := s1.domain ctx dom
    Steps (.barrierObjectArrival ctx dom w) s (s.arrive ctx dom w) ∧
    (domWaitUp d = true ∨ domMembers d = 0 ∨ domArrived d < domMembers d →
      Steps (.barrierObjectArrival ctx dom w) s s1) ∧
    (domWaitUp d = false → domMembers d ≠ 0 → domMembers d ≤ domArrived d → domUp d = true →
      domPdev d ≠ (s1.putDomain ctx dom (putBits d 132 132 1)).pkg.devId.toNat → Steps (.barrierObjectArrival ctx dom w) s
        ((s1.putDomain ctx dom (putBits d 132 132 1)).sendPeer ⟨true, domPdev d, domParent d * 64, ctx, dom⟩))) ∧
  (∀ (s : State) ctx dom a, s.domHole ctx dom = some a → Steps (.domainFlip ctx dom) s (s.poolLost ctx 0 a.addr)) ∧
  (∀ (s : State) ctx dom, s.domHole ctx dom = none → domWaitUp (s.domain ctx dom) = false →
    Steps (.domainFlip ctx dom) s s) ∧
  (∀ (s : State) ctx dom, s.domHole ctx dom = none → domWaitUp (s.domain ctx dom) = true →
    Steps (.domainFlip ctx dom) s (State.domRun ctx (2 ^ 40) [.flip dom] s)) ∧
  (∀ (s : State) dev ctx dom,
    (s.domExists ctx dom = false ∨ s.devLost dev = true →
      Steps (.peerArrivalMessage dev ctx dom) s s) ∧
    (s.domExists ctx dom = true → s.devLost dev = false →
      Steps (.peerArrivalMessage dev ctx dom) s
        ((s.addSender ⟨ctx, dom, domOpen (s.domain ctx dom), none, dev⟩).arrive ctx dom 1)))

/-! ## The package, its failures, the host and the peers (R339, R453-R455, R472-R494) -/

namespace Sys2Proof.Claims
open Sys2Proof.Machine

/-- What a stop or a start leaves of the module's work: no continuation, operation, launch, queue, line or tile. -/
def idleModule (t : State) : Prop :=
  (∀ c k, t.slot c k = none) ∧ t.ops = [] ∧ t.launches = [] ∧ t.queues = [] ∧ t.lines = [] ∧ t.tiles = [] ∧
  t.suspended = [] ∧ t.flights = [] ∧ t.reqs = [] ∧ t.objects = []

/-- The end of a start (R482, R483): it succeeds, or it fails with a code. -/
def startEnds (s t : State) (warm : Bool) (fail : Option StartFail) : Prop :=
  idleModule t ∧ t.pkg.keys = [] ∧ t.pkg.stopped = false ∧ t.pkg.warm = warm ∧ 0 ∈ t.pkg.vectors ∧
  match fail with
  | none => t.pkg.running = true ∧ t.pkg.failed = 0 ∧ t.pkg.recovery = false ∧ t.pkg.failCode = 0
  | some f => t.pkg.running = false ∧ t.pkg.failed = s.pkg.failed + 1 ∧ t.pkg.failCode = startFailCode f ∧
      t.pkg.recovery = (s.pkg.recovery || decide (3 ≤ s.pkg.failed + 1))

/-- The count of an error of a unit, saturating (R454, R455). -/
def oneMore (x : Half) : Half := if x = BitVec.allOnes 32 then x else x + 1
/-- The uncorrectable errors counted for a unit. -/
def uncorrected (s : State) (unit : Nat) : Half := sget 0 s.pkg.counts (38 + unit)
/-- An error is counted and reported (R477). -/
def errorSeen (s t : State) (unit : Nat) : Prop := uncorrected t unit = oneMore (uncorrected s unit) ∧ 10 ∈ t.pkg.vectors

end Sys2Proof.Claims

/-- R478, R479, R482, R483, R475, R486: power and temperature, stops and starts, keys and reports. -/
def Obligations.StartsStopsAndPower : Prop :=
  (∀ s draws temps, let i := Instr.powerArbiterTick draws temps
    (s.pkg.running = false → Steps i s s) ∧
    (s.pkg.running = true → (∃ x ∈ temps, 110 < x) → StepsTo i s fun t =>
      idleModule t ∧ t.pkg.stopped = true ∧ t.pkg.running = false ∧ t.mem = s.mem) ∧
    (s.pkg.running = true → (∀ x ∈ temps, x ≤ 110) → StepsTo i s fun t =>
      t.pkg.budget = (if ∃ x ∈ temps, 95 < x then s.pkg.budget - 250 else min 4500 (s.pkg.budget + 250)) ∧
      (t.pkg.grants.map Prod.snd).sum ≤ t.pkg.budget - ((draws.drop 8).foldl (· + ·) 0) ∧ t.mem = s.mem)) ∧
  (∀ s, StepsTo .thermalShutdown s fun t =>
    idleModule t ∧ t.pkg.stopped = true ∧ t.pkg.running = false ∧ t.mem = s.mem) ∧
  (∀ s : State, s.pkg.stopped = true → s.agenda = [] → step s = .fault .moduleStopped) ∧
  (∀ s fail, StepsTo (.coldStart fail) s fun t => startEnds s t false fail ∧
    ∀ a < 2 ^ 40 + s.pkg.ddrBytes, sget 0 t.mem a = (0 : Byte)) ∧
  (∀ s fail, let refused := s.pkg.stopped = true ∨ s.pkg.recovery = true ∨
      fail = some .bist ∨ fail = some .hbm ∨ fail = some .ddr
    (refused → Steps (.warmStart fail) s s) ∧
    (¬ refused → StepsTo (.warmStart fail) s fun t => startEnds s t true fail ∧
      ∀ a < 2 ^ 40 + s.pkg.ddrBytes, sget 0 t.mem a = sget (0 : Byte) s.backing a)) ∧
  (∀ s img, (s.pkg.recovery = false → Steps (.recoveryImageWrite img) s s) ∧
    (s.pkg.recovery = true → StepsTo (.recoveryImageWrite img) s fun t => t.pkg.image = img)) ∧
  (∀ s nonce buf, StepsTo (.attest nonce buf) s fun t =>
    t.pkg.attest = (if s.pkg.cxlUp = true ∧ buf + 2048 ≤ 2 ^ 48 then 2 else 3) ∧
    (t.pkg.attest = 3 → t.mem = s.mem) ∧
    (t.pkg.attest = 2 → ∀ j < 32, sget 0 t.mem (0x000E000000000000 + buf + j) = nonce.getD j 0)) ∧
  (∀ s id, (id = 0 ∨ 64 ≤ id → Steps (.keyInstall id) s s) ∧
    (0 < id → id < 64 → StepsTo (.keyInstall id) s fun t => sget false t.pkg.keys id = true ∧
      ∀ j, j ≠ id → sget false t.pkg.keys j = sget false s.pkg.keys j))

/-- R339, R453-R455, R476, R477, R489-R494: the loss of a die, errors in storage, the host's link, snoops and recalls, and
peers that are lost and return. -/
def Obligations.FailuresLinksAndPeers : Prop :=
  (∀ (s : State) d, ((s.die d).lost = true ∨ 10 ≤ d → Steps (.dieLoss d) s s) ∧
    ((s.die d).lost = false → d < 8 → StepsTo (.dieLoss d) s fun t => (t.die d).lost = true ∧
      ∀ c < 1024, dieOf c = d → (t.core c).dead = true)) ∧
  (∀ (s : State) d, (s.die d).lost = false → d = 8 ∨ d = 9 → StepsTo (.dieLoss d) s fun t =>
    (∀ x ∈ s.ctxs, t.ctx x.1 = Ctx.none) ∧ (d = 8 → t.fab.lostPeers = t.fab.members) ∧ (d = 9 → t.pkg.cxlUp = false)) ∧
  (∀ (s : State) a, (a < 1024 → Steps (.probeTimeout a) s ((s.loseCopies (· == a)).loseDie (dieOf a))) ∧
    (1024 ≤ a → a < 1032 → Steps (.probeTimeout a) s ((s.loseCopies (· == a)).loseDie (a - 1024))) ∧
    (1032 ≤ a → Steps (.probeTimeout a) s s)) ∧
  (∀ (s : State) pa, (s.deviceMem pa = false → Steps (.uncorrectableError (.memory pa)) s s ∧
      Steps (.uncorrectableError (.cleanLine pa)) s s ∧ Steps (.uncorrectableError (.recordLine pa)) s s) ∧
    (s.deviceMem pa = true → ∀ p ∈ [ErrPlace.memory pa, .recordLine pa], StepsTo (.uncorrectableError p) s fun t =>
      errorSeen s t (unitOfPa pa) ∧ ∀ j, j / 128 = pa / 128 → sget false t.poison j = true) ∧
    (s.deviceMem pa = true → StepsTo (.uncorrectableError (.cleanLine pa)) s fun t => errorSeen s t (home pa / 16) ∧
      (s.dirty pa = true → ∀ j, j / 128 = pa / 128 → sget false t.poison j = true) ∧
      (s.dirty pa = false → t.poison = s.poison ∧ t.mem = s.mem))) ∧
  (∀ (s : State) c line, ((s.core c).allocated line = true → StepsTo (.uncorrectableError (.scratch c line)) s fun t =>
      errorSeen s t (dieOf c) ∧ ∀ j < 128, sget false t.poison (spadKey c (128 * line) + j) = true) ∧
    ((s.core c).allocated line = false → Steps (.uncorrectableError (.scratch c line)) s s)) ∧
  (∀ (s : State) c k code, (s.slot c k = none → Steps (.uncorrectableError (.register c k code)) s s) ∧
    (∀ sl, s.slot c k = some sl → StepsTo (.uncorrectableError (.register c k code)) s fun t => errorSeen s t (dieOf c) ∧
      ∃ x, t.slot c k = some x ∧ code ∈ x.poisoned)) ∧
  (∀ (s : State) d, ∃ u, errorSeen s u d ∧ Steps (.uncorrectableError (.dieState d)) s (u.loseDie d)) ∧
  (∀ (s : State) c, StepsTo (.uncorrectableError (.matrixAcc c)) s fun t => errorSeen s t (dieOf c) ∧
    (t.core c).accErr = min 2 ((s.core c).accErr + 1)) ∧
  (∀ (s : State) d a, StepsTo (.uncorrectableError (.transEntry d a)) s fun t => errorSeen s t d ∧ t.mem = s.mem ∧
      t.poison = s.poison ∧ ∀ x ∈ t.translations, x.1 = d → x.2.2.base = a → x.2.1 = 1) ∧
  (∀ (s : State) d a, StepsTo (.uncorrectableError (.paramEntry d a)) s fun t => errorSeen s t d ∧ t.mem = s.mem ∧
      t.poison = s.poison ∧ ∀ e ∈ (t.die d).pcache, e.2.1 ≠ a) ∧
  (∀ (s : State) d ctx va, StepsTo (.uncorrectableError (.pageEntry d ctx va)) s fun t => errorSeen s t d ∧ t.mem = s.mem ∧
      t.poison = s.poison ∧ ∀ e ∈ (t.die d).tlb, ¬ (e.ctx = ctx ∧ e.va ≤ va ∧ va < e.va + e.size)) ∧
  (∀ (s : State) unit, (38 ≤ unit → Steps (.correctableError unit) s s) ∧
    (unit < 38 → StepsTo (.correctableError unit) s fun t => t.mem = s.mem ∧ t.poison = s.poison ∧
      sget 0 t.pkg.counts unit = oneMore (sget 0 s.pkg.counts unit))) ∧
  (∀ s : State, StepsTo .cxlLinkFailure s fun t => t.pkg.cxlUp = false ∧ t.dies = s.dies ∧ t.cores = s.cores) ∧
  (∀ (s : State) pa, (s.region pa = some .host → Steps (.hostSnoop pa) s (s.flushRun (pa / 128 * 128) 128)) ∧
    (s.region pa ≠ some .host → Steps (.hostSnoop pa) s s) ∧
    (s.deviceMem pa = true → StepsTo (.hostRecallTimeout pa) s fun t => t.pkg.cxlUp = false ∧ t.cores = s.cores) ∧
    (s.deviceMem pa = false → Steps (.hostRecallTimeout pa) s s)) ∧
  (∀ (s : State) v, StepsTo (.hostConditionRead v) s fun t => v ∉ t.pkg.vectors ∧ t.mem = s.mem) ∧
  (∀ (s : State) pa, (s.isPeer pa = false → ∀ b, Steps (.peerProbe pa b) s s) ∧
    (s.isPeer pa = true → Steps (.peerProbe pa true) s (s.flushRun (pa / 128 * 128) 128) ∧
      Steps (.peerProbe pa false) s (s.cleanRun (pa / 128 * 128) 128))) ∧
  (∀ (s : State) m,
    let may := s.fab.members.contains m = true ∧ s.fab.lostPeers.contains m = false ∧ m ≠ s.pkg.devId.toNat % 1024
    (¬ may → Steps (.peerLoss m) s s) ∧
    (may → StepsTo (.peerLoss m) s fun t => m ∈ t.fab.lostPeers ∧ (∀ x ∈ t.fab.regions, m ∉ x.2) ∧
      ∀ x ∈ t.fab.msgs, x.dev ≠ s.pkg.devId.toNat / 1024 * 1024 + m) ∧
    StepsTo (.peerReturn m) s fun t => m ∉ t.fab.lostPeers ∧ t.mem = s.mem)

/-! ## Where every task instruction, CSR access and step of the device completes (R106, R182, Table Devices) -/

namespace Sys2Proof.Claims
open Sys2Proof.Machine

/-- Instruction i by itself, its common conditions met, completes and leaves, before its pushes and pops, a state with P. -/
def Completes (i : Instr) (s : State) (P : State → Prop) : Prop :=
  clear s i = true → ∃ t, exec i s = .next (t.settled i) ∧ P t

/-- The slot whose pair issued is owed the result v for d. -/
def owesCur (s t : State) (d : SDst) (v : Word) : Prop :=
  ∃ y p, t.slot s.issue.core s.issue.slot = some y ∧ p ∈ y.pending ∧ p.dst = d.reg ∧ p.val = v.setWidth 2048

/-- The continuation's domain at a level exists and takes arrivals, and no earlier write has failed. -/
def mayArrive (s : State) (sl : Slot) (l : Fin 8) : Prop := arrivable s sl l.val ∧ writesGood s

/-- Every operation with the number n is in this state. -/
def opNow (t : State) (n : Nat) (P : EngOp → Prop) : Prop := ∀ y ∈ t.ops, y.id = n → P y

/-- A lone waiting continuation can be stored: its frame stands, nothing it carries is poisoned, none of its writes failed,
and every save succeeds. -/
def storable (s : State) (c k : Nat) (sl : Slot) (h : Hold) : Prop :=
  sl.gangInfo = none ∧ s.slot c k = some sl ∧ s.canLeave c k = some h ∧
  let s1 := dropPackets (s.release c k) c k
  ∃ x s2, s1.slot c k = some x ∧ x.gangInfo = none ∧ s1.lostFrame x = none ∧ s1.storeTrap c k x = none ∧
    s1.storeSlot c x (s.wakeOf c sl h.w).2 = .ok s2

/-- A record can be picked up by a slot: its die's chain gives it, it passes its checks, and no image of it is kept. -/
def mayPickUp (s : State) (d c k ctx idx : Nat) : Prop :=
  let s0 := s.unchain ⟨ctx, idx⟩
  s.freeAt c k = true ∧ dieOf c = d ∧ s.pickFor d c = some ⟨ctx, idx⟩ ∧ s.gangBefore d c ⟨ctx, idx⟩ = false ∧
  (s.die d).ovf = false ∧ (s.die d).lost = false ∧ s0.lostRec ctx idx = none ∧ s0.recFault ctx idx = none ∧ s.suspOf ctx idx = none

/-- A CSR of number num may be written by the issuer, with operation op and operand d. -/
def csrOpen (s : State) (i : Instr) (op : Nat) (num : BitVec 12) (d : SSrc) : Prop :=
  (csrWritable num.toNat = true ∨ (num = 0x055 ∧ supervisor s = true)) ∧ (csrSuper num.toNat = true → supervisor s = true) ∧
  (num = 0x0C4 → dreqAccess s (written op (csrOf s 0x0C4) (readS s i 0 d)) = none)

/-- The errors that are counted: a place of storage that exists, and its unit. -/
def errorAt (s : State) : ErrPlace → Nat → Prop
  | .memory pa, u | .recordLine pa, u => s.deviceMem pa = true ∧ u = unitOfPa pa
  | .cleanLine pa, u => s.deviceMem pa = true ∧ u = home pa / 16
  | .scratch c line, u => (s.core c).allocated line = true ∧ u = dieOf c
  | .register c k _, u => (s.slot c k).isSome = true ∧ u = dieOf c
  | .matrixAcc c, u => u = dieOf c
  | .dieState d, u | .transEntry d _, u | .paramEntry d _, u | .pageEntry d _ _, u => u = d

end Sys2Proof.Claims

/-- R106, R118-R122, R182, R290-R292, R306, R310, R314, R315 for the instructions, and the steps of the device that act on
cores, records and the dispatcher: each completes, with its own effect, wherever its conditions hold. -/
def Obligations.TasksAndDispatcherComplete : Prop :=
  (∀ s sl, s.cur = some sl → (∀ g, sl.gangInfo = some g → (s.issue.core, s.issue.slot) ∈ g.members) →
    let c := s.issue.core
    let k := s.issue.slot
    let r := s.release c k
    (∀ l, mayArrive s sl l → let u := r.arrive sl.ctx (levelDom s l.val) 1
      let p : Half := BitVec.ofNat 32 (openOf (s.domain sl.ctx (levelDom s l.val)))
      (l ≠ 0 → Completes (.phase l) s fun t => t = u ∨ t = u.holdPair (.phase l.val (levelDom s l.val) (p + 1)) false) ∧
      (l = 0 → Completes (.phase l) s fun t => t = r.advance0 c k ∨
        t = r.holdPair (.phase0 (sl.phase0 + 1 - sl.csrs.lead.setWidth 32)) false) ∧
      ∀ d, Completes (.parrive d l) s fun t => t.mem = u.mem ∧
        owesCur s t d (nat64 (openOf (s.domain sl.ctx (levelDom s l.val))))) ∧
    (∀ (l : Fin 8) b, levelDom s l.val ≠ 0 → s.domHole sl.ctx (levelDom s l.val) = none → ∀ i ∈ [Instr.pwait l b, .owait l b], (i = .owait l b → holds s) →
      Completes i s fun t => t = s ∨
        t = s.holdPair (.phase l.val (levelDom s l.val) ((readS s i 2 b).setWidth 32 + 1)) false) ∧
    (∀ d (l : Fin 8) b, let w := (readS s (.oarr d l b) 2 b).toNat
      holds s → w < 2 ^ 16 → arrivable s sl l.val →
        Completes (.oarr d l b) s fun t => t.mem = (if w = 0 then s else s.arrive sl.ctx (levelDom s l.val) w).mem ∧
          owesCur s t d (nat64 (openOf (s.domain sl.ctx (levelDom s l.val))))) ∧
    (∀ ch b, let id : Half := (readS s (.xwait ch b) 2 b).setWidth 32
      Completes (.xwait ch b) s fun t => t = s ∨ t = s.holdPair (.xfer ch.val id) false) ∧
    (∀ d (n : Fin 8) b, let w := (readS s (.chbind d n b) 2 b).toNat
      (w = 2 ^ 31 ∨ (w < 2 ^ 31 ∧ bits w 30 19 = 0)) →
        Completes (.chbind d n b) s fun t => t.mem = s.mem ∧ ∃ v : Nat, v ≤ 2 ∧ owesCur s t d (nat64 v)) ∧
    (∀ d a b size leader, 1 ≤ size → size ≤ 4 → leader < 1024 → c < 1024 →
      readS s (.gfuse d a b) 1 a = shapeWord size leader → sl.gangInfo = none → sl.gang = 0 →
        Completes (.gfuse d a b) s fun t => t.mem = s.mem ∧ ((∃ v : Nat, (v = 1 ∨ v = 3) ∧ owesCur s t d (nat64 v)) ∨
          ∃ f ∈ (t.clus (myCluster s)).fuses, f.core = c ∧ f.slot = k ∧ f.leader = leader ∧ f.size = size)) ∧
    (∀ d, Completes (.gsplit d) s fun t => ∃ v, owesCur s t d v) ∧
    (∀ d num, (csrSuper num.toNat = true → supervisor s = true) →
      Completes (.csrr d num) s fun t => t = giveS (.csrr d num) d (csrOf s num.toNat) 0 s) ∧
    (∀ i ∈ [(Instr.csrw, 0), (Instr.csrs, 1), (Instr.csrc, 2)], ∀ num d, csrOpen s (i.1 num d) i.2 num d →
      Completes (i.1 num d) s fun t => ∃ y, t.slot c k = some y ∧
        y.csrPend = sl.csrPend ++ [(num.toNat, i.2, readS s (i.1 num d) 0 d)])) ∧
  (∀ (s : State) c k sl v, s.slot c k = some sl →
    StepsTo (.quantWrite c k v) s (fun t => ∃ x, t.slot c k = some x ∧ x.csrs.quant = v.setWidth 16) ∧
    ∀ i ∈ plainCsrs, StepsTo (.csrWrite c k (BitVec.ofNat 12 i.1) v) s fun t => t.csr c k i.1 = nat64 (v.toNat % 2 ^ i.2)) ∧
  (∀ (s : State) c v, StepsTo (.inboxstWrite c v) s fun t => (t.core c).lost = BitVec.ofNat 32 (v.toNat / 2 ^ 32)) ∧
  (∀ (s : State) ctx v, StepsTo (.savebaseWrite ctx v) s fun t => (t.ctx ctx).savebase = v) ∧
  (∀ (s : State) d ctx, StepsTo (.trapqbaseWrite d ctx 0) s fun t => (t.die d).trapqBase = 0 ∧ (t.die d).trapq = none) ∧
  (∀ (s : State) d q v, (s.die d).trapq = some q →
    Steps (.trapqRidxAdvance d v) s ((s.devWrite q.ctx (q.base.toNat + 8) 8 v.toNat).drainHeld d)) ∧
  (∀ s a op sl, s.cur = some sl → sl.pc = s.issue.pc →
    Steps (.unassignedOpcode a op) s (s.trapPair ⟨0x01, op.toNat, 0, false⟩ a false)) ∧
  (∀ s c k id cap, s.standsAt c k (.fault true) = true → Steps (.loweredFaultReached c k true id cap) s
    (trapAt s c k ⟨TRANSLATE, id % 512 + cap % 64 * 2 ^ 16, 0, false⟩)) ∧
  (∀ s c k sl p, (∀ xs, atBoundary s c k sl (some xs) p → boundaryTrap s xs sl = none →
      StepsTo (.stepCommOpen c k xs) s fun t => ∃ x, t.slot c k = some x ∧ x.pc = sl.pc + 8) ∧
    (atBoundary s c k sl none p → boundaryTrap s [] sl = none →
      StepsTo (.stepComputeOpen c k) s fun t => ∃ x, t.slot c k = some x ∧ x.pc = sl.pc + 8)) ∧
  (∀ s c k sl id, s.slot c k = some sl → atProxy s sl id = false → (∃ p ∈ sl.pending, p.id = id ∧ p.due < s.now) →
    StepsTo (.resultDelivery c k id) s fun t => ∃ x, t.slot c k = some x ∧ ∀ p ∈ x.pending, p.id = id → p.owed = false) ∧
  (∀ (s : State) c k sl h, storable s c k sl h →
    (h.since + 4096 ≤ s.now → StepsTo (.holdExpiry c k) s fun t => t.slot c k = none) ∧
    (s.evictable c k = true → StepsTo (.eviction c k) s fun t => t.slot c k = none)) ∧
  (∀ (s : State) ctx idx u, s.suspOf ctx idx = some u → s.suspOver u = true →
    (u.finished = false → plainWait u.w = true → u.reissue = false → u.others = [] → u.img.hold = none →
      StepsTo (.blockedOperationFinish ctx idx) s fun t => ∃ v, t.suspOf ctx idx = some v ∧ v.finished = true) ∧
    (u.finished = true → s.standsBack u = true → s.lostRec ctx idx = none →
      (isTimer u.w = false → StepsTo (.wake ctx idx) s fun t => chained t ⟨ctx, idx⟩) ∧
      (isTimer u.w = true → StepsTo (.timerWake ctx idx) s fun t => chained t ⟨ctx, idx⟩))) ∧
  (∀ (s : State) d c k ctx idx, mayPickUp s d c k ctx idx →
    StepsTo (.recordPickup d c k ctx idx) s fun t => ∃ sl, t.slot c k = some sl ∧ sl.ctx = ctx ∧ sl.idx = idx) ∧
  (∀ (s : State) ctx idx, (⟨ctx, idx⟩ : RecId) ∈ s.reserving →
    (entriesOf (s.readRec ctx idx)).drop (recWake (s.readRec ctx idx) % 8) = [] →
      StepsTo (.keyReserve ctx idx) s fun t => chained t ⟨ctx, idx⟩) ∧
  (∀ (s : State) q x, s.queue q = some x → x.target = 3 → s.queueReady x = true →
    StepsTo (.launchAccept q) s fun t => t.nextLaunch = s.nextLaunch + 1) ∧
  (∀ (s : State) l x, s.launch l = some x →
    (s.launchMayStart x = true → s.launchFirst x = true →
      StepsTo (.launchStart l) s fun t => ∀ y ∈ t.launches, y.id = l → y.started = true) ∧
    (x.started = true → x.completed = false → x.live = 0 → StepsTo (.launchComplete l) s fun t => reported t l) ∧
    (x.started = true → x.completed = false → x.winAt + 130000 ≤ s.now →
      StepsTo (.classifyWindow l x.ops x.bytes) s fun t => ∀ y ∈ t.launches, y.id = l →
        y.cls = some (decide (s.classThresh * x.bytes ≤ x.ops)))) ∧
  (∀ s ctx idx src dst, mayMove s ⟨ctx, idx⟩ src dst →
    StepsTo (.readyRecordMove ctx idx src dst) s fun t => chained t ⟨ctx, idx⟩) ∧
  (∀ s d ctx idx leader k, let s0 := gangLeaves s d ⟨ctx, idx⟩
    gangReady s d ⟨ctx, idx⟩ leader k = true → s0.lostRec ctx idx = none → s0.recFault ctx idx = none →
      s.suspOf ctx idx = none →
      StepsTo (.gangPlace d ctx idx leader k) s fun t => ∃ sl, t.slot leader k = some sl ∧ sl.ctx = ctx ∧ sl.idx = idx) ∧
  (∀ (s : State) d cl ctx idx c, let r : RecId := ⟨ctx, idx⟩
    s.gangStalled d r = true → (s.die d).drain = none → s.bestRect d r cl = some c → s.mostRoom d r c = true →
      (∃ x ∈ s.gangSince, x.1 = r) → s.gangWait * 1300 ≤ s.gangWaited r →
        StepsTo (.gangDrain d cl ctx idx) s fun t => (t.die d).drain = some (c, r)) ∧
  (∀ (s : State) ctx idx, let r : RecId := ⟨ctx, idx⟩
    (s.gangSince.any fun x => x.1 == r) = true → (s.gangWait + s.gangLimit) * 1300 ≤ s.gangWaited r →
      StepsTo (.gangTimeout ctx idx) s fun t => ∀ x ∈ t.dies, ∀ y, x.2.drain = some y → y.2 ≠ r) ∧
  (∀ (s : State) cl leader size tag rs, s.fuseReady cl leader size tag = some rs →
    (∀ f ∈ rs, ∃ d after, fusesTo s f d after) → StepsTo (.gfuseDecide cl leader size tag) s fun t =>
      ∀ f ∈ rs, ∃ sl g, t.slot f.core f.slot = some sl ∧ sl.gangInfo = some g ∧ g.transient = true) ∧
  (∀ (s : State) c k f d after, (s.clus (clusterOf c)).fuses.find? (fun f => f.core == c && f.slot == k) = some f →
    f.at_ + 65536 ≤ s.now → s.fuseReady (clusterOf c) f.leader f.size f.tag = none → fusesTo s f d after →
      StepsTo (.gfuseTimeout c k) s fun t => ∃ sl p, t.slot c k = some sl ∧ p ∈ sl.pending ∧ p.val = 2) ∧
  (∀ (s : State) r idx, s.reqRec r = some idx → recState (s.readRec r.ctx idx) = 5 →
    Steps (.terminate r) s ((s.terminateRec r.ctx idx).putStatus r 0) ∧
    (s.fatal.contains ⟨r.ctx, idx⟩ = false → (s.adoptContainer r.ctx idx).ownContainer r.ctx idx = none →
      let s1 := (s.adoptContainer r.ctx idx).writeRec r.ctx idx (setWake (setState (s.readRec r.ctx idx) 2) 0)
      Steps (.resume r) s ((s1.makeReady (s1.wakeDie r.ctx idx) (recPrio (s.readRec r.ctx idx)) ⟨r.ctx, idx⟩ true).putStatus
        r 0))) ∧
  (∀ (s : State) r, (s.queues.find? fun q => q.ctx == r.ctx && q.desc.toNat == r.arg0) = none →
    s.queueBad r.ctx r.arg0 = false → StepsTo (.qreg r) s fun t => t.nextQueue = s.nextQueue + 1) ∧
  (∀ (s : State) r q, (s.queues.find? fun q => q.ctx == r.ctx && q.desc.toNat == r.arg0) = some q →
    (∀ l ∈ s.launches, l.queue = q.id → l.started = true) → (q.err = true ∨ s.queueRidx q = s.queueWidx q) →
      StepsTo (.qunreg r) s fun t => ∀ x ∈ t.queues, x.id ≠ q.id) ∧
  (∀ (s : State) r, 0 < r.arg1 → r.arg1 < 2 ^ 32 → r.arg0 = 0 →
    StepsTo (.setparam r) s fun t => t.gangWait = r.arg1) ∧
  (∀ (s : State) ctx, StepsTo (.contextDestroy ctx) s fun t => t.ctx ctx = Ctx.none)

/-- R323-R327, R380-R404, R426, R439, R453-R510: the steps of the engines, of memory, of the clusters and matrix units, and
of the package: each completes, with its own effect, wherever its conditions hold. -/
def Obligations.EnginesMemoryAndPackageComplete : Prop :=
  (∀ (s : State) d p l, (s.die d).pushed = p :: l → StepsTo (.packetAccept d) s fun t => (t.die d).pushed = l) ∧
  (∀ (s : State) q x, s.queue q = some x → x.err = false → x.target ≠ 3 → s.queueReady x = true →
    StepsTo (.queueSlotServe q) s fun t => t.nextOp = s.nextOp + 1) ∧
  (∀ (s : State) op o, s.op op = some o →
    (o.pkt.type = 2 → s.mayStart o = true → StepsTo (.copy op) s fun t => opNow t op fun y => y.started = true) ∧
    (o.pkt.type = 2 → o.started = true → o.ended = false → o.outSeg = none → ∀ p q,
      segmentSides s o = (.ok (.place p), .ok (.place q)) →
        StepsTo (.copySegment op) s fun t => ∃ y ∈ t.ops, y.id = op ∧ y.bytes = o.bytes + segmentLen s o) ∧
    (∀ x ok, o.outSeg = some x → StepsTo (.scaleoutSegmentAck op ok) s fun t => opNow t op fun y => y.outSeg = none) ∧
    (∀ i ∈ [(Instr.gather op, 3), (Instr.scatter op, 4)], o.pkt.type = i.2 → o.ended = false → o.started = false →
      s.mayStart o = true → StepsTo i.1 s fun t => opNow t op fun y => y.started = true) ∧
    (∀ k r, (o.rows.find? fun x => x.1 == k) = some (k, r) → firstOfSource (gNsrc o.pkt) k o.rows = true →
      StepsTo (.gatherRowLand op k) s fun t => opNow t op fun y => ∀ x ∈ y.rows, x.1 ≠ k) ∧
    (o.pkt.type = 5 → s.mayStart o = true → StepsTo (.coll op) s fun t => opNow t op fun y => y.started = true) ∧
    (o.pkt.type = 6 → maySettle s o → StepsTo (.waitid op) s fun t => opNow t op fun y => y.ended = true) ∧
    (o.pkt.type = 7 → maySettle s o →
      StepsTo (.marker op) s fun t => opNow t op fun y => y.ended = true) ∧
    (o.ended = true → o.completed = false →
      StepsTo (.operationComplete op) s fun t => opNow t op fun y => y.completed = true)) ∧
  (∀ (s : State) inst c, (s.colls.find? fun c => c.id == inst) = some c → c.live = true →
    s.localMembers c ≤ c.posted.length → (∀ m ∈ c.members, ¬ (s.fab.lostPeers.contains (m / 1024 % 1024) = true ∧
      m / 1024 ≠ s.pkg.devId.toNat)) →
      Steps (.collChunk inst) s ((s.chunk c (min (4096 / elemBytes c.fmt) (c.total - c.pos))).sweepOps)) ∧
  (∀ (s : State) a pa k, s.requestOk a pa k = true → a < 1040 → k ≠ .engineWrite →
    Steps (.homeRequest a pa k) s (s.homeAccept a pa k)) ∧
  (∀ (s : State) d line, StepsTo (.engineBufferMerge d line) s fun t => ∀ b ∈ (sget Line.inv t.lines line).bufs, b.1 ≠ d) ∧
  (∀ (s : State) ctx ea w op v p, ea % (w / 8) = 0 → (∀ pa key, p ≠ .mem pa 0 key) →
    s.placeOf ⟨ctx, true, 0⟩ .atomic false ea = .ok p → s.placePoisoned p (w / 8) = false →
      Steps (.atomicAtHome ctx ea w op v) s ((s.rmwPlace p w op v false).1)) ∧
  (∀ (s : State) n q, s.reqs[n]? = some q → (∀ r ∈ s.reqs.take n, r.pa / 128 ≠ q.pa / 128) →
    StepsTo (.proxyAtomic n) s fun t => t.reqs = s.reqs.eraseIdx n) ∧
  (∀ (s : State) line slice, s.deviceMem (line * 128) = true → s.tileAt (line * 128) = none → slice < 128 →
    slice / 16 ≠ home (line * 128) / 16 → (s.die (slice / 16)).lost = false →
      StepsTo (.lineMigration line slice) s fun t => (sget Line.inv t.lines line).slice = some slice) ∧
  (∀ (s : State) line, StepsTo (.migrationEnd line) s fun t => (sget Line.inv t.lines line).slice = none) ∧
  (∀ (s : State) a, a < 1024 → StepsTo (.probeTimeout a) s fun t => (t.die (dieOf a)).lost = true) ∧
  (∀ (s : State) d ctx va l raw srcs, s.walk ctx va.toNat = .leaf l raw srcs → d < 8 → StepsTo (.pageWalk d ctx va) s fun t =>
    (t.die d).tlb.contains ⟨ctx, va.toNat / l.size * l.size, l.size, BitVec.ofNat 64 raw, srcs⟩ = true) ∧
  (∀ (s : State) d h e, entryStands s d h e → StepsTo (.translationBuild d h e) s fun t =>
    ∃ x, (d, 0, x) ∈ t.translations ∧ x.handle = h ∧ x.off = e.off) ∧
  (∀ (s : State) ctx img place l, verify img = 0 → parseSects img = some l →
    s.loadFault ctx img place.base l ((parseSyms (bytesOf img l 0x8004)).getD []) place.dom0.length = 0 →
      StepsTo (.loadObject ctx img place) s fun t => t.loaded.1 = 0 ∧ ∃ o ∈ t.objects, o.handle = t.loaded.2 ∧ o.ctx = ctx) ∧
  (∀ (s : State) h, s.referenced h = false → StepsTo (.unloadObject h) s fun t => ∀ o ∈ t.objects, o.handle ≠ h) ∧
  (∀ (s : State) n f, s.flights[n]? = some f →
    (∀ g ∈ s.flights.take n, ¬ (g.src = f.src ∧ g.core = f.core ∧ g.port = f.port)) →
      StepsTo (.portWordDelivery n) s fun t => t.flights = s.flights.eraseIdx n) ∧
  (∀ (s : State) c n, (s.core c).count0 = sget (0 : Half) (s.core n).seen c + 1 →
    StepsTo (.phase0Publish c n) s fun t => sget (0 : Half) (t.core n).seen c = (s.core c).count0) ∧
  (∀ (s : State) ctx dom w, Steps (.barrierObjectArrival ctx dom w) s (s.arrive ctx dom w)) ∧
  (∀ (s : State) ctx dom, s.domHole ctx dom = none → domWaitUp (s.domain ctx dom) = true →
    Steps (.domainFlip ctx dom) s (State.domRun ctx (2 ^ 40) [.flip dom] s)) ∧
  (∀ (s : State) dev ctx dom, s.domExists ctx dom = true → s.devLost dev = false →
    Steps (.peerArrivalMessage dev ctx dom) s
      ((s.addSender ⟨ctx, dom, domOpen (s.domain ctx dom), none, dev⟩).arrive ctx dom 1)) ∧
  (∀ (s : State) c k sl h, s.slot c k = some sl → sl.hold = some h → windowed h.w = true → s.waitOver c sl h.w = true →
    StepsTo (.releaseWindow c k) s fun t => ∃ x, t.slot c k = some x ∧
      x.hold = if h.reissue then none else nextHold s.now h.after) ∧
  (∀ (s : State) c k cl line sl, (s.clus cl).regs.length < 256 → line < 64 → s.slot c k = some sl →
    StepsTo (.eventPageLoad c k cl line) s fun t => ∃ r ∈ (t.clus cl).regs, r.line = line ∧ r.ctx = sl.ctx ∧ r.idx = sl.idx) ∧
  (∀ (s : State) ctx cl line, s.holderNow cl = some ctx → line < 64 → StepsTo (.eventPageStore ctx cl line) s fun t =>
    sget (0 : Half) (t.clus cl).counts line = sget (0 : Half) (s.clus cl).counts line + 1) ∧
  (∀ (s : State) c r e, (s.core c).ring = some r → r.phase = .streaming e → e ≤ s.now → r.fin ≤ s.now →
    StepsTo (.mringReceive c) s fun t => (t.core r.succ).inb = .full r.tile) ∧
  (∀ (s : State) c n g, (s.core c).mst[n]? = some g → g.due < s.now → Steps (.mstStorePerform c n) s
    ((s.performGranule c g).modCore c fun x => { x with mst := x.mst.eraseIdx n })) ∧
  (∀ (s : State) c, (s.core c).lastMma + 13000 ≤ s.now → StepsTo (.matrixIdle c) s fun t => (t.core c).matIdle = true) ∧
  (∀ (s : State) d, StepsTo (.matrixStartGrant d) s fun t => ∀ c ∈ grantsNow s d, (t.core c).matIdle = false) ∧
  (∀ (s : State) c line, line < 12288 →
    (∀ h, holderOf h ≠ 0 → sget 0 (s.core c).owner line = 0 →
      StepsTo (.ownerWrite c line h) s fun t => sget 0 (t.core c).owner line = holderOf h) ∧
    (∀ v, (s.core c).allocated line = true → StepsTo (.feWrite c line v) s fun t => sget 0 (t.core c).fe line = v)) ∧
  (∀ (s : State) c n, (∀ h, StepsTo (.bindHolderWrite c n h) s fun t =>
      ((t.core c).binding n).staged = if holderOf h = 0 then 0 else holderOf h) ∧
    ∀ (r : Word), ((s.core c).binding n).staged ≠ 0 → ((s.core c).binding n).holder = 0 →
      routeOk c (r.setWidth 8) ((r >>> 8).setWidth 8) = true →
      StepsTo (.bindRouteWrite c n r) s fun t => ((t.core c).binding n).holder = ((s.core c).binding n).staged) ∧
  (∀ (s : State) draws temps, s.pkg.running = true → (∀ x ∈ temps, x ≤ 95) → StepsTo (.powerArbiterTick draws temps) s fun t =>
    t.pkg.budget = min 4500 (s.pkg.budget + 250)) ∧
  (∀ s : State, StepsTo .thermalShutdown s fun t => t.pkg.stopped = true) ∧
  (∀ (s : State) fail, StepsTo (.coldStart fail) s (fun t => t.pkg.running = fail.isNone) ∧
    (s.pkg.stopped = false → s.pkg.recovery = false → fail = none →
      StepsTo (.warmStart fail) s fun t => t.pkg.running = true ∧ t.pkg.warm = true)) ∧
  (∀ (s : State) img, s.pkg.recovery = true → StepsTo (.recoveryImageWrite img) s fun t => t.pkg.image = img) ∧
  (∀ (s : State) nonce buf, s.pkg.cxlUp = true → buf + 2048 ≤ 2 ^ 48 →
    StepsTo (.attest nonce buf) s fun t => t.pkg.attest = 2) ∧
  (∀ (s : State) id, 0 < id → id < 64 → StepsTo (.keyInstall id) s fun t => sget false t.pkg.keys id = true) ∧
  (∀ (s : State) d, (s.die d).lost = false → d < 10 → StepsTo (.dieLoss d) s fun t => (t.die d).lost = true) ∧
  (∀ (s : State) p u, errorAt s p u → StepsTo (.uncorrectableError p) s fun t => errorSeen s t u) ∧
  (∀ (s : State) u, u < 38 → StepsTo (.correctableError u) s fun t =>
    sget 0 t.pkg.counts u = oneMore (sget 0 s.pkg.counts u)) ∧
  (∀ s : State, StepsTo .cxlLinkFailure s fun t => t.pkg.cxlUp = false) ∧
  (∀ (s : State) pa, s.region pa = some .host → Steps (.hostSnoop pa) s (s.flushRun (pa / 128 * 128) 128)) ∧
  (∀ (s : State) pa, s.deviceMem pa = true → StepsTo (.hostRecallTimeout pa) s fun t => t.pkg.cxlUp = false) ∧
  (∀ (s : State) v, StepsTo (.hostConditionRead v) s fun t => v ∉ t.pkg.vectors) ∧
  (∀ (s : State) pa, s.isPeer pa = true → Steps (.peerProbe pa true) s (s.flushRun (pa / 128 * 128) 128)) ∧
  (∀ (s : State) m, s.fab.members.contains m = true → s.fab.lostPeers.contains m = false →
    m ≠ s.pkg.devId.toNat % 1024 → StepsTo (.peerLoss m) s fun t => m ∈ t.fab.lostPeers) ∧
  (∀ (s : State) m, StepsTo (.peerReturn m) s fun t => m ∉ t.fab.lostPeers)
end

