-- ==== Sys2Proof/Laws/Sparse.lean ====
section
/-!
SUPPORT. What the sparse maps do: a read after a write, and that every operation keeps the canonical form.
-/
namespace Sys2Proof.Machine

variable {α : Type}

@[simp] theorem sget_nil (d : α) (k : Nat) : sget d [] k = d := rfl

theorem sget_sput_same (d : α) (m : List (Nat × α)) (k : Nat) (v : α) : sget d (sput m k v) k = v := by
  induction m with
  | nil => simp [sput, sget]
  | cons c m ih =>
    obtain ⟨a, x⟩ := c
    simp only [sput]
    split
    · simp [sget]
    · split
      · simp [sget]
      · next h => simp [sget, ih, Ne.symm h]

theorem sget_sput_other (d : α) (m : List (Nat × α)) {k j : Nat} (v : α) (h : j ≠ k) :
    sget d (sput m k v) j = sget d m j := by
  induction m with
  | nil => simp [sput, sget, Ne.symm h]
  | cons c m ih =>
    obtain ⟨a, x⟩ := c
    simp only [sput]
    split
    · simp [sget, Ne.symm h]
    · split
      · next e => subst e; simp [sget, Ne.symm h]
      · simp [sget, ih]

/-- A read after a write. -/
theorem sget_sput (d : α) (m : List (Nat × α)) (k j : Nat) (v : α) :
    sget d (sput m k v) j = if j = k then v else sget d m j := by
  split
  · next h => subst h; exact sget_sput_same d m j v
  · next h => exact sget_sput_other d m v h

theorem sget_sdel (d : α) (m : List (Nat × α)) (k j : Nat) :
    sget d (sdel m k) j = if j = k then d else sget d m j := by
  induction m with
  | nil => simp [sdel]
  | cons c m ih =>
    obtain ⟨a, x⟩ := c
    simp only [sdel]
    by_cases h : a = k
    · subst h
      rw [if_pos rfl, ih]
      split
      · rfl
      · next hj => simp [sget, Ne.symm hj]
    · rw [if_neg h]
      simp only [sget, ih]
      split
      · next e => subst e; simp [h]
      · rfl

/-- A read after a write that may remove the entry. -/
theorem sget_sset [DecidableEq α] (d : α) (m : List (Nat × α)) (k j : Nat) (v : α) :
    sget d (sset d m k v) j = if j = k then v else sget d m j := by
  unfold sset
  split
  · next h => rw [sget_sdel, h]
  · exact sget_sput d m k j v

section canonical

variable [DecidableEq α] {d : α}

theorem swfFrom_mono {m : List (Nat × α)} {lo hi : Nat} (h : lo ≤ hi) (w : swfFrom d hi m = true) :
    swfFrom d lo m = true := by
  cases m with
  | nil => rfl
  | cons c m => simp only [swfFrom, Bool.and_eq_true, decide_eq_true_eq] at *; exact ⟨⟨by omega, w.1.2⟩, w.2⟩

theorem swfFrom_sput {m : List (Nat × α)} {lo k : Nat} {v : α} (hv : v ≠ d) (hk : lo ≤ k)
    (w : swfFrom d lo m = true) : swfFrom d lo (sput m k v) = true := by
  induction m generalizing lo with
  | nil => simp [sput, swfFrom, hk, hv]
  | cons c m ih =>
    obtain ⟨a, x⟩ := c
    simp only [swfFrom, Bool.and_eq_true, decide_eq_true_eq] at w
    simp only [sput]
    split
    · simp [swfFrom, hk, hv, w.1.2, w.2]; omega
    · split
      · next e => subst e; simp [swfFrom, hk, hv, w.2]
      · simp [swfFrom, w.1.1, w.1.2]; exact ih (by omega) w.2

theorem swfFrom_sdel {m : List (Nat × α)} {lo k : Nat} (w : swfFrom d lo m = true) :
    swfFrom d lo (sdel m k) = true := by
  induction m generalizing lo with
  | nil => rfl
  | cons c m ih =>
    obtain ⟨a, x⟩ := c
    simp only [swfFrom, Bool.and_eq_true, decide_eq_true_eq] at w
    simp only [sdel]
    split
    · exact swfFrom_mono (by omega) (ih w.2)
    · simp [swfFrom, w.1.1, w.1.2]; exact ih w.2

/-- Writing keeps the canonical form. -/
theorem swf_sset {m : List (Nat × α)} (k : Nat) (v : α) (w : swf d m = true) : swf d (sset d m k v) = true := by
  unfold swf sset at *
  split
  · exact swfFrom_sdel w
  · next h => exact swfFrom_sput h (Nat.zero_le k) w

/-- Leaving entries out keeps the canonical form. -/
theorem swfFrom_filter {m : List (Nat × α)} {lo : Nat} (p : Nat × α → Bool) (w : swfFrom d lo m = true) :
    swfFrom d lo (m.filter p) = true := by
  induction m generalizing lo with
  | nil => rfl
  | cons c m ih =>
    obtain ⟨a, x⟩ := c
    simp only [swfFrom, Bool.and_eq_true, decide_eq_true_eq] at w
    simp only [List.filter_cons]
    split
    · simp [swfFrom, w.1.1, w.1.2]; exact ih w.2
    · exact swfFrom_mono (by omega) (ih w.2)

theorem swf_filter {m : List (Nat × α)} (p : Nat × α → Bool) (w : swf d m = true) : swf d (m.filter p) = true :=
  swfFrom_filter p w

/-- Every key of a canonical list is at least its bound. -/
theorem swfFrom_le {m : List (Nat × α)} {lo : Nat} (w : swfFrom d lo m = true) : ∀ c ∈ m, lo ≤ c.1 := by
  induction m generalizing lo with
  | nil => simp
  | cons c m ih =>
    obtain ⟨a, x⟩ := c
    simp only [swfFrom, Bool.and_eq_true, decide_eq_true_eq] at w
    intro c hc
    rcases List.mem_cons.1 hc with rfl | hc
    · exact w.1.1
    · exact Nat.le_of_succ_le (Nat.le_trans (by omega) (ih w.2 c hc))

/-- Two canonical lists in a row, the first below the bound of the second. -/
theorem swfFrom_append {l m : List (Nat × α)} {lo hi : Nat} (wl : swfFrom d lo l = true)
    (hl : ∀ c ∈ l, c.1 < hi) (wm : swfFrom d hi m = true) (h : lo ≤ hi) : swfFrom d lo (l ++ m) = true := by
  induction l generalizing lo with
  | nil => exact swfFrom_mono h wm
  | cons c l ih =>
    obtain ⟨a, x⟩ := c
    simp only [swfFrom, Bool.and_eq_true, decide_eq_true_eq] at wl
    have ha := hl (a, x) (by simp)
    simp [swfFrom, wl.1.1, wl.1.2]
    exact ih wl.2 (fun c hc => hl c (by simp [hc])) ha

end canonical

/-! ## Runs of bytes -/

theorem swfFrom_cells (l : List Byte) (a : Nat) : swfFrom 0 a (cells a l) = true ∧ ∀ c ∈ cells a l, c.1 < a + l.length := by
  induction l generalizing a with
  | nil => simp [cells, swfFrom]
  | cons b l ih =>
    obtain ⟨h1, h2⟩ := ih (a + 1)
    simp only [cells]
    split
    · exact ⟨swfFrom_mono (Nat.le_succ a) h1, fun c hc => by have := h2 c hc; simp; omega⟩
    · next hb =>
      refine ⟨by simp only [swfFrom, h1]; simpa using hb, fun c hc => ?_⟩
      rcases List.mem_cons.1 hc with rfl | hc
      · simp
      · have := h2 c hc; simp; omega

theorem swfFrom_above {m : List (Nat × Byte)} {lo : Nat} (hi : Nat) (w : swfFrom 0 lo m = true) :
    swfFrom 0 hi (m.filter fun c => decide (hi ≤ c.1)) = true := by
  induction m generalizing lo with
  | nil => rfl
  | cons c m ih =>
    obtain ⟨a, x⟩ := c
    simp only [swfFrom, Bool.and_eq_true, decide_eq_true_eq] at w
    simp only [List.filter_cons]
    split
    · next h =>
      simp only [swfFrom, Bool.and_eq_true, decide_eq_true_eq]
      simp only [decide_eq_true_eq] at h
      exact ⟨⟨h, w.1.2⟩, swfFrom_filter _ w.2⟩
    · exact ih w.2

/-- A run of bytes written keeps the canonical form. -/
theorem swf_splice {m : List (Nat × Byte)} (a : Nat) (l : List Byte) (w : Memory.wf m = true) :
    Memory.wf (splice m a l) = true := by
  unfold Memory.wf swf splice at *
  refine swfFrom_append (hi := a + l.length) (swfFrom_append (hi := a) (swfFrom_filter _ w) ?_ (swfFrom_cells l a).1
    (Nat.zero_le a)) ?_ (swfFrom_above _ w) (Nat.zero_le _)
  · intro c hc; simpa using (List.mem_filter.1 hc).2
  · intro c hc
    rcases List.mem_append.1 hc with hc | hc
    · have : c.1 < a := by simpa using (List.mem_filter.1 hc).2
      omega
    · exact (swfFrom_cells l a).2 c hc

theorem wf_putBytes {m : List (Nat × Byte)} (a v n : Nat) (w : Memory.wf m = true) :
    Memory.wf (putBytes m a v n) = true := swf_splice a _ w

theorem sget_of_lt (d : α) {m : List (Nat × α)} {k : Nat} (h : ∀ c ∈ m, c.1 ≠ k) : sget d m k = d := by
  induction m with
  | nil => rfl
  | cons c m ih =>
    obtain ⟨a, x⟩ := c
    simp [sget, h (a, x) (by simp)]
    exact ih fun c hc => h c (by simp [hc])

theorem sget_append_left (d : α) (l : List (Nat × α)) {m : List (Nat × α)} {k : Nat} (h : ∀ c ∈ m, c.1 ≠ k) :
    sget d (l ++ m) k = sget d l k := by
  induction l with
  | nil => simpa using sget_of_lt d h
  | cons c l ih => obtain ⟨a, x⟩ := c; simp [sget, ih]

theorem sget_append_right (d : α) {l : List (Nat × α)} (m : List (Nat × α)) {k : Nat} (h : ∀ c ∈ l, c.1 ≠ k) :
    sget d (l ++ m) k = sget d m k := by
  induction l with
  | nil => rfl
  | cons c l ih =>
    obtain ⟨a, x⟩ := c
    simp [sget, h (a, x) (by simp)]
    exact ih fun c hc => h c (by simp [hc])

theorem sget_filter (d : α) (m : List (Nat × α)) (p : Nat → Bool) (k : Nat) :
    sget d (m.filter fun c => p c.1) k = if p k then sget d m k else d := by
  induction m with
  | nil => simp
  | cons c m ih =>
    obtain ⟨a, x⟩ := c
    simp only [List.filter_cons]
    by_cases h : a = k
    · subst h
      by_cases hp : p a <;> simp [hp, sget] at ih ⊢
      exact ih
    · split <;> simp [sget, h, ih]

theorem sget_cells (l : List Byte) (a k : Nat) :
    sget 0 (cells a l) k = if a ≤ k then l.getD (k - a) 0 else 0 := by
  induction l generalizing a with
  | nil => simp [cells]
  | cons b l ih =>
    simp only [cells]
    by_cases hk : a = k
    · subst hk
      split
      · next hb => rw [ih]; simp [hb]
      · simp [sget]
    · have : sget 0 (cells (a + 1) l) k = if a ≤ k then (b :: l).getD (k - a) 0 else 0 := by
        rw [ih]
        by_cases hle : a + 1 ≤ k
        · have e : k - a = (k - (a + 1)) + 1 := by omega
          rw [if_pos hle, if_pos (by omega), e, List.getD_cons_succ]
        · rw [if_neg hle, if_neg (by omega)]
      split
      · exact this
      · simpa [sget, hk] using this

/-- A byte read after a run of bytes is written: the run's inside it, the old one outside. -/
theorem sget_splice (m : List (Nat × Byte)) (a : Nat) (l : List Byte) (k : Nat) :
    sget 0 (splice m a l) k = if a ≤ k ∧ k < a + l.length then l.getD (k - a) 0 else sget 0 m k := by
  have hf := sget_filter (0 : Byte) m (fun j => decide (j < a)) k
  have hg := sget_filter (0 : Byte) m (fun j => decide (a + l.length ≤ j)) k
  have lo : ∀ c ∈ m.filter (fun c => decide (c.1 < a)), c.1 < a := fun c hc => by
    simpa using (List.mem_filter.1 hc).2
  have hi : ∀ c ∈ m.filter (fun c => decide (a + l.length ≤ c.1)), a + l.length ≤ c.1 := fun c hc => by
    simpa using (List.mem_filter.1 hc).2
  have mid := swfFrom_cells l a
  have mlo := swfFrom_le mid.1
  unfold splice
  by_cases h1 : k < a
  · rw [sget_append_left _ _ (fun c hc => by have := hi c hc; omega),
      sget_append_left _ _ (fun c hc => by have := mlo c hc; omega), hf, if_pos (by simpa using h1), if_neg (by omega)]
  · by_cases h2 : k < a + l.length
    · rw [sget_append_left _ _ (fun c hc => by have := hi c hc; omega),
        sget_append_right _ _ (fun c hc => by have := lo c hc; omega), sget_cells, if_pos (by omega),
        if_pos (by omega)]
    · rw [List.append_assoc, sget_append_right _ _ (fun c hc => by have := lo c hc; omega),
        sget_append_right _ _ (fun c hc => by have := mid.2 c hc; omega), hg,
        if_pos (by simpa using h2), if_neg (by omega)]

@[simp] theorem length_leBytes (n v : Nat) : (leBytes n v).length = n := by
  induction n generalizing v with
  | zero => rfl
  | succ n ih => simp [leBytes, ih]

theorem getD_leBytes (n v i : Nat) (h : i < n) : (leBytes n v).getD i 0 = BitVec.ofNat 8 (v / 256 ^ i) := by
  induction n generalizing v i with
  | zero => omega
  | succ n ih =>
    cases i with
    | zero => simp [leBytes]
    | succ i =>
      rw [leBytes, List.getD_cons_succ, ih _ _ (by omega), Nat.div_div_eq_div_mul, Nat.pow_succ, Nat.mul_comm 256]

/-- A byte read after n little-endian bytes are written. -/
theorem sget_putBytes (m : List (Nat × Byte)) (a v n k : Nat) :
    sget 0 (putBytes m a v n) k =
      if a ≤ k ∧ k < a + n then BitVec.ofNat 8 (v / 256 ^ (k - a)) else sget 0 m k := by
  unfold putBytes
  rw [sget_splice, length_leBytes]
  split
  · next h => rw [getD_leBytes _ _ _ (by omega)]
  · rfl

/-- A map over the values of a sparse map, where the default stays the default. -/
theorem sget_map (d : α) (m : List (Nat × α)) (f : Nat → α → α) (k : Nat) (hd : f k d = d) :
    sget d (m.map fun c => (c.1, f c.1 c.2)) k = f k (sget d m k) := by
  induction m with
  | nil => exact hd.symm
  | cons c m ih =>
    obtain ⟨a, x⟩ := c
    simp only [List.map_cons, sget]
    split
    · next h => rw [h]
    · exact ih

end Sys2Proof.Machine
end

