-- ==== Sys2Proof/Laws/State.lean ====
section
/-!
SUPPORT. What each update of the state leaves of each field, and what is read back from the field it changes.
-/
namespace Sys2Proof.Machine

/-! ## `State.setCore` -/

@[simp] theorem State.setCore_now (s : State) (c : Nat) (x : Core) : (s.setCore c x).now = s.now := rfl
@[simp] theorem State.setCore_agenda (s : State) (c : Nat) (x : Core) : (s.setCore c x).agenda = s.agenda := rfl
@[simp] theorem State.setCore_freeCtr (s : State) (c : Nat) (x : Core) : (s.setCore c x).freeCtr = s.freeCtr := rfl
@[simp] theorem State.setCore_issue (s : State) (c : Nat) (x : Core) : (s.setCore c x).issue = s.issue := rfl
@[simp] theorem State.setCore_mem (s : State) (c : Nat) (x : Core) : (s.setCore c x).mem = s.mem := rfl
@[simp] theorem State.setCore_backing (s : State) (c : Nat) (x : Core) : (s.setCore c x).backing = s.backing := rfl
@[simp] theorem State.setCore_poison (s : State) (c : Nat) (x : Core) : (s.setCore c x).poison = s.poison := rfl
@[simp] theorem State.setCore_lines (s : State) (c : Nat) (x : Core) : (s.setCore c x).lines = s.lines := rfl
@[simp] theorem State.setCore_tiles (s : State) (c : Nat) (x : Core) : (s.setCore c x).tiles = s.tiles := rfl
@[simp] theorem State.setCore_ctxs (s : State) (c : Nat) (x : Core) : (s.setCore c x).ctxs = s.ctxs := rfl
@[simp] theorem State.setCore_clusters (s : State) (c : Nat) (x : Core) : (s.setCore c x).clusters = s.clusters := rfl
@[simp] theorem State.setCore_dies (s : State) (c : Nat) (x : Core) : (s.setCore c x).dies = s.dies := rfl
@[simp] theorem State.setCore_suspended (s : State) (c : Nat) (x : Core) : (s.setCore c x).suspended = s.suspended := rfl
@[simp] theorem State.setCore_objects (s : State) (c : Nat) (x : Core) : (s.setCore c x).objects = s.objects := rfl
@[simp] theorem State.setCore_handleGen (s : State) (c : Nat) (x : Core) : (s.setCore c x).handleGen = s.handleGen := rfl
@[simp] theorem State.setCore_translations (s : State) (c : Nat) (x : Core) : (s.setCore c x).translations = s.translations := rfl
@[simp] theorem State.setCore_launches (s : State) (c : Nat) (x : Core) : (s.setCore c x).launches = s.launches := rfl
@[simp] theorem State.setCore_nextLaunch (s : State) (c : Nat) (x : Core) : (s.setCore c x).nextLaunch = s.nextLaunch := rfl
@[simp] theorem State.setCore_images (s : State) (c : Nat) (x : Core) : (s.setCore c x).images = s.images := rfl
@[simp] theorem State.setCore_imageOf (s : State) (c : Nat) (x : Core) : (s.setCore c x).imageOf = s.imageOf := rfl
@[simp] theorem State.setCore_queues (s : State) (c : Nat) (x : Core) : (s.setCore c x).queues = s.queues := rfl
@[simp] theorem State.setCore_nextQueue (s : State) (c : Nat) (x : Core) : (s.setCore c x).nextQueue = s.nextQueue := rfl
@[simp] theorem State.setCore_ops (s : State) (c : Nat) (x : Core) : (s.setCore c x).ops = s.ops := rfl
@[simp] theorem State.setCore_nextOp (s : State) (c : Nat) (x : Core) : (s.setCore c x).nextOp = s.nextOp := rfl
@[simp] theorem State.setCore_loaded (s : State) (c : Nat) (x : Core) : (s.setCore c x).loaded = s.loaded := rfl
@[simp] theorem State.setCore_colls (s : State) (c : Nat) (x : Core) : (s.setCore c x).colls = s.colls := rfl
@[simp] theorem State.setCore_collCount (s : State) (c : Nat) (x : Core) : (s.setCore c x).collCount = s.collCount := rfl
@[simp] theorem State.setCore_flights (s : State) (c : Nat) (x : Core) : (s.setCore c x).flights = s.flights := rfl
@[simp] theorem State.setCore_reqs (s : State) (c : Nat) (x : Core) : (s.setCore c x).reqs = s.reqs := rfl
@[simp] theorem State.setCore_gangWait (s : State) (c : Nat) (x : Core) : (s.setCore c x).gangWait = s.gangWait := rfl
@[simp] theorem State.setCore_gangLimit (s : State) (c : Nat) (x : Core) : (s.setCore c x).gangLimit = s.gangLimit := rfl
@[simp] theorem State.setCore_classThresh (s : State) (c : Nat) (x : Core) : (s.setCore c x).classThresh = s.classThresh := rfl
@[simp] theorem State.setCore_fatal (s : State) (c : Nat) (x : Core) : (s.setCore c x).fatal = s.fatal := rfl
@[simp] theorem State.setCore_launchOf (s : State) (c : Nat) (x : Core) : (s.setCore c x).launchOf = s.launchOf := rfl
@[simp] theorem State.setCore_gangSince (s : State) (c : Nat) (x : Core) : (s.setCore c x).gangSince = s.gangSince := rfl
@[simp] theorem State.setCore_reserving (s : State) (c : Nat) (x : Core) : (s.setCore c x).reserving = s.reserving := rfl
@[simp] theorem State.setCore_virtKept (s : State) (c : Nat) (x : Core) : (s.setCore c x).virtKept = s.virtKept := rfl
@[simp] theorem State.setCore_mapWords (s : State) (c : Nat) (x : Core) : (s.setCore c x).mapWords = s.mapWords := rfl
@[simp] theorem State.setCore_stepIds (s : State) (c : Nat) (x : Core) : (s.setCore c x).stepIds = s.stepIds := rfl
@[simp] theorem State.setCore_saved (s : State) (c : Nat) (x : Core) : (s.setCore c x).saved = s.saved := rfl
@[simp] theorem State.setCore_bornOn (s : State) (c : Nat) (x : Core) : (s.setCore c x).bornOn = s.bornOn := rfl
@[simp] theorem State.setCore_pkg (s : State) (c : Nat) (x : Core) : (s.setCore c x).pkg = s.pkg := rfl
@[simp] theorem State.setCore_fab (s : State) (c : Nat) (x : Core) : (s.setCore c x).fab = s.fab := rfl

/-! ## `State.modCore` -/

@[simp] theorem State.modCore_now (s : State) (c : Nat) (f : Core → Core) : (s.modCore c f).now = s.now := rfl
@[simp] theorem State.modCore_agenda (s : State) (c : Nat) (f : Core → Core) : (s.modCore c f).agenda = s.agenda := rfl
@[simp] theorem State.modCore_freeCtr (s : State) (c : Nat) (f : Core → Core) : (s.modCore c f).freeCtr = s.freeCtr := rfl
@[simp] theorem State.modCore_issue (s : State) (c : Nat) (f : Core → Core) : (s.modCore c f).issue = s.issue := rfl
@[simp] theorem State.modCore_mem (s : State) (c : Nat) (f : Core → Core) : (s.modCore c f).mem = s.mem := rfl
@[simp] theorem State.modCore_backing (s : State) (c : Nat) (f : Core → Core) : (s.modCore c f).backing = s.backing := rfl
@[simp] theorem State.modCore_poison (s : State) (c : Nat) (f : Core → Core) : (s.modCore c f).poison = s.poison := rfl
@[simp] theorem State.modCore_lines (s : State) (c : Nat) (f : Core → Core) : (s.modCore c f).lines = s.lines := rfl
@[simp] theorem State.modCore_tiles (s : State) (c : Nat) (f : Core → Core) : (s.modCore c f).tiles = s.tiles := rfl
@[simp] theorem State.modCore_ctxs (s : State) (c : Nat) (f : Core → Core) : (s.modCore c f).ctxs = s.ctxs := rfl
@[simp] theorem State.modCore_clusters (s : State) (c : Nat) (f : Core → Core) : (s.modCore c f).clusters = s.clusters := rfl
@[simp] theorem State.modCore_dies (s : State) (c : Nat) (f : Core → Core) : (s.modCore c f).dies = s.dies := rfl
@[simp] theorem State.modCore_suspended (s : State) (c : Nat) (f : Core → Core) : (s.modCore c f).suspended = s.suspended := rfl
@[simp] theorem State.modCore_objects (s : State) (c : Nat) (f : Core → Core) : (s.modCore c f).objects = s.objects := rfl
@[simp] theorem State.modCore_handleGen (s : State) (c : Nat) (f : Core → Core) : (s.modCore c f).handleGen = s.handleGen := rfl
@[simp] theorem State.modCore_translations (s : State) (c : Nat) (f : Core → Core) : (s.modCore c f).translations = s.translations := rfl
@[simp] theorem State.modCore_launches (s : State) (c : Nat) (f : Core → Core) : (s.modCore c f).launches = s.launches := rfl
@[simp] theorem State.modCore_nextLaunch (s : State) (c : Nat) (f : Core → Core) : (s.modCore c f).nextLaunch = s.nextLaunch := rfl
@[simp] theorem State.modCore_images (s : State) (c : Nat) (f : Core → Core) : (s.modCore c f).images = s.images := rfl
@[simp] theorem State.modCore_imageOf (s : State) (c : Nat) (f : Core → Core) : (s.modCore c f).imageOf = s.imageOf := rfl
@[simp] theorem State.modCore_queues (s : State) (c : Nat) (f : Core → Core) : (s.modCore c f).queues = s.queues := rfl
@[simp] theorem State.modCore_nextQueue (s : State) (c : Nat) (f : Core → Core) : (s.modCore c f).nextQueue = s.nextQueue := rfl
@[simp] theorem State.modCore_ops (s : State) (c : Nat) (f : Core → Core) : (s.modCore c f).ops = s.ops := rfl
@[simp] theorem State.modCore_nextOp (s : State) (c : Nat) (f : Core → Core) : (s.modCore c f).nextOp = s.nextOp := rfl
@[simp] theorem State.modCore_loaded (s : State) (c : Nat) (f : Core → Core) : (s.modCore c f).loaded = s.loaded := rfl
@[simp] theorem State.modCore_colls (s : State) (c : Nat) (f : Core → Core) : (s.modCore c f).colls = s.colls := rfl
@[simp] theorem State.modCore_collCount (s : State) (c : Nat) (f : Core → Core) : (s.modCore c f).collCount = s.collCount := rfl
@[simp] theorem State.modCore_flights (s : State) (c : Nat) (f : Core → Core) : (s.modCore c f).flights = s.flights := rfl
@[simp] theorem State.modCore_reqs (s : State) (c : Nat) (f : Core → Core) : (s.modCore c f).reqs = s.reqs := rfl
@[simp] theorem State.modCore_gangWait (s : State) (c : Nat) (f : Core → Core) : (s.modCore c f).gangWait = s.gangWait := rfl
@[simp] theorem State.modCore_gangLimit (s : State) (c : Nat) (f : Core → Core) : (s.modCore c f).gangLimit = s.gangLimit := rfl
@[simp] theorem State.modCore_classThresh (s : State) (c : Nat) (f : Core → Core) : (s.modCore c f).classThresh = s.classThresh := rfl
@[simp] theorem State.modCore_fatal (s : State) (c : Nat) (f : Core → Core) : (s.modCore c f).fatal = s.fatal := rfl
@[simp] theorem State.modCore_launchOf (s : State) (c : Nat) (f : Core → Core) : (s.modCore c f).launchOf = s.launchOf := rfl
@[simp] theorem State.modCore_gangSince (s : State) (c : Nat) (f : Core → Core) : (s.modCore c f).gangSince = s.gangSince := rfl
@[simp] theorem State.modCore_reserving (s : State) (c : Nat) (f : Core → Core) : (s.modCore c f).reserving = s.reserving := rfl
@[simp] theorem State.modCore_virtKept (s : State) (c : Nat) (f : Core → Core) : (s.modCore c f).virtKept = s.virtKept := rfl
@[simp] theorem State.modCore_mapWords (s : State) (c : Nat) (f : Core → Core) : (s.modCore c f).mapWords = s.mapWords := rfl
@[simp] theorem State.modCore_stepIds (s : State) (c : Nat) (f : Core → Core) : (s.modCore c f).stepIds = s.stepIds := rfl
@[simp] theorem State.modCore_saved (s : State) (c : Nat) (f : Core → Core) : (s.modCore c f).saved = s.saved := rfl
@[simp] theorem State.modCore_bornOn (s : State) (c : Nat) (f : Core → Core) : (s.modCore c f).bornOn = s.bornOn := rfl
@[simp] theorem State.modCore_pkg (s : State) (c : Nat) (f : Core → Core) : (s.modCore c f).pkg = s.pkg := rfl
@[simp] theorem State.modCore_fab (s : State) (c : Nat) (f : Core → Core) : (s.modCore c f).fab = s.fab := rfl

/-! ## `State.putSlot` -/

@[simp] theorem State.putSlot_now (s : State) (c k : Nat) (sl : Option Slot) : (s.putSlot c k sl).now = s.now := rfl
@[simp] theorem State.putSlot_agenda (s : State) (c k : Nat) (sl : Option Slot) : (s.putSlot c k sl).agenda = s.agenda := rfl
@[simp] theorem State.putSlot_freeCtr (s : State) (c k : Nat) (sl : Option Slot) : (s.putSlot c k sl).freeCtr = s.freeCtr := rfl
@[simp] theorem State.putSlot_issue (s : State) (c k : Nat) (sl : Option Slot) : (s.putSlot c k sl).issue = s.issue := rfl
@[simp] theorem State.putSlot_mem (s : State) (c k : Nat) (sl : Option Slot) : (s.putSlot c k sl).mem = s.mem := rfl
@[simp] theorem State.putSlot_backing (s : State) (c k : Nat) (sl : Option Slot) : (s.putSlot c k sl).backing = s.backing := rfl
@[simp] theorem State.putSlot_poison (s : State) (c k : Nat) (sl : Option Slot) : (s.putSlot c k sl).poison = s.poison := rfl
@[simp] theorem State.putSlot_lines (s : State) (c k : Nat) (sl : Option Slot) : (s.putSlot c k sl).lines = s.lines := rfl
@[simp] theorem State.putSlot_tiles (s : State) (c k : Nat) (sl : Option Slot) : (s.putSlot c k sl).tiles = s.tiles := rfl
@[simp] theorem State.putSlot_ctxs (s : State) (c k : Nat) (sl : Option Slot) : (s.putSlot c k sl).ctxs = s.ctxs := rfl
@[simp] theorem State.putSlot_clusters (s : State) (c k : Nat) (sl : Option Slot) : (s.putSlot c k sl).clusters = s.clusters := rfl
@[simp] theorem State.putSlot_dies (s : State) (c k : Nat) (sl : Option Slot) : (s.putSlot c k sl).dies = s.dies := rfl
@[simp] theorem State.putSlot_suspended (s : State) (c k : Nat) (sl : Option Slot) : (s.putSlot c k sl).suspended = s.suspended := rfl
@[simp] theorem State.putSlot_objects (s : State) (c k : Nat) (sl : Option Slot) : (s.putSlot c k sl).objects = s.objects := rfl
@[simp] theorem State.putSlot_handleGen (s : State) (c k : Nat) (sl : Option Slot) : (s.putSlot c k sl).handleGen = s.handleGen := rfl
@[simp] theorem State.putSlot_translations (s : State) (c k : Nat) (sl : Option Slot) : (s.putSlot c k sl).translations = s.translations := rfl
@[simp] theorem State.putSlot_launches (s : State) (c k : Nat) (sl : Option Slot) : (s.putSlot c k sl).launches = s.launches := rfl
@[simp] theorem State.putSlot_nextLaunch (s : State) (c k : Nat) (sl : Option Slot) : (s.putSlot c k sl).nextLaunch = s.nextLaunch := rfl
@[simp] theorem State.putSlot_images (s : State) (c k : Nat) (sl : Option Slot) : (s.putSlot c k sl).images = s.images := rfl
@[simp] theorem State.putSlot_imageOf (s : State) (c k : Nat) (sl : Option Slot) : (s.putSlot c k sl).imageOf = s.imageOf := rfl
@[simp] theorem State.putSlot_queues (s : State) (c k : Nat) (sl : Option Slot) : (s.putSlot c k sl).queues = s.queues := rfl
@[simp] theorem State.putSlot_nextQueue (s : State) (c k : Nat) (sl : Option Slot) : (s.putSlot c k sl).nextQueue = s.nextQueue := rfl
@[simp] theorem State.putSlot_ops (s : State) (c k : Nat) (sl : Option Slot) : (s.putSlot c k sl).ops = s.ops := rfl
@[simp] theorem State.putSlot_nextOp (s : State) (c k : Nat) (sl : Option Slot) : (s.putSlot c k sl).nextOp = s.nextOp := rfl
@[simp] theorem State.putSlot_loaded (s : State) (c k : Nat) (sl : Option Slot) : (s.putSlot c k sl).loaded = s.loaded := rfl
@[simp] theorem State.putSlot_colls (s : State) (c k : Nat) (sl : Option Slot) : (s.putSlot c k sl).colls = s.colls := rfl
@[simp] theorem State.putSlot_collCount (s : State) (c k : Nat) (sl : Option Slot) : (s.putSlot c k sl).collCount = s.collCount := rfl
@[simp] theorem State.putSlot_flights (s : State) (c k : Nat) (sl : Option Slot) : (s.putSlot c k sl).flights = s.flights := rfl
@[simp] theorem State.putSlot_reqs (s : State) (c k : Nat) (sl : Option Slot) : (s.putSlot c k sl).reqs = s.reqs := rfl
@[simp] theorem State.putSlot_gangWait (s : State) (c k : Nat) (sl : Option Slot) : (s.putSlot c k sl).gangWait = s.gangWait := rfl
@[simp] theorem State.putSlot_gangLimit (s : State) (c k : Nat) (sl : Option Slot) : (s.putSlot c k sl).gangLimit = s.gangLimit := rfl
@[simp] theorem State.putSlot_classThresh (s : State) (c k : Nat) (sl : Option Slot) : (s.putSlot c k sl).classThresh = s.classThresh := rfl
@[simp] theorem State.putSlot_fatal (s : State) (c k : Nat) (sl : Option Slot) : (s.putSlot c k sl).fatal = s.fatal := rfl
@[simp] theorem State.putSlot_launchOf (s : State) (c k : Nat) (sl : Option Slot) : (s.putSlot c k sl).launchOf = s.launchOf := rfl
@[simp] theorem State.putSlot_gangSince (s : State) (c k : Nat) (sl : Option Slot) : (s.putSlot c k sl).gangSince = s.gangSince := rfl
@[simp] theorem State.putSlot_reserving (s : State) (c k : Nat) (sl : Option Slot) : (s.putSlot c k sl).reserving = s.reserving := rfl
@[simp] theorem State.putSlot_virtKept (s : State) (c k : Nat) (sl : Option Slot) : (s.putSlot c k sl).virtKept = s.virtKept := rfl
@[simp] theorem State.putSlot_mapWords (s : State) (c k : Nat) (sl : Option Slot) : (s.putSlot c k sl).mapWords = s.mapWords := rfl
@[simp] theorem State.putSlot_stepIds (s : State) (c k : Nat) (sl : Option Slot) : (s.putSlot c k sl).stepIds = s.stepIds := rfl
@[simp] theorem State.putSlot_saved (s : State) (c k : Nat) (sl : Option Slot) : (s.putSlot c k sl).saved = s.saved := rfl
@[simp] theorem State.putSlot_bornOn (s : State) (c k : Nat) (sl : Option Slot) : (s.putSlot c k sl).bornOn = s.bornOn := rfl
@[simp] theorem State.putSlot_pkg (s : State) (c k : Nat) (sl : Option Slot) : (s.putSlot c k sl).pkg = s.pkg := rfl
@[simp] theorem State.putSlot_fab (s : State) (c k : Nat) (sl : Option Slot) : (s.putSlot c k sl).fab = s.fab := rfl

/-! ## `State.modDie` -/

@[simp] theorem State.modDie_now (s : State) (d : Nat) (f : Die → Die) : (s.modDie d f).now = s.now := rfl
@[simp] theorem State.modDie_agenda (s : State) (d : Nat) (f : Die → Die) : (s.modDie d f).agenda = s.agenda := rfl
@[simp] theorem State.modDie_freeCtr (s : State) (d : Nat) (f : Die → Die) : (s.modDie d f).freeCtr = s.freeCtr := rfl
@[simp] theorem State.modDie_issue (s : State) (d : Nat) (f : Die → Die) : (s.modDie d f).issue = s.issue := rfl
@[simp] theorem State.modDie_mem (s : State) (d : Nat) (f : Die → Die) : (s.modDie d f).mem = s.mem := rfl
@[simp] theorem State.modDie_backing (s : State) (d : Nat) (f : Die → Die) : (s.modDie d f).backing = s.backing := rfl
@[simp] theorem State.modDie_poison (s : State) (d : Nat) (f : Die → Die) : (s.modDie d f).poison = s.poison := rfl
@[simp] theorem State.modDie_lines (s : State) (d : Nat) (f : Die → Die) : (s.modDie d f).lines = s.lines := rfl
@[simp] theorem State.modDie_tiles (s : State) (d : Nat) (f : Die → Die) : (s.modDie d f).tiles = s.tiles := rfl
@[simp] theorem State.modDie_ctxs (s : State) (d : Nat) (f : Die → Die) : (s.modDie d f).ctxs = s.ctxs := rfl
@[simp] theorem State.modDie_cores (s : State) (d : Nat) (f : Die → Die) : (s.modDie d f).cores = s.cores := rfl
@[simp] theorem State.modDie_clusters (s : State) (d : Nat) (f : Die → Die) : (s.modDie d f).clusters = s.clusters := rfl
@[simp] theorem State.modDie_suspended (s : State) (d : Nat) (f : Die → Die) : (s.modDie d f).suspended = s.suspended := rfl
@[simp] theorem State.modDie_objects (s : State) (d : Nat) (f : Die → Die) : (s.modDie d f).objects = s.objects := rfl
@[simp] theorem State.modDie_handleGen (s : State) (d : Nat) (f : Die → Die) : (s.modDie d f).handleGen = s.handleGen := rfl
@[simp] theorem State.modDie_translations (s : State) (d : Nat) (f : Die → Die) : (s.modDie d f).translations = s.translations := rfl
@[simp] theorem State.modDie_launches (s : State) (d : Nat) (f : Die → Die) : (s.modDie d f).launches = s.launches := rfl
@[simp] theorem State.modDie_nextLaunch (s : State) (d : Nat) (f : Die → Die) : (s.modDie d f).nextLaunch = s.nextLaunch := rfl
@[simp] theorem State.modDie_images (s : State) (d : Nat) (f : Die → Die) : (s.modDie d f).images = s.images := rfl
@[simp] theorem State.modDie_imageOf (s : State) (d : Nat) (f : Die → Die) : (s.modDie d f).imageOf = s.imageOf := rfl
@[simp] theorem State.modDie_queues (s : State) (d : Nat) (f : Die → Die) : (s.modDie d f).queues = s.queues := rfl
@[simp] theorem State.modDie_nextQueue (s : State) (d : Nat) (f : Die → Die) : (s.modDie d f).nextQueue = s.nextQueue := rfl
@[simp] theorem State.modDie_ops (s : State) (d : Nat) (f : Die → Die) : (s.modDie d f).ops = s.ops := rfl
@[simp] theorem State.modDie_nextOp (s : State) (d : Nat) (f : Die → Die) : (s.modDie d f).nextOp = s.nextOp := rfl
@[simp] theorem State.modDie_loaded (s : State) (d : Nat) (f : Die → Die) : (s.modDie d f).loaded = s.loaded := rfl
@[simp] theorem State.modDie_colls (s : State) (d : Nat) (f : Die → Die) : (s.modDie d f).colls = s.colls := rfl
@[simp] theorem State.modDie_collCount (s : State) (d : Nat) (f : Die → Die) : (s.modDie d f).collCount = s.collCount := rfl
@[simp] theorem State.modDie_flights (s : State) (d : Nat) (f : Die → Die) : (s.modDie d f).flights = s.flights := rfl
@[simp] theorem State.modDie_reqs (s : State) (d : Nat) (f : Die → Die) : (s.modDie d f).reqs = s.reqs := rfl
@[simp] theorem State.modDie_gangWait (s : State) (d : Nat) (f : Die → Die) : (s.modDie d f).gangWait = s.gangWait := rfl
@[simp] theorem State.modDie_gangLimit (s : State) (d : Nat) (f : Die → Die) : (s.modDie d f).gangLimit = s.gangLimit := rfl
@[simp] theorem State.modDie_classThresh (s : State) (d : Nat) (f : Die → Die) : (s.modDie d f).classThresh = s.classThresh := rfl
@[simp] theorem State.modDie_fatal (s : State) (d : Nat) (f : Die → Die) : (s.modDie d f).fatal = s.fatal := rfl
@[simp] theorem State.modDie_launchOf (s : State) (d : Nat) (f : Die → Die) : (s.modDie d f).launchOf = s.launchOf := rfl
@[simp] theorem State.modDie_gangSince (s : State) (d : Nat) (f : Die → Die) : (s.modDie d f).gangSince = s.gangSince := rfl
@[simp] theorem State.modDie_reserving (s : State) (d : Nat) (f : Die → Die) : (s.modDie d f).reserving = s.reserving := rfl
@[simp] theorem State.modDie_virtKept (s : State) (d : Nat) (f : Die → Die) : (s.modDie d f).virtKept = s.virtKept := rfl
@[simp] theorem State.modDie_mapWords (s : State) (d : Nat) (f : Die → Die) : (s.modDie d f).mapWords = s.mapWords := rfl
@[simp] theorem State.modDie_stepIds (s : State) (d : Nat) (f : Die → Die) : (s.modDie d f).stepIds = s.stepIds := rfl
@[simp] theorem State.modDie_saved (s : State) (d : Nat) (f : Die → Die) : (s.modDie d f).saved = s.saved := rfl
@[simp] theorem State.modDie_bornOn (s : State) (d : Nat) (f : Die → Die) : (s.modDie d f).bornOn = s.bornOn := rfl
@[simp] theorem State.modDie_pkg (s : State) (d : Nat) (f : Die → Die) : (s.modDie d f).pkg = s.pkg := rfl
@[simp] theorem State.modDie_fab (s : State) (d : Nat) (f : Die → Die) : (s.modDie d f).fab = s.fab := rfl

/-! ## `State.modClus` -/

@[simp] theorem State.modClus_now (s : State) (k : Nat) (f : Cluster → Cluster) : (s.modClus k f).now = s.now := rfl
@[simp] theorem State.modClus_agenda (s : State) (k : Nat) (f : Cluster → Cluster) : (s.modClus k f).agenda = s.agenda := rfl
@[simp] theorem State.modClus_freeCtr (s : State) (k : Nat) (f : Cluster → Cluster) : (s.modClus k f).freeCtr = s.freeCtr := rfl
@[simp] theorem State.modClus_issue (s : State) (k : Nat) (f : Cluster → Cluster) : (s.modClus k f).issue = s.issue := rfl
@[simp] theorem State.modClus_mem (s : State) (k : Nat) (f : Cluster → Cluster) : (s.modClus k f).mem = s.mem := rfl
@[simp] theorem State.modClus_backing (s : State) (k : Nat) (f : Cluster → Cluster) : (s.modClus k f).backing = s.backing := rfl
@[simp] theorem State.modClus_poison (s : State) (k : Nat) (f : Cluster → Cluster) : (s.modClus k f).poison = s.poison := rfl
@[simp] theorem State.modClus_lines (s : State) (k : Nat) (f : Cluster → Cluster) : (s.modClus k f).lines = s.lines := rfl
@[simp] theorem State.modClus_tiles (s : State) (k : Nat) (f : Cluster → Cluster) : (s.modClus k f).tiles = s.tiles := rfl
@[simp] theorem State.modClus_ctxs (s : State) (k : Nat) (f : Cluster → Cluster) : (s.modClus k f).ctxs = s.ctxs := rfl
@[simp] theorem State.modClus_cores (s : State) (k : Nat) (f : Cluster → Cluster) : (s.modClus k f).cores = s.cores := rfl
@[simp] theorem State.modClus_dies (s : State) (k : Nat) (f : Cluster → Cluster) : (s.modClus k f).dies = s.dies := rfl
@[simp] theorem State.modClus_suspended (s : State) (k : Nat) (f : Cluster → Cluster) : (s.modClus k f).suspended = s.suspended := rfl
@[simp] theorem State.modClus_objects (s : State) (k : Nat) (f : Cluster → Cluster) : (s.modClus k f).objects = s.objects := rfl
@[simp] theorem State.modClus_handleGen (s : State) (k : Nat) (f : Cluster → Cluster) : (s.modClus k f).handleGen = s.handleGen := rfl
@[simp] theorem State.modClus_translations (s : State) (k : Nat) (f : Cluster → Cluster) : (s.modClus k f).translations = s.translations := rfl
@[simp] theorem State.modClus_launches (s : State) (k : Nat) (f : Cluster → Cluster) : (s.modClus k f).launches = s.launches := rfl
@[simp] theorem State.modClus_nextLaunch (s : State) (k : Nat) (f : Cluster → Cluster) : (s.modClus k f).nextLaunch = s.nextLaunch := rfl
@[simp] theorem State.modClus_images (s : State) (k : Nat) (f : Cluster → Cluster) : (s.modClus k f).images = s.images := rfl
@[simp] theorem State.modClus_imageOf (s : State) (k : Nat) (f : Cluster → Cluster) : (s.modClus k f).imageOf = s.imageOf := rfl
@[simp] theorem State.modClus_queues (s : State) (k : Nat) (f : Cluster → Cluster) : (s.modClus k f).queues = s.queues := rfl
@[simp] theorem State.modClus_nextQueue (s : State) (k : Nat) (f : Cluster → Cluster) : (s.modClus k f).nextQueue = s.nextQueue := rfl
@[simp] theorem State.modClus_ops (s : State) (k : Nat) (f : Cluster → Cluster) : (s.modClus k f).ops = s.ops := rfl
@[simp] theorem State.modClus_nextOp (s : State) (k : Nat) (f : Cluster → Cluster) : (s.modClus k f).nextOp = s.nextOp := rfl
@[simp] theorem State.modClus_loaded (s : State) (k : Nat) (f : Cluster → Cluster) : (s.modClus k f).loaded = s.loaded := rfl
@[simp] theorem State.modClus_colls (s : State) (k : Nat) (f : Cluster → Cluster) : (s.modClus k f).colls = s.colls := rfl
@[simp] theorem State.modClus_collCount (s : State) (k : Nat) (f : Cluster → Cluster) : (s.modClus k f).collCount = s.collCount := rfl
@[simp] theorem State.modClus_flights (s : State) (k : Nat) (f : Cluster → Cluster) : (s.modClus k f).flights = s.flights := rfl
@[simp] theorem State.modClus_reqs (s : State) (k : Nat) (f : Cluster → Cluster) : (s.modClus k f).reqs = s.reqs := rfl
@[simp] theorem State.modClus_gangWait (s : State) (k : Nat) (f : Cluster → Cluster) : (s.modClus k f).gangWait = s.gangWait := rfl
@[simp] theorem State.modClus_gangLimit (s : State) (k : Nat) (f : Cluster → Cluster) : (s.modClus k f).gangLimit = s.gangLimit := rfl
@[simp] theorem State.modClus_classThresh (s : State) (k : Nat) (f : Cluster → Cluster) : (s.modClus k f).classThresh = s.classThresh := rfl
@[simp] theorem State.modClus_fatal (s : State) (k : Nat) (f : Cluster → Cluster) : (s.modClus k f).fatal = s.fatal := rfl
@[simp] theorem State.modClus_launchOf (s : State) (k : Nat) (f : Cluster → Cluster) : (s.modClus k f).launchOf = s.launchOf := rfl
@[simp] theorem State.modClus_gangSince (s : State) (k : Nat) (f : Cluster → Cluster) : (s.modClus k f).gangSince = s.gangSince := rfl
@[simp] theorem State.modClus_reserving (s : State) (k : Nat) (f : Cluster → Cluster) : (s.modClus k f).reserving = s.reserving := rfl
@[simp] theorem State.modClus_virtKept (s : State) (k : Nat) (f : Cluster → Cluster) : (s.modClus k f).virtKept = s.virtKept := rfl
@[simp] theorem State.modClus_mapWords (s : State) (k : Nat) (f : Cluster → Cluster) : (s.modClus k f).mapWords = s.mapWords := rfl
@[simp] theorem State.modClus_stepIds (s : State) (k : Nat) (f : Cluster → Cluster) : (s.modClus k f).stepIds = s.stepIds := rfl
@[simp] theorem State.modClus_saved (s : State) (k : Nat) (f : Cluster → Cluster) : (s.modClus k f).saved = s.saved := rfl
@[simp] theorem State.modClus_bornOn (s : State) (k : Nat) (f : Cluster → Cluster) : (s.modClus k f).bornOn = s.bornOn := rfl
@[simp] theorem State.modClus_pkg (s : State) (k : Nat) (f : Cluster → Cluster) : (s.modClus k f).pkg = s.pkg := rfl
@[simp] theorem State.modClus_fab (s : State) (k : Nat) (f : Cluster → Cluster) : (s.modClus k f).fab = s.fab := rfl

/-! ## `State.modCtx` -/

@[simp] theorem State.modCtx_now (s : State) (x : Nat) (f : Ctx → Ctx) : (s.modCtx x f).now = s.now := rfl
@[simp] theorem State.modCtx_agenda (s : State) (x : Nat) (f : Ctx → Ctx) : (s.modCtx x f).agenda = s.agenda := rfl
@[simp] theorem State.modCtx_freeCtr (s : State) (x : Nat) (f : Ctx → Ctx) : (s.modCtx x f).freeCtr = s.freeCtr := rfl
@[simp] theorem State.modCtx_issue (s : State) (x : Nat) (f : Ctx → Ctx) : (s.modCtx x f).issue = s.issue := rfl
@[simp] theorem State.modCtx_mem (s : State) (x : Nat) (f : Ctx → Ctx) : (s.modCtx x f).mem = s.mem := rfl
@[simp] theorem State.modCtx_backing (s : State) (x : Nat) (f : Ctx → Ctx) : (s.modCtx x f).backing = s.backing := rfl
@[simp] theorem State.modCtx_poison (s : State) (x : Nat) (f : Ctx → Ctx) : (s.modCtx x f).poison = s.poison := rfl
@[simp] theorem State.modCtx_lines (s : State) (x : Nat) (f : Ctx → Ctx) : (s.modCtx x f).lines = s.lines := rfl
@[simp] theorem State.modCtx_tiles (s : State) (x : Nat) (f : Ctx → Ctx) : (s.modCtx x f).tiles = s.tiles := rfl
@[simp] theorem State.modCtx_cores (s : State) (x : Nat) (f : Ctx → Ctx) : (s.modCtx x f).cores = s.cores := rfl
@[simp] theorem State.modCtx_clusters (s : State) (x : Nat) (f : Ctx → Ctx) : (s.modCtx x f).clusters = s.clusters := rfl
@[simp] theorem State.modCtx_dies (s : State) (x : Nat) (f : Ctx → Ctx) : (s.modCtx x f).dies = s.dies := rfl
@[simp] theorem State.modCtx_suspended (s : State) (x : Nat) (f : Ctx → Ctx) : (s.modCtx x f).suspended = s.suspended := rfl
@[simp] theorem State.modCtx_objects (s : State) (x : Nat) (f : Ctx → Ctx) : (s.modCtx x f).objects = s.objects := rfl
@[simp] theorem State.modCtx_handleGen (s : State) (x : Nat) (f : Ctx → Ctx) : (s.modCtx x f).handleGen = s.handleGen := rfl
@[simp] theorem State.modCtx_translations (s : State) (x : Nat) (f : Ctx → Ctx) : (s.modCtx x f).translations = s.translations := rfl
@[simp] theorem State.modCtx_launches (s : State) (x : Nat) (f : Ctx → Ctx) : (s.modCtx x f).launches = s.launches := rfl
@[simp] theorem State.modCtx_nextLaunch (s : State) (x : Nat) (f : Ctx → Ctx) : (s.modCtx x f).nextLaunch = s.nextLaunch := rfl
@[simp] theorem State.modCtx_images (s : State) (x : Nat) (f : Ctx → Ctx) : (s.modCtx x f).images = s.images := rfl
@[simp] theorem State.modCtx_imageOf (s : State) (x : Nat) (f : Ctx → Ctx) : (s.modCtx x f).imageOf = s.imageOf := rfl
@[simp] theorem State.modCtx_queues (s : State) (x : Nat) (f : Ctx → Ctx) : (s.modCtx x f).queues = s.queues := rfl
@[simp] theorem State.modCtx_nextQueue (s : State) (x : Nat) (f : Ctx → Ctx) : (s.modCtx x f).nextQueue = s.nextQueue := rfl
@[simp] theorem State.modCtx_ops (s : State) (x : Nat) (f : Ctx → Ctx) : (s.modCtx x f).ops = s.ops := rfl
@[simp] theorem State.modCtx_nextOp (s : State) (x : Nat) (f : Ctx → Ctx) : (s.modCtx x f).nextOp = s.nextOp := rfl
@[simp] theorem State.modCtx_loaded (s : State) (x : Nat) (f : Ctx → Ctx) : (s.modCtx x f).loaded = s.loaded := rfl
@[simp] theorem State.modCtx_colls (s : State) (x : Nat) (f : Ctx → Ctx) : (s.modCtx x f).colls = s.colls := rfl
@[simp] theorem State.modCtx_collCount (s : State) (x : Nat) (f : Ctx → Ctx) : (s.modCtx x f).collCount = s.collCount := rfl
@[simp] theorem State.modCtx_flights (s : State) (x : Nat) (f : Ctx → Ctx) : (s.modCtx x f).flights = s.flights := rfl
@[simp] theorem State.modCtx_reqs (s : State) (x : Nat) (f : Ctx → Ctx) : (s.modCtx x f).reqs = s.reqs := rfl
@[simp] theorem State.modCtx_gangWait (s : State) (x : Nat) (f : Ctx → Ctx) : (s.modCtx x f).gangWait = s.gangWait := rfl
@[simp] theorem State.modCtx_gangLimit (s : State) (x : Nat) (f : Ctx → Ctx) : (s.modCtx x f).gangLimit = s.gangLimit := rfl
@[simp] theorem State.modCtx_classThresh (s : State) (x : Nat) (f : Ctx → Ctx) : (s.modCtx x f).classThresh = s.classThresh := rfl
@[simp] theorem State.modCtx_fatal (s : State) (x : Nat) (f : Ctx → Ctx) : (s.modCtx x f).fatal = s.fatal := rfl
@[simp] theorem State.modCtx_launchOf (s : State) (x : Nat) (f : Ctx → Ctx) : (s.modCtx x f).launchOf = s.launchOf := rfl
@[simp] theorem State.modCtx_gangSince (s : State) (x : Nat) (f : Ctx → Ctx) : (s.modCtx x f).gangSince = s.gangSince := rfl
@[simp] theorem State.modCtx_reserving (s : State) (x : Nat) (f : Ctx → Ctx) : (s.modCtx x f).reserving = s.reserving := rfl
@[simp] theorem State.modCtx_virtKept (s : State) (x : Nat) (f : Ctx → Ctx) : (s.modCtx x f).virtKept = s.virtKept := rfl
@[simp] theorem State.modCtx_mapWords (s : State) (x : Nat) (f : Ctx → Ctx) : (s.modCtx x f).mapWords = s.mapWords := rfl
@[simp] theorem State.modCtx_stepIds (s : State) (x : Nat) (f : Ctx → Ctx) : (s.modCtx x f).stepIds = s.stepIds := rfl
@[simp] theorem State.modCtx_saved (s : State) (x : Nat) (f : Ctx → Ctx) : (s.modCtx x f).saved = s.saved := rfl
@[simp] theorem State.modCtx_bornOn (s : State) (x : Nat) (f : Ctx → Ctx) : (s.modCtx x f).bornOn = s.bornOn := rfl
@[simp] theorem State.modCtx_pkg (s : State) (x : Nat) (f : Ctx → Ctx) : (s.modCtx x f).pkg = s.pkg := rfl
@[simp] theorem State.modCtx_fab (s : State) (x : Nat) (f : Ctx → Ctx) : (s.modCtx x f).fab = s.fab := rfl

/-! ## `State.modPkg` -/

@[simp] theorem State.modPkg_now (s : State) (f : Package → Package) : (s.modPkg f).now = s.now := rfl
@[simp] theorem State.modPkg_agenda (s : State) (f : Package → Package) : (s.modPkg f).agenda = s.agenda := rfl
@[simp] theorem State.modPkg_freeCtr (s : State) (f : Package → Package) : (s.modPkg f).freeCtr = s.freeCtr := rfl
@[simp] theorem State.modPkg_issue (s : State) (f : Package → Package) : (s.modPkg f).issue = s.issue := rfl
@[simp] theorem State.modPkg_mem (s : State) (f : Package → Package) : (s.modPkg f).mem = s.mem := rfl
@[simp] theorem State.modPkg_backing (s : State) (f : Package → Package) : (s.modPkg f).backing = s.backing := rfl
@[simp] theorem State.modPkg_poison (s : State) (f : Package → Package) : (s.modPkg f).poison = s.poison := rfl
@[simp] theorem State.modPkg_lines (s : State) (f : Package → Package) : (s.modPkg f).lines = s.lines := rfl
@[simp] theorem State.modPkg_tiles (s : State) (f : Package → Package) : (s.modPkg f).tiles = s.tiles := rfl
@[simp] theorem State.modPkg_ctxs (s : State) (f : Package → Package) : (s.modPkg f).ctxs = s.ctxs := rfl
@[simp] theorem State.modPkg_cores (s : State) (f : Package → Package) : (s.modPkg f).cores = s.cores := rfl
@[simp] theorem State.modPkg_clusters (s : State) (f : Package → Package) : (s.modPkg f).clusters = s.clusters := rfl
@[simp] theorem State.modPkg_dies (s : State) (f : Package → Package) : (s.modPkg f).dies = s.dies := rfl
@[simp] theorem State.modPkg_suspended (s : State) (f : Package → Package) : (s.modPkg f).suspended = s.suspended := rfl
@[simp] theorem State.modPkg_objects (s : State) (f : Package → Package) : (s.modPkg f).objects = s.objects := rfl
@[simp] theorem State.modPkg_handleGen (s : State) (f : Package → Package) : (s.modPkg f).handleGen = s.handleGen := rfl
@[simp] theorem State.modPkg_translations (s : State) (f : Package → Package) : (s.modPkg f).translations = s.translations := rfl
@[simp] theorem State.modPkg_launches (s : State) (f : Package → Package) : (s.modPkg f).launches = s.launches := rfl
@[simp] theorem State.modPkg_nextLaunch (s : State) (f : Package → Package) : (s.modPkg f).nextLaunch = s.nextLaunch := rfl
@[simp] theorem State.modPkg_images (s : State) (f : Package → Package) : (s.modPkg f).images = s.images := rfl
@[simp] theorem State.modPkg_imageOf (s : State) (f : Package → Package) : (s.modPkg f).imageOf = s.imageOf := rfl
@[simp] theorem State.modPkg_queues (s : State) (f : Package → Package) : (s.modPkg f).queues = s.queues := rfl
@[simp] theorem State.modPkg_nextQueue (s : State) (f : Package → Package) : (s.modPkg f).nextQueue = s.nextQueue := rfl
@[simp] theorem State.modPkg_ops (s : State) (f : Package → Package) : (s.modPkg f).ops = s.ops := rfl
@[simp] theorem State.modPkg_nextOp (s : State) (f : Package → Package) : (s.modPkg f).nextOp = s.nextOp := rfl
@[simp] theorem State.modPkg_loaded (s : State) (f : Package → Package) : (s.modPkg f).loaded = s.loaded := rfl
@[simp] theorem State.modPkg_colls (s : State) (f : Package → Package) : (s.modPkg f).colls = s.colls := rfl
@[simp] theorem State.modPkg_collCount (s : State) (f : Package → Package) : (s.modPkg f).collCount = s.collCount := rfl
@[simp] theorem State.modPkg_flights (s : State) (f : Package → Package) : (s.modPkg f).flights = s.flights := rfl
@[simp] theorem State.modPkg_reqs (s : State) (f : Package → Package) : (s.modPkg f).reqs = s.reqs := rfl
@[simp] theorem State.modPkg_gangWait (s : State) (f : Package → Package) : (s.modPkg f).gangWait = s.gangWait := rfl
@[simp] theorem State.modPkg_gangLimit (s : State) (f : Package → Package) : (s.modPkg f).gangLimit = s.gangLimit := rfl
@[simp] theorem State.modPkg_classThresh (s : State) (f : Package → Package) : (s.modPkg f).classThresh = s.classThresh := rfl
@[simp] theorem State.modPkg_fatal (s : State) (f : Package → Package) : (s.modPkg f).fatal = s.fatal := rfl
@[simp] theorem State.modPkg_launchOf (s : State) (f : Package → Package) : (s.modPkg f).launchOf = s.launchOf := rfl
@[simp] theorem State.modPkg_gangSince (s : State) (f : Package → Package) : (s.modPkg f).gangSince = s.gangSince := rfl
@[simp] theorem State.modPkg_reserving (s : State) (f : Package → Package) : (s.modPkg f).reserving = s.reserving := rfl
@[simp] theorem State.modPkg_virtKept (s : State) (f : Package → Package) : (s.modPkg f).virtKept = s.virtKept := rfl
@[simp] theorem State.modPkg_mapWords (s : State) (f : Package → Package) : (s.modPkg f).mapWords = s.mapWords := rfl
@[simp] theorem State.modPkg_stepIds (s : State) (f : Package → Package) : (s.modPkg f).stepIds = s.stepIds := rfl
@[simp] theorem State.modPkg_saved (s : State) (f : Package → Package) : (s.modPkg f).saved = s.saved := rfl
@[simp] theorem State.modPkg_bornOn (s : State) (f : Package → Package) : (s.modPkg f).bornOn = s.bornOn := rfl
@[simp] theorem State.modPkg_fab (s : State) (f : Package → Package) : (s.modPkg f).fab = s.fab := rfl

/-! ## `State.modFab` -/

@[simp] theorem State.modFab_now (s : State) (f : Fabric → Fabric) : (s.modFab f).now = s.now := rfl
@[simp] theorem State.modFab_agenda (s : State) (f : Fabric → Fabric) : (s.modFab f).agenda = s.agenda := rfl
@[simp] theorem State.modFab_freeCtr (s : State) (f : Fabric → Fabric) : (s.modFab f).freeCtr = s.freeCtr := rfl
@[simp] theorem State.modFab_issue (s : State) (f : Fabric → Fabric) : (s.modFab f).issue = s.issue := rfl
@[simp] theorem State.modFab_mem (s : State) (f : Fabric → Fabric) : (s.modFab f).mem = s.mem := rfl
@[simp] theorem State.modFab_backing (s : State) (f : Fabric → Fabric) : (s.modFab f).backing = s.backing := rfl
@[simp] theorem State.modFab_poison (s : State) (f : Fabric → Fabric) : (s.modFab f).poison = s.poison := rfl
@[simp] theorem State.modFab_lines (s : State) (f : Fabric → Fabric) : (s.modFab f).lines = s.lines := rfl
@[simp] theorem State.modFab_tiles (s : State) (f : Fabric → Fabric) : (s.modFab f).tiles = s.tiles := rfl
@[simp] theorem State.modFab_ctxs (s : State) (f : Fabric → Fabric) : (s.modFab f).ctxs = s.ctxs := rfl
@[simp] theorem State.modFab_cores (s : State) (f : Fabric → Fabric) : (s.modFab f).cores = s.cores := rfl
@[simp] theorem State.modFab_clusters (s : State) (f : Fabric → Fabric) : (s.modFab f).clusters = s.clusters := rfl
@[simp] theorem State.modFab_dies (s : State) (f : Fabric → Fabric) : (s.modFab f).dies = s.dies := rfl
@[simp] theorem State.modFab_suspended (s : State) (f : Fabric → Fabric) : (s.modFab f).suspended = s.suspended := rfl
@[simp] theorem State.modFab_objects (s : State) (f : Fabric → Fabric) : (s.modFab f).objects = s.objects := rfl
@[simp] theorem State.modFab_handleGen (s : State) (f : Fabric → Fabric) : (s.modFab f).handleGen = s.handleGen := rfl
@[simp] theorem State.modFab_translations (s : State) (f : Fabric → Fabric) : (s.modFab f).translations = s.translations := rfl
@[simp] theorem State.modFab_launches (s : State) (f : Fabric → Fabric) : (s.modFab f).launches = s.launches := rfl
@[simp] theorem State.modFab_nextLaunch (s : State) (f : Fabric → Fabric) : (s.modFab f).nextLaunch = s.nextLaunch := rfl
@[simp] theorem State.modFab_images (s : State) (f : Fabric → Fabric) : (s.modFab f).images = s.images := rfl
@[simp] theorem State.modFab_imageOf (s : State) (f : Fabric → Fabric) : (s.modFab f).imageOf = s.imageOf := rfl
@[simp] theorem State.modFab_queues (s : State) (f : Fabric → Fabric) : (s.modFab f).queues = s.queues := rfl
@[simp] theorem State.modFab_nextQueue (s : State) (f : Fabric → Fabric) : (s.modFab f).nextQueue = s.nextQueue := rfl
@[simp] theorem State.modFab_ops (s : State) (f : Fabric → Fabric) : (s.modFab f).ops = s.ops := rfl
@[simp] theorem State.modFab_nextOp (s : State) (f : Fabric → Fabric) : (s.modFab f).nextOp = s.nextOp := rfl
@[simp] theorem State.modFab_loaded (s : State) (f : Fabric → Fabric) : (s.modFab f).loaded = s.loaded := rfl
@[simp] theorem State.modFab_colls (s : State) (f : Fabric → Fabric) : (s.modFab f).colls = s.colls := rfl
@[simp] theorem State.modFab_collCount (s : State) (f : Fabric → Fabric) : (s.modFab f).collCount = s.collCount := rfl
@[simp] theorem State.modFab_flights (s : State) (f : Fabric → Fabric) : (s.modFab f).flights = s.flights := rfl
@[simp] theorem State.modFab_reqs (s : State) (f : Fabric → Fabric) : (s.modFab f).reqs = s.reqs := rfl
@[simp] theorem State.modFab_gangWait (s : State) (f : Fabric → Fabric) : (s.modFab f).gangWait = s.gangWait := rfl
@[simp] theorem State.modFab_gangLimit (s : State) (f : Fabric → Fabric) : (s.modFab f).gangLimit = s.gangLimit := rfl
@[simp] theorem State.modFab_classThresh (s : State) (f : Fabric → Fabric) : (s.modFab f).classThresh = s.classThresh := rfl
@[simp] theorem State.modFab_fatal (s : State) (f : Fabric → Fabric) : (s.modFab f).fatal = s.fatal := rfl
@[simp] theorem State.modFab_launchOf (s : State) (f : Fabric → Fabric) : (s.modFab f).launchOf = s.launchOf := rfl
@[simp] theorem State.modFab_gangSince (s : State) (f : Fabric → Fabric) : (s.modFab f).gangSince = s.gangSince := rfl
@[simp] theorem State.modFab_reserving (s : State) (f : Fabric → Fabric) : (s.modFab f).reserving = s.reserving := rfl
@[simp] theorem State.modFab_virtKept (s : State) (f : Fabric → Fabric) : (s.modFab f).virtKept = s.virtKept := rfl
@[simp] theorem State.modFab_mapWords (s : State) (f : Fabric → Fabric) : (s.modFab f).mapWords = s.mapWords := rfl
@[simp] theorem State.modFab_stepIds (s : State) (f : Fabric → Fabric) : (s.modFab f).stepIds = s.stepIds := rfl
@[simp] theorem State.modFab_saved (s : State) (f : Fabric → Fabric) : (s.modFab f).saved = s.saved := rfl
@[simp] theorem State.modFab_bornOn (s : State) (f : Fabric → Fabric) : (s.modFab f).bornOn = s.bornOn := rfl
@[simp] theorem State.modFab_pkg (s : State) (f : Fabric → Fabric) : (s.modFab f).pkg = s.pkg := rfl

/-! ## `State.bump` -/

@[simp] theorem State.bump_now (s : State) : (s.bump).now = s.now := rfl
@[simp] theorem State.bump_agenda (s : State) : (s.bump).agenda = s.agenda := rfl
@[simp] theorem State.bump_issue (s : State) : (s.bump).issue = s.issue := rfl
@[simp] theorem State.bump_mem (s : State) : (s.bump).mem = s.mem := rfl
@[simp] theorem State.bump_backing (s : State) : (s.bump).backing = s.backing := rfl
@[simp] theorem State.bump_poison (s : State) : (s.bump).poison = s.poison := rfl
@[simp] theorem State.bump_lines (s : State) : (s.bump).lines = s.lines := rfl
@[simp] theorem State.bump_tiles (s : State) : (s.bump).tiles = s.tiles := rfl
@[simp] theorem State.bump_ctxs (s : State) : (s.bump).ctxs = s.ctxs := rfl
@[simp] theorem State.bump_cores (s : State) : (s.bump).cores = s.cores := rfl
@[simp] theorem State.bump_clusters (s : State) : (s.bump).clusters = s.clusters := rfl
@[simp] theorem State.bump_dies (s : State) : (s.bump).dies = s.dies := rfl
@[simp] theorem State.bump_suspended (s : State) : (s.bump).suspended = s.suspended := rfl
@[simp] theorem State.bump_objects (s : State) : (s.bump).objects = s.objects := rfl
@[simp] theorem State.bump_handleGen (s : State) : (s.bump).handleGen = s.handleGen := rfl
@[simp] theorem State.bump_translations (s : State) : (s.bump).translations = s.translations := rfl
@[simp] theorem State.bump_launches (s : State) : (s.bump).launches = s.launches := rfl
@[simp] theorem State.bump_nextLaunch (s : State) : (s.bump).nextLaunch = s.nextLaunch := rfl
@[simp] theorem State.bump_images (s : State) : (s.bump).images = s.images := rfl
@[simp] theorem State.bump_imageOf (s : State) : (s.bump).imageOf = s.imageOf := rfl
@[simp] theorem State.bump_queues (s : State) : (s.bump).queues = s.queues := rfl
@[simp] theorem State.bump_nextQueue (s : State) : (s.bump).nextQueue = s.nextQueue := rfl
@[simp] theorem State.bump_ops (s : State) : (s.bump).ops = s.ops := rfl
@[simp] theorem State.bump_nextOp (s : State) : (s.bump).nextOp = s.nextOp := rfl
@[simp] theorem State.bump_loaded (s : State) : (s.bump).loaded = s.loaded := rfl
@[simp] theorem State.bump_colls (s : State) : (s.bump).colls = s.colls := rfl
@[simp] theorem State.bump_collCount (s : State) : (s.bump).collCount = s.collCount := rfl
@[simp] theorem State.bump_flights (s : State) : (s.bump).flights = s.flights := rfl
@[simp] theorem State.bump_reqs (s : State) : (s.bump).reqs = s.reqs := rfl
@[simp] theorem State.bump_gangWait (s : State) : (s.bump).gangWait = s.gangWait := rfl
@[simp] theorem State.bump_gangLimit (s : State) : (s.bump).gangLimit = s.gangLimit := rfl
@[simp] theorem State.bump_classThresh (s : State) : (s.bump).classThresh = s.classThresh := rfl
@[simp] theorem State.bump_fatal (s : State) : (s.bump).fatal = s.fatal := rfl
@[simp] theorem State.bump_launchOf (s : State) : (s.bump).launchOf = s.launchOf := rfl
@[simp] theorem State.bump_gangSince (s : State) : (s.bump).gangSince = s.gangSince := rfl
@[simp] theorem State.bump_reserving (s : State) : (s.bump).reserving = s.reserving := rfl
@[simp] theorem State.bump_virtKept (s : State) : (s.bump).virtKept = s.virtKept := rfl
@[simp] theorem State.bump_mapWords (s : State) : (s.bump).mapWords = s.mapWords := rfl
@[simp] theorem State.bump_stepIds (s : State) : (s.bump).stepIds = s.stepIds := rfl
@[simp] theorem State.bump_saved (s : State) : (s.bump).saved = s.saved := rfl
@[simp] theorem State.bump_bornOn (s : State) : (s.bump).bornOn = s.bornOn := rfl
@[simp] theorem State.bump_pkg (s : State) : (s.bump).pkg = s.pkg := rfl
@[simp] theorem State.bump_fab (s : State) : (s.bump).fab = s.fab := rfl

/-! ## `State.jump` -/

@[simp] theorem State.jump_now (s : State) (t : Word) : (s.jump t).now = s.now := rfl
@[simp] theorem State.jump_agenda (s : State) (t : Word) : (s.jump t).agenda = s.agenda := rfl
@[simp] theorem State.jump_freeCtr (s : State) (t : Word) : (s.jump t).freeCtr = s.freeCtr := rfl
@[simp] theorem State.jump_mem (s : State) (t : Word) : (s.jump t).mem = s.mem := rfl
@[simp] theorem State.jump_backing (s : State) (t : Word) : (s.jump t).backing = s.backing := rfl
@[simp] theorem State.jump_poison (s : State) (t : Word) : (s.jump t).poison = s.poison := rfl
@[simp] theorem State.jump_lines (s : State) (t : Word) : (s.jump t).lines = s.lines := rfl
@[simp] theorem State.jump_tiles (s : State) (t : Word) : (s.jump t).tiles = s.tiles := rfl
@[simp] theorem State.jump_ctxs (s : State) (t : Word) : (s.jump t).ctxs = s.ctxs := rfl
@[simp] theorem State.jump_cores (s : State) (t : Word) : (s.jump t).cores = s.cores := rfl
@[simp] theorem State.jump_clusters (s : State) (t : Word) : (s.jump t).clusters = s.clusters := rfl
@[simp] theorem State.jump_dies (s : State) (t : Word) : (s.jump t).dies = s.dies := rfl
@[simp] theorem State.jump_suspended (s : State) (t : Word) : (s.jump t).suspended = s.suspended := rfl
@[simp] theorem State.jump_objects (s : State) (t : Word) : (s.jump t).objects = s.objects := rfl
@[simp] theorem State.jump_handleGen (s : State) (t : Word) : (s.jump t).handleGen = s.handleGen := rfl
@[simp] theorem State.jump_translations (s : State) (t : Word) : (s.jump t).translations = s.translations := rfl
@[simp] theorem State.jump_launches (s : State) (t : Word) : (s.jump t).launches = s.launches := rfl
@[simp] theorem State.jump_nextLaunch (s : State) (t : Word) : (s.jump t).nextLaunch = s.nextLaunch := rfl
@[simp] theorem State.jump_images (s : State) (t : Word) : (s.jump t).images = s.images := rfl
@[simp] theorem State.jump_imageOf (s : State) (t : Word) : (s.jump t).imageOf = s.imageOf := rfl
@[simp] theorem State.jump_queues (s : State) (t : Word) : (s.jump t).queues = s.queues := rfl
@[simp] theorem State.jump_nextQueue (s : State) (t : Word) : (s.jump t).nextQueue = s.nextQueue := rfl
@[simp] theorem State.jump_ops (s : State) (t : Word) : (s.jump t).ops = s.ops := rfl
@[simp] theorem State.jump_nextOp (s : State) (t : Word) : (s.jump t).nextOp = s.nextOp := rfl
@[simp] theorem State.jump_loaded (s : State) (t : Word) : (s.jump t).loaded = s.loaded := rfl
@[simp] theorem State.jump_colls (s : State) (t : Word) : (s.jump t).colls = s.colls := rfl
@[simp] theorem State.jump_collCount (s : State) (t : Word) : (s.jump t).collCount = s.collCount := rfl
@[simp] theorem State.jump_flights (s : State) (t : Word) : (s.jump t).flights = s.flights := rfl
@[simp] theorem State.jump_reqs (s : State) (t : Word) : (s.jump t).reqs = s.reqs := rfl
@[simp] theorem State.jump_gangWait (s : State) (t : Word) : (s.jump t).gangWait = s.gangWait := rfl
@[simp] theorem State.jump_gangLimit (s : State) (t : Word) : (s.jump t).gangLimit = s.gangLimit := rfl
@[simp] theorem State.jump_classThresh (s : State) (t : Word) : (s.jump t).classThresh = s.classThresh := rfl
@[simp] theorem State.jump_fatal (s : State) (t : Word) : (s.jump t).fatal = s.fatal := rfl
@[simp] theorem State.jump_launchOf (s : State) (t : Word) : (s.jump t).launchOf = s.launchOf := rfl
@[simp] theorem State.jump_gangSince (s : State) (t : Word) : (s.jump t).gangSince = s.gangSince := rfl
@[simp] theorem State.jump_reserving (s : State) (t : Word) : (s.jump t).reserving = s.reserving := rfl
@[simp] theorem State.jump_virtKept (s : State) (t : Word) : (s.jump t).virtKept = s.virtKept := rfl
@[simp] theorem State.jump_mapWords (s : State) (t : Word) : (s.jump t).mapWords = s.mapWords := rfl
@[simp] theorem State.jump_stepIds (s : State) (t : Word) : (s.jump t).stepIds = s.stepIds := rfl
@[simp] theorem State.jump_saved (s : State) (t : Word) : (s.jump t).saved = s.saved := rfl
@[simp] theorem State.jump_bornOn (s : State) (t : Word) : (s.jump t).bornOn = s.bornOn := rfl
@[simp] theorem State.jump_pkg (s : State) (t : Word) : (s.jump t).pkg = s.pkg := rfl
@[simp] theorem State.jump_fab (s : State) (t : Word) : (s.jump t).fab = s.fab := rfl

/-! ## `State.push` -/

@[simp] theorem State.push_now (s : State) (p : Nat) (w : Word) : (s.push p w).now = s.now := rfl
@[simp] theorem State.push_agenda (s : State) (p : Nat) (w : Word) : (s.push p w).agenda = s.agenda := rfl
@[simp] theorem State.push_freeCtr (s : State) (p : Nat) (w : Word) : (s.push p w).freeCtr = s.freeCtr := rfl
@[simp] theorem State.push_mem (s : State) (p : Nat) (w : Word) : (s.push p w).mem = s.mem := rfl
@[simp] theorem State.push_backing (s : State) (p : Nat) (w : Word) : (s.push p w).backing = s.backing := rfl
@[simp] theorem State.push_poison (s : State) (p : Nat) (w : Word) : (s.push p w).poison = s.poison := rfl
@[simp] theorem State.push_lines (s : State) (p : Nat) (w : Word) : (s.push p w).lines = s.lines := rfl
@[simp] theorem State.push_tiles (s : State) (p : Nat) (w : Word) : (s.push p w).tiles = s.tiles := rfl
@[simp] theorem State.push_ctxs (s : State) (p : Nat) (w : Word) : (s.push p w).ctxs = s.ctxs := rfl
@[simp] theorem State.push_cores (s : State) (p : Nat) (w : Word) : (s.push p w).cores = s.cores := rfl
@[simp] theorem State.push_clusters (s : State) (p : Nat) (w : Word) : (s.push p w).clusters = s.clusters := rfl
@[simp] theorem State.push_dies (s : State) (p : Nat) (w : Word) : (s.push p w).dies = s.dies := rfl
@[simp] theorem State.push_suspended (s : State) (p : Nat) (w : Word) : (s.push p w).suspended = s.suspended := rfl
@[simp] theorem State.push_objects (s : State) (p : Nat) (w : Word) : (s.push p w).objects = s.objects := rfl
@[simp] theorem State.push_handleGen (s : State) (p : Nat) (w : Word) : (s.push p w).handleGen = s.handleGen := rfl
@[simp] theorem State.push_translations (s : State) (p : Nat) (w : Word) : (s.push p w).translations = s.translations := rfl
@[simp] theorem State.push_launches (s : State) (p : Nat) (w : Word) : (s.push p w).launches = s.launches := rfl
@[simp] theorem State.push_nextLaunch (s : State) (p : Nat) (w : Word) : (s.push p w).nextLaunch = s.nextLaunch := rfl
@[simp] theorem State.push_images (s : State) (p : Nat) (w : Word) : (s.push p w).images = s.images := rfl
@[simp] theorem State.push_imageOf (s : State) (p : Nat) (w : Word) : (s.push p w).imageOf = s.imageOf := rfl
@[simp] theorem State.push_queues (s : State) (p : Nat) (w : Word) : (s.push p w).queues = s.queues := rfl
@[simp] theorem State.push_nextQueue (s : State) (p : Nat) (w : Word) : (s.push p w).nextQueue = s.nextQueue := rfl
@[simp] theorem State.push_ops (s : State) (p : Nat) (w : Word) : (s.push p w).ops = s.ops := rfl
@[simp] theorem State.push_nextOp (s : State) (p : Nat) (w : Word) : (s.push p w).nextOp = s.nextOp := rfl
@[simp] theorem State.push_loaded (s : State) (p : Nat) (w : Word) : (s.push p w).loaded = s.loaded := rfl
@[simp] theorem State.push_colls (s : State) (p : Nat) (w : Word) : (s.push p w).colls = s.colls := rfl
@[simp] theorem State.push_collCount (s : State) (p : Nat) (w : Word) : (s.push p w).collCount = s.collCount := rfl
@[simp] theorem State.push_flights (s : State) (p : Nat) (w : Word) : (s.push p w).flights = s.flights := rfl
@[simp] theorem State.push_reqs (s : State) (p : Nat) (w : Word) : (s.push p w).reqs = s.reqs := rfl
@[simp] theorem State.push_gangWait (s : State) (p : Nat) (w : Word) : (s.push p w).gangWait = s.gangWait := rfl
@[simp] theorem State.push_gangLimit (s : State) (p : Nat) (w : Word) : (s.push p w).gangLimit = s.gangLimit := rfl
@[simp] theorem State.push_classThresh (s : State) (p : Nat) (w : Word) : (s.push p w).classThresh = s.classThresh := rfl
@[simp] theorem State.push_fatal (s : State) (p : Nat) (w : Word) : (s.push p w).fatal = s.fatal := rfl
@[simp] theorem State.push_launchOf (s : State) (p : Nat) (w : Word) : (s.push p w).launchOf = s.launchOf := rfl
@[simp] theorem State.push_gangSince (s : State) (p : Nat) (w : Word) : (s.push p w).gangSince = s.gangSince := rfl
@[simp] theorem State.push_reserving (s : State) (p : Nat) (w : Word) : (s.push p w).reserving = s.reserving := rfl
@[simp] theorem State.push_virtKept (s : State) (p : Nat) (w : Word) : (s.push p w).virtKept = s.virtKept := rfl
@[simp] theorem State.push_mapWords (s : State) (p : Nat) (w : Word) : (s.push p w).mapWords = s.mapWords := rfl
@[simp] theorem State.push_stepIds (s : State) (p : Nat) (w : Word) : (s.push p w).stepIds = s.stepIds := rfl
@[simp] theorem State.push_saved (s : State) (p : Nat) (w : Word) : (s.push p w).saved = s.saved := rfl
@[simp] theorem State.push_bornOn (s : State) (p : Nat) (w : Word) : (s.push p w).bornOn = s.bornOn := rfl
@[simp] theorem State.push_pkg (s : State) (p : Nat) (w : Word) : (s.push p w).pkg = s.pkg := rfl
@[simp] theorem State.push_fab (s : State) (p : Nat) (w : Word) : (s.push p w).fab = s.fab := rfl

/-! ## `State.pairGone` -/

@[simp] theorem State.pairGone_now (s : State) : (s.pairGone).now = s.now := rfl
@[simp] theorem State.pairGone_agenda (s : State) : (s.pairGone).agenda = s.agenda := rfl
@[simp] theorem State.pairGone_freeCtr (s : State) : (s.pairGone).freeCtr = s.freeCtr := rfl
@[simp] theorem State.pairGone_mem (s : State) : (s.pairGone).mem = s.mem := rfl
@[simp] theorem State.pairGone_backing (s : State) : (s.pairGone).backing = s.backing := rfl
@[simp] theorem State.pairGone_poison (s : State) : (s.pairGone).poison = s.poison := rfl
@[simp] theorem State.pairGone_lines (s : State) : (s.pairGone).lines = s.lines := rfl
@[simp] theorem State.pairGone_tiles (s : State) : (s.pairGone).tiles = s.tiles := rfl
@[simp] theorem State.pairGone_ctxs (s : State) : (s.pairGone).ctxs = s.ctxs := rfl
@[simp] theorem State.pairGone_cores (s : State) : (s.pairGone).cores = s.cores := rfl
@[simp] theorem State.pairGone_clusters (s : State) : (s.pairGone).clusters = s.clusters := rfl
@[simp] theorem State.pairGone_dies (s : State) : (s.pairGone).dies = s.dies := rfl
@[simp] theorem State.pairGone_suspended (s : State) : (s.pairGone).suspended = s.suspended := rfl
@[simp] theorem State.pairGone_objects (s : State) : (s.pairGone).objects = s.objects := rfl
@[simp] theorem State.pairGone_handleGen (s : State) : (s.pairGone).handleGen = s.handleGen := rfl
@[simp] theorem State.pairGone_translations (s : State) : (s.pairGone).translations = s.translations := rfl
@[simp] theorem State.pairGone_launches (s : State) : (s.pairGone).launches = s.launches := rfl
@[simp] theorem State.pairGone_nextLaunch (s : State) : (s.pairGone).nextLaunch = s.nextLaunch := rfl
@[simp] theorem State.pairGone_images (s : State) : (s.pairGone).images = s.images := rfl
@[simp] theorem State.pairGone_imageOf (s : State) : (s.pairGone).imageOf = s.imageOf := rfl
@[simp] theorem State.pairGone_queues (s : State) : (s.pairGone).queues = s.queues := rfl
@[simp] theorem State.pairGone_nextQueue (s : State) : (s.pairGone).nextQueue = s.nextQueue := rfl
@[simp] theorem State.pairGone_ops (s : State) : (s.pairGone).ops = s.ops := rfl
@[simp] theorem State.pairGone_nextOp (s : State) : (s.pairGone).nextOp = s.nextOp := rfl
@[simp] theorem State.pairGone_loaded (s : State) : (s.pairGone).loaded = s.loaded := rfl
@[simp] theorem State.pairGone_colls (s : State) : (s.pairGone).colls = s.colls := rfl
@[simp] theorem State.pairGone_collCount (s : State) : (s.pairGone).collCount = s.collCount := rfl
@[simp] theorem State.pairGone_flights (s : State) : (s.pairGone).flights = s.flights := rfl
@[simp] theorem State.pairGone_reqs (s : State) : (s.pairGone).reqs = s.reqs := rfl
@[simp] theorem State.pairGone_gangWait (s : State) : (s.pairGone).gangWait = s.gangWait := rfl
@[simp] theorem State.pairGone_gangLimit (s : State) : (s.pairGone).gangLimit = s.gangLimit := rfl
@[simp] theorem State.pairGone_classThresh (s : State) : (s.pairGone).classThresh = s.classThresh := rfl
@[simp] theorem State.pairGone_fatal (s : State) : (s.pairGone).fatal = s.fatal := rfl
@[simp] theorem State.pairGone_launchOf (s : State) : (s.pairGone).launchOf = s.launchOf := rfl
@[simp] theorem State.pairGone_gangSince (s : State) : (s.pairGone).gangSince = s.gangSince := rfl
@[simp] theorem State.pairGone_reserving (s : State) : (s.pairGone).reserving = s.reserving := rfl
@[simp] theorem State.pairGone_virtKept (s : State) : (s.pairGone).virtKept = s.virtKept := rfl
@[simp] theorem State.pairGone_mapWords (s : State) : (s.pairGone).mapWords = s.mapWords := rfl
@[simp] theorem State.pairGone_stepIds (s : State) : (s.pairGone).stepIds = s.stepIds := rfl
@[simp] theorem State.pairGone_saved (s : State) : (s.pairGone).saved = s.saved := rfl
@[simp] theorem State.pairGone_bornOn (s : State) : (s.pairGone).bornOn = s.bornOn := rfl
@[simp] theorem State.pairGone_pkg (s : State) : (s.pairGone).pkg = s.pkg := rfl
@[simp] theorem State.pairGone_fab (s : State) : (s.pairGone).fab = s.fab := rfl

/-! ## `State.modSlot` -/

@[simp] theorem State.modSlot_now (s : State) (c k : Nat) (f : Slot → Slot) : (s.modSlot c k f).now = s.now := by
  unfold State.modSlot; split <;> rfl
@[simp] theorem State.modSlot_agenda (s : State) (c k : Nat) (f : Slot → Slot) : (s.modSlot c k f).agenda = s.agenda := by
  unfold State.modSlot; split <;> rfl
@[simp] theorem State.modSlot_freeCtr (s : State) (c k : Nat) (f : Slot → Slot) : (s.modSlot c k f).freeCtr = s.freeCtr := by
  unfold State.modSlot; split <;> rfl
@[simp] theorem State.modSlot_issue (s : State) (c k : Nat) (f : Slot → Slot) : (s.modSlot c k f).issue = s.issue := by
  unfold State.modSlot; split <;> rfl
@[simp] theorem State.modSlot_mem (s : State) (c k : Nat) (f : Slot → Slot) : (s.modSlot c k f).mem = s.mem := by
  unfold State.modSlot; split <;> rfl
@[simp] theorem State.modSlot_backing (s : State) (c k : Nat) (f : Slot → Slot) : (s.modSlot c k f).backing = s.backing := by
  unfold State.modSlot; split <;> rfl
@[simp] theorem State.modSlot_poison (s : State) (c k : Nat) (f : Slot → Slot) : (s.modSlot c k f).poison = s.poison := by
  unfold State.modSlot; split <;> rfl
@[simp] theorem State.modSlot_lines (s : State) (c k : Nat) (f : Slot → Slot) : (s.modSlot c k f).lines = s.lines := by
  unfold State.modSlot; split <;> rfl
@[simp] theorem State.modSlot_tiles (s : State) (c k : Nat) (f : Slot → Slot) : (s.modSlot c k f).tiles = s.tiles := by
  unfold State.modSlot; split <;> rfl
@[simp] theorem State.modSlot_ctxs (s : State) (c k : Nat) (f : Slot → Slot) : (s.modSlot c k f).ctxs = s.ctxs := by
  unfold State.modSlot; split <;> rfl
@[simp] theorem State.modSlot_clusters (s : State) (c k : Nat) (f : Slot → Slot) : (s.modSlot c k f).clusters = s.clusters := by
  unfold State.modSlot; split <;> rfl
@[simp] theorem State.modSlot_dies (s : State) (c k : Nat) (f : Slot → Slot) : (s.modSlot c k f).dies = s.dies := by
  unfold State.modSlot; split <;> rfl
@[simp] theorem State.modSlot_suspended (s : State) (c k : Nat) (f : Slot → Slot) : (s.modSlot c k f).suspended = s.suspended := by
  unfold State.modSlot; split <;> rfl
@[simp] theorem State.modSlot_objects (s : State) (c k : Nat) (f : Slot → Slot) : (s.modSlot c k f).objects = s.objects := by
  unfold State.modSlot; split <;> rfl
@[simp] theorem State.modSlot_handleGen (s : State) (c k : Nat) (f : Slot → Slot) : (s.modSlot c k f).handleGen = s.handleGen := by
  unfold State.modSlot; split <;> rfl
@[simp] theorem State.modSlot_translations (s : State) (c k : Nat) (f : Slot → Slot) : (s.modSlot c k f).translations = s.translations := by
  unfold State.modSlot; split <;> rfl
@[simp] theorem State.modSlot_launches (s : State) (c k : Nat) (f : Slot → Slot) : (s.modSlot c k f).launches = s.launches := by
  unfold State.modSlot; split <;> rfl
@[simp] theorem State.modSlot_nextLaunch (s : State) (c k : Nat) (f : Slot → Slot) : (s.modSlot c k f).nextLaunch = s.nextLaunch := by
  unfold State.modSlot; split <;> rfl
@[simp] theorem State.modSlot_images (s : State) (c k : Nat) (f : Slot → Slot) : (s.modSlot c k f).images = s.images := by
  unfold State.modSlot; split <;> rfl
@[simp] theorem State.modSlot_imageOf (s : State) (c k : Nat) (f : Slot → Slot) : (s.modSlot c k f).imageOf = s.imageOf := by
  unfold State.modSlot; split <;> rfl
@[simp] theorem State.modSlot_queues (s : State) (c k : Nat) (f : Slot → Slot) : (s.modSlot c k f).queues = s.queues := by
  unfold State.modSlot; split <;> rfl
@[simp] theorem State.modSlot_nextQueue (s : State) (c k : Nat) (f : Slot → Slot) : (s.modSlot c k f).nextQueue = s.nextQueue := by
  unfold State.modSlot; split <;> rfl
@[simp] theorem State.modSlot_ops (s : State) (c k : Nat) (f : Slot → Slot) : (s.modSlot c k f).ops = s.ops := by
  unfold State.modSlot; split <;> rfl
@[simp] theorem State.modSlot_nextOp (s : State) (c k : Nat) (f : Slot → Slot) : (s.modSlot c k f).nextOp = s.nextOp := by
  unfold State.modSlot; split <;> rfl
@[simp] theorem State.modSlot_loaded (s : State) (c k : Nat) (f : Slot → Slot) : (s.modSlot c k f).loaded = s.loaded := by
  unfold State.modSlot; split <;> rfl
@[simp] theorem State.modSlot_colls (s : State) (c k : Nat) (f : Slot → Slot) : (s.modSlot c k f).colls = s.colls := by
  unfold State.modSlot; split <;> rfl
@[simp] theorem State.modSlot_collCount (s : State) (c k : Nat) (f : Slot → Slot) : (s.modSlot c k f).collCount = s.collCount := by
  unfold State.modSlot; split <;> rfl
@[simp] theorem State.modSlot_flights (s : State) (c k : Nat) (f : Slot → Slot) : (s.modSlot c k f).flights = s.flights := by
  unfold State.modSlot; split <;> rfl
@[simp] theorem State.modSlot_reqs (s : State) (c k : Nat) (f : Slot → Slot) : (s.modSlot c k f).reqs = s.reqs := by
  unfold State.modSlot; split <;> rfl
@[simp] theorem State.modSlot_gangWait (s : State) (c k : Nat) (f : Slot → Slot) : (s.modSlot c k f).gangWait = s.gangWait := by
  unfold State.modSlot; split <;> rfl
@[simp] theorem State.modSlot_gangLimit (s : State) (c k : Nat) (f : Slot → Slot) : (s.modSlot c k f).gangLimit = s.gangLimit := by
  unfold State.modSlot; split <;> rfl
@[simp] theorem State.modSlot_classThresh (s : State) (c k : Nat) (f : Slot → Slot) : (s.modSlot c k f).classThresh = s.classThresh := by
  unfold State.modSlot; split <;> rfl
@[simp] theorem State.modSlot_fatal (s : State) (c k : Nat) (f : Slot → Slot) : (s.modSlot c k f).fatal = s.fatal := by
  unfold State.modSlot; split <;> rfl
@[simp] theorem State.modSlot_launchOf (s : State) (c k : Nat) (f : Slot → Slot) : (s.modSlot c k f).launchOf = s.launchOf := by
  unfold State.modSlot; split <;> rfl
@[simp] theorem State.modSlot_gangSince (s : State) (c k : Nat) (f : Slot → Slot) : (s.modSlot c k f).gangSince = s.gangSince := by
  unfold State.modSlot; split <;> rfl
@[simp] theorem State.modSlot_reserving (s : State) (c k : Nat) (f : Slot → Slot) : (s.modSlot c k f).reserving = s.reserving := by
  unfold State.modSlot; split <;> rfl
@[simp] theorem State.modSlot_virtKept (s : State) (c k : Nat) (f : Slot → Slot) : (s.modSlot c k f).virtKept = s.virtKept := by
  unfold State.modSlot; split <;> rfl
@[simp] theorem State.modSlot_mapWords (s : State) (c k : Nat) (f : Slot → Slot) : (s.modSlot c k f).mapWords = s.mapWords := by
  unfold State.modSlot; split <;> rfl
@[simp] theorem State.modSlot_stepIds (s : State) (c k : Nat) (f : Slot → Slot) : (s.modSlot c k f).stepIds = s.stepIds := by
  unfold State.modSlot; split <;> rfl
@[simp] theorem State.modSlot_saved (s : State) (c k : Nat) (f : Slot → Slot) : (s.modSlot c k f).saved = s.saved := by
  unfold State.modSlot; split <;> rfl
@[simp] theorem State.modSlot_bornOn (s : State) (c k : Nat) (f : Slot → Slot) : (s.modSlot c k f).bornOn = s.bornOn := by
  unfold State.modSlot; split <;> rfl
@[simp] theorem State.modSlot_pkg (s : State) (c k : Nat) (f : Slot → Slot) : (s.modSlot c k f).pkg = s.pkg := by
  unfold State.modSlot; split <;> rfl
@[simp] theorem State.modSlot_fab (s : State) (c k : Nat) (f : Slot → Slot) : (s.modSlot c k f).fab = s.fab := by
  unfold State.modSlot; split <;> rfl

/-! ## `State.modCur` -/

@[simp] theorem State.modCur_now (s : State) (f : Slot → Slot) : (s.modCur f).now = s.now := State.modSlot_now s _ _ f
@[simp] theorem State.modCur_agenda (s : State) (f : Slot → Slot) : (s.modCur f).agenda = s.agenda := State.modSlot_agenda s _ _ f
@[simp] theorem State.modCur_freeCtr (s : State) (f : Slot → Slot) : (s.modCur f).freeCtr = s.freeCtr := State.modSlot_freeCtr s _ _ f
@[simp] theorem State.modCur_issue (s : State) (f : Slot → Slot) : (s.modCur f).issue = s.issue := State.modSlot_issue s _ _ f
@[simp] theorem State.modCur_mem (s : State) (f : Slot → Slot) : (s.modCur f).mem = s.mem := State.modSlot_mem s _ _ f
@[simp] theorem State.modCur_backing (s : State) (f : Slot → Slot) : (s.modCur f).backing = s.backing := State.modSlot_backing s _ _ f
@[simp] theorem State.modCur_poison (s : State) (f : Slot → Slot) : (s.modCur f).poison = s.poison := State.modSlot_poison s _ _ f
@[simp] theorem State.modCur_lines (s : State) (f : Slot → Slot) : (s.modCur f).lines = s.lines := State.modSlot_lines s _ _ f
@[simp] theorem State.modCur_tiles (s : State) (f : Slot → Slot) : (s.modCur f).tiles = s.tiles := State.modSlot_tiles s _ _ f
@[simp] theorem State.modCur_ctxs (s : State) (f : Slot → Slot) : (s.modCur f).ctxs = s.ctxs := State.modSlot_ctxs s _ _ f
@[simp] theorem State.modCur_clusters (s : State) (f : Slot → Slot) : (s.modCur f).clusters = s.clusters := State.modSlot_clusters s _ _ f
@[simp] theorem State.modCur_dies (s : State) (f : Slot → Slot) : (s.modCur f).dies = s.dies := State.modSlot_dies s _ _ f
@[simp] theorem State.modCur_suspended (s : State) (f : Slot → Slot) : (s.modCur f).suspended = s.suspended := State.modSlot_suspended s _ _ f
@[simp] theorem State.modCur_objects (s : State) (f : Slot → Slot) : (s.modCur f).objects = s.objects := State.modSlot_objects s _ _ f
@[simp] theorem State.modCur_handleGen (s : State) (f : Slot → Slot) : (s.modCur f).handleGen = s.handleGen := State.modSlot_handleGen s _ _ f
@[simp] theorem State.modCur_translations (s : State) (f : Slot → Slot) : (s.modCur f).translations = s.translations := State.modSlot_translations s _ _ f
@[simp] theorem State.modCur_launches (s : State) (f : Slot → Slot) : (s.modCur f).launches = s.launches := State.modSlot_launches s _ _ f
@[simp] theorem State.modCur_nextLaunch (s : State) (f : Slot → Slot) : (s.modCur f).nextLaunch = s.nextLaunch := State.modSlot_nextLaunch s _ _ f
@[simp] theorem State.modCur_images (s : State) (f : Slot → Slot) : (s.modCur f).images = s.images := State.modSlot_images s _ _ f
@[simp] theorem State.modCur_imageOf (s : State) (f : Slot → Slot) : (s.modCur f).imageOf = s.imageOf := State.modSlot_imageOf s _ _ f
@[simp] theorem State.modCur_queues (s : State) (f : Slot → Slot) : (s.modCur f).queues = s.queues := State.modSlot_queues s _ _ f
@[simp] theorem State.modCur_nextQueue (s : State) (f : Slot → Slot) : (s.modCur f).nextQueue = s.nextQueue := State.modSlot_nextQueue s _ _ f
@[simp] theorem State.modCur_ops (s : State) (f : Slot → Slot) : (s.modCur f).ops = s.ops := State.modSlot_ops s _ _ f
@[simp] theorem State.modCur_nextOp (s : State) (f : Slot → Slot) : (s.modCur f).nextOp = s.nextOp := State.modSlot_nextOp s _ _ f
@[simp] theorem State.modCur_loaded (s : State) (f : Slot → Slot) : (s.modCur f).loaded = s.loaded := State.modSlot_loaded s _ _ f
@[simp] theorem State.modCur_colls (s : State) (f : Slot → Slot) : (s.modCur f).colls = s.colls := State.modSlot_colls s _ _ f
@[simp] theorem State.modCur_collCount (s : State) (f : Slot → Slot) : (s.modCur f).collCount = s.collCount := State.modSlot_collCount s _ _ f
@[simp] theorem State.modCur_flights (s : State) (f : Slot → Slot) : (s.modCur f).flights = s.flights := State.modSlot_flights s _ _ f
@[simp] theorem State.modCur_reqs (s : State) (f : Slot → Slot) : (s.modCur f).reqs = s.reqs := State.modSlot_reqs s _ _ f
@[simp] theorem State.modCur_gangWait (s : State) (f : Slot → Slot) : (s.modCur f).gangWait = s.gangWait := State.modSlot_gangWait s _ _ f
@[simp] theorem State.modCur_gangLimit (s : State) (f : Slot → Slot) : (s.modCur f).gangLimit = s.gangLimit := State.modSlot_gangLimit s _ _ f
@[simp] theorem State.modCur_classThresh (s : State) (f : Slot → Slot) : (s.modCur f).classThresh = s.classThresh := State.modSlot_classThresh s _ _ f
@[simp] theorem State.modCur_fatal (s : State) (f : Slot → Slot) : (s.modCur f).fatal = s.fatal := State.modSlot_fatal s _ _ f
@[simp] theorem State.modCur_launchOf (s : State) (f : Slot → Slot) : (s.modCur f).launchOf = s.launchOf := State.modSlot_launchOf s _ _ f
@[simp] theorem State.modCur_gangSince (s : State) (f : Slot → Slot) : (s.modCur f).gangSince = s.gangSince := State.modSlot_gangSince s _ _ f
@[simp] theorem State.modCur_reserving (s : State) (f : Slot → Slot) : (s.modCur f).reserving = s.reserving := State.modSlot_reserving s _ _ f
@[simp] theorem State.modCur_virtKept (s : State) (f : Slot → Slot) : (s.modCur f).virtKept = s.virtKept := State.modSlot_virtKept s _ _ f
@[simp] theorem State.modCur_mapWords (s : State) (f : Slot → Slot) : (s.modCur f).mapWords = s.mapWords := State.modSlot_mapWords s _ _ f
@[simp] theorem State.modCur_stepIds (s : State) (f : Slot → Slot) : (s.modCur f).stepIds = s.stepIds := State.modSlot_stepIds s _ _ f
@[simp] theorem State.modCur_saved (s : State) (f : Slot → Slot) : (s.modCur f).saved = s.saved := State.modSlot_saved s _ _ f
@[simp] theorem State.modCur_bornOn (s : State) (f : Slot → Slot) : (s.modCur f).bornOn = s.bornOn := State.modSlot_bornOn s _ _ f
@[simp] theorem State.modCur_pkg (s : State) (f : Slot → Slot) : (s.modCur f).pkg = s.pkg := State.modSlot_pkg s _ _ f
@[simp] theorem State.modCur_fab (s : State) (f : Slot → Slot) : (s.modCur f).fab = s.fab := State.modSlot_fab s _ _ f

/-! ## `State.owe` -/

@[simp] theorem State.owe_now (s : State) (p : Pending) : (s.owe p).now = s.now := State.modCur_now s _
@[simp] theorem State.owe_agenda (s : State) (p : Pending) : (s.owe p).agenda = s.agenda := State.modCur_agenda s _
@[simp] theorem State.owe_freeCtr (s : State) (p : Pending) : (s.owe p).freeCtr = s.freeCtr := State.modCur_freeCtr s _
@[simp] theorem State.owe_issue (s : State) (p : Pending) : (s.owe p).issue = s.issue := State.modCur_issue s _
@[simp] theorem State.owe_mem (s : State) (p : Pending) : (s.owe p).mem = s.mem := State.modCur_mem s _
@[simp] theorem State.owe_backing (s : State) (p : Pending) : (s.owe p).backing = s.backing := State.modCur_backing s _
@[simp] theorem State.owe_poison (s : State) (p : Pending) : (s.owe p).poison = s.poison := State.modCur_poison s _
@[simp] theorem State.owe_lines (s : State) (p : Pending) : (s.owe p).lines = s.lines := State.modCur_lines s _
@[simp] theorem State.owe_tiles (s : State) (p : Pending) : (s.owe p).tiles = s.tiles := State.modCur_tiles s _
@[simp] theorem State.owe_ctxs (s : State) (p : Pending) : (s.owe p).ctxs = s.ctxs := State.modCur_ctxs s _
@[simp] theorem State.owe_clusters (s : State) (p : Pending) : (s.owe p).clusters = s.clusters := State.modCur_clusters s _
@[simp] theorem State.owe_dies (s : State) (p : Pending) : (s.owe p).dies = s.dies := State.modCur_dies s _
@[simp] theorem State.owe_suspended (s : State) (p : Pending) : (s.owe p).suspended = s.suspended := State.modCur_suspended s _
@[simp] theorem State.owe_objects (s : State) (p : Pending) : (s.owe p).objects = s.objects := State.modCur_objects s _
@[simp] theorem State.owe_handleGen (s : State) (p : Pending) : (s.owe p).handleGen = s.handleGen := State.modCur_handleGen s _
@[simp] theorem State.owe_translations (s : State) (p : Pending) : (s.owe p).translations = s.translations := State.modCur_translations s _
@[simp] theorem State.owe_launches (s : State) (p : Pending) : (s.owe p).launches = s.launches := State.modCur_launches s _
@[simp] theorem State.owe_nextLaunch (s : State) (p : Pending) : (s.owe p).nextLaunch = s.nextLaunch := State.modCur_nextLaunch s _
@[simp] theorem State.owe_images (s : State) (p : Pending) : (s.owe p).images = s.images := State.modCur_images s _
@[simp] theorem State.owe_imageOf (s : State) (p : Pending) : (s.owe p).imageOf = s.imageOf := State.modCur_imageOf s _
@[simp] theorem State.owe_queues (s : State) (p : Pending) : (s.owe p).queues = s.queues := State.modCur_queues s _
@[simp] theorem State.owe_nextQueue (s : State) (p : Pending) : (s.owe p).nextQueue = s.nextQueue := State.modCur_nextQueue s _
@[simp] theorem State.owe_ops (s : State) (p : Pending) : (s.owe p).ops = s.ops := State.modCur_ops s _
@[simp] theorem State.owe_nextOp (s : State) (p : Pending) : (s.owe p).nextOp = s.nextOp := State.modCur_nextOp s _
@[simp] theorem State.owe_loaded (s : State) (p : Pending) : (s.owe p).loaded = s.loaded := State.modCur_loaded s _
@[simp] theorem State.owe_colls (s : State) (p : Pending) : (s.owe p).colls = s.colls := State.modCur_colls s _
@[simp] theorem State.owe_collCount (s : State) (p : Pending) : (s.owe p).collCount = s.collCount := State.modCur_collCount s _
@[simp] theorem State.owe_flights (s : State) (p : Pending) : (s.owe p).flights = s.flights := State.modCur_flights s _
@[simp] theorem State.owe_reqs (s : State) (p : Pending) : (s.owe p).reqs = s.reqs := State.modCur_reqs s _
@[simp] theorem State.owe_gangWait (s : State) (p : Pending) : (s.owe p).gangWait = s.gangWait := State.modCur_gangWait s _
@[simp] theorem State.owe_gangLimit (s : State) (p : Pending) : (s.owe p).gangLimit = s.gangLimit := State.modCur_gangLimit s _
@[simp] theorem State.owe_classThresh (s : State) (p : Pending) : (s.owe p).classThresh = s.classThresh := State.modCur_classThresh s _
@[simp] theorem State.owe_fatal (s : State) (p : Pending) : (s.owe p).fatal = s.fatal := State.modCur_fatal s _
@[simp] theorem State.owe_launchOf (s : State) (p : Pending) : (s.owe p).launchOf = s.launchOf := State.modCur_launchOf s _
@[simp] theorem State.owe_gangSince (s : State) (p : Pending) : (s.owe p).gangSince = s.gangSince := State.modCur_gangSince s _
@[simp] theorem State.owe_reserving (s : State) (p : Pending) : (s.owe p).reserving = s.reserving := State.modCur_reserving s _
@[simp] theorem State.owe_virtKept (s : State) (p : Pending) : (s.owe p).virtKept = s.virtKept := State.modCur_virtKept s _
@[simp] theorem State.owe_mapWords (s : State) (p : Pending) : (s.owe p).mapWords = s.mapWords := State.modCur_mapWords s _
@[simp] theorem State.owe_stepIds (s : State) (p : Pending) : (s.owe p).stepIds = s.stepIds := State.modCur_stepIds s _
@[simp] theorem State.owe_saved (s : State) (p : Pending) : (s.owe p).saved = s.saved := State.modCur_saved s _
@[simp] theorem State.owe_bornOn (s : State) (p : Pending) : (s.owe p).bornOn = s.bornOn := State.modCur_bornOn s _
@[simp] theorem State.owe_pkg (s : State) (p : Pending) : (s.owe p).pkg = s.pkg := State.modCur_pkg s _
@[simp] theorem State.owe_fab (s : State) (p : Pending) : (s.owe p).fab = s.fab := State.modCur_fab s _

/-! ## Reading back -/

@[simp] theorem State.core_setCore (s : State) (c d : Nat) (x : Core) :
    (s.setCore c x).core d = if d = c then x else s.core d := sget_sput _ _ _ _ _

@[simp] theorem State.core_modCore (s : State) (c d : Nat) (f : Core → Core) :
    (s.modCore c f).core d = if d = c then f (s.core c) else s.core d := sget_sput _ _ _ _ _

@[simp] theorem State.die_modDie (s : State) (c d : Nat) (f : Die → Die) :
    (s.modDie c f).die d = if d = c then f (s.die c) else s.die d := sget_sput _ _ _ _ _

@[simp] theorem State.clus_modClus (s : State) (c d : Nat) (f : Cluster → Cluster) :
    (s.modClus c f).clus d = if d = c then f (s.clus c) else s.clus d := sget_sput _ _ _ _ _

@[simp] theorem State.ctx_modCtx (s : State) (c d : Nat) (f : Ctx → Ctx) :
    (s.modCtx c f).ctx d = if d = c then f (s.ctx c) else s.ctx d := sget_sput _ _ _ _ _

@[simp] theorem State.slot_putSlot (s : State) (c k d j : Nat) (sl : Option Slot) :
    (s.putSlot c k sl).slot d j = if d = c ∧ j = k then sl else s.slot d j := by
  unfold State.putSlot State.slot
  rw [State.core_modCore]
  by_cases hd : d = c
  · subst hd
    by_cases hj : j = k
    · subst hj; simp [Core.slot, sget_sput]
    · simp [Core.slot, sget_sput, hj]
  · simp [hd]

theorem State.slot_modSlot (s : State) (c k d j : Nat) (f : Slot → Slot) :
    (s.modSlot c k f).slot d j = if d = c ∧ j = k then (s.slot d j).map f else s.slot d j := by
  unfold State.modSlot
  split
  · next h => split
              · next e => rw [e.1, e.2, h]; rfl
              · rfl
  · next h => rw [State.slot_putSlot]; split
              · next e => rw [e.1, e.2, h]; rfl
              · rfl

@[simp] theorem State.cur_modCur (s : State) (f : Slot → Slot) : (s.modCur f).cur = s.cur.map f := by
  unfold State.cur State.modCur
  rw [State.modSlot_issue, State.slot_modSlot]; simp

@[simp] theorem State.cur_owe (s : State) (p : Pending) : (s.owe p).cur = s.cur.map fun sl => sl.owe p :=
  State.cur_modCur s _

@[simp] theorem State.cur_jump (s : State) (t : Word) : (s.jump t).cur = s.cur := rfl
@[simp] theorem State.cur_push (s : State) (p : Nat) (w : Word) : (s.push p w).cur = s.cur := rfl

/-- A slot's change leaves every other part of its core. -/
theorem State.core_modSlot (s : State) (c k d : Nat) (f : Slot → Slot) :
    ∃ l, (s.modSlot c k f).core d = { s.core d with slots := l } := by
  unfold State.modSlot
  split
  · exact ⟨_, rfl⟩
  · unfold State.putSlot
    rw [State.core_modCore]
    split
    · next e => subst e; exact ⟨_, rfl⟩
    · exact ⟨_, rfl⟩

/-- A change of every slot leaves every other part of every core, and changes each slot by itself. -/
theorem State.core_mapSlots (s : State) (f : Nat → Nat → Slot → Slot) (c : Nat) :
    (s.mapSlots f).core c =
      { s.core c with slots := (s.core c).slots.map fun (k, o) => (k, o.map (f c k)) } :=
  sget_map Core.reset s.cores
    (fun c x => { x with slots := x.slots.map fun (k, o) => (k, o.map (f c k)) }) c rfl

theorem State.slot_mapSlots (s : State) (f : Nat → Nat → Slot → Slot) (c k : Nat) :
    (s.mapSlots f).slot c k = (s.slot c k).map (f c k) := by
  unfold State.slot Core.slot
  rw [State.core_mapSlots]
  exact sget_map none (s.core c).slots (fun k (o : Option Slot) => o.map (f c k)) k rfl

end Sys2Proof.Machine
end

