-- ==== Sys2Proof/Laws/Issue.lean ====
section
/-!
SUPPORT. The run of one instruction: when it acts, when it traps, when it waits.
-/
namespace Sys2Proof.Machine

/-! ## Owing a result -/

theorem OnlySlot.refl (s : State) : OnlySlot s s s.issue id :=
  ⟨⟨s.cores, rfl⟩, fun _ => rfl, fun c k => by split <;> simp⟩

/-- What a change of the slot whose pair issues leaves. -/
theorem onlySlot_modCur (s : State) (f : Slot → Slot) : OnlySlot s (s.modCur f) s.issue f := by
  refine ⟨?_, fun c => ?_, fun c k => State.slot_modSlot s _ _ _ _ _⟩
  · simp only [State.modCur, State.modSlot]
    split
    · exact ⟨s.cores, rfl⟩
    · exact ⟨_, rfl⟩
  · obtain ⟨l, hl⟩ := State.core_modSlot s s.issue.core s.issue.slot c f
    simp only [State.modCur, hl]

/-- Owing a result changes the slot whose pair issues, and nothing else of the device. -/
theorem onlySlot_owe (s : State) (p : Pending) : OnlySlot s (s.owe p) s.issue (fun sl => sl.owe p) :=
  onlySlot_modCur s _

/-- A scalar result to a register or to no one. -/
theorem onlySlot_giveS (s : State) (i : Instr) (d : SDst) (v : Word) (f : Byte) (h : ∀ n, d ≠ .q n) :
    OnlySlot s (giveS i d v f s) s.issue (fun sl => sl.owe { pendingOf s i with
      dst := d.reg, val := v.setWidth 2048, mask := BitVec.allOnes 2048, flags := f, latch := some (isA i),
      latchVal := ⟨v.setWidth 2048, 0⟩ }) := by
  unfold giveS
  cases d with
  | q n => exact absurd rfl (h n)
  | s n => exact onlySlot_owe s _
  | z => exact onlySlot_owe s _

theorem onlySlot_giveV (s : State) (i : Instr) (d : VDst) (v mask : Vec) (tag : Tag) (f : Byte) :
    OnlySlot s (giveV i d v mask tag f s) s.issue (fun sl => sl.owe { pendingOf s i with
      dst := d.reg, val := v, tag := tag, mask := mask, flags := f, latch := some (isA i), latchVal := ⟨v, tag⟩,
      latchMask := mask }) := onlySlot_owe s _

theorem onlySlot_giveP (s : State) (i : Instr) (d : PReg) (v mask : Pred) (f : Byte) :
    OnlySlot s (giveP i d v mask f s) s.issue (fun sl => sl.owe { pendingOf s i with
      dst := .p d.val, val := v.setWidth 2048, mask := mask.setWidth 2048, flags := f, latch := some true,
      latchPred := true }) := onlySlot_owe s _

theorem OnlySlot.trans {s t u : State} {f g : Slot → Slot} (h : OnlySlot s t s.issue f) (k : OnlySlot t u s.issue g) :
    OnlySlot s u s.issue (g ∘ f) := by
  obtain ⟨⟨cs, ht⟩, h2, h3⟩ := h
  have hi : t.issue = s.issue := by rw [ht]
  obtain ⟨⟨ds, hu⟩, k2, k3⟩ := k
  refine ⟨⟨ds, by rw [hu, ht]⟩, fun c => (k2 c).trans (h2 c), fun c j => ?_⟩
  rw [k3, h3, hi]
  split <;> simp

/-! ## Acting, trapping, waiting -/

theorem clear_iff {s : State} {i : Instr} (h : clear s i = true) :
    (∃ sl, s.cur = some sl ∧ sl.outstanding + addsVariable s [i] ≤ 255 ∧
      (sl.csrs.chk.getLsbD 0 = true → staleRead s i = none ∧ overwrite s i = none)) ∧
    s.issue.checked = false ∧ unbound s i = none ∧ (namesRing i && foreignCluster s) = false ∧
    s.portsReady s.issue.core (popsOfAll [i]) = true ∧ poisonRead s i = none ∧ roomFor s [i] = true := by
  simp only [clear, chkClear, quotaClear, Bool.and_eq_true, Bool.not_eq_true', Option.isNone_iff_eq_none] at h
  obtain ⟨⟨⟨⟨⟨⟨⟨⟨hc, h1⟩, h2⟩, h3⟩, h4⟩, h5⟩, h6⟩, h7⟩, h8⟩ := h
  obtain ⟨sl, hsl⟩ := Option.isSome_iff_exists.1 hc
  refine ⟨⟨sl, hsl, ?_, ?_⟩, h1, h2, h3, h4, h6, h7⟩
  · simpa [hsl] using h8
  · intro hk
    simpa only [hsl, hk, Bool.not_true, Bool.false_or, Bool.and_eq_true, Option.isNone_iff_eq_none] using h5

/-- The trap of a plan's own checks, in the order of R22. -/
def Plan.ownTrap (p : Plan) (s : State) : Option Trap :=
  match p.bad s with
  | some f => some (trapInfo ILLOPND f)
  | none => match p.priv s with
    | some n => some (trapInfo PRIV n)
    | none => match p.tag s with
      | some (f, found, req) => some (trapInfo TAGFAULT (f + found * 256 + req * 65536))
      | none => p.fault s

/-- A plan's own trap is taken wherever the common conditions hold. -/
theorem verdict_of_ownTrap {s : State} (p : Plan) (h : clear s p.instr = true) {t : Trap} (ht : p.ownTrap s = some t) :
    verdict s [(p, s, false)] = .trap t false := by
  obtain ⟨⟨sl, hsl, hq, hk⟩, h1, h2, h3, h4, h5, h6⟩ := clear_iff h
  have e5 : p.step s 5 = none := by
    simp only [Plan.step, hsl]
    split
    · next e => simp [hk e]
    · rfl
  have e7 : p.step s 7 = p.fault s := by simp [Plan.step, h5, h3]
  simp only [verdict, List.map_cons, List.map_nil, h4, firstTrap, List.findSome?_cons, List.findSome?_nil]
  unfold Plan.ownTrap at ht
  split at ht
  · next f hb =>
    have e3 : p.step s 3 = some t := by simp [Plan.step, h2, hb, Option.some.inj ht]
    simp [e3]
  · next hb =>
    have e3 : p.step s 3 = none := by simp [Plan.step, h2, hb]
    split at ht
    · next n hp =>
      have e4 : p.step s 4 = some t := by simp [Plan.step, hp, Option.some.inj ht]
      simp [e3, e4]
    · next hp =>
      have e4 : p.step s 4 = none := by simp [Plan.step, hp]
      split at ht
      · next f found req hg =>
        have e6 : p.step s 6 = some t := by simp only [Plan.step, hg]; exact ht
        simp [e3, e4, e5, e6]
      · next hg =>
        have e6 : p.step s 6 = none := by simp [Plan.step, hg]
        simp [e3, e4, e5, e6, e7, ht]

theorem traps_of_own {i : Instr} {s : State} {t : Trap} (p : Plan) (he : exec i s = .next (p.run s)) (hi : p.instr = i)
    (ht : p.ownTrap s = some t) : Traps i s t := by
  intro h
  subst hi
  obtain ⟨⟨sl, hsl, -⟩, h1, -⟩ := clear_iff h
  rw [he]
  simp only [Plan.run, hsl, h1, verdict_of_ownTrap p h ht]
  rfl

/-- What `verdict` says of a lone plan whose common conditions hold: the plan's own checks decide. -/
theorem verdict_of_clear {s : State} (p : Plan) (h : clear s p.instr = true) (hb : p.bad s = none)
    (hp : p.priv s = none) (ht : p.tag s = none) :
    verdict s [(p, s, false)] =
      match p.fault s with
      | some t => .trap t false
      | none => match p.wait s with
        | some w => .wait (pairWait [p.instr] w)
        | none => .go := by
  obtain ⟨⟨sl, hsl, hq, hk⟩, h1, h2, h3, h4, h5, h6⟩ := clear_iff h
  have e5 : p.step s 5 = none := by
    simp only [Plan.step, hsl]
    split
    · next e => simp [hk e]
    · rfl
  have e3 : p.step s 3 = none := by simp [Plan.step, h2, hb]
  have e4 : p.step s 4 = none := by simp [Plan.step, hp]
  have e6 : p.step s 6 = none := by simp [Plan.step, ht]
  have e7 : p.step s 7 = p.fault s := by simp [Plan.step, h5, h3]
  have hq' : ¬ 255 < sl.outstanding + addsVariable s [p.instr] := by omega
  simp only [verdict, List.map_cons, List.map_nil, h4, firstTrap, List.findSome?_cons, List.findSome?_nil, e3, e4, e5,
    e6, e7, h6, hsl, Option.map_none, hq']
  cases p.fault s <;> cases p.wait s <;> simp

/-- It acts. -/
theorem Plan.run_of_clear {s : State} (p : Plan) (h : clear s p.instr = true) (hb : p.bad s = none)
    (hp : p.priv s = none) (ht : p.tag s = none) (hf : p.fault s = none) (hw : p.wait s = none) :
    p.run s = (p.act s).settled p.instr := by
  obtain ⟨⟨sl, hsl, -⟩, h1, -⟩ := clear_iff h
  simp only [Plan.run, hsl, h1, verdict_of_clear p h hb hp ht, hf, hw]
  rfl

/-- It acts, in a pair or by itself. -/
theorem Plan.run_of_acting {s : State} (p : Plan) (h : acting s p.instr = true) (hb : p.bad s = none)
    (hp : p.priv s = none) (ht : p.tag s = none) (hf : p.fault s = none) (hw : p.wait s = none) :
    p.run s = finished s p.instr (p.act s) := by
  by_cases hc : s.issue.checked = true
  · have hcur : s.cur.isSome = true := by
      simp only [acting, Bool.or_eq_true, Bool.and_eq_true] at h
      rcases h with h | h
      · exact h.1
      · obtain ⟨⟨sl, hsl, -⟩, -⟩ := clear_iff h; simp [hsl]
    obtain ⟨sl, hsl⟩ := Option.isSome_iff_exists.1 hcur
    simp only [Plan.run, hsl, hc, finished, if_true]
  · have h' : clear s p.instr = true := by simpa [acting, hc] using h
    rw [Plan.run_of_clear p h' hb hp ht hf hw]
    simp only [finished, hc]
    rfl

/-- It traps, and does nothing else. -/
theorem Plan.run_of_fault {s : State} (p : Plan) (h : clear s p.instr = true) (hb : p.bad s = none)
    (hp : p.priv s = none) (ht : p.tag s = none) {t : Trap} (hf : p.fault s = some t) :
    p.run s = s.trapPair t false false := by
  obtain ⟨⟨sl, hsl, -⟩, h1, -⟩ := clear_iff h
  simp only [Plan.run, hsl, h1, verdict_of_clear p h hb hp ht, hf]
  rfl

/-- It waits, and does nothing else; a matrix instruction waits in its slot. -/
theorem Plan.run_of_wait {s : State} (p : Plan) (h : clear s p.instr = true) (hb : p.bad s = none)
    (hp : p.priv s = none) (ht : p.tag s = none) (hf : p.fault s = none) {w : Wait} (hw : p.wait s = some w) :
    p.run s = s.holdPair (pairWait [p.instr] w) true := by
  obtain ⟨⟨sl, hsl, -⟩, h1, -⟩ := clear_iff h
  simp only [Plan.run, hsl, h1, verdict_of_clear p h hb hp ht, hf, hw]
  rfl

/-- In a pair whose checks are made, an instruction only acts. -/
theorem Plan.run_of_checked {s : State} (p : Plan) (hs : s.cur.isSome = true) (hc : s.issue.checked = true) :
    p.run s = p.act s := by
  obtain ⟨sl, hsl⟩ := Option.isSome_iff_exists.1 hs
  simp only [Plan.run, hsl, hc, if_true]

/-- A plan with no checks of its own acts wherever its instruction may. -/
theorem acts_of {i : Instr} {s t : State} (p : Plan) (he : exec i s = .next (p.run s)) (hi : p.instr = i)
    (hb : p.bad s = none) (hp : p.priv s = none) (ht : p.tag s = none) (hf : p.fault s = none) (hw : p.wait s = none)
    (ha : p.act s = t) : Acts i s t := by
  intro h
  subst hi
  rw [he, Plan.run_of_acting p h hb hp ht hf hw, ha]

theorem traps_of {i : Instr} {s : State} {t : Trap} (p : Plan) (he : exec i s = .next (p.run s)) (hi : p.instr = i)
    (hb : p.bad s = none) (hp : p.priv s = none) (ht : p.tag s = none) (hf : p.fault s = some t) : Traps i s t := by
  intro h
  subst hi
  rw [he, Plan.run_of_fault p h hb hp ht hf]

/-- An instruction that is no matrix instruction waits as its plan says. -/
theorem pairWait_of_plain {i : Instr} (h : isMatrix i = false) (w : Wait) : pairWait [i] w = w := by
  simp [pairWait, h]

/-- So does every instruction, at what is no blocking point. -/
theorem pairWait_of_stall (i : Instr) {w : Wait} (h : w.blocking = false) : pairWait [i] w = w := by
  simp [pairWait, h]

theorem waits_of {i : Instr} {s : State} {w : Wait} (p : Plan) (he : exec i s = .next (p.run s)) (hi : p.instr = i)
    (hb : p.bad s = none) (hp : p.priv s = none) (ht : p.tag s = none) (hf : p.fault s = none) (hw : p.wait s = some w)
    (hm : pairWait [i] w = w) : Waits i s w := by
  intro h
  subst hi
  rw [he, Plan.run_of_wait p h hb hp ht hf hw, hm]

end Sys2Proof.Machine
end

