-- ==== Sys2Proof/Laws/Memory.lean ====
section
/-!
SUPPORT. What the memory operations do to the bytes that a coherent read finds: recalling a line's buffers changes none
of them (R325), a write changes its own bytes only, and all of them keep memory canonical.
-/
namespace Sys2Proof.Machine

/-! ## Buffers of a line -/

theorem sget_mergeBytes (m : List Host.Cell) (base : Nat) (mask : BitVec 128) (val : BitVec 1024) (k : Nat) :
    sget 0 (mergeBytes m base mask val) k =
      if base ≤ k ∧ k < base + 128 ∧ mask.getLsbD (k - base) then (val >>> (8 * (k - base))).setWidth 8
      else sget 0 m k := by
  have key : ∀ n, sget 0 ((List.range n).foldl (fun m i =>
      if mask.getLsbD i then sset 0 m (base + i) ((val >>> (8 * i)).setWidth 8) else m) m) k =
      if base ≤ k ∧ k < base + n ∧ mask.getLsbD (k - base) then (val >>> (8 * (k - base))).setWidth 8
      else sget 0 m k := by
    intro n
    induction n with
    | zero => rw [if_neg (by omega)]; rfl
    | succ n ih =>
      rw [List.range_succ, List.foldl_append, List.foldl_cons, List.foldl_nil]
      by_cases hm : mask.getLsbD n = true
      · rw [if_pos hm, sget_sset, ih]
        by_cases hk : k = base + n
        · subst hk
          rw [if_pos rfl, if_pos ⟨by omega, by omega, by rw [Nat.add_sub_cancel_left]; exact hm⟩, Nat.add_sub_cancel_left]
        · rw [if_neg hk]
          by_cases hc : base ≤ k ∧ k < base + n ∧ mask.getLsbD (k - base) = true
          · rw [if_pos hc, if_pos ⟨hc.1, by omega, hc.2.2⟩]
          · rw [if_neg hc, if_neg]
            rintro ⟨h1, h2, h3⟩
            exact hc ⟨h1, by omega, h3⟩
      · rw [if_neg hm, ih]
        by_cases hc : base ≤ k ∧ k < base + n ∧ mask.getLsbD (k - base) = true
        · rw [if_pos hc, if_pos ⟨hc.1, by omega, hc.2.2⟩]
        · rw [if_neg hc, if_neg]
          rintro ⟨h1, h2, h3⟩
          by_cases hk : k = base + n
          · subst hk; rw [Nat.add_sub_cancel_left] at h3; exact hm h3
          · exact hc ⟨h1, by omega, h3⟩
  exact key 128

/-- Merging a list of buffers of a line into memory. -/
def mergeAll (line : Nat) (l : List (Nat × BitVec 128 × BitVec 1024)) (m : List Host.Cell) : List Host.Cell :=
  l.foldl (fun m (x : Nat × BitVec 128 × BitVec 1024) => mergeBytes m (line * 128) x.2.1 x.2.2) m

theorem sget_mergeAll_congr (line : Nat) (l : List (Nat × BitVec 128 × BitVec 1024)) {m m' : List Host.Cell} {k : Nat}
    (h : sget 0 m k = sget 0 m' k) : sget 0 (mergeAll line l m) k = sget 0 (mergeAll line l m') k := by
  induction l generalizing m m' with
  | nil => exact h
  | cons x l ih => exact ih (by rw [sget_mergeBytes, sget_mergeBytes, h])

theorem sget_mergeAll_outside (line : Nat) (l : List (Nat × BitVec 128 × BitVec 1024)) (m : List Host.Cell) {k : Nat}
    (h : k / 128 ≠ line) : sget 0 (mergeAll line l m) k = sget 0 m k := by
  induction l generalizing m with
  | nil => rfl
  | cons x l ih =>
    show sget 0 (mergeAll line l (mergeBytes m (line * 128) x.2.1 x.2.2)) k = _
    rw [ih, sget_mergeBytes, if_neg]
    rintro ⟨h1, h2, -⟩
    exact h (by omega)

theorem byteAt_eq (s : State) (k : Nat) :
    s.byteAt k = sget 0 (mergeAll (k / 128) (sget Line.inv s.lines (k / 128)).bufs s.mem) k := rfl

/-- A state with the same memory and the same buffers reads the same. -/
theorem byteAt_congr {s t : State} {k : Nat} (hm : sget 0 t.mem k = sget 0 s.mem k)
    (hb : (sget Line.inv t.lines (k / 128)).bufs = (sget Line.inv s.lines (k / 128)).bufs) : t.byteAt k = s.byteAt k := by
  rw [byteAt_eq, byteAt_eq, hb]
  exact sget_mergeAll_congr _ _ hm

/-- R325: recalling the buffers of a line changes no byte that a coherent read finds. -/
theorem byteAt_mergeBufs (s : State) (line k : Nat) : (s.mergeBufs line fun _ => true).byteAt k = s.byteAt k := by
  unfold State.mergeBufs
  have hp : (sget Line.inv s.lines line).bufs.partition (fun _ => true) = ((sget Line.inv s.lines line).bufs, []) := by
    rw [List.partition_eq_filter_filter]; simp
  simp only [hp]
  split
  · rfl
  · by_cases hk : k / 128 = line
    · subst hk
      rw [byteAt_eq, byteAt_eq]
      rw [sget_sset, if_pos rfl]
      rfl
    · apply byteAt_congr
      · exact sget_mergeAll_outside line _ s.mem hk
      · rw [sget_sset, if_neg hk]

/-- Recalled, a line has no buffer left. -/
theorem bufs_mergeBufs (s : State) (line : Nat) :
    (sget Line.inv (s.mergeBufs line fun _ => true).lines line).bufs = [] := by
  unfold State.mergeBufs
  have hp : (sget Line.inv s.lines line).bufs.partition (fun _ => true) = ((sget Line.inv s.lines line).bufs, []) := by
    rw [List.partition_eq_filter_filter]; simp
  simp only [hp]
  split
  · next h => exact List.isEmpty_iff.1 h
  · rw [sget_sset, if_pos rfl]

theorem bufs_mergeBufs_other (s : State) {line j : Nat} (p : Nat → Bool) (h : j ≠ line) :
    sget Line.inv (s.mergeBufs line p).lines j = sget Line.inv s.lines j := by
  unfold State.mergeBufs
  extract_lets l
  split
  split
  · rfl
  · rw [sget_sset, if_neg h]

@[simp] theorem cores_mergeBufs (s : State) (line : Nat) (p : Nat → Bool) : (s.mergeBufs line p).cores = s.cores := by
  unfold State.mergeBufs; extract_lets l; split; split <;> rfl

@[simp] theorem Line.bufs_after (l : Line) (a : Nat) (k : HomeKind) : (Line.after l a k).bufs = l.bufs := by
  unfold Line.after; split <;> (try split) <;> (try split) <;> rfl

/-- R339: waking gated agents changes memory, lines and tiles nowhere. -/
theorem wake_frame (s : State) (p : Nat → Bool) :
    (s.wake p).mem = s.mem ∧ (s.wake p).lines = s.lines ∧ ∀ c, ((s.wake p).core c).spad = (s.core c).spad := by
  have key : ∀ (l : List Nat) (s : State),
      let t := l.foldl (fun (s : State) a => if a < 1024 then s.modCore a fun x => { x with gated := false } else s) s
      t.mem = s.mem ∧ t.lines = s.lines ∧ ∀ c, (t.core c).spad = (s.core c).spad := by
    intro l
    induction l with
    | nil => exact fun s => ⟨rfl, rfl, fun _ => rfl⟩
    | cons a l ih =>
      intro s
      obtain ⟨h1, h2, h3⟩ := ih (if a < 1024 then s.modCore a fun x => { x with gated := false } else s)
      refine ⟨h1.trans ?_, h2.trans ?_, fun c => (h3 c).trans ?_⟩
      · split <;> rfl
      · split <;> rfl
      · split
        · rw [State.core_modCore]; split
          · next h => subst h; rfl
          · rfl
        · rfl
  unfold State.wake
  extract_lets l
  split
  · exact ⟨rfl, rfl, fun _ => rfl⟩
  · exact key _ _

theorem byteAt_wake (s : State) (p : Nat → Bool) (j : Nat) : (s.wake p).byteAt j = s.byteAt j := by
  obtain ⟨h1, h2, -⟩ := wake_frame s p
  exact byteAt_congr (by rw [h1]) (by rw [h2])

theorem bytes_wake (s : State) (p : Nat → Bool) (c o : Nat) : (s.wake p).spadByte c o = s.spadByte c o := by
  unfold State.spadByte; rw [(wake_frame s p).2.2]

theorem spadByte_congr {s t : State} (h : t.cores = s.cores) (c o : Nat) : t.spadByte c o = s.spadByte c o := by
  unfold State.spadByte State.core; rw [h]

/-- R323: a request at home changes no byte. -/
theorem homeAccept_bytes (s : State) (a pa : Nat) (k : HomeKind) :
    (∀ j, (s.homeAccept a pa k).byteAt j = s.byteAt j) ∧
      ∀ c o, (s.homeAccept a pa k).spadByte c o = s.spadByte c o := by
  have key : ∀ (s : State) (l : Line) (j : Nat), l.bufs = (sget Line.inv s.lines (pa / 128)).bufs →
      ({ s with lines := sset Line.inv s.lines (pa / 128) l } : State).byteAt j = s.byteAt j := by
    intro s l j hl
    refine byteAt_congr (s := s) rfl ?_
    show (sget Line.inv (sset _ _ _ _) _).bufs = _
    rw [sget_sset]
    split
    · next h => rw [h]; exact hl
    · rfl
  have body : ∀ s u : State, u = (match s.tileAt pa with
      | some t => (s.wake (t.probes a k)).modTile t.base fun t => t.after a k
      | none =>
        let s := s.wake ((sget Line.inv s.lines (pa / 128)).probes a k)
        let s := if k = HomeKind.engineWrite then s else s.mergeBufs (pa / 128) fun _ => true
        if s.arrayHolds a pa then
          { s with lines := sset Line.inv s.lines (pa / 128) ((sget Line.inv s.lines (pa / 128)).after a k) }
        else s) → (∀ j, u.byteAt j = s.byteAt j) ∧ ∀ c o, u.spadByte c o = s.spadByte c o := by
    intro s u hu
    split at hu
    · subst hu
      exact ⟨fun j => byteAt_wake _ _ _, fun c o => bytes_wake _ _ _ _⟩
    · subst hu
      extract_lets w v
      have hv : (∀ j, v.byteAt j = s.byteAt j) ∧ ∀ c o, v.spadByte c o = s.spadByte c o := by
        refine ⟨fun j => ?_, fun c o => ?_⟩
        · refine Eq.trans ?_ (byteAt_wake s ((sget Line.inv s.lines (pa / 128)).probes a k) j)
          show State.byteAt (if k = HomeKind.engineWrite then w else w.mergeBufs (pa / 128) fun _ => true) j = _
          split
          · rfl
          · exact byteAt_mergeBufs _ _ _
        · refine Eq.trans ?_ (bytes_wake s ((sget Line.inv s.lines (pa / 128)).probes a k) c o)
          show State.spadByte (if k = HomeKind.engineWrite then w else w.mergeBufs (pa / 128) fun _ => true) c o = _
          split
          · rfl
          · exact spadByte_congr (cores_mergeBufs _ _ _) _ _
      split
      · exact ⟨fun j => (key v _ j (Line.bufs_after _ _ _)).trans (hv.1 j), hv.2⟩
      · exact hv
  unfold State.homeAccept
  split
  · exact body _ _ rfl
  · exact body _ _ rfl
  · exact body _ _ rfl
  · exact body _ _ rfl
  · exact ⟨fun _ => rfl, fun _ _ => rfl⟩

theorem byteAt_modCur (s : State) (f : Slot → Slot) (j : Nat) : (s.modCur f).byteAt j = s.byteAt j := by
  apply byteAt_congr <;> simp

theorem spadByte_modCur (s : State) (f : Slot → Slot) (c o : Nat) : (s.modCur f).spadByte c o = s.spadByte c o := by
  unfold State.spadByte State.modCur
  obtain ⟨l, h⟩ := State.core_modSlot s s.issue.core s.issue.slot c f
  rw [h]

/-- R70, R323: the traces of an access to one place change no byte. -/
theorem effectsAt_bytes (s : State) (c : Nat) (h : HomeKind) (p : Place) :
    (∀ j, (s.effectsAt c h p).byteAt j = s.byteAt j) ∧ ∀ x o, (s.effectsAt c h p).spadByte x o = s.spadByte x o := by
  cases p with
  | mem pa mt key =>
    simp only [State.effectsAt]
    refine ⟨fun j => ?_, fun x o => ?_⟩
    · rw [byteAt_modCur]; split
      · exact (homeAccept_bytes _ _ _ _).1 _
      · rfl
    · rw [spadByte_modCur]; split
      · exact (homeAccept_bytes _ _ _ _).2 _ _
      · rfl
  | spad x off => exact ⟨fun _ => byteAt_modCur _ _ _, fun _ _ => spadByte_modCur _ _ _ _⟩
  | scope _ _ => exact ⟨fun _ => byteAt_modCur _ _ _, fun _ _ => spadByte_modCur _ _ _ _⟩
  | event _ _ => exact ⟨fun _ => rfl, fun _ _ => rfl⟩
  | coreWin _ _ => exact ⟨fun _ => rfl, fun _ _ => rfl⟩
  | table _ _ => exact ⟨fun _ => rfl, fun _ _ => rfl⟩

/-- The same for the lines of a range. -/
theorem lineEffects_bytes (s : State) (w : Who) (k : Acc) (h : HomeKind) (va n : Nat) :
    (∀ j, (s.lineEffects w k h va n).byteAt j = s.byteAt j) ∧
      ∀ c o, (s.lineEffects w k h va n).spadByte c o = s.spadByte c o := by
  unfold State.lineEffects
  generalize piecesOf va n = l
  induction l generalizing s with
  | nil => exact ⟨fun _ => rfl, fun _ _ => rfl⟩
  | cons x l ih =>
    obtain ⟨a, m⟩ := x
    rw [List.foldl_cons]
    refine ⟨fun j => ((ih _).1 j).trans ?_, fun c o => ((ih _).2 c o).trans ?_⟩
    · cases hp : s.placeOf w k (n = 8) a with
      | error e => simp only [hp]
      | ok p => simp only [hp]; exact (effectsAt_bytes _ _ _ _).1 _
    · cases hp : s.placeOf w k (n = 8) a with
      | error e => simp only [hp]
      | ok p => simp only [hp]; exact (effectsAt_bytes _ _ _ _).2 _ _

/-! ## A write -/

@[simp] theorem mem_freshen (s : State) (pa n key : Nat) : (s.freshen pa n key).mem = s.mem := by
  unfold State.freshen; split <;> rfl
@[simp] theorem lines_freshen (s : State) (pa n key : Nat) : (s.freshen pa n key).lines = s.lines := by
  unfold State.freshen; split <;> rfl
@[simp] theorem cores_freshen (s : State) (pa n key : Nat) : (s.freshen pa n key).cores = s.cores := by
  unfold State.freshen; split <;> rfl

@[simp] theorem mem_wakeFronts (s : State) (k : Nat) : (s.wakeFronts k).mem = s.mem := by
  unfold State.wakeFronts; extract_lets; split <;> rfl
@[simp] theorem lines_wakeFronts (s : State) (k : Nat) : (s.wakeFronts k).lines = s.lines := by
  unfold State.wakeFronts; extract_lets; split <;> rfl
@[simp] theorem cores_wakeFronts (s : State) (k : Nat) : (s.wakeFronts k).cores = s.cores := by
  unfold State.wakeFronts; extract_lets; split <;> rfl

/-- A write inside one line changes its own bytes and no other. -/
theorem byteAt_writePa (s : State) (pa n v key j : Nat) (h : pa % 128 + n ≤ 128) :
    (s.writePa pa n v key).byteAt j = if pa ≤ j ∧ j < pa + n then BitVec.ofNat 8 (v / 256 ^ (j - pa)) else s.byteAt j := by
  have hs : s.byteAt j = (s.wakeFronts (pa / 128)).byteAt j := (byteAt_congr (by simp) (by simp)).symm
  have hm : (s.writePa pa n v key).mem = putBytes ((s.wakeFronts (pa / 128)).mergeBufs (pa / 128) fun _ => true).mem pa v n := by
    unfold State.writePa
    show putBytes (((s.wakeFronts (pa / 128)).mergeBufs (pa / 128) fun _ => true).freshen pa n key).mem pa v n = _
    rw [mem_freshen]
  have hl : (s.writePa pa n v key).lines = ((s.wakeFronts (pa / 128)).mergeBufs (pa / 128) fun _ => true).lines := by
    unfold State.writePa
    show (((s.wakeFronts (pa / 128)).mergeBufs (pa / 128) fun _ => true).freshen pa n key).lines = _
    rw [lines_freshen]
  rw [hs]
  generalize s.wakeFronts (pa / 128) = s at hm hl ⊢
  rw [byteAt_eq, hm, hl]
  by_cases hj : pa ≤ j ∧ j < pa + n
  · have e : j / 128 = pa / 128 := by omega
    rw [if_pos hj, e, bufs_mergeBufs]
    show sget 0 (putBytes _ _ _ _) j = _
    rw [sget_putBytes, if_pos hj]
  · rw [if_neg hj, ← byteAt_mergeBufs s (pa / 128) j, byteAt_eq]
    exact sget_mergeAll_congr _ _ (by rw [sget_putBytes, if_neg hj])

theorem cores_writePa (s : State) (pa n v key : Nat) : (s.writePa pa n v key).cores = s.cores := by
  unfold State.writePa
  show (((s.wakeFronts (pa / 128)).mergeBufs (pa / 128) fun _ => true).freshen pa n key).cores = _
  rw [cores_freshen, cores_mergeBufs, cores_wakeFronts]

theorem spadByte_writeSpad (s : State) (c off n v d o : Nat) :
    (s.writeSpad c off n v).spadByte d o =
      if d = c ∧ off ≤ o ∧ o < off + n then BitVec.ofNat 8 (v / 256 ^ (o - off)) else s.spadByte d o := by
  unfold State.writeSpad
  show sget 0 ((s.modCore c fun x => { x with spad := putBytes x.spad off v n }).core d).spad o = _
  rw [State.core_modCore]
  by_cases hd : d = c
  · subst hd
    simp only [if_true, sget_putBytes, true_and]
    rfl
  · rw [if_neg hd, if_neg (fun h => hd h.1)]
    rfl

theorem byteAt_writeSpad (s : State) (c off n v j : Nat) : (s.writeSpad c off n v).byteAt j = s.byteAt j := by
  unfold State.writeSpad
  exact byteAt_congr rfl rfl

/-- An access of 1, 2, 4 or 8 naturally aligned bytes is one piece. -/
theorem piecesOf_aligned {ea n : Nat} (hn : n = 1 ∨ n = 2 ∨ n = 4 ∨ n = 8) (h : ea % n = 0) : piecesOf ea n = [(ea, n)] := by
  have hm : min n (128 - ea % 128) = n := by
    rcases hn with rfl | rfl | rfl | rfl <;> omega
  have hz : n ≠ 0 := by omega
  simp only [piecesOf, pieces, hm, hz, if_false, Nat.sub_self, if_true]

/-! ## The canonical form -/

/-- Every merge, put and clear of bytes keeps the form. -/
theorem wf_mergeBytes {m : List Host.Cell} (base : Nat) (mask : BitVec 128) (val : BitVec 1024)
    (w : Memory.wf m = true) : Memory.wf (mergeBytes m base mask val) = true := by
  unfold mergeBytes
  generalize List.range 128 = l
  induction l generalizing m with
  | nil => exact w
  | cons i l ih =>
    rw [List.foldl_cons]
    apply ih
    split
    · exact swf_sset _ _ w
    · exact w

theorem wf_mergeAll {m : List Host.Cell} (line : Nat) (l : List (Nat × BitVec 128 × BitVec 1024))
    (w : Memory.wf m = true) : Memory.wf (mergeAll line l m) = true := by
  induction l generalizing m with
  | nil => exact w
  | cons x l ih => exact ih (wf_mergeBytes _ _ _ w)

theorem memOk_mergeBufs {s : State} (line : Nat) (p : Nat → Bool) (h : s.memOk) : (s.mergeBufs line p).memOk := by
  unfold State.mergeBufs
  extract_lets l
  split
  split
  · exact h
  · exact ⟨wf_mergeAll line _ h.1, h.2⟩

theorem memOk_freshen {s : State} (pa n key : Nat) (h : s.memOk) : (s.freshen pa n key).memOk := by
  unfold State.freshen; split <;> exact h

theorem memOk_wakeFronts {s : State} (k : Nat) (h : s.memOk) : (s.wakeFronts k).memOk := by
  unfold State.wakeFronts; extract_lets; split <;> exact h

theorem memOk_writePa {s : State} (pa n v key : Nat) (h : s.memOk) : (s.writePa pa n v key).memOk := by
  have h' := memOk_freshen pa n key (memOk_mergeBufs (pa / 128) (fun _ => true) (memOk_wakeFronts (pa / 128) h))
  exact ⟨wf_putBytes _ _ _ h'.1, h'.2⟩

theorem memOk_writePlace {s : State} (lost : State → State) (hl : ∀ s : State, s.memOk → (lost s).memOk) (p : Place)
    (n v : Nat) (h : s.memOk) : (s.writePlace lost p n v).memOk := by
  cases p with
  | spad c off =>
    simp only [State.writePlace]
    split
    · exact hl _ h
    · exact ⟨h.1, h.2⟩
  | mem pa mt key =>
    simp only [State.writePlace]
    split
    · exact hl _ h
    · have h' := memOk_writePa (s := s) pa n v key h
      split
      · exact ⟨h'.1, wf_putBytes _ _ _ h'.2⟩
      · exact h'
  | table i off => simp only [State.writePlace]; split <;> exact h
  | event _ _ => exact h
  | scope _ _ => exact h
  | coreWin _ _ => exact h

theorem memOk_writeVaWith {s : State} (lost : State → State) (hl : ∀ s : State, s.memOk → (lost s).memOk) (w : Who)
    (k : Acc) (va n v : Nat) (h : s.memOk) : (s.writeVaWith lost w k va n v).memOk := by
  unfold State.writeVaWith
  generalize piecesOf va n = l
  have key : ∀ (l : List (Nat × Nat)) (acc : State × Nat), acc.1.memOk → (l.foldl (fun (acc : State × Nat) (a, m) =>
    (match acc.1.placeOf w k (n = 8) a with
    | .ok p => acc.1.writePlace lost p m acc.2
    | .error _ => acc.1, acc.2 / 256 ^ m)) acc).1.memOk := by
    intro l
    induction l with
    | nil => exact fun acc h => h
    | cons x l ih =>
      intro acc ha
      obtain ⟨a, m⟩ := x
      rw [List.foldl_cons]
      apply ih
      cases hp : acc.1.placeOf w k (n = 8) a with
      | error e => simp only [hp]; exact ha
      | ok p => simp only [hp]; exact memOk_writePlace lost hl p m acc.2 ha
  exact key l (s, v) h

theorem memOk_modSlot {s : State} (c k : Nat) (f : Slot → Slot) (h : s.memOk) : (s.modSlot c k f).memOk := by
  unfold State.memOk; rw [State.modSlot_mem, State.modSlot_backing]; exact h

theorem memOk_writeVa {s : State} (w : Who) (k : Acc) (va n v : Nat) (h : s.memOk) : (s.writeVa w k va n v).memOk :=
  memOk_writeVaWith _ (fun _ h => memOk_modSlot _ _ _ h) w k va n v h

/-- An agent that wakes changes no byte of memory. -/
theorem memOk_wake {s : State} (p : Nat → Bool) (h : s.memOk) : (s.wake p).memOk := by
  unfold State.wake
  extract_lets l
  split
  · exact h
  · suffices key : ∀ (l : List Nat) (t : State), t.memOk → (l.foldl (fun (s : State) a =>
        if a < 1024 then s.modCore a fun x => { x with gated := false } else s) t).memOk from key _ _ h
    intro l
    induction l with
    | nil => exact fun _ h => h
    | cons a l ih => intro t ht; rw [List.foldl_cons]; apply ih; split <;> exact ht

theorem memOk_recallBufs {s : State} (pa n : Nat) (h : s.memOk) : (s.recallBufs pa n).memOk := by
  unfold State.recallBufs
  generalize s.lines = l
  induction l generalizing s with
  | nil => exact h
  | cons x l ih =>
    rw [List.foldl_cons]; apply ih
    dsimp only
    split
    · exact memOk_mergeBufs _ _ h
    · exact h

/-- What a unit of the device does to the directory before it writes keeps the form. -/
theorem memOk_unitWrites {s : State} (pa n : Nat) (h : s.memOk) : (s.unitWrites pa n).memOk :=
  memOk_recallBufs (s := s.wake _) pa n (memOk_wake _ h)

theorem memOk_devEffects {s : State} (f : State → Nat → Nat → State) (hf : ∀ (t : State) a m, t.memOk → (f t a m).memOk)
    (k : Acc) (ctx va n : Nat) (h : s.memOk) : (s.devEffects f k ctx va n).memOk := by
  unfold State.devEffects
  generalize piecesOf va n = l
  induction l generalizing s with
  | nil => exact h
  | cons x l ih =>
    obtain ⟨a, m⟩ := x
    rw [List.foldl_cons]; apply ih
    dsimp only
    split
    · exact hf _ _ _ h
    · exact h

theorem memOk_devWrite {s : State} (ctx va n v : Nat) (h : s.memOk) : (s.devWrite ctx va n v).memOk :=
  memOk_writeVaWith _ (fun _ h => h) _ _ va n v (memOk_devEffects _ (fun _ _ _ h => memOk_unitWrites _ _ h) _ _ _ _ h)

end Sys2Proof.Machine
end

