-- ==== Sys2Proof/Laws/Results.lean ====
section
/-!
SUPPORT. Results on their way: what one pending result does to its slot (R139, R140).
-/
namespace Sys2Proof.Machine

/-- A result that is not due leaves the slot alone. -/
theorem applyResults_early {sl : Slot} {p : Pending} {n : Nat} (h : sl.pending = [p])
    (hd : (p.timed && decide (p.due ≤ n)) = false) : Slot.applyResults n sl = sl := by
  obtain ⟨⟩ := sl
  subst h
  simp only [Slot.applyResults, List.filter_cons, List.filter_nil, hd]
  rfl

/-- A result alone in its slot, once it is due, is settled. -/
theorem applyResults_due {sl : Slot} {p : Pending} {n : Nat} (h : sl.pending = [p]) (hf : p.fixed = true)
    (hd : p.due ≤ n) :
    Slot.applyResults n sl =
      { (Slot.settle n sl p).1 with pending := (Slot.settle n sl p).2.toList } := by
  have ht : p.timed = true := by simp [Pending.timed, hf]
  have hy : Pending.yieldTo p p = p := by simp [Pending.yieldTo, hf]
  have ho : inWriteOrder [p] = [p] := by simp [inWriteOrder, hy, insertPending]
  simp [Slot.applyResults, h, ht, hd, ho]

/-- Writing results touches registers, FLAGS and poison only. -/
theorem settle_frame (n : Nat) (sl : Slot) (p : Pending) :
    ∃ regs fl po, (Slot.settle n sl p).1 = { sl with regs := regs, csrs := { sl.csrs with flags := fl }, poisoned := po } := by
  have hl : ∃ regs po, sl.putLatch p = { sl with regs := regs, poisoned := po } := by
    unfold Slot.putLatch
    cases p.latch with
    | none => exact ⟨sl.regs, sl.poisoned, rfl⟩
    | some a => cases a <;> exact ⟨_, _, rfl⟩
  have hr : ∀ x : Slot, ∃ regs po, x.putResult p = { x with regs := regs, poisoned := po } := by
    intro x; unfold Slot.putResult; split
    · exact ⟨x.regs, x.poisoned, rfl⟩
    · exact ⟨_, _, rfl⟩
  unfold Slot.settle
  obtain ⟨r1, p1, h1⟩ := hl
  split
  · exact ⟨sl.regs, sl.csrs.flags, sl.poisoned, rfl⟩
  · extract_lets doL doR x y q
    have hx : ∃ regs po, x = { sl with regs := regs, poisoned := po } := by
      show ∃ regs po, (if doL = true then _ else _) = _
      split
      · exact ⟨_, _, h1⟩
      · exact ⟨sl.regs, sl.poisoned, rfl⟩
    obtain ⟨r2, p2, hx⟩ := hx
    have hy : ∃ regs po, y = { sl with regs := regs, poisoned := po } := by
      show ∃ regs po, (if doR = true then _ else _) = _
      split
      · obtain ⟨r3, p3, h3⟩ := hr x
        exact ⟨r3, p3, h3.trans (by rw [hx])⟩
      · exact ⟨r2, p2, hx⟩
    obtain ⟨r3, p3, hy⟩ := hy
    split
    · exact ⟨r3, sl.csrs.flags ||| q.flags, p3, by show y.orFlags q.flags = _; rw [hy]; rfl⟩
    · exact ⟨r3, sl.csrs.flags, p3, by show y = _; rw [hy]⟩

/-- Draining a slot touches registers, FLAGS, poison and what is owed only. -/
theorem drain_frame (n : Nat) (sl : Slot) :
    ∃ regs fl po, sl.drain n =
      { sl with regs := regs, csrs := { sl.csrs with flags := fl }, poisoned := po, pending := [] } := by
  have key : ∀ (f : Nat) (l : List Pending) (x : Slot), ∃ regs fl po,
      l.foldl (fun a p => (Slot.settle f a p).1) x =
        { x with regs := regs, csrs := { x.csrs with flags := fl }, poisoned := po } := by
    intro f l
    induction l with
    | nil => exact fun x => ⟨x.regs, x.csrs.flags, x.poisoned, rfl⟩
    | cons p l ih =>
      intro x
      obtain ⟨r, c, o, h⟩ := settle_frame f x p
      obtain ⟨r', c', o', h'⟩ := ih (Slot.settle f x p).1
      exact ⟨r', c', o', by rw [List.foldl_cons, h', h]⟩
  unfold Slot.drain
  extract_lets l far y
  obtain ⟨r, c, o, h⟩ := key far (inWriteOrder l) sl
  exact ⟨r, c, o, by show { y with pending := [] } = _; rw [show y = _ from h]⟩

end Sys2Proof.Machine
end

