-- ==== Sys2Proof/Laws/Scalar.lean ====
section
/-!
SUPPORT. Each scalar result as a number (Tables Scalar-2 to Scalar-5).
-/
namespace Sys2Proof.Machine

theorem valAdd_eq (a b : Word) : valAdd a b = BitVec.ofNat 64 (a.toNat + b.toNat) := by
  apply BitVec.eq_of_toNat_eq; simp [valAdd]

theorem valSub_eq (a b : Word) : valSub a b = BitVec.ofInt 64 ((a.toNat : Int) - (b.toNat : Int)) := by
  apply BitVec.eq_of_toNat_eq
  have := a.isLt; have := b.isLt
  simp only [valSub, BitVec.toNat_sub, BitVec.toNat_ofInt]
  omega

theorem valMul_eq (a b : Word) : valMul a b = BitVec.ofNat 64 (a.toNat * b.toNat) := by
  apply BitVec.eq_of_toNat_eq; simp [valMul]

theorem valShl_eq (a b : Word) : valShl a b = BitVec.ofNat 64 (a.toNat * 2 ^ (b.toNat % 64)) := by
  apply BitVec.eq_of_toNat_eq; simp [valShl, count, Nat.shiftLeft_eq]

theorem valShr_eq (a b : Word) : valShr a b = BitVec.ofNat 64 (a.toNat / 2 ^ (b.toNat % 64)) := by
  apply BitVec.eq_of_toNat_eq
  have h : a.toNat / 2 ^ (b.toNat % 64) < 2 ^ 64 := lt_of_le_of_lt (Nat.div_le_self _ _) a.isLt
  rw [BitVec.toNat_ofNat, Nat.mod_eq_of_lt h]
  simp [valShr, count, Nat.shiftRight_eq_div_pow]

theorem sshiftRight_eq_div (a : Word) (n : Nat) : a.sshiftRight n = BitVec.ofInt 64 (a.toInt / 2 ^ n) := by
  simp [BitVec.sshiftRight, Int.shiftRight_eq_div_pow]

theorem valSar_eq (a b : Word) : valSar a b = BitVec.ofInt 64 (a.toInt / 2 ^ (b.toNat % 64)) := sshiftRight_eq_div a _

theorem valRot_eq (a b : Word) : valRot a b =
    BitVec.ofNat 64 ((a.toNat * 2 ^ (b.toNat % 64)) % 2 ^ 64 ||| a.toNat / 2 ^ (64 - b.toNat % 64)) := by
  apply BitVec.eq_of_toNat_eq
  have hb : b.toNat % 64 < 64 := Nat.mod_lt _ (by norm_num)
  have h1 : a.toNat / 2 ^ (64 - b.toNat % 64) < 2 ^ 64 := lt_of_le_of_lt (Nat.div_le_self _ _) a.isLt
  have h2 : a.toNat * 2 ^ (b.toNat % 64) % 2 ^ 64 < 2 ^ 64 := Nat.mod_lt _ (by norm_num)
  have h3 := Nat.or_lt_two_pow h2 h1
  rw [BitVec.toNat_ofNat, Nat.mod_eq_of_lt h3]
  unfold valRot count
  rw [BitVec.rotateLeft_def, BitVec.toNat_or, BitVec.toNat_shiftLeft, BitVec.toNat_ushiftRight,
    Nat.shiftLeft_eq, Nat.shiftRight_eq_div_pow, Nat.mod_eq_of_lt hb]

theorem valMinS_eq (a b : Word) : valMinS a b = if a.toInt ≤ b.toInt then a else b := by
  unfold valMinS; split <;> split <;> first | rfl | omega

theorem valMaxS_eq (a b : Word) : valMaxS a b = if a.toInt ≤ b.toInt then b else a := by
  unfold valMaxS
  split <;> split <;> first | rfl | omega | skip
  have : a.toInt = b.toInt := by omega
  exact BitVec.eq_of_toInt_eq this

theorem valMinN_eq (a b : Word) : valMinN a b = if a.toNat ≤ b.toNat then a else b := by
  unfold valMinN; split <;> split <;> first | rfl | omega

theorem valMaxN_eq (a b : Word) : valMaxN a b = if a.toNat ≤ b.toNat then b else a := by
  unfold valMaxN
  split <;> split <;> first | rfl | omega | skip
  have : a.toNat = b.toNat := by omega
  exact BitVec.eq_of_toNat_eq this

theorem valAdd32_eq (a b : Word) : valAdd32 a b = sext64 32 ((a.toNat + b.toNat) % 2 ^ 32) := by
  unfold valAdd32; congr 1; rw [BitVec.toNat_add]; omega

theorem valSub32_eq (a b : Word) :
    valSub32 a b = sext64 32 (((a.toNat : Int) - (b.toNat : Int)) % 2 ^ 32).toNat := by
  unfold valSub32; congr 1; have := a.isLt; have := b.isLt; rw [BitVec.toNat_sub]; omega

theorem valMul32_eq (a b : Word) : valMul32 a b = sext64 32 ((a.toNat * b.toNat) % 2 ^ 32) := by
  unfold valMul32; congr 1; rw [BitVec.toNat_mul]
  exact Nat.mod_mod_of_dvd _ (by norm_num)

theorem leadingZeros_eq (n x : Nat) (h : x < 2 ^ n) : leadingZeros n x = if x = 0 then n else n - 1 - x.log2 := by
  induction n with
  | zero => have : x = 0 := by simpa using h
            simp [leadingZeros, this]
  | succ n ih =>
    simp only [leadingZeros]
    split
    · next ht =>
      have hx : x ≠ 0 := by rintro rfl; simp at ht
      have : 2 ^ n ≤ x := Nat.ge_two_pow_of_testBit ht
      have : x.log2 = n := (Nat.log2_eq_iff hx).2 ⟨this, h⟩
      simp [hx, this]
    · next ht =>
      have hlt : x < 2 ^ n := by
        refine Nat.lt_pow_two_of_testBit x fun i hi => ?_
        rcases Nat.eq_or_lt_of_le hi with rfl | hi
        · simpa using ht
        · exact Nat.testBit_lt_two_pow (lt_of_lt_of_le h (Nat.pow_le_pow_right (by norm_num) hi))
      rw [ih hlt]
      split
      · omega
      · next hx => have := (Nat.log2_lt hx).2 hlt; omega

theorem valClz_eq (a : Word) : valClz a = if a = 0 then 64 else BitVec.ofNat 64 (63 - a.toNat.log2) := by
  unfold valClz
  rw [leadingZeros_eq 64 _ a.isLt]
  by_cases h : a = 0
  · subst h; rfl
  · have : a.toNat ≠ 0 := fun e => h (BitVec.eq_of_toNat_eq e)
    rw [if_neg this, if_neg h]

theorem ones_eq (n x : Nat) : ones n x = (List.range n).countP fun k => x.testBit k := by
  induction n generalizing x with
  | zero => rfl
  | succ n ih =>
    rw [ones, ih, List.range_succ_eq_map, List.countP_cons, List.countP_map]
    have : (fun k => (x / 2).testBit k) = ((fun k => x.testBit k) ∘ Nat.succ) := by
      funext k; simp [Nat.testBit_succ]
    rw [this, Nat.testBit_zero]
    rcases Nat.mod_two_eq_zero_or_one x with h | h <;> simp [h, Nat.add_comm]

theorem valPopc_eq (a : Word) : valPopc a = BitVec.ofNat 64 ((List.range 64).countP fun k => a.getLsbD k) := by
  unfold valPopc; rw [ones_eq]; rfl

theorem signExtend6 (m : BitVec 6) : m.signExtend 64 = BitVec.ofInt 64 m.toInt := rfl

theorem valAddi_eq (m : BitVec 6) (a : Word) : valAddi m a = BitVec.ofInt 64 ((a.toNat : Int) + m.toInt) := by
  unfold valAddi
  rw [signExtend6]
  apply BitVec.eq_of_toNat_eq
  have := a.isLt
  simp only [BitVec.toNat_add, BitVec.toNat_ofInt]
  omega

theorem valShli_eq (m : BitVec 6) (a : Word) : valShli m a = BitVec.ofNat 64 (a.toNat * 2 ^ m.toNat) := by
  apply BitVec.eq_of_toNat_eq; simp [valShli, Nat.shiftLeft_eq]

theorem valShri_eq (m : BitVec 6) (a : Word) : valShri m a = BitVec.ofNat 64 (a.toNat / 2 ^ m.toNat) := by
  apply BitVec.eq_of_toNat_eq
  have h : a.toNat / 2 ^ m.toNat < 2 ^ 64 := lt_of_le_of_lt (Nat.div_le_self _ _) a.isLt
  rw [BitVec.toNat_ofNat, Nat.mod_eq_of_lt h]
  simp [valShri, Nat.shiftRight_eq_div_pow]

theorem valPset_low (x : Word) : valPset 0 x = (BitVec.ofNat 128 x.toNat, BitVec.ofNat 128 (2 ^ 64 - 1)) := by
  refine Prod.ext ?_ rfl
  apply BitVec.eq_of_toNat_eq
  simp only [valPset, BitVec.toNat_setWidth, BitVec.toNat_ofNat]

theorem valPset_high (x : Word) :
    valPset 1 x = (BitVec.ofNat 128 (x.toNat * 2 ^ 64), BitVec.ofNat 128 (2 ^ 128 - 2 ^ 64)) := by
  refine Prod.ext ?_ rfl
  apply BitVec.eq_of_toNat_eq
  simp only [valPset, BitVec.toNat_shiftLeft, BitVec.toNat_setWidth, BitVec.toNat_ofNat, Nat.shiftLeft_eq]
  have := x.isLt
  omega

theorem valPset_all (x : Word) :
    valPset 2 x = (if x.toNat % 2 = 1 then BitVec.allOnes 128 else 0, BitVec.allOnes 128) := by
  refine Prod.ext ?_ rfl
  simp only [valPset, BitVec.getLsbD, Nat.testBit_zero, decide_eq_true_eq]

theorem valPget_low (p : Pred) : valPget 0 p = BitVec.ofNat 64 (p.toNat % 2 ^ 64) := by
  apply BitVec.eq_of_toNat_eq
  simp only [valPget, BitVec.toNat_setWidth, BitVec.toNat_ofNat, Nat.mod_mod]

theorem valPget_high (p : Pred) : valPget 1 p = BitVec.ofNat 64 (p.toNat / 2 ^ 64) := by
  apply BitVec.eq_of_toNat_eq
  simp only [valPget, BitVec.toNat_setWidth, BitVec.toNat_ofNat, BitVec.toNat_ushiftRight, Nat.shiftRight_eq_div_pow]

end Sys2Proof.Machine
end

