-- ==== Sys2Proof/Laws/Vector.lean ====
section
/-!
SUPPORT. Elements of a register: reading back what was packed, element by element (R128).
-/
namespace Sys2Proof.Machine

theorem fold_lt (e : Nat) (l : List Nat) : l.foldr (fun x acc => acc * 2 ^ e + x % 2 ^ e) 0 < 2 ^ (e * l.length) := by
  induction l with
  | nil => simp
  | cons x l ih =>
    have hx : x % 2 ^ e < 2 ^ e := Nat.mod_lt _ (Nat.two_pow_pos e)
    simp only [List.foldr_cons, List.length_cons]
    calc _ < l.foldr (fun x acc => acc * 2 ^ e + x % 2 ^ e) 0 * 2 ^ e + 2 ^ e := by omega
      _ = (l.foldr (fun x acc => acc * 2 ^ e + x % 2 ^ e) 0 + 1) * 2 ^ e := by ring
      _ ≤ 2 ^ (e * l.length) * 2 ^ e := Nat.mul_le_mul_right _ ih
      _ = 2 ^ (e * (l.length + 1)) := by rw [← pow_add]; congr 1

theorem fold_digit (e : Nat) (l : List Nat) (i : Nat) :
    l.foldr (fun x acc => acc * 2 ^ e + x % 2 ^ e) 0 / 2 ^ (i * e) % 2 ^ e = l.getD i 0 % 2 ^ e := by
  induction l generalizing i with
  | nil => simp
  | cons x l ih =>
    have hp : 0 < 2 ^ e := Nat.two_pow_pos e
    cases i with
    | zero => simp [Nat.add_mod]
    | succ i =>
      have hx : x % 2 ^ e < 2 ^ e := Nat.mod_lt _ hp
      simp only [List.foldr_cons, List.getD_cons_succ]
      rw [show (i + 1) * e = e + i * e by ring, pow_add, ← Nat.div_div_eq_div_mul, Nat.add_comm (_ * _),
        Nat.add_mul_div_right _ _ hp, Nat.div_eq_of_lt hx, Nat.zero_add]
      exact ih i

/-- An element of a register packed from a list is the list's. -/
theorem elem_packElems (e : Nat) (l : List Nat) (i : Nat) (h : e * l.length ≤ 2048) :
    elem (packElems e l) e i = l.getD i 0 % 2 ^ e := by
  unfold elem packElems
  rw [BitVec.toNat_ushiftRight, BitVec.toNat_ofNat, Nat.shiftRight_eq_div_pow,
    Nat.mod_eq_of_lt (lt_of_lt_of_le (fold_lt e l) (Nat.pow_le_pow_right (by omega) h))]
  exact fold_digit e l i

/-- An element of a register given by a function of its index. -/
theorem elem_ofElems (e : Nat) (f : Nat → Nat) (i : Nat) (h : i < 2048 / e) :
    elem (ofElems e f) e i = f i % 2 ^ e := by
  have hl : ofElems e f = packElems e ((List.range (2048 / e)).map f) := by
    unfold ofElems packElems; rw [List.foldr_map]
  rw [hl, elem_packElems]
  · simp [List.getD, h]
  · simpa using Nat.mul_div_le 2048 e

theorem elem_lt (v : Vec) (e i : Nat) : elem v e i < 2 ^ e := Nat.mod_lt _ (Nat.two_pow_pos e)

end Sys2Proof.Machine
end

