-- ==== Sys2Proof/Tests/Slice0.lean ====
section
/-!
SUPPORT. Tests: words of every opcode (01_instruction_word), what the encoding refuses, single steps, and for each
statement a state and operands that meet its hypotheses.
-/
namespace Sys2Proof.Tests
set_option maxRecDepth 100000
set_option Elab.async false
open Sys2Proof.Machine Sys2Proof.Claims

/-! ## Decoding (R12-R16, R23, R32, R34, Tables Instruction-10 to Instruction-13): L, S, W, OP, D, A and B of a word -/

/-- The pair of each word with the idle `nop` in its A-slot decodes to the instruction beside it. -/
def cDecode (l : List (Half × Instr)) : Bool :=
  l.all fun (w, i) => match decodePair w 0b0_000_0_111111111_000000_000000_000000 with
    | .ok p => p == .normal 0 false i .nopA none
    | .error _ => false

/-- The same of A-slot words beside the idle C-slot `nop`. -/
def aDecode (l : List (Half × Instr)) : Bool :=
  l.all fun (w, i) => match decodePair 0b0_000_0_011100110_000000_000000_000000 w with
    | .ok p => p == .normal 0 false .nopC i none
    | .error _ => false

theorem test_decode_control : cDecode [
    (0b0_000_0_000000000_000000_000000_000001, .br 0x1),
    (0b0_000_0_000000001_100000_000000_000000, .brpAny 0x20000),
    (0b0_000_0_000000010_111111_111111_111111, .brpAll 0x3FFFF),
    (0b0_000_0_000000011_010010_001101_000101, .brpNone 0x12345),
    (0b0_000_0_000000100_001111_111111_111111, .brsZ 0xFFFF),
    (0b0_000_0_000000101_101010_101010_101010, .brsNz 0x2AAAA),
    (0b0_000_0_000000110_010101_010101_010101, .brsLt 0x15555),
    (0b0_000_0_000000111_111111_000000_111111, .brsGe 0x3F03F),
    (0b0_000_0_000001000_000000_111111_000000, .call 0xFC0),
    (0b0_000_0_000001001_011111_101000_000000, .callr (.s 31) .la),
    (0b0_000_0_000001010_000000_101001_000000, .jmpr .lc),
    (0b0_000_0_000001011_000000_011111_000000, .ret (.s 31)),
    (0b0_000_0_000001100_111111_111111_111110, .loop 0x3FFFE)] = true := by decide

theorem test_decode_task : cDecode [
    (0b0_000_0_000010000_000011_000100_101010, .spawn (.s 3) (.s 4) .z ⟨false, none, 0, none⟩),
    (0b0_000_0_000010001_101010_000100_000101, .spawnk .z (.s 4) (.s 5) ⟨false, none, 0, none⟩),
    (0b0_000_0_000010010_000000_000110_101010, .retire (.s 6) .z),
    (0b0_000_0_000010011_000000_000111_000000, .susp (.s 7)),
    (0b0_000_0_000010100_000000_001000_101001, .suspon (.s 8) .lc),
    (0b0_000_0_000010101_000000_000111_000000, .phase 7),
    (0b0_000_0_000010110_000010_000101_000000, .parrive (.s 2) 5),
    (0b0_000_0_000010111_000000_000011_001001, .pwait 3 (.s 9)),
    (0b0_000_0_000011000_000111_001010_011001, .gfuse (.s 7) (.s 10) (.s 25)),
    (0b0_000_0_000011001_001100_000000_000000, .gsplit (.s 12))] = true := by decide

theorem test_decode_cluster : cDecode [
    (0b0_000_0_000100000_000000_111111_000000, .evwait 63),
    (0b0_000_0_000100001_000000_111110_000001, .evsig 62 (.s 1)),
    (0b0_000_0_000100010_000001_001111_000000, .barr (.s 1) 15),
    (0b0_000_0_000100011_000000_001110_000010, .bwait 14 (.s 2)),
    (0b0_000_0_000100100_000000_001101_000011, .bmask 13 (.s 3)),
    (0b0_000_0_000100101_000100_000110_000101, .oarr (.s 4) 6 (.s 5)),
    (0b0_000_0_000100110_000000_000111_000110, .owait 7 (.s 6)),
    (0b0_000_0_000100111_000000_000011_000111, .xwait 3 (.s 7)),
    (0b0_000_0_000101000_000000_000011_001111, .fence .seq 15),
    (0b0_000_0_000101001_000000_000000_000000, .tfence),
    (0b0_000_0_000101010_001000_001111_000000, .qstat (.s 8) 15),
    (0b0_000_0_000101011_001001_001111_001010, .chbind (.s 9) 7 (.s 10))] = true := by decide

theorem test_decode_loads : cDecode [
    (0b0_000_0_001000000_000100_011011_011101, .ld .s8 (.s 4) (.s 27) 29),
    (0b0_000_0_001000001_010010_000001_011001, .ld .n8 (.s 18) (.s 1) 25),
    (0b0_000_0_001000010_010000_010111_110101, .ld .s16 (.s 16) (.s 23) 53),
    (0b0_000_0_001000011_011110_011101_110001, .ld .n16 (.s 30) (.s 29) 49),
    (0b0_000_0_001000100_011100_010011_001101, .ld .s32 (.s 28) (.s 19) 13),
    (0b0_000_0_001000101_001010_011001_001001, .ld .n32 (.s 10) (.s 25) 9),
    (0b0_000_0_001000110_001000_001111_100101, .ld .d64 (.s 8) (.s 15) 37),
    (0b0_000_0_001001000_001101_001000_001111, .ldx .s8 (.s 13) (.s 8) (.s 15)),
    (0b0_000_0_001001001_000011_010110_010101, .ldx .n8 (.s 3) (.s 22) (.s 21)),
    (0b0_000_0_001001010_001001_010100_001011, .ldx .s16 (.s 9) (.s 20) (.s 11)),
    (0b0_000_0_001001011_011111_000010_010001, .ldx .n16 (.s 31) (.s 2) (.s 17)),
    (0b0_000_0_001001100_000101_000000_000111, .ldx .s32 (.s 5) (.s 0) (.s 7)),
    (0b0_000_0_001001101_011011_001110_001101, .ldx .n32 (.s 27) (.s 14) (.s 13)),
    (0b0_000_0_001001110_000001_001100_000011, .ldx .d64 (.s 1) (.s 12) (.s 3)),
    (0b0_000_0_001010000_010110_010101_001110, .ldAcq .s32 (.s 22) (.s 21) 14),
    (0b0_000_0_001010001_010000_010111_001110, .ldAcq .n32 (.s 16) (.s 23) 14),
    (0b0_000_0_001010010_011010_001001_001110, .ldAcq .d64 (.s 26) (.s 9) 14)] = true := by decide

theorem test_decode_stores : cDecode [
    (0b0_000_0_001010100_010100_001011_111100, .st .b8 (.s 20) (.s 11) 60),
    (0b0_000_0_001010101_011100_010011_001100, .st .b16 (.s 28) (.s 19) 12),
    (0b0_000_0_001010110_000100_011011_011100, .st .b32 (.s 4) (.s 27) 28),
    (0b0_000_0_001010111_001100_000011_101100, .st .b64 (.s 12) (.s 3) 44),
    (0b0_000_0_001011000_011101_011000_011111, .stx .b8 (.s 29) (.s 24) (.s 31)),
    (0b0_000_0_001011001_000101_000000_000111, .stx .b16 (.s 5) (.s 0) (.s 7)),
    (0b0_000_0_001011010_001101_001000_001111, .stx .b32 (.s 13) (.s 8) (.s 15)),
    (0b0_000_0_001011011_010101_010000_010111, .stx .b64 (.s 21) (.s 16) (.s 23)),
    (0b0_000_0_001011100_000010_010001_001111, .stRel .b8 (.s 2) (.s 17) 15),
    (0b0_000_0_001011101_001010_011001_001111, .stRel .b16 (.s 10) (.s 25) 15),
    (0b0_000_0_001011110_010010_000001_001111, .stRel .b32 (.s 18) (.s 1) 15),
    (0b0_000_0_001011111_011010_001001_001111, .stRel .b64 (.s 26) (.s 9) 15)] = true := by decide

theorem test_decode_vector_memory : cDecode [
    (0b0_000_0_001100000_100111_000001_001010, .vld (.o 7) (.s 1) 10),
    (0b0_000_0_001100001_000010_011110_011111, .vlds (.v 2) 15 31),
    (0b0_000_0_001100010_011111_000011_111111, .vst (.v 31) (.s 3) 63),
    (0b0_000_0_001100011_101000_000010_000000, .vsts .la 1),
    (0b0_000_0_001100100_000100_000101_101100, .vgath .w32 (.v 4) (.s 5) .lane),
    (0b0_000_0_001100101_000110_000111_100000, .vgath .w64 (.v 6) (.s 7) (.o 0)),
    (0b0_000_0_001100110_001000_001001_001010, .vscat .w32 (.v 8) (.s 9) (.v 10)),
    (0b0_000_0_001100111_101010_001011_101001, .vscat .w64 .z (.s 11) .lc),
    (0b0_000_0_001101000_000001_000010_000000, .ldfe64 (.s 1) (.s 2)),
    (0b0_000_0_001101001_101010_000011_000000, .ldfe64c .z (.s 3)),
    (0b0_000_0_001101010_000100_000101_001100, .ldfeV (.v 4) (.s 5) 12),
    (0b0_000_0_001101011_100001_000110_010000, .ldfeVc (.o 1) (.s 6) 16),
    (0b0_000_0_001101100_111000_000111_000001, .stfe64 (.q 8) (.s 7) 1),
    (0b0_000_0_001101101_001000_001001_111110, .stfeV (.v 8) (.s 9) 62),
    (0b0_000_0_001101110_000000_001010_001011, .fecl (.s 10) (.s 11)),
    (0b0_000_0_001101111_000000_001100_110000, .feset (.s 12) (.q 0))] = true := by decide

theorem test_decode_amo_returning : cDecode [
    (0b0_000_0_010000000_010100_001011_011110, .amoAdd .w32 (.ret (.s 20) (.s 11) (.s 30)) none),
    (0b0_000_0_010000001_011111_000010_010001, .amoAdd .w64 (.ret (.s 31) (.s 2) (.s 17)) none),
    (0b0_000_0_010000010_000110_000101_000000, .amoAnd .w32 (.ret (.s 6) (.s 5) (.s 0)) none),
    (0b0_000_0_010000011_011001_000100_011011, .amoAnd .w64 (.ret (.s 25) (.s 4) (.s 27)) none),
    (0b0_000_0_010000100_001000_001111_010010, .amoOr .w32 (.ret (.s 8) (.s 15) (.s 18)) none),
    (0b0_000_0_010000101_000011_010110_010101, .amoOr .w64 (.ret (.s 3) (.s 22) (.s 21)) none),
    (0b0_000_0_010000110_011010_001001_010100, .amoXor .w32 (.ret (.s 26) (.s 9) (.s 20)) none),
    (0b0_000_0_010000111_011101_011000_011111, .amoXor .w64 (.ret (.s 29) (.s 24) (.s 31)) none),
    (0b0_000_0_010001000_011100_010011_000110, .amoSmin .w32 (.ret (.s 28) (.s 19) (.s 6)) none),
    (0b0_000_0_010001001_000111_001010_011001, .amoSmin .w64 (.ret (.s 7) (.s 10) (.s 25)) none),
    (0b0_000_0_010001010_001110_001101_001000, .amoSmax .w32 (.ret (.s 14) (.s 13) (.s 8)) none),
    (0b0_000_0_010001011_000001_001100_000011, .amoSmax .w64 (.ret (.s 1) (.s 12) (.s 3)) none),
    (0b0_000_0_010001100_010000_010111_011010, .amoNmin .w32 (.ret (.s 16) (.s 23) (.s 26)) none),
    (0b0_000_0_010001101_001011_011110_011101, .amoNmin .w64 (.ret (.s 11) (.s 30) (.s 29)) none),
    (0b0_000_0_010001110_000010_010001_011100, .amoNmax .w32 (.ret (.s 2) (.s 17) (.s 28)) none),
    (0b0_000_0_010001111_000101_000000_000111, .amoNmax .w64 (.ret (.s 5) (.s 0) (.s 7)) none),
    (0b0_000_0_010010000_000100_011011_001110, .amoSwap .w32 (.s 4) (.s 27) (.s 14) none),
    (0b0_000_0_010010001_001101_001000_001111, .amoSwap .w64 (.s 13) (.s 8) (.s 15) none)] = true := by decide

theorem test_decode_amo_no_return : cDecode [
    (0b0_000_0_010011000_011101_011000_000000, .amoAdd .w32 (.nr (.s 29) (.s 24)) none),
    (0b0_000_0_010011001_011100_010011_000000, .amoAdd .w64 (.nr (.s 28) (.s 19)) none),
    (0b0_000_0_010011010_000111_001010_000000, .amoAnd .w32 (.nr (.s 7) (.s 10)) none),
    (0b0_000_0_010011011_001110_001101_000000, .amoAnd .w64 (.nr (.s 14) (.s 13)) none),
    (0b0_000_0_010011100_000001_001100_000000, .amoOr .w32 (.nr (.s 1) (.s 12)) none),
    (0b0_000_0_010011101_010000_010111_000000, .amoOr .w64 (.nr (.s 16) (.s 23)) none),
    (0b0_000_0_010011110_001011_011110_000000, .amoXor .w32 (.nr (.s 11) (.s 30)) none),
    (0b0_000_0_010011111_000010_010001_000000, .amoXor .w64 (.nr (.s 2) (.s 17)) none),
    (0b0_000_0_010100000_000101_000000_000000, .amoSmin .w32 (.nr (.s 5) (.s 0)) none),
    (0b0_000_0_010100001_000100_011011_000000, .amoSmin .w64 (.nr (.s 4) (.s 27)) none),
    (0b0_000_0_010100010_001111_010010_000000, .amoSmax .w32 (.nr (.s 15) (.s 18)) none),
    (0b0_000_0_010100011_010110_010101_000000, .amoSmax .w64 (.nr (.s 22) (.s 21)) none),
    (0b0_000_0_010100100_001001_010100_000000, .amoNmin .w32 (.nr (.s 9) (.s 20)) none),
    (0b0_000_0_010100101_011000_011111_000000, .amoNmin .w64 (.nr (.s 24) (.s 31)) none),
    (0b0_000_0_010100110_010011_000110_000000, .amoNmax .w32 (.nr (.s 19) (.s 6)) none),
    (0b0_000_0_010100111_001010_011001_000000, .amoNmax .w64 (.nr (.s 10) (.s 25)) none)] = true := by decide

theorem test_decode_famo_returning : cDecode [
    (0b0_000_0_010101000_010010_000001_001100, .famoFadd .bf16 (.ret (.s 18) (.s 1) (.s 12)) none),
    (0b0_000_0_010101001_010101_010000_010111, .famoFadd .f32 (.ret (.s 21) (.s 16) (.s 23)) none),
    (0b0_000_0_010101010_010100_001011_011110, .famoFadd .f64 (.ret (.s 20) (.s 11) (.s 30)) none),
    (0b0_000_0_010101011_011111_000010_010001, .famoFadd .bf16x2 (.ret (.s 31) (.s 2) (.s 17)) none),
    (0b0_000_0_010101100_000110_000101_000000, .famoFadd .f32x2 (.ret (.s 6) (.s 5) (.s 0)) none),
    (0b0_000_0_010101101_011001_000100_011011, .famoFmin .bf16 (.ret (.s 25) (.s 4) (.s 27)) none),
    (0b0_000_0_010101110_001000_001111_010010, .famoFmin .f32 (.ret (.s 8) (.s 15) (.s 18)) none),
    (0b0_000_0_010101111_000011_010110_010101, .famoFmin .f64 (.ret (.s 3) (.s 22) (.s 21)) none),
    (0b0_000_0_010110000_011010_001001_010100, .famoFmin .bf16x2 (.ret (.s 26) (.s 9) (.s 20)) none),
    (0b0_000_0_010110001_011101_011000_011111, .famoFmin .f32x2 (.ret (.s 29) (.s 24) (.s 31)) none),
    (0b0_000_0_010110010_011100_010011_000110, .famoFmax .bf16 (.ret (.s 28) (.s 19) (.s 6)) none),
    (0b0_000_0_010110011_000111_001010_011001, .famoFmax .f32 (.ret (.s 7) (.s 10) (.s 25)) none),
    (0b0_000_0_010110100_001110_001101_001000, .famoFmax .f64 (.ret (.s 14) (.s 13) (.s 8)) none),
    (0b0_000_0_010110101_000001_001100_000011, .famoFmax .bf16x2 (.ret (.s 1) (.s 12) (.s 3)) none),
    (0b0_000_0_010110110_010000_010111_011010, .famoFmax .f32x2 (.ret (.s 16) (.s 23) (.s 26)) none)] = true := by decide

theorem test_decode_famo_no_return : cDecode [
    (0b0_000_0_010111000_000011_010110_000000, .famoFadd .bf16 (.nr (.s 3) (.s 22)) none),
    (0b0_000_0_010111001_011010_001001_000000, .famoFadd .f32 (.nr (.s 26) (.s 9)) none),
    (0b0_000_0_010111010_011101_011000_000000, .famoFadd .f64 (.nr (.s 29) (.s 24)) none),
    (0b0_000_0_010111011_011100_010011_000000, .famoFadd .bf16x2 (.nr (.s 28) (.s 19)) none),
    (0b0_000_0_010111100_000111_001010_000000, .famoFadd .f32x2 (.nr (.s 7) (.s 10)) none),
    (0b0_000_0_010111101_001110_001101_000000, .famoFmin .bf16 (.nr (.s 14) (.s 13)) none),
    (0b0_000_0_010111110_000001_001100_000000, .famoFmin .f32 (.nr (.s 1) (.s 12)) none),
    (0b0_000_0_010111111_010000_010111_000000, .famoFmin .f64 (.nr (.s 16) (.s 23)) none),
    (0b0_000_0_011000000_001011_011110_000000, .famoFmin .bf16x2 (.nr (.s 11) (.s 30)) none),
    (0b0_000_0_011000001_000010_010001_000000, .famoFmin .f32x2 (.nr (.s 2) (.s 17)) none),
    (0b0_000_0_011000010_000101_000000_000000, .famoFmax .bf16 (.nr (.s 5) (.s 0)) none),
    (0b0_000_0_011000011_000100_011011_000000, .famoFmax .f32 (.nr (.s 4) (.s 27)) none),
    (0b0_000_0_011000100_001111_010010_000000, .famoFmax .f64 (.nr (.s 15) (.s 18)) none),
    (0b0_000_0_011000101_010110_010101_000000, .famoFmax .bf16x2 (.nr (.s 22) (.s 21)) none),
    (0b0_000_0_011000110_001001_010100_000000, .famoFmax .f32x2 (.nr (.s 9) (.s 20)) none)] = true := by decide

theorem test_decode_cas_cache_system : cDecode [
    (0b0_000_0_011001000_000001_000010_000011, .cas (.w32 (.s 1) (.s 2) (.s 3)) none),
    (0b0_000_0_011001001_101010_000100_101000, .cas (.w64 .z (.s 4) .la) none),
    (0b0_000_0_011001010_011110_000101_000110, .cas (.w128 15 (.s 5) 3) none),
    (0b0_000_0_011010000_001011_011110_011101, .cflush (.s 11) (.s 30) (.s 29)),
    (0b0_000_0_011010001_011000_011111_000010, .cwb (.s 24) (.s 31) (.s 2)),
    (0b0_000_0_011010010_010001_011100_010011, .cinv (.s 17) (.s 28) (.s 19)),
    (0b0_000_0_011010011_000110_000101_000000, .tcinv (.s 6) (.s 5) (.s 0)),
    (0b0_000_0_011010100_000111_001010_011001, .spalloc (.s 7) (.s 10) (.s 25)),
    (0b0_000_0_011010101_000100_011011_001110, .spfree (.s 4) (.s 27) (.s 14)),
    (0b0_000_0_011010110_001101_001000_001111, .tdecl (.s 13) (.s 8) (.s 15)),
    (0b0_000_0_011010111_010010_000001_001100, .tundecl (.s 18) (.s 1) (.s 12)),
    (0b0_000_0_011011000_000011_010110_010101, .tfwd (.s 3) (.s 22) (.s 21)),
    (0b0_000_0_011100000_000001_000011_000010, .csrr (.s 1) 0x0C2),
    (0b0_000_0_011100001_000010_000000_010000, .csrw 0x010 (.s 2)),
    (0b0_000_0_011100010_000011_000000_010001, .csrs 0x011 (.s 3)),
    (0b0_000_0_011100011_101010_000000_111000, .csrc 0x038 .z),
    (0b0_000_0_011100100_000000_111111_101010, .trap 0xFEA),
    (0b0_000_0_011100101_000000_000100_000000, .eret (.s 4)),
    (0b0_000_0_011100110_000000_000000_000000, .nopC)] = true := by decide

theorem test_decode_scalar : aDecode [
    (0b0_000_0_100000000_010000_010111_011010, .add (.s 16) (.s 23) (.s 26)),
    (0b0_000_0_100000001_001001_010100_001011, .sub (.s 9) (.s 20) (.s 11)),
    (0b0_000_0_100000010_011110_011101_011000, .mul (.s 30) (.s 29) (.s 24)),
    (0b0_000_0_100000011_011111_000010_010001, .mulhS (.s 31) (.s 2) (.s 17)),
    (0b0_000_0_100000100_011100_010011_000110, .mulhN (.s 28) (.s 19) (.s 6)),
    (0b0_000_0_100000101_000101_000000_000111, .divS (.s 5) (.s 0) (.s 7)),
    (0b0_000_0_100000110_001010_011001_000100, .divN (.s 10) (.s 25) (.s 4)),
    (0b0_000_0_100000111_011011_001110_001101, .remS (.s 27) (.s 14) (.s 13)),
    (0b0_000_0_100001000_001000_001111_010010, .remN (.s 8) (.s 15) (.s 18)),
    (0b0_000_0_100001001_000001_001100_000011, .and (.s 1) (.s 12) (.s 3)),
    (0b0_000_0_100001010_010110_010101_010000, .or (.s 22) (.s 21) (.s 16)),
    (0b0_000_0_100001011_010111_011010_001001, .xor (.s 23) (.s 26) (.s 9)),
    (0b0_000_0_100001100_010100_001011_011110, .andn (.s 20) (.s 11) (.s 30)),
    (0b0_000_0_100001101_011101_011000_011111, .shl (.s 29) (.s 24) (.s 31)),
    (0b0_000_0_100001110_000010_010001_011100, .shr (.s 2) (.s 17) (.s 28)),
    (0b0_000_0_100001111_010011_000110_000101, .sar (.s 19) (.s 6) (.s 5)),
    (0b0_000_0_100010000_000000_000111_001010, .rot (.s 0) (.s 7) (.s 10))] = true := by decide

theorem test_decode_scalar_more : aDecode [
    (0b0_000_0_100010001_011001_000100_011011, .minS (.s 25) (.s 4) (.s 27)),
    (0b0_000_0_100010010_001110_001101_001000, .maxS (.s 14) (.s 13) (.s 8)),
    (0b0_000_0_100010011_001111_010010_000001, .minN (.s 15) (.s 18) (.s 1)),
    (0b0_000_0_100010100_001100_000011_010110, .maxN (.s 12) (.s 3) (.s 22)),
    (0b0_000_0_100010101_011110_011101_101010, .clz (.s 30) (.s 29)),
    (0b0_000_0_100010110_011000_011111_101010, .popc (.s 24) (.s 31)),
    (0b0_000_0_100010111_010101_010000_010111, .sel (.s 21) (.s 16) (.s 23)),
    (0b0_000_0_100011000_000010_010001_101010, .mov (.s 2) (.s 17)),
    (0b0_000_0_100011001_011010_001001_010100, .lea (.s 26) (.s 9) (.s 20)),
    (0b0_000_0_100011010_001011_011110_011101, .sext (.s 11) (.s 30) (.s 29)),
    (0b0_000_0_100011011_011000_011111_000010, .zext (.s 24) (.s 31) (.s 2)),
    (0b0_000_0_100011100_010001_011100_010011, .add32 (.s 17) (.s 28) (.s 19)),
    (0b0_000_0_100011101_000110_000101_000000, .sub32 (.s 6) (.s 5) (.s 0)),
    (0b0_000_0_100011110_000111_001010_011001, .mul32 (.s 7) (.s 10) (.s 25))] = true := by decide

theorem test_decode_immediate_compare_predicate : aDecode [
    (0b0_000_0_100100000_011100_010011_001101, .addi (.s 28) (.s 19) 13),
    (0b0_000_0_100100001_000101_000000_001111, .andi (.s 5) (.s 0) 15),
    (0b0_000_0_100100010_001010_011001_001001, .ori (.s 10) (.s 25) 9),
    (0b0_000_0_100100011_011011_001110_011011, .xori (.s 27) (.s 14) 27),
    (0b0_000_0_100100100_001000_001111_100101, .shli (.s 8) (.s 15) 37),
    (0b0_000_0_100100101_000001_001100_000111, .shri (.s 1) (.s 12) 7),
    (0b0_000_0_100100110_010110_010101_100001, .sari (.s 22) (.s 21) 33),
    (0b0_000_0_100101000_000100_011011_001110, .setEq (.s 4) (.s 27) (.s 14)),
    (0b0_000_0_100101001_001101_001000_001111, .setNe (.s 13) (.s 8) (.s 15)),
    (0b0_000_0_100101010_010010_000001_001100, .setLt (.s 18) (.s 1) (.s 12)),
    (0b0_000_0_100101011_000011_010110_010101, .setGe (.s 3) (.s 22) (.s 21)),
    (0b0_000_0_100101100_010000_010111_011010, .setLtn (.s 16) (.s 23) (.s 26)),
    (0b0_000_0_100101101_001001_010100_001011, .setGen (.s 9) (.s 20) (.s 11)),
    (0b0_000_0_100110000_000001_000010_000011, .pand 1 2 3),
    (0b0_000_0_100110001_000100_000101_000110, .por 4 5 6),
    (0b0_000_0_100110010_000111_000000_000001, .pxor 7 0 1),
    (0b0_000_0_100110011_000010_000011_000000, .pnot 2 3),
    (0b0_000_0_100110100_000100_000101_000010, .pset 4 (.s 5) 2),
    (0b0_000_0_100110101_000110_000111_000001, .pget (.s 6) 7 1)] = true := by decide

theorem test_decode_vector_integer : aDecode [
    (0b0_000_0_101000000_010111_011010_001001, .vadd (.v 23) (.v 26) (.v 9)),
    (0b0_000_0_101000001_010100_001011_011110, .vsub (.v 20) (.v 11) (.v 30)),
    (0b0_000_0_101000010_011101_011000_011111, .vmul (.v 29) (.v 24) (.v 31)),
    (0b0_000_0_101000011_000010_010001_011100, .vmulh (.v 2) (.v 17) (.v 28)),
    (0b0_000_0_101000100_010011_000110_000101, .vand (.v 19) (.v 6) (.v 5)),
    (0b0_000_0_101000101_000000_000111_001010, .vor (.v 0) (.v 7) (.v 10)),
    (0b0_000_0_101000110_011001_000100_011011, .vxor (.v 25) (.v 4) (.v 27)),
    (0b0_000_0_101000111_001110_001101_001000, .vshl (.v 14) (.v 13) (.v 8)),
    (0b0_000_0_101001000_001111_010010_000001, .vshr (.v 15) (.v 18) (.v 1)),
    (0b0_000_0_101001001_001100_000011_010110, .vsar (.v 12) (.v 3) (.v 22)),
    (0b0_000_0_101001010_010101_010000_010111, .vmin (.v 21) (.v 16) (.v 23)),
    (0b0_000_0_101001011_011010_001001_010100, .vmax (.v 26) (.v 9) (.v 20)),
    (0b0_000_0_101001100_000101_000000_101010, .vabs (.v 5) (.v 0)),
    (0b0_000_0_101001101_001011_011110_011101, .vmad (.v 11) (.v 30) (.v 29)),
    (0b0_000_0_101001110_000111_001010_101010, .vpopc (.v 7) (.v 10)),
    (0b0_000_0_101001111_011000_011111_000010, .vdot (.v 24) (.v 31) (.v 2)),
    (0b0_000_0_101010000_000011_011110_011101, .vcmpEq 3 (.v 30) (.v 29)),
    (0b0_000_0_101010001_000000_011111_000010, .vcmpNe 0 (.v 31) (.v 2)),
    (0b0_000_0_101010010_000001_011100_010011, .vcmpLt 1 (.v 28) (.v 19)),
    (0b0_000_0_101010011_000110_000101_000000, .vcmpGe 6 (.v 5) (.v 0)),
    (0b0_000_0_101010100_010001_011100_010011, .vsel (.v 17) (.v 28) (.v 19))] = true := by decide

theorem test_decode_floating : aDecode [
    (0b0_000_0_110000000_000110_000101_000000, .fadd (.v 6) (.v 5) (.v 0)),
    (0b0_000_0_110000001_000111_001010_011001, .fsub (.v 7) (.v 10) (.v 25)),
    (0b0_000_0_110000010_000100_011011_001110, .fmul (.v 4) (.v 27) (.v 14)),
    (0b0_000_0_110000011_001101_001000_001111, .fma (.v 13) (.v 8) (.v 15)),
    (0b0_000_0_110000100_010010_000001_001100, .fms (.v 18) (.v 1) (.v 12)),
    (0b0_000_0_110000101_000011_010110_010101, .fnma (.v 3) (.v 22) (.v 21)),
    (0b0_000_0_110000110_010000_010111_011010, .fnms (.v 16) (.v 23) (.v 26)),
    (0b0_000_0_110000111_001001_010100_001011, .fmin (.v 9) (.v 20) (.v 11)),
    (0b0_000_0_110001000_011110_011101_011000, .fmax (.v 30) (.v 29) (.v 24)),
    (0b0_000_0_110001001_011001_000100_101010, .fabs (.v 25) (.v 4)),
    (0b0_000_0_110001010_011011_001110_101010, .fneg (.v 27) (.v 14)),
    (0b0_000_0_110001011_011111_000010_010001, .fdiv (.v 31) (.v 2) (.v 17)),
    (0b0_000_0_110001100_001101_001000_101010, .fsqrt (.v 13) (.v 8)),
    (0b0_000_0_110001101_001111_010010_101010, .frcp (.v 15) (.v 18)),
    (0b0_000_0_110001110_000001_001100_101010, .frsq (.v 1) (.v 12)),
    (0b0_000_0_110001111_000011_010110_101010, .fexp2 (.v 3) (.v 22)),
    (0b0_000_0_110010000_010101_010000_101010, .flog2 (.v 21) (.v 16)),
    (0b0_000_0_110010001_010111_011010_101010, .fclass (.v 23) (.v 26))] = true := by decide

theorem test_decode_float_compare_convert : aDecode [
    (0b0_000_0_110011000_000111_001010_011001, .fcmpEq 7 (.v 10) (.v 25)),
    (0b0_000_0_110011001_000100_011011_001110, .fcmpLt 4 (.v 27) (.v 14)),
    (0b0_000_0_110011010_000101_001000_001111, .fcmpLe 5 (.v 8) (.v 15)),
    (0b0_000_0_110011011_000010_000001_001100, .fcmpUn 2 (.v 1) (.v 12)),
    (0b0_000_0_110100000_000011_010110_010101, .cvt (.v 3) (.v 22) (.s 21)),
    (0b0_000_0_110100001_011110_000001_000010, .cvtq (.v 15) (.v 1) (.s 2)),
    (0b0_000_0_110100010_000011_100110_000100, .cvtdq (.v 3) (.o 3) (.s 4))] = true := by decide

theorem test_decode_permute_reduce : aDecode [
    (0b0_000_0_111000000_010000_010111_011010, .vbcast (.v 16) (.v 23) (.s 26)),
    (0b0_000_0_111000001_011100_010011_000110, .vshuf (.v 28) (.v 19) (.v 6)),
    (0b0_000_0_111000010_001001_010100_001011, .vslideUp (.v 9) (.v 20) (.s 11)),
    (0b0_000_0_111000011_011110_011101_011000, .vslideDn (.v 30) (.v 29) (.s 24)),
    (0b0_000_0_111000100_000101_101000_000110, .vext (.s 5) .la (.s 6)),
    (0b0_000_0_111000101_011111_000010_010001, .vins (.v 31) (.v 2) (.s 17)),
    (0b0_000_0_111000110_001001_010100_101010, .vcmpr (.v 9) (.v 20)),
    (0b0_000_0_111000111_100100_000111_101010, .vlane (.o 4) (.s 7) .z),
    (0b0_000_0_111001000_000101_000000_101010, .vredAdd (.s 5) (.v 0)),
    (0b0_000_0_111001001_000111_001010_101010, .vredMin (.s 7) (.v 10)),
    (0b0_000_0_111001010_011001_000100_101010, .vredMax (.s 25) (.v 4)),
    (0b0_000_0_111001011_011011_001110_101010, .vredAnd (.s 27) (.v 14)),
    (0b0_000_0_111001100_001101_001000_101010, .vredOr (.s 13) (.v 8)),
    (0b0_000_0_111010000_001111_010010_101010, .fredAdd (.s 15) (.v 18)),
    (0b0_000_0_111010001_000001_001100_101010, .fredMin (.s 1) (.v 12)),
    (0b0_000_0_111010010_000011_010110_101010, .fredMax (.s 3) (.v 22)),
    (0b0_000_0_111010100_011100_010011_000110, .vtag (.v 28) (.v 19) (.s 6)),
    (0b0_000_0_111010101_010101_010000_101010, .vtagq (.s 21) (.v 16))] = true := by decide

theorem test_decode_matrix : aDecode [
    (0b0_000_0_111100000_001111_000000_000101, .mzero 15 true),
    (0b0_000_0_111100001_000011_000001_000000, .mlda 3 (.s 1)),
    (0b0_000_0_111100010_000000_000010_000000, .mldb (.s 2)),
    (0b0_000_0_111100011_000000_000100_000000, .mring 4),
    (0b0_000_0_111100100_001001_000011_111111, .mma 9 (.s 3) 63),
    (0b0_000_0_111100101_000100_000100_000000, .mband 4 (.s 4)),
    (0b0_000_0_111100110_000001_000101_101101, .mst 1 (.s 5) ⟨2, 13⟩),
    (0b0_000_0_111100111_000010_000110_000111, .mldt 2 (.s 6) ⟨0, 7⟩),
    (0b0_000_0_111101000_000000_000000_000000, .mfence),
    (0b0_000_0_111101001_000111_000000_000000, .mchk (.s 7)),
    (0b0_000_0_111111111_000000_000000_000000, .nopA)] = true := by decide

/-! ## States for the tests -/

/-- A pair of core 0's slot 0 is about to be checked by itself: the state that `withFetchWord` places, its issue begun. -/
def one : State :=
  { State.reset.withFetchWord 64 0 with agenda := [], now := 1, issue := Issue.of 0 0 (BitVec.ofNat 64 placeCode) }
/-- The same with the pair's checks made: a slot of a pair acts. -/
def mid (s : State) : State := { s with issue := { s.issue with checked := true } }
/-- An A-slot under predicate p0, which is 0: nothing is enabled. -/
def masked (s : State) : State := { s with issue := { s.issue with checked := true, aslot := true, pe := true } }
def withSlot (f : Slot → Slot) (s : State) : State := s.modCur f
/-- Scalar registers of the slot; numbers rising. -/
def withS (l : List (Nat × Word)) : State → State := withSlot fun sl => { sl with regs := { sl.regs with s := l } }
/-- Vector registers of the slot: number, tag and value. -/
def withV (l : List (Nat × Tag × Vec)) : State → State :=
  withSlot fun sl => { sl with regs := { sl.regs with v := l.map fun x => (x.1, ⟨x.2.2, x.2.1⟩) } }
/-- The continuation is a translation's: user mode, and its objects' rules. -/
def user : State → State := withSlot fun sl => { sl with native := false }
/-- The instruction acts as a slot of a checked pair, and by itself. -/
def acts (s : State) (i : Instr) : Bool := acting (mid s) i && clear s i

/-! ## Hypotheses that are met -/

theorem witness_ScalarResultsFollowTable :
    scalarRows.all (fun r => acts one (r.1 (.s 1) (.s 2) (.s 3)) && acting (masked one) (r.1 .z .la .z)) = true ∧
    unaryRows.all (fun r => acts one (r.1 (.s 31) .lc)) = true ∧ predHolds (mid one) = true ∧ predHolds (masked one) = false := by
  decide

theorem witness_DivisionFollowsTableAndSetsIdz :
    divisionRows.all (fun r => acts one (r.1 (.s 1) (.s 2) (.s 3))) = true ∧ readS one (.divN (.s 1) (.s 2) (.s 3)) 2 (.s 3) = 0 ∧
    (0x8000000000000000 : Word).toInt = -2 ^ 63 ∧ (BitVec.allOnes 64 : Word).toInt = -1 := by decide

theorem witness_SelWritesTheChosenSource :
    acts one (.sel (.s 1) (.s 2) (.s 3)) = true ∧ acting (masked one) (.sel (.s 1) (.s 2) (.s 3)) = true := by decide

theorem witness_ImmediateResultsFollowTable :
    immediateRows.all (fun r => acts one (r.1 (.s 1) (.s 2) 0x3F) && acting (masked one) (r.1 (.s 1) (.s 2) 0x20)) = true := by
  decide

theorem witness_ComparesWriteOneOrZero :
    compareRows.all (fun r => acts one (r.1 (.s 1) (.s 2) (.s 3)) && acting (masked one) (r.1 (.s 1) (.s 2) .z)) = true := by
  decide

theorem witness_PredicateInstructionsFollowTable :
    predicateRows.all (fun r => acts one (r.1 7 0 1)) = true ∧
    [Instr.pnot 1 2, .pset 0 (.s 1) 0, .pset 0 (.s 1) 1, .pset 0 (.s 1) 2, .pget (.s 1) 7 0, .pget (.s 1) 7 1,
     .pget (.s 1) 7 2].all (acts one) = true := by decide

theorem witness_RegisterInstructionsOnlyOweResults :
    [Instr.add (.s 1) (.s 2) (.s 3), .vadd (.v 1) (.v 2) .lane, .vadd (.v 1) (.v 2) (.v 3), .pand 1 2 3, .nopA,
     .nopC].all (fun i => registerOnly i && noPorts i) = true ∧
    (mid one).cur.isSome = true ∧ (mid one).issue.checked = true := by decide

/-- A slot that owes one result. -/
def owing (p : Pending) : Option Slot := one.cur.map fun sl => { sl with pending := [p] }

theorem witness_FixedLatencyResultsLand :
    (owing (scalarPending 31 7 true 0x80 4)).map Slot.pending = some [scalarPending 31 7 true 0x80 4] ∧
    (owing (vectorPending 31 1 2 10 1 4)).map Slot.pending = some [vectorPending 31 1 2 10 1 4] := by decide

theorem witness_ControlTransfersFollowTable :
    branchRows.all (fun r => acts one (r.1 0x20000)) = true ∧ acts one (.call 1) = true ∧ acts one (.loop 2) = true ∧
    sOf one 30 ≠ 1 ∧ sOf (withS [(30, 1)] one) 30 = 1 ∧ acts (withS [(30, 1)] one) (.loop 2) = true ∧
    [Instr.callr (.s 31) (.s 1), .jmpr (.s 1), .ret (.s 1)].all (acts (withS [(1, 8)] one)) = true ∧
    [Instr.callr (.s 31) (.s 1), .jmpr (.s 1), .ret (.s 1)].all (clear (withS [(1, 7)] one)) = true ∧
    acts one .nopA = true ∧ acts one .nopC = true := by decide

/-- The context's save area is checked (R447). -/
def withArea (s : State) : State := s.modCtx 0 fun x => { x with savebase := 0x60000, saveOk := true }

/-- A save that succeeds. -/
def saves (s : State) : Bool :=
  let s' := (s.settleSlot 0 0).modSlot 0 0 (Slot.drain s.now)
  match s'.slot 0 0 with
  | none => false
  | some sl =>
    let sd := { sl with quantum := [], qcount := 0 }
    let s0 := s'.unregister sl.ctx sl.idx
    let p := s'.trapPoint sd false false 0x20000 0x20008
    match s0.saveContainer sl.ctx sl.idx 1 1 sl.recVa.toNat (s0.trapFields 0 0 sd p false) p.live with
    | .ok _ => true
    | .error _ => false

theorem witness_ExactTrapFollowsItsSteps :
    saves (withArea one) = true ∧ ((withArea one).slot 0 0).map Slot.gangInfo = some none ∧
    ((withArea one).slot 0 0).map Slot.matrix = some false := by decide +kernel

theorem flagsIn_iff (s : State) : flagsIn s ↔
    (s.cur.all fun sl => sl.pending.all fun p =>
      if p.fixed then decide (p.due < s.now) else decide (p.flags = 0) || (p.delivered && decide (p.due < s.now))) = true := by
  cases h : s.cur with
  | none => simp [flagsIn, h]
  | some sl =>
    simp only [flagsIn, h, Option.some.injEq, forall_eq', Option.all_some, List.all_eq_true]
    exact forall₂_congr fun p _ => by cases p.fixed <;> simp
theorem resultsIn_iff (s : State) : resultsIn s ↔
    (s.cur.all fun sl => decide (sl.issuedAt < s.now) &&
      sl.pending.all fun p => !p.owed && (p.fixed || decide (p.due < s.now))) = true := by
  cases h : s.cur <;> simp [resultsIn, h]
theorem resultsOf_iff (s : State) (sl : Slot) : resultsOf s sl ↔
    (decide (sl.issuedAt < s.now) && sl.pending.all fun p => !p.owed && (p.fixed || decide (p.due < s.now))) = true := by
  simp [resultsOf]
theorem readsIn_iff (s : State) : readsIn s ↔
    (s.cur.all fun sl => sl.pending.all fun p => !(p.memRead && p.owed)) = true := by
  cases h : s.cur <;> simp [readsIn, h, Decidable.or_iff_not_imp_left]
theorem postedGood_iff (s : State) (nor : Bool) : postedGood s nor ↔ (failedWrites s nor).isNone = true := by
  simp [postedGood]
theorem writesGood_iff (s : State) : writesGood s ↔ (failedWrites s false).isNone = true := postedGood_iff s false
theorem holds_iff (s : State) : holds s ↔
    (s.cur.all fun sl => decide ((s.clus (myCluster s)).holder = some sl.ctx)) = true := by
  cases h : s.cur <;> simp [holds, h]
theorem nonePosted_iff (s : State) (ea n : Nat) : nonePosted s ea n ↔
    (s.cur.all fun sl => !s.posted sl.ctx sl.idx ea n) = true := by
  cases h : s.cur <;> simp [nonePosted, h]
theorem lone_iff (s : State) : lone s ↔ (s.cur.all fun sl => decide (sl.gangInfo = none)) = true := by
  cases h : s.cur <;> simp [lone, h]
theorem unitDone_iff (s : State) : unitDone s ↔
    (s.cur.all fun sl => sl.hold.all fun h => h.reissue || !h.w.matrixWork) = true := by
  cases h : s.cur with
  | none => simp [unitDone, h]
  | some sl =>
    cases h2 : sl.hold with
    | none => simp only [unitDone, h, h2, Option.all_some, Option.all_none, iff_true]; rintro _ _ ⟨⟩ h3; simp [h2] at h3
    | some x =>
      simp only [unitDone, h, h2, Option.all_some, Bool.or_eq_true, Bool.not_eq_true']
      exact ⟨fun g => g sl x rfl h2, fun g => by rintro _ _ ⟨⟩ h3; rw [h2] at h3; cases h3; exact g⟩
theorem ownsMatrix_iff (s : State) : ownsMatrix s ↔ (s.cur.any fun sl => sl.matrix) = true := by
  cases h : s.cur <;> simp [ownsMatrix, h]

/-- CSRs of the slot. -/
def withCsrs (f : Csrs → Csrs) : State → State := withSlot fun sl => { sl with csrs := f sl.csrs }
/-- Flags that would trap (R278). -/
def withArmed : State → State := withCsrs fun c => { c with flags := 0x81, ftrap := 0x80 }
/-- One more result owed. -/
def owes (p : Pending) : State → State := withSlot fun sl => { sl with pending := sl.pending ++ [p] }
/-- A result of the pair of the cycle before. -/
def aResult : Pending := scalarPending 1 0 true 1 1
/-- A read that has not delivered. -/
def aRead : Pending := { scalarPending 1 0 false 0 0 with fixed := false, memRead := true }
/-- A posted write has failed and has not been reported. -/
def failed : State → State := withSlot fun sl => { sl with failedNr := true }
/-- A non-ordering one has. -/
def failedOpen : State → State := withSlot fun sl => { sl with failedNor := true }
/-- A variable-latency result owes flags and has not been delivered. -/
def lateFlags : Pending := { aRead with flags := 0x80 }
/-- The slot waits in `eret`. -/
def inEret : State → State := withSlot fun sl => { sl with hold := some ⟨.eret, 0, false, []⟩ }
/-- An atomic that the continuation has posted to the line of a is not carried out yet. -/
def posting (a : Nat) (s : State) : State := { s with reqs := [⟨0, 1, 0, none, a, 0, 64, .add, 0, none, false, 0⟩] }

theorem witness_TrapTfenceAndEretFollowRules :
    acts one (.trap 0xFFF) = true ∧
    (flagsIn one ∧ armed one = 0 ∧ acts one .tfence = true) ∧
    (flagsIn (withArmed one) ∧ armed (withArmed one) = 0x80 ∧ clear (withArmed one) .tfence = true) ∧
    (¬ flagsIn (owes aResult one) ∧ clear (owes aResult one) .tfence = true) ∧
    (¬ flagsIn (owes lateFlags one) ∧ clear (owes lateFlags one) .tfence = true ∧ flagsIn (owes aRead one)) ∧
    (supervisor one = true ∧ acts one (.eret (.s 1)) = true ∧ resultsIn one ∧ writesGood one) ∧
    (¬ resultsIn (owes aRead one) ∧ writesGood (owes aRead one) ∧ acts (owes aRead one) (.eret (.s 1)) = true) ∧
    (¬ writesGood (failed one) ∧ clear (failed one) (.eret (.s 1)) = true) ∧
    clear (withS [(1, 4)] one) (.eret (.s 1)) = true ∧
    (supervisor (user one) = false ∧ clear (user one) (.eret (.s 1)) = true) ∧
    (inEret one).slot 0 0 ≠ none ∧ ∀ sl ∈ (inEret one).slot 0 0, sl.hold = some ⟨.eret, 0, false, []⟩ ∧ resultsOf (inEret one) sl := by
  simp only [flagsIn_iff, resultsIn_iff, writesGood_iff, resultsOf_iff]
  decide

theorem witness_FencesFlushWaitAndRelease :
    (readsIn one ∧ writesGood one ∧ postedGood one true ∧
      [FenceKind.acq, .rel, .acqRel, .seq].all (fun k => acts one (.fence k 0) && acts one (.fence k 15)) = true) ∧
    (¬ readsIn (owes aRead one) ∧ writesGood (owes aRead one) ∧ clear (owes aRead one) (.fence .acqRel 15) = true) ∧
    (¬ writesGood (failed one) ∧ clear (failed one) (.fence .rel 15) = true) ∧
    (writesGood (failedOpen one) ∧ acts (failedOpen one) (.fence .acqRel 15) = true ∧
      ¬ postedGood (failedOpen one) true ∧ clear (failedOpen one) (.fence .seq 15) = true) ∧ (one.slot 0 0).isSome = true ∧
    ((posting 0x30040 one).reqs ≠ []) := by
  simp only [readsIn_iff, writesGood_iff, postedGood_iff]
  decide

/-- The context holds the ring of its cluster. -/
def withRing (s : State) : State := s.modClus 0 fun x => { x with holder := some 0 }

theorem witness_QstatReadsThePort :
    (one.clus 0).holder ≠ some 0 ∧ clear one (.qstat (.s 1) 4) = true ∧ (withRing one).cur.isSome = true ∧
    ((withRing one).clus (clusterOf (withRing one).issue.core)).holder = some 0 ∧
    [(4 : Fin 16), 5].all (fun p => acts (withRing one) (.qstat (.s 1) p)) = true ∧
    [(0 : Fin 16), 3, 6, 8, 15].all (fun p => acts one (.qstat (.s 1) p)) = true := by decide

theorem witness_CsrsAreReadAndWritten :
    (csrSuper 0x0C2 = true ∧ supervisor one = true ∧ acts one (.csrr (.s 1) 0x0C2) = true ∧ acts one (.csrr (.s 1) 0x010) = true) ∧
    (supervisor (user one) = false ∧ clear (user one) (.csrr (.s 1) 0x0C2) = true ∧ csrSuper 0x010 = false ∧
      acts (user one) (.csrr (.s 1) 0x010) = true) ∧
    (csrWritable 0x0C2 = true ∧ acts one (.csrw 0x0C2 (.s 1)) = true ∧ acts one (.csrs 0x055 .z) = true ∧
      acts (user one) (.csrc 0x010 (.s 1)) = true ∧ csrWritable 0x055 = false) ∧
    (clear (user one) (.csrw 0x055 (.s 1)) = true ∧ csrWritable 0x040 = false ∧ clear one (.csrs 0x040 (.s 1)) = true) ∧
    clear (user one) (.csrc 0x0C1 (.s 1)) = true ∧
    (supervisor one = true ∧ writesGood one ∧ acts one (.csrw 0x0C1 (.s 1)) = true ∧ ¬ writesGood (failed one) ∧
      dreqAccess (failed one) (written 0 0 0) = none ∧ [(0x0C4 : BitVec 12), 0x0C1].all (fun n => clear (failed one) (.csrw n (.s 1))) = true) ∧
    (dreqAccess one (written 0 0 0x3001F) = none ∧ acts (withS [(1, 0x3001F)] one) (.csrw 0x0C4 (.s 1)) = true) ∧
    ((dreqAccess (withS [(1, BitVec.ofNat 64 (2 ^ 60))] one) (written 0 (csrOf one 0x0C4) (BitVec.ofNat 64 (2 ^ 60)))).isSome = true ∧
      clear (withS [(1, BitVec.ofNat 64 (2 ^ 60))] one) (.csrw 0x0C4 (.s 1)) = true) ∧
    (one.slot 0 0).isSome = true ∧ plainCsrs ≠ [] ∧ (one.die 0).trapq = none ∧
    ((one.modDie 0 fun x => { x with trapq := some ⟨0x70000, 0, 6⟩ }).die 0).trapq = some ⟨0x70000, 0, 6⟩ := by
  simp only [writesGood_iff]
  decide +kernel

/-- Page k of 64 GiB of context 0, at address k · 2^36: its table entry. -/
def page (k e : Nat) (s : State) : State := s.writePa (placeTable + 8 * k) 8 e
def pageAt (k : Nat) : Nat := k * 2 ^ 36
/-- Page 1: the event-unit pages; 2: read-only; 3: no populated range; 4: supervisor only; 5: a scale-out window; 6: the
scale-out table; 7: the core state windows; 8: memory type 1; 9: memory past 64 GiB. -/
def mapped : State :=
  (page 1 0x000FFF000000007B (page 2 0x0B (page 3 0x000F00000000007B (page 4 0x3B one))))
def mapped2 : State :=
  (page 5 0x000900000000007B (page 6 0x000DFF000000007B (page 7 0x000DFF800000007B (page 8 0x010000000000007B
    (page 9 0x100000007B one)))))
/-- The context has a scope table (R342). -/
def withScopes (s : State) : State := s.modCtx 0 fun x => { x with scopetab := 0x3FF80 }
/-- Scratchpad line 0 of core 0 is the continuation's, line 1 another record's. -/
def withLines (s : State) : State := s.modCore 0 fun x => { x with owner := [(0, 0x40040), (1, 0x40080)] }

def firstLeaf (s : State) (va : Nat) : Bool := match s.walk 0 va with | .leaf _ _ _ => true | _ => false
def leafPermits (s : State) (va : Nat) (k : Acc) (native : Bool) : Bool :=
  match s.walk 0 va with | .leaf l _ _ => l.permits k native | _ => false
def placeCodeOf (s : State) (w : Who) (k : Acc) (e : Bool) (va : Nat) : Nat :=
  match s.placeOf w k e va with | .ok _ => 0 | .error c => c

theorem witness_AccessesAreCheckedInOrder :
    (Acc.load ≠ .fetch ∧ (2 : Nat) ^ 56 ≤ 2 ^ 56) ∧
    (localBase + 0xFFFFFF < 2 ^ 56 ∧ window 0 localBase = some (0, 0) ∧ window 0 (localBase + 0xFFFFFF) = some (0, 0xFFFFFF) ∧
      window 0 windowBase = some (0, 0) ∧ window 0 (windowBase + 1023 * 2 ^ 21) = some (1023, 0)) ∧
    (window 0 (windowBase + 2 ^ 31) = none ∧ 0x00FFFE0000000000 ≤ windowBase + 2 ^ 31 ∧ windowBase + 2 ^ 31 < 2 ^ 56) ∧
    (window 0 0x00FFFDFFFFFFFFFF = none ∧ (0x00FFFDFFFFFFFFFF : Nat) < 0x00FFFE0000000000 ∧
      one.walk 0 0x00FFFDFFFFFFFFFF = .none ∧ one.walk 0 (pageAt 1) = .none) ∧
    (firstLeaf mapped (pageAt 3) = true ∧ mapped.region 0x000F000000000000 = none) ∧
    (firstLeaf mapped (pageAt 2) = true ∧ leafPermits mapped (pageAt 2) .store true = false ∧
      leafPermits mapped (pageAt 4) .load false = false ∧
      (mapped.region 0).isSome = true) ∧
    (leafPermits mapped (pageAt 1 - 1) .store false = true ∧ (mapped.region (pageAt 1 - 1)).map Region.plain = some true) ∧
    (firstLeaf (withScopes one) 0x3FFF8 = true ∧ ((withScopes one).region 0x3FFF8).map Region.plain = some true ∧
      leafPermits (withScopes one) 0x3FFF8 .load false = true ∧ (withScopes one).scopeOffset 0 0x3FFF8 = some 0x78 ∧
      (withScopes one).scopeOffset 0 0x40000 = none ∧ one.scopeOffset 0 0x30000 = none) ∧
    ((1 : Nat) = 1 ∧ 7 % 8 ≠ 0 ∧ 0x2FFF8 % 8 = 0 ∧ placeCodeOf one ⟨0, false, 0⟩ .load true 0x2FFF8 = 0) ∧
    (placeCodeOf one ⟨0, false, 0⟩ .load true (pageAt 1) = XLATE ∧ XLATE ≠ MCHECK) ∧
    placeCodeOf { one with poison := [(placeRoot, true)] } ⟨0, false, 0⟩ .load true 0x30000 = MCHECK := by
  decide +kernel

/-- Every scalar load, at the address in s2. -/
def loads : List Instr :=
  loadSizes.flatMap (fun r => [Instr.ld r.1 (.s 1) (.s 2) 0, .ldx r.1 (.s 1) (.s 2) .z]) ++
  acqSizes.map fun r => Instr.ldAcq r.1 (.s 1) (.s 2) 15
/-- Every scalar store, of s1 at the address in s2. -/
def stores : List Instr :=
  storeSizes.flatMap fun r => [Instr.st r.1 (.s 1) (.s 2) 0, .stx r.1 (.s 1) (.s 2) .z, .stRel r.1 (.s 1) (.s 2) 15]
/-- The operands name address a. -/
def at_ (a : Nat) (s : State) : State := withS [(2, BitVec.ofNat 64 a)] s
/-- The event unit of cluster 0 has no room for a registration. -/
def fullUnit (s : State) : State := s.modClus 0 fun x => { x with regs := List.replicate 256 ⟨0, 0, 2, 0⟩ }

theorem witness_ScalarLoadsAndStoresMoveBytes :
    ((checkAccess (at_ 0x30001 one) .load true 0x30001 8 8).isSome = true ∧
      loads.all (clear (at_ 0x30001 one)) = true) ∧
    ([1, 2, 4, 8].all (fun n => (checkAccess (at_ 0x30000 one) .load (n == 8) 0x30000 n n).isNone) = true ∧
      (at_ 0x30000 one).eventAt (issuer one) .load 0x30000 = none ∧ loads.all (acts (at_ 0x30000 one)) = true) ∧
    (checkAccess (at_ (pageAt 1) mapped) .load true (pageAt 1) 8 8 = none ∧
      (at_ (pageAt 1) mapped).eventAt (issuer one) .load (pageAt 1) = some (0, 0) ∧
      (at_ (pageAt 1) mapped).holderNow 0 ≠ some (issuer one).ctx ∧
      clear (at_ (pageAt 1) mapped) (.ld .d64 (.s 1) (.s 2) 0) = true) ∧
    (checkAccess (at_ (pageAt 1) (withRing mapped)) .load true (pageAt 1) 8 8 = none ∧
      (at_ (pageAt 1) (withRing mapped)).eventAt (issuer one) .load (pageAt 1) = some (0, 0) ∧
      (at_ (pageAt 1) (withRing mapped)).holderNow 0 = some (issuer one).ctx ∧
      acts (at_ (pageAt 1) (withRing mapped)) (.ld .d64 (.s 1) (.s 2) 0) = true ∧
      ((at_ (pageAt 1) (withRing mapped)).clus 0).regs.length < 256) ∧
    (256 ≤ ((fullUnit (at_ (pageAt 1) (withRing mapped))).clus 0).regs.length ∧
      (fullUnit (at_ (pageAt 1) (withRing mapped))).holderNow 0 = some (issuer one).ctx ∧
      clear (fullUnit (at_ (pageAt 1) (withRing mapped))) (.ld .d64 (.s 1) (.s 2) 0) = true ∧
      checkAccess (fullUnit (at_ (pageAt 1) (withRing mapped))) .load true (pageAt 1) 8 8 = none) ∧
    ((checkAccess (at_ (pageAt 2) mapped) .store true (pageAt 2) 8 8).isSome = true ∧
      stores.all (clear (at_ (pageAt 2) mapped)) = true) ∧
    ([1, 2, 4, 8].all (fun n => (checkAccess (at_ 0x30000 one) .store (n == 8) 0x30000 n n).isNone) = true ∧
      (at_ 0x30000 one).eventAt (issuer one) .store 0x30000 = none ∧ stores.all (acts (at_ 0x30000 one)) = true ∧
      writesGood (at_ 0x30000 one)) ∧
    (checkAccess (at_ (pageAt 1 + 0x200) mapped) .store true (pageAt 1 + 0x200) 8 8 = none ∧
      (at_ (pageAt 1 + 0x200) mapped).eventAt (issuer one) .store (pageAt 1 + 0x200) = some (0, 0) ∧
      (at_ (pageAt 1 + 0x200) mapped).holderNow 0 ≠ some 0 ∧
      (withRing (at_ (pageAt 1 + 0x200) mapped)).holderNow 0 = some (issuer one).ctx ∧
      clear (at_ (pageAt 1 + 0x200) mapped) (.st .b64 (.s 1) (.s 2) 0) = true ∧
      acts (withRing (at_ (pageAt 1 + 0x200) mapped)) (.st .b64 (.s 1) (.s 2) 0) = true ∧
      writesGood (withRing (at_ (pageAt 1 + 0x200) mapped)) ∧ nonePosted (at_ (pageAt 1 + 0x200) mapped) (pageAt 1 + 0x200) 8 ∧
      ¬ writesGood (failed (withRing (at_ (pageAt 1 + 0x200) mapped))) ∧
      clear (failed (withRing (at_ (pageAt 1 + 0x200) mapped))) (.st .b64 (.s 1) (.s 2) 0) = true) ∧
    (¬ writesGood (failed (at_ 0x30000 one)) ∧ clear (failed (at_ 0x30000 one)) (.stRel .b8 (.s 1) (.s 2) 15) = true) ∧
    (nonePosted (at_ 0x30000 one) 0x30000 8 ∧ ¬ nonePosted (posting 0x30040 (at_ 0x30000 one)) 0x30000 8 ∧
      writesGood (posting 0x30040 (at_ 0x30000 one)) ∧
      (loads ++ stores).all (clear (posting 0x30040 (at_ 0x30000 one))) = true) := by
  simp only [writesGood_iff, nonePosted_iff]
  decide +kernel

/-- The place of an 8-byte store and of the write after the traces of its access. -/
def twice (s : State) (w : Who) (ea : Nat) : List (Option Place) :=
  [(s.placeOf w .store true ea).toOption, ((s.lineEffects w .store .store ea 8).placeOf w .store true ea).toOption]

theorem witness_StoreChangesItsOwnBytesOnly :
    (0x30008 % 8 = 0 ∧ twice one (issuer one) 0x30008 = [some (.mem 0x30008 0 0), some (.mem 0x30008 0 0)] ∧
      (one.lineEffects (issuer one) .store .store 0x30008 8).unreachable 0x30008 = false) ∧
    (twice (withLines one) (issuer one) (localBase + 120) = [some (.spad 0 120), some (.spad 0 120)] ∧
      ((one.lineEffects (issuer one) .store .store (localBase + 120) 8).die 0).lost = false) ∧
    (mapped.placeOf (issuer one) .store true (pageAt 1 + 0x3F8)).toOption = some (.event 0 0x3F8) := by decide +kernel

/-- Base in s2 and stride in s3 of a strided access; v1 holds 32-bit values, v2 signed indices, v3 unsigned ones. -/
def strided (a step : Nat) : State :=
  withV [(1, 10, 0), (2, 5, 0), (3, 6, 0), (4, 16, 0)] (withS [(2, BitVec.ofNat 64 a), (3, BitVec.ofNat 64 step)] one)
def elemAddr (a step j : Nat) : Nat := (int64 (a + j * (BitVec.ofNat 64 step).toInt)).toNat

theorem witness_VectorAccessesMoveTheirElements :
    ((checkAccess (strided 0x30008 4) .load false 0x30008 256 16).isSome = true ∧
      clear (strided 0x30008 4) (.vld (.v 1) (.s 2) 10) = true) ∧
    (checkAccess (strided 0x30010 4) .load false 0x30010 256 16 = none ∧
      acts (strided 0x30010 4) (.vld (.o 7) (.s 2) 16) = true) ∧
    ((checkAccess (strided (pageAt 1 - 16) 4) .store false (pageAt 1 - 16) 256 16).isSome = true ∧
      clear (strided (pageAt 1 - 16) 4) (.vst (.v 1) (.s 2) 0) = true) ∧
    (checkAccess (strided 0x30010 4) .store false 0x30010 256 16 = none ∧ acts (strided 0x30010 4) (.vst .la (.s 2) 0) = true) ∧
    ((firstElemTrap (strided (pageAt 1 - 4) 4) .load 4 (elemAddr (pageAt 1 - 4) 4)).isSome = true ∧
      clear (strided (pageAt 1 - 4) 4) (.vlds (.v 1) 1 10) = true) ∧
    (firstElemTrap (strided 0x30000 (2 ^ 64 - 4)) .load 4 (elemAddr 0x30000 (2 ^ 64 - 4)) = none ∧
      acts (strided 0x30000 (2 ^ 64 - 4)) (.vlds (.v 1) 1 10) = true) ∧
    (tagOf (strided 0x30000 2) (.v 1) = some 10 ∧ (firstElemTrap (strided 0x30000 2) .store 4 (elemAddr 0x30000 2)).isSome = true ∧
      clear (strided 0x30000 2) (.vsts (.v 1) 1) = true) ∧
    (firstElemTrap (strided 0x30000 0) .store 4 (elemAddr 0x30000 0) = none ∧ acts (strided 0x30000 0) (.vsts (.v 1) 1) = true) ∧
    (tagOf one .lane = none ∧ tagOf (strided 0 0) (.v 2) = some 5 ∧ tagOf (strided 0 0) (.v 3) = some 6 ∧
      tagOf one (VDst.src .z) = none ∧ tagOf (strided 0 0) (VDst.src (.v 1)) = some 10 ∧ widthOfTag 10 = 32) ∧
    ((firstElemTrap (strided 0x30001 0) .load 4 fun j => 0x30001 + 4 * j).isSome = true ∧
      [VSrc.lane, .v 2, .v 3].all (fun b => clear (strided 0x30001 0) (.vgath .w32 (.v 1) (.s 2) b)) = true) ∧
    (firstElemTrap (strided 0x30000 0) .load 4 (fun j => 0x30000 + 4 * j) = none ∧
      firstElemTrap (strided 0x30000 0) .store 4 (fun j => 0x30000 + 4 * j) = none ∧
      [VSrc.lane, .v 2, .v 3].all (fun b => acts (strided 0x30000 0) (.vgath .w32 (.v 1) (.s 2) b) &&
        acts (strided 0x30000 0) (.vscat .w32 (.v 1) (.s 2) b)) = true ∧ acts (strided 0x30000 0) (.vgath .w32 .z (.s 2) .lane) = true) ∧
    (clear (strided 0x30001 0) (.vscat .w32 (.v 1) (.s 2) .lane) = true ∧
      (firstElemTrap (strided 0x30001 0) .store 4 fun j => 0x30001 + 4 * j).isSome = true) ∧
    (nonePosted (strided 0x30010 4) 0x30010 256 ∧ ¬ nonePosted (posting 0x30100 (strided 0x30010 4)) 0x30010 256 ∧
      clear (posting 0x30100 (strided 0x30010 4)) (.vld (.v 1) (.s 2) 16) = true ∧
      clear (posting 0x30100 (strided 0x30010 4)) (.vst (.v 1) (.s 2) 0) = true) ∧
    (firstElemWait (strided 0x30000 0) 4 (elemAddr 0x30000 0) = none ∧
      firstElemWait (strided 0x30000 0) 4 (fun j => 0x30000 + 4 * j) = none ∧
      firstElemWait (posting 0x30000 (strided 0x30000 0)) 4 (elemAddr 0x30000 0) = some (.posted 0x30000 4) ∧
      firstElemWait (posting 0x30080 (strided 0x30000 0)) 4 (fun j => 0x30000 + 4 * j) = some (.posted 0x30080 4) ∧
      [Instr.vlds (.v 1) 1 10, .vsts (.v 1) 1, .vgath .w32 (.v 1) (.s 2) .lane, .vscat .w32 (.v 1) (.s 2) .lane].all (fun i =>
        clear (posting 0x30000 (strided 0x30000 0)) i && clear (posting 0x30080 (strided 0x30000 0)) i) = true) ∧
    (tagOf (strided 0 0) (.v 4) = some 16 ∧ clear (strided 0 0) (.vgath .w32 (.v 1) (.s 2) (.v 4)) = true) := by
  simp only [nonePosted_iff]
  decide +kernel

/-- Lines 0 to 3 of core 0 allocated, with these full/empty bits. -/
def withBits (l : List (Nat × Byte)) (s : State) : State :=
  s.modCore 0 fun x => { x with owner := [(0, 0x40040), (1, 0x40040), (2, 0x40040), (3, 0x40040)], fe := l }
/-- The same with address a in s2. -/
def fe (l : List (Nat × Byte)) (a : Nat) : State := withBits l (at_ a one)

theorem witness_FullEmptyAccessesWaitAndFill :
    ([Instr.ldfe64 (.s 1) (.s 2), .ldfe64c (.s 1) (.s 2), .ldfeV (.v 1) (.s 2) 10, .ldfeVc (.v 1) (.s 2) 10, .stfe64 (.s 1) (.s 2) 0,
      .stfeV (.v 1) (.s 2) 0].all (clear (fe [] (localBase + 4))) = true ∧ (localBase + 4) % 8 ≠ 0 ∧ (localBase + 4) % 16 ≠ 0) ∧
    ([Instr.ldfe64 (.s 1) (.s 2), .ldfe64c (.s 1) (.s 2)].all (fun i => clear (fe [] 0x30000) i &&
        clear (fe [] (localBase + 0x200)) i && clear (fe [] (localBase + 0x180000)) i) = true ∧
      sget 0 ((fe [] 0).core 0).owner (0x200 / 128) = 0) ∧
    (feBit (fe [] 0) 0 0 = false ∧ [Instr.ldfe64 (.s 1) (.s 2), .ldfe64c (.s 1) (.s 2)].all (clear (fe [] localBase)) = true) ∧
    (feBit (fe [(0, 0x80)] 0) 0 7 = true ∧
      [Instr.ldfe64 (.s 1) (.s 2), .ldfe64c (.s 1) (.s 2)].all (acts (fe [(0, 0x80)] (localBase + 120))) = true) ∧
    ((∃ k < 16, feBit (fe [(0, 0xFF), (1, 0x7F)] 0) 0 k = false) ∧ (∀ k < 16, feBit (fe [(0, 0xFF), (1, 0xFF)] 0) 0 k = true) ∧
      [Instr.ldfeV (.v 1) (.s 2) 10, .ldfeVc (.v 1) (.s 2) 10].all (fun i => clear (fe [(0, 0xFF), (1, 0x7F)] localBase) i &&
        acts (fe [(0, 0xFF), (1, 0xFF)] localBase) i) = true) ∧
    (isWindow 0x30000 = false ∧ clear (fe [] 0x30000) (.stfe64 (.s 1) (.s 2) 0) = true) ∧
    (window 0 (localBase + 0x1F8) = some (0, 0x1F8) ∧ window 0 (windowBase + 0x1F8) = some (0, 0x1F8) ∧
      checkAccess (fe [] (windowBase + 0x1F8)) .store false (windowBase + 0x1F8) 8 8 = none ∧
      acts (fe [] (windowBase + 0x1F8)) (.stfe64 (.s 1) (.s 2) 0) = true) ∧
    (stfeFault (fe [] (localBase + 0x100)) (localBase + 0x100) 256 16 = none ∧
      acts (fe [] (localBase + 0x100)) (.stfeV (.v 1) (.s 2) 0) = true) ∧
    (∀ n < 256, sget 0 ((fe [] 0).core (fe [] 0).issue.core).owner ((localBase + 0x100 - localBase + n) / 128) ≠ 0) := by decide +kernel

/-- Offset or address in s2 and length in s3; lines 0 and 1 are the continuation's, line 2 another record's. -/
def range (a n : Nat) : State :=
  (withS [(2, BitVec.ofNat 64 a), (3, BitVec.ofNat 64 n)] one).modCore 0 fun x =>
    { x with owner := [(0, 0x40040), (1, 0x40040), (2, 0x40080)] }

theorem witness_ScratchpadLinesAndFullBits :
    ([Instr.fecl (.s 2) (.s 3), .feset (.s 2) (.s 3)].all (fun i => clear (range (localBase + 8) 16) i &&
        clear (range localBase 24) i && acts (range localBase 0) i && clear (range 0x30000 16) i &&
        clear (range (localBase + 0x180000) 16) i && acts (range (localBase + 0x10) 0xF0) i) = true) ∧
    (∀ n < 0xF0, sget 0 ((range 0 0).core (range 0 0).issue.core).owner ((0x10 + n) / 128) ≠ 0) ∧
    ([Instr.spalloc (.s 1) (.s 2) (.s 3), .spfree (.s 1) (.s 2) (.s 3)].all (fun i => acts (range 64 128) i &&
        acts (range 0x180000 128) i && acts (range 0x80 0x100) i && acts (range 0 0x100) i) = true) ∧
    (rangeBad 64 128 ∧ rangeBad 0 0 ∧ rangeBad 0x180000 128 ∧ ¬ (0x17FF80 % 128 ≠ 0 ∨ 0x180000 < 0x17FF80 + 128)) ∧
    (heldByOther (range 0x80 0x100) 2 ∧ ¬ heldByOther (range 0x80 0x100) 1 ∧ ∀ l < 2, ¬ heldByOther (range 0 0x100) l) := by
  unfold rangeBad heldByOther
  decide +kernel

/-- The hypotheses of `Rmw` on the state, for the access of n bytes at ea and attributes x, at a place of any kind. -/
def rmwGood (x : Option AAttr) (ea n : Nat) (s : State) : Bool :=
  let s1 := afterRelease x s
  let s2 := beforeRmw x ea n s
  (checkAccess s .atomic false ea n n).isNone && (failedWrites s false).isNone
  && (atomicUse x != .quantum || s2.cur.all fun y => y.csrs.quant == 0)
  && (match s1.placeOf (issuer s1) .atomic false ea with
    | .ok p => !s2.proxied p && !s2.placePoisoned p n
    | .error _ => false)
  && s2.cur.isSome && s2.queues.isEmpty && s2.reqs.isEmpty
/-- Its release would report a failed write, or the access itself is refused. -/
def rmwStops (x : Option AAttr) (ea n : Nat) (s : State) : Bool × Bool :=
  ((checkAccess (failed s) .atomic false ea n n).isNone && releasesFirst x && (failedWrites (failed s) false).isSome,
   (checkAccess (at_ (ea + 1) s) .atomic false (ea + 1) n n).isSome)

def integerAtomics (x : Option AAttr) : List (Instr × Nat) :=
  (amoRows.flatMap fun r => [(r.1 .w32 (.ret (.s 1) (.s 2) (.s 3)) x, 4), (r.1 .w64 (.ret .z (.s 2) .la) x, 8),
    (r.1 .w32 (.nr (.s 1) (.s 2)) x, 4), (r.1 .w64 (.nr .z (.s 2)) x, 8)]) ++
  [(.amoSwap .w32 (.s 1) (.s 2) (.s 3) x, 4), (.amoSwap .w64 .z (.s 2) .z x, 8)]
def otherAtomics (x : Option AAttr) : List (Instr × Nat) :=
  (famoRows.flatMap fun r => famoWidths.flatMap fun z => [(r.1 z.1 (.ret (.s 1) (.s 2) (.s 3)) x, z.2.1 / 8),
    (r.1 z.1 (.nr (.s 1) (.s 2)) x, z.2.1 / 8)]) ++
  [(.cas (.w32 (.s 1) (.s 2) (.s 3)) x, 4), (.cas (.w64 .z (.s 2) (.s 3)) x, 8), (.cas (.w128 15 (.s 2) 3) x, 16)]
/-- In memory and in a scratchpad, each acts; where its release or its access fails, it traps. -/
def atomicsMet (l : Option AAttr → List (Instr × Nat)) : Bool :=
  (l none).all (fun i => rmwGood none 0x30000 i.2 (at_ 0x30000 one) && acts (at_ 0x30000 one) i.1 &&
    rmwGood none (localBase + 0x70) i.2 (at_ (localBase + 0x70) (withLines one)) &&
    (rmwStops none 0x30000 i.2 one).2 && clear (at_ 0x30001 one) i.1) &&
  (l (some ⟨.unpaired, .acqRel, 15⟩)).all (fun i => rmwGood (some ⟨.unpaired, .acqRel, 15⟩) 0x30000 i.2 (at_ 0x30000 one) &&
    acts (at_ 0x30000 one) i.1 && (rmwStops (some ⟨.unpaired, .acqRel, 15⟩) 0x30000 i.2 (at_ 0x30000 one)).1 &&
    clear (failed (at_ 0x30000 one)) i.1)

theorem witness_IntegerAtomicsFollowTable : atomicsMet integerAtomics = true ∧
    rmwGood (some ⟨.quantum, .rlx, 15⟩) 0x30000 8 (at_ 0x30000 one) = true ∧
    rmwGood (some ⟨.speculative, .rlx, 15⟩) 0x30000 8 (at_ 0x30000 one) = true := by decide +kernel

theorem witness_FloatingAtomicsAndCas : atomicsMet otherAtomics = true := by decide +kernel

/-- One page and memory type for a range. -/
def oneRun (s : State) (va n : Nat) : Option (Nat × Nat × Leaf) :=
  match s.runs (issuer s) va n with | .ok [r] => some r | _ => none
def runTraps (s : State) (va n : Nat) : Bool := match s.runs (issuer s) va n with | .ok _ => false | .error _ => true

/-- An engine operation that the continuation has pushed is not complete. -/
def busyEngine (s : State) : State :=
  { s with ops := [⟨0, ⟨2, 0, true, 0, none, 0, 1, some (⟨0, 1⟩, 0)⟩, 0, true, false, 0, 0, false, [], none, none, none, false⟩] }

theorem witness_RangeOperationsActOnWholeLines :
    (range 0x30001 0x100).canon ∧
    ((range 0x30001 0x100).cur.any (range 0x30001 0x100).ownOps = false ∧
      (busyEngine (range 0x30001 0x100)).cur.any (busyEngine (range 0x30001 0x100)).ownOps = true ∧
      (oneRun (busyEngine (range 0x30001 0x100)) 0x30001 0x100).isSome = true ∧
      [Instr.cflush (.s 1) (.s 2) (.s 3), .cwb (.s 1) (.s 2) (.s 3), .cinv (.s 1) (.s 2) (.s 3)].all
        (clear (busyEngine (range 0x30001 0x100))) = true) ∧
    [Instr.cflush (.s 1) (.s 2) (.s 3), .cwb (.s 1) (.s 2) (.s 3), .cinv (.s 1) (.s 2) (.s 3)].all (fun i =>
      acts (range 0x30001 0) i && clear (range (2 ^ 56 - 1) 2) i && clear (range (pageAt 1) 1) i && acts (range 0x30001 0x100) i) = true ∧
    runTraps (range (pageAt 1) 1) (pageAt 1) 1 = true ∧ (oneRun (range 0x30001 0x100) 0x30001 0x100).isSome = true ∧
    (match (range 0x30001 0x100).leavesOf (issuer (range 0x30001 0x100)) (0x180 / 65536 + 2) 0x30000 0x180 with
      | .ok [(pa, m, leaf)] => decide (pa = 0x30000 ∧ m = 0x180 ∧ leaf.mt = 0)
      | _ => false) = true := by
  unfold State.canon State.memOk
  decide +kernel

/-- Tiles of these bases, of 4 KiB and of this context. -/
def withTiles (l : List Nat) (s : State) : State := { s with tiles := l.map fun b => ⟨b, 4096, 0, .ti, 0, none, none⟩ }
/-- Sixty-four bases that share a home with 0x30000. -/
def fullHome : List Nat := (List.range 64).map fun k => 0x80000 + 4096 * k
/-- Tiles of 4 MiB in all, forwarded to core 0's cluster. -/
def nearFull (s : State) : State :=
  { s with tiles := [⟨0x30000, 4096, 0, .ti, 0, none, none⟩] ++
      [1, 2, 3, 4].map fun k => ⟨k * 2 ^ 20, 2 ^ 20, 0, .tf, 0, none, some 0⟩ }
/-- A code object of 64 bytes with handle 1, which its context may write. -/
def anObject (write : Bool) : CodeObject :=
  { handle := 1, ctx := 0, code := 0x30000, codeLen := 64, codeWrite := write, types := (0x32000, 0), tasks := (0x34000, 0),
    spillMax := 0, caps := 0, syms := [], bodies := [], linkage := none }
def withObject (write : Bool) (s : State) : State := { s with objects := [anObject write] }

theorem tile_shapes : tileShape 0x30000 4096 ∧ ¬ tileShape 0x30000 0 ∧ ¬ tileShape 0x30800 4096 ∧ tileShape (2 ^ 20) (2 ^ 20) :=
  ⟨⟨⟨12, by decide⟩, by decide⟩, fun h => absurd h.2.1 (by decide), fun h => absurd h.2.2.2 (by decide),
   ⟨⟨20, by decide⟩, by decide⟩⟩

def tileOps : List Instr := [.tdecl (.s 1) (.s 2) (.s 3), .tundecl (.s 1) (.s 2) (.s 3)]
/-- The control word of `tfwd` in s3. -/
def forward (a ctl : Nat) : State := withTiles [0x30000] (range a ctl)

theorem witness_TilesAndTranslationsAreManaged :
    (tileOps.all (fun i => acts (range 0x30000 0) i && clear (range (pageAt 1) 4096) i && acts (range 0x30000 4096) i &&
        acts (page 9 0x000E00000000007B (range (pageAt 9) 4096)) i) = true ∧
      runTraps (range (pageAt 1) 4096) (pageAt 1) 4096 = true ∧
      ((oneRun (page 9 0x000E00000000007B (range (pageAt 9) 4096)) (pageAt 9) 4096).map fun r => one.deviceMem r.1) = some false ∧
      ((oneRun (range 0x30000 4096) 0x30000 4096).map fun r => (r.1, r.2.2.mt, one.deviceMem r.1)) = some (0x30000, 0, true)) ∧
    ((∃ t ∈ (withTiles [0x30000] one).tiles, t.base < 0x30000 + 4096 ∧ 0x30000 < t.base + t.size) ∧
      acts (withTiles [0x30000] (range 0x30000 4096)) (.tdecl (.s 1) (.s 2) (.s 3)) = true ∧ one.tiles = [] ∧
      acts (withTiles fullHome (range 0x30000 4096)) (.tdecl (.s 1) (.s 2) (.s 3)) = true ∧
      ((withTiles fullHome one).tiles.filter fun t => tileHome t.base == tileHome 0x30000).length = 64 ∧
      (withTiles fullHome one).tiles.all (fun t => !(decide (t.base < 0x30000 + 4096) && decide (0x30000 < t.base + t.size))) = true) ∧
    (acts (nearFull (range 0x30000 0)) (.tfwd (.s 1) (.s 2) (.s 3)) = true ∧ 4 * 2 ^ 20 < (nearFull one).nearBytes 0 0x30000 + 4096) ∧
    (acts (withTiles [0x30000] (range 0x30000 4096)) (.tundecl (.s 1) (.s 2) (.s 3)) = true ∧
      (∃ t ∈ (withTiles [0x30000] one).tiles, t.base = 0x30000 ∧ t.size = 4096 ∧ t.ctx = (issuer one).ctx)) ∧
    (clear (forward 0x30000 0x400) (.tfwd (.s 1) (.s 2) (.s 3)) = true ∧ (0x400 : Nat) ≠ 0x400 % 1024 + 0x400 / 65536 % 16 * 65536) ∧
    (clear (forward (pageAt 1) 0) (.tfwd (.s 1) (.s 2) (.s 3)) = true ∧ runTraps (forward (pageAt 1) 0) (pageAt 1) 1 = true) ∧
    (acts (forward 0x30000 0xF03FF) (.tfwd (.s 1) (.s 2) (.s 3)) = true ∧ acts (forward 0x30000 0x3FF) (.tfwd (.s 1) (.s 2) (.s 3)) = true ∧
      inScope 0 0x3FF 15 = true ∧ inScope 0 0x3FF 0 = false ∧ inScope 0 0 0 = true ∧
      (forward 0x30000 0xF03FF).nearBytes 0x3FF 0x30000 + 4096 ≤ 4 * 2 ^ 20 ∧
      ((oneRun (forward 0x30000 0xF03FF) 0x30000 1).map fun r => (r.1, r.2.2.mt)) = some (0x30000, 0) ∧
      (failedWrites (forward 0x30000 0xF03FF) false).isNone = true ∧ (failedWrites (failed (forward 0x30000 0xF03FF)) false).isSome = true ∧
      clear (failed (forward 0x30000 0xF03FF)) (.tfwd (.s 1) (.s 2) (.s 3)) = true ∧
      ((forward 0x30000 0xF03FF).tiles.find? fun t => t.base == 0x30000 && t.ctx == 0).isSome = true ∧
      acts (withTiles [] (forward 0x30000 0)) (.tfwd (.s 1) (.s 2) (.s 3)) = true ∧
      acts (page 9 0x000E00000000007B (forward (pageAt 9) 0)) (.tfwd (.s 1) (.s 2) (.s 3)) = true) ∧
    (clear (range (2 ^ 44) 64) (.tcinv (.s 1) (.s 2) (.s 3)) = true ∧ one.object 1 = none) ∧
    ((withObject false one).object 1 = some (anObject false) ∧ (anObject false).codeLen < 1 + 64 ∧
      clear (withObject false (range (2 ^ 44 + 1) 64)) (.tcinv (.s 1) (.s 2) (.s 3)) = true ∧
      clear (user (withObject false (range (2 ^ 44) 64))) (.tcinv (.s 1) (.s 2) (.s 3)) = true ∧
      supervisor (user (withObject false one)) = false ∧
      acts (withObject false (range (2 ^ 44) 64)) (.tcinv (.s 1) (.s 2) (.s 3)) = true ∧
      (failedWrites (withObject false (range (2 ^ 44) 64)) false).isNone = true ∧
      (failedWrites (failed (withObject false (range (2 ^ 44) 64))) false).isSome = true ∧
      clear (failed (withObject false (range (2 ^ 44) 64))) (.tcinv (.s 1) (.s 2) (.s 3)) = true ∧
      acts (user (withObject true (range (2 ^ 44 + 64) 0))) (.tcinv (.s 1) (.s 2) (.s 3)) = true) := by decide +kernel

/-- The pool of context 0: 16 records, this free chain, frames of 1 KiB at 0x50000, the domain table at 0x70000. -/
def withPool (free : Nat) (s : State) : State :=
  s.writePa 0x40000 64 (16 + free * 2 ^ 32 + free * 2 ^ 64 + 0x50000 * 2 ^ 128 + 1024 * 2 ^ 192 + 0x70000 * 2 ^ 256)
/-- A save area that admits gangs of 16 and matrix records. -/
def withGangs (s : State) : State := (withArea s).writePa 0x60000 64 (12 * 2 ^ 136)
/-- A body at offset 0 with these keys, that spills n bytes. -/
def aBody (n : Nat) (keys : List (Nat × Nat)) : Body := ⟨0, 64, n, keys, [0], [], 0, 0, 0, [], [], []⟩
/-- Handle 1: such a body. -/
def withBody (n : Nat) (keys : List (Nat × Nat)) (s : State) : State :=
  { s with objects := [{ anObject true with bodies := [aBody n keys] }] }
def plainC : Creation := ⟨false, none, 0, none⟩
def bigC : Creation := ⟨true, some 7, 4, some 31⟩
def spawns (c : Creation) : List Instr := [.spawn (.s 1) (.s 2) (.s 3) c, .spawnk (.s 1) (.s 2) (.s 3) c]
/-- A body with VPC in s2 and ARGS in s3. -/
def calling (free spill : Nat) (keys : List (Nat × Nat)) : State :=
  withBody spill keys (withGangs (withPool free (withS [(2, 2 ^ 44), (3, 0x30000)] one)))

/-- The pool lies where nothing is mapped. -/
def noPool (s : State) : State := s.modCtx 0 fun x => { x with contpool := BitVec.ofNat 64 (pageAt 1) }

theorem witness_SpawnMakesARecord :
    ((calling 2 0 []).cur.any (fun sl => decide (sl.prio < askedPrio bigC sl) && sl.native) = true ∧
      (user (calling 2 0 [])).cur.any (fun sl => decide (sl.prio < askedPrio bigC sl) && !sl.native) = true ∧
      (spawns bigC).all (clear (user (calling 2 0 []))) = true) ∧
    ((calling 2 0 []).cur.any (fun sl => decide (askedPrio plainC sl ≤ sl.prio)) = true ∧
      (one.bodyOf 0).isNone = true ∧ (spawns plainC).all (clear one) = true) ∧
    (((calling 2 0 [(1, 8)]).bodyOf (2 ^ 44)).map (fun x => x.2.keys) = some [(1, 8)] ∧
      clear (calling 2 0 [(1, 8)]) (.spawn (.s 1) (.s 2) (.s 3) plainC) = true) ∧
    ((calling 2 961 []).frameStride 0 < 961 + 64 ∧ 64 ≤ (calling 2 961 []).frameStride 0 ∧
      (spawns plainC).all (clear (calling 2 961 [])) = true) ∧
    ((withBody 0 [] (withPool 2 one)).maxGang 0 < (4 : Fin 5).val ∧ (withBody 0 [] (withPool 2 one)).matrixAllowed 0 = false ∧
      (spawns bigC).all (clear (withBody 0 [] (withPool 2 one))) = true) ∧
    ([calling 0 960 [], calling 2 960 []].all (fun s => decide (960 + 64 ≤ s.frameStride 0) && decide (4 ≤ s.maxGang 0) &&
        s.matrixAllowed 0 && (failedWrites s false).isNone && (spawns bigC).all (acts s)) = true ∧
      ((calling 0 960 []).release 0 0).pool 0 / 2 ^ 32 % 2 ^ 32 = 0 ∧ (((calling 0 960 []).release 0 0).allocRec 0).2 = 0 ∧
      (((calling 2 960 []).release 0 0).allocRec 0).2 ≠ 0) ∧
    ((calling 2 0 [(1, 0)]).keyFault (issuer one) 0x30000 (aBody 0 [(1, 0)]) = none ∧ failedWrites (calling 2 0 [(1, 0)]) false = none ∧
      ((((calling 2 0 [(1, 0)]).keyEffects (issuer one) 0x30000 (aBody 0 [(1, 0)])).release 0 0).allocRec 0).2 ≠ 0 ∧
      (calling 2 0 [(1, 0)]).keyWait (2 ^ 44) 0x30000 = none ∧
      acts (calling 2 0 [(1, 0)]) (.spawnk (.s 1) (.s 2) (.s 3) plainC) = true) ∧
    (((posting 0x30040 (calling 2 0 [(1, 8)])).keyWait (2 ^ 44) 0x30000).isSome = true ∧
      (posting 0x30040 (calling 2 0 [(1, 8)])).keyFault (issuer one) 0x30000 (aBody 0 [(1, 8)]) = none ∧
      failedWrites (posting 0x30040 (calling 2 0 [(1, 8)])) false = none ∧
      acts (posting 0x30040 (calling 2 0 [(1, 8)])) (.spawnk (.s 1) (.s 2) (.s 3) plainC) = true) ∧
    (((noPool (calling 2 0 [])).poolHole 0).isSome = true ∧ ((noPool (calling 2 0 [])).bodyOf (2 ^ 44)).isSome = true ∧
      (spawns plainC).all (clear (noPool (calling 2 0 []))) = true ∧ (calling 2 0 []).poolHole 0 = none) ∧
    ((2 : Nat) ^ 64 - 1 < 2 ^ 64 ∧ (31 : Nat) < 32) := by decide +kernel

/-- The slot leads a gang of two, placed or fused for a time, whose other member is on core 1. -/
def inGang (transient : Bool) (s : State) : State :=
  let s := withSlot (fun sl => { sl with gangInfo := some ⟨2, 0, 0, 0, transient, [(0, 0), (1, 0)]⟩ }) s
  s.modCore 1 fun x => { x with slots := [(0, some { placeSlot 0 with
    idx := if transient then 2 else 1, gangInfo := some ⟨2, 1, 0, 0, transient, [(0, 0), (1, 0)]⟩ })] }
/-- The pair's A-slot has left matrix work. -/
def working : State → State := withSlot fun sl => { sl with hold := some ⟨.until 9, 1, false, []⟩ }
/-- A wake word, or an address, in s2. -/
def word (w : Nat) (s : State) : State := withS [(2, BitVec.ofNat 64 w)] s
/-- Domain 1 at a level, with this number of members of which `arrived` are there. -/
def withDom (level members arrived : Nat) (s : State) : State :=
  (withCsrs (fun c => { c with domm := [(level, 1)] }) (withPool 2 s)).writePa 0x70040 64
    (arrived * 2 ^ 32 + members * 2 ^ 64 + level * 2 ^ 128)

theorem witness_RetireAndSuspensionsLeaveTheSlot :
    ((inGang true one).cur.any (fun sl => decide (sl.gangInfo ≠ none)) = true ∧ clear (inGang true one) (.retire .z .z) = true) ∧
    (lone (word 0x30004 one) ∧ readS (word 0x30004 one) (.retire (.s 2) .z) 1 (.s 2) ≠ 0 ∧
      (checkAccess (word 0x30004 one) .atomic false 0x30004 8 8).isSome = true ∧ clear (word 0x30004 one) (.retire (.s 2) .z) = true) ∧
    (¬ resultsIn (owes aRead one) ∧ writesGood (owes aRead one) ∧ clear (owes aRead one) (.retire .z .z) = true) ∧
    (unitDone one ∧ ¬ unitDone (working one) ∧ lone (working one) ∧ resultsIn (working one) ∧ writesGood (working one) ∧
      (mid (working one)).cur.isSome = true ∧ (mid (working one)).issue.checked = true) ∧
    (lone one ∧ resultsIn one ∧ writesGood one ∧ one.cur.isSome = true ∧ acts one (.retire .z .z) = true ∧
      checkAccess (word 0x30000 one) .atomic false 0x30000 8 8 = none ∧ acts (word 0x30000 one) (.retire (.s 2) (.s 3)) = true) ∧
    (clear (inGang true one) (.susp (.s 2)) = true ∧ acts (word (2 ^ 64 - 1) one) (.susp (.s 2)) = true ∧
      acts (inGang false one) (.susp (.s 2)) = true) ∧
    (clear (inGang true one) (.suspon (.s 2) .z) = true ∧ clear (withS [(2, 0), (3, 1)] one) (.suspon (.s 2) (.s 3)) = true ∧
      [0, 3, 7, 8, 10, 15].all (fun t => clear (word (t * 2 ^ 60) one) (.suspon (.s 2) .z)) = true) ∧
    (wakeAllowed one (placeSlot 0) (1 * 2 ^ 60 + 15 * 2 ^ 44 + (2 ^ 32 - 1)) (.group 0 15 (BitVec.allOnes 32)) ∧
      wakeAllowed one (placeSlot 0) (2 * 2 ^ 60) (.ports [(0, 1)]) ∧
      wakeAllowed one (placeSlot 0) (5 * 2 ^ 60 + 3 * 2 ^ 32) (.xfer 3 0) ∧
      wakeAllowed (withLines one) (placeSlot 0) (6 * 2 ^ 60 + 8 * 2 ^ 24) (.granules 0 8) ∧
      wakeAllowed one (placeSlot 0) (9 * 2 ^ 60 + (2 ^ 60 - 1)) (.timer (2 ^ 60 - 1)) ∧
      [1 * 2 ^ 60 + 15 * 2 ^ 44 + (2 ^ 32 - 1), 2 * 2 ^ 60, 5 * 2 ^ 60 + 3 * 2 ^ 32, 6 * 2 ^ 60 + 8 * 2 ^ 24,
        9 * 2 ^ 60 + (2 ^ 60 - 1)].all (fun w => acts (word w (withLines one)) (.suspon (.s 2) .z)) = true) ∧
    ((sget 0 { (placeSlot 0).csrs with domm := [(7, (1 : Half))] }.domm 7 ≠ 0) ∧
      acts (word (1 * 2 ^ 60 + 2 ^ 59 + 7 * 2 ^ 56) (withDom 7 2 0 one)) (.suspon (.s 2) .z) = true) ∧
    (256 ≤ ((fullUnit one).clus 0).regs.length ∧ clear (fullUnit (word (4 * 2 ^ 60 + 63) one)) (.suspon (.s 2) .z) = true ∧
      (one.clus 0).regs.length < 256 ∧ acts (word (4 * 2 ^ 60 + 63) one) (.suspon (.s 2) .z) = true) := by
  simp only [lone_iff, resultsIn_iff, writesGood_iff, unitDone_iff]
  refine ⟨by decide, by decide, by decide, by decide, by decide, by decide, by decide, ⟨?_, ?_, ?_, ?_, ?_, by decide⟩, by decide, by decide⟩
  · exact .inl ⟨15, 2 ^ 32 - 1, by decide⟩
  · exact .inr (.inr (.inl ⟨0, by decide⟩))
  · exact .inr (.inr (.inr (.inl ⟨3, 0, by decide⟩)))
  · exact .inr (.inr (.inr (.inr (.inl ⟨0, 8, by decide⟩))))
  · exact .inr (.inr (.inr (.inr (.inr ⟨2 ^ 60 - 1, by decide⟩))))

/-- Domain 1 is a strip of cores 0 and 1 at level 0; core 0 sees core 1 at this count. -/
def beside (n : Half) : State :=
  ((withDom 0 2 0 one).writePa 0x70060 4 (2 ^ 17 + 2 ^ 24)).modCore 0 fun x => { x with seen := [(1, n)] }

theorem arrivable_iff (s : State) (l : Nat) : (∀ sl, s.cur = some sl → arrivable s sl l) ↔
    (s.cur.all fun sl => decide (levelDom s l ≠ 0) && (s.domHole sl.ctx (levelDom s l)).isNone
      && !s.domBad sl.ctx (levelDom s l) l) = true := by
  cases h : s.cur <;> simp [arrivable, and_assoc]

theorem witness_PhasesArriveAndWait :
    (one.cur.map Slot.gangInfo = some none ∧ levelDom one 7 = 0 ∧
      [Instr.phase 7, .parrive .z 7, .pwait 7 .z].all (clear one) = true ∧ [Instr.owait 7 .z, .oarr .z 7 .z].all (clear (withRing one)) = true) ∧
    (levelDom (withDom 1 0 0 one) 1 ≠ 0 ∧ (withDom 1 0 0 one).domBad 0 1 1 = true ∧ (withDom 1 0 0 one).domHole 0 1 = none ∧
      [Instr.phase 1, .parrive .z 1].all (clear (withDom 1 0 0 one)) = true) ∧
    (levelDom (noPool (withDom 1 2 1 one)) 1 ≠ 0 ∧ ((noPool (withDom 1 2 1 one)).domHole 0 1).isSome = true ∧
      holds (noPool (withRing (withDom 1 2 1 one))) ∧ [Instr.phase 1, .parrive .z 1, .pwait 1 .z].all (clear (noPool (withDom 1 2 1 one))) = true ∧
      clear (noPool (withRing (withDom 1 2 1 one))) (.owait 1 .z) = true) ∧
    ((∀ sl, (withDom 1 2 1 one).cur = some sl → arrivable (withDom 1 2 1 one) sl 1) ∧
      (∀ sl, (withDom 0 2 0 one).cur = some sl → arrivable (withDom 0 2 0 one) sl 0)) ∧
    (levelDom (withDom 1 2 1 one) 1 ≠ 0 ∧ (withDom 1 2 1 one).domBad 0 1 1 = false ∧ writesGood (withDom 1 2 1 one) ∧
      [Instr.phase 1, .parrive (.s 1) 1, .pwait 1 .la].all (acts (withDom 1 2 1 one)) = true ∧
      (((withDom 1 2 1 one).release 0 0).arrive 0 1 1).cur.isSome = true) ∧
    (¬ writesGood (failed (withDom 1 2 1 one)) ∧
      [Instr.phase 1, .parrive .z 1].all (clear (failed (withDom 1 2 1 one))) = true) ∧
    (levelDom (inGang true (withDom 1 2 1 one)) 1 ≠ 0 ∧ writesGood (inGang true (withDom 1 2 1 one)) ∧
      ((inGang true one).cur.map fun sl => decide (sl.gangInfo = none)) = some false ∧
      [Instr.phase 1, .parrive (.s 1) 1, .pwait 1 .la].all (acts (inGang true (withDom 1 2 1 one))) = true ∧
      [Instr.owait 1 .z, .oarr (.s 1) 1 .z].all (acts (inGang false (withRing (withDom 1 2 1 one)))) = true) ∧
    (levelDom (withDom 0 2 0 one) 0 ≠ 0 ∧ (withDom 0 2 0 one).domBad 0 1 0 = false ∧ acts (withDom 0 2 0 one) (.phase 0) = true ∧
      (withDom 0 2 0 one).neighbourCounts 0 0 1 = []) ∧
    ((beside 2).neighbourCounts 0 0 1 = [2] ∧ (beside 0).neighbourCounts 0 0 1 = [0] ∧
      ((2 : Half) - 1).toNat < 2 ^ 31 ∧ ¬ ((0 : Half) - 1).toNat < 2 ^ 31 ∧ acts (beside 0) (.phase 0) = true) ∧
    (holds (withRing (withDom 1 2 1 one)) ∧
      [Instr.owait 1 .z, .oarr (.s 1) 1 .z].all (acts (withRing (withDom 1 2 1 one))) = true ∧
      clear (word (2 ^ 16) (withRing one)) (.oarr (.s 1) 1 (.s 2)) = true ∧
      acts (word (2 ^ 16 - 1) (withRing (withDom 1 2 1 one))) (.oarr (.s 1) 1 (.s 2)) = true) := by
  simp only [holds_iff, writesGood_iff, arrivable_iff]
  decide +kernel

theorem witness_EventLinesFireAndWait :
    ((one.clus (myCluster one)).holder ≠ some 0 ∧ clear one (.evwait 63) = true ∧
      clear (word 127 one) (.evsig 63 (.s 2)) = true) ∧
    (holds (fullUnit (withRing one)) ∧ 256 ≤ ((fullUnit (withRing one)).clus 0).regs.length ∧
      clear (fullUnit (withRing one)) (.evwait 63) = true) ∧
    (holds (withRing one) ∧ ((withRing one).clus 0).regs.length < 256 ∧ acts (withRing one) (.evwait 63) = true) ∧
    (clear (word 128 (withRing one)) (.evsig 0 (.s 2)) = true ∧ clear (word 127 (withRing one)) (.evsig 0 (.s 2)) = true ∧
      (withRing one).holderNow 63 ≠ some 0) ∧
    (¬ writesGood (failed (withRing one)) ∧ clear (failed (word 63 (withRing one))) (.evsig 0 (.s 2)) = true) ∧
    ((withRing one).holderNow 0 = some 0 ∧ writesGood (withRing one) ∧ acts (word 63 (withRing one)) (.evsig 0 (.s 2)) = true ∧
      acts (word 64 (withRing one)) (.evsig 0 (.s 2)) = true) := by
  simp only [holds_iff, writesGood_iff]
  decide +kernel

/-- Barrier group 15 of the cluster. -/
def withGroup (x : Group) : State := (withRing one).modClus 0 fun c => { c with groups := [(15, x)] }

theorem witness_BarrierGroupsFollowTheirMask :
    holds (withGroup ⟨0, 1, 0, 0, none⟩) ∧ (withGroup ⟨0, 1, 0, 0, none⟩).cur.map Slot.gangInfo = some none ∧
    writesGood (withGroup ⟨0, 1, 0, 0, none⟩) ∧ (1 : BitVec 16) = BitVec.ofNat 16 (2 ^ bitOf one.issue.core) ∧
    clear (withGroup ⟨0, 2, 0, 0, none⟩) (.barr (.s 1) 15) = true ∧
    [(⟨0, 3, 0, 0, none⟩ : Group), ⟨0, 3, 2, 0, none⟩, ⟨0, 3, 2, 0, some 1⟩, ⟨0, 3, 1, 0, none⟩].all (fun x =>
      acts (withGroup x) (.barr (.s 1) 15)) = true ∧
    clear (withGroup ⟨0, 3, 1, 1, none⟩) (.barr (.s 1) 15) = true ∧
    acts (withGroup ⟨1, 3, 1, 0, none⟩) (.bwait 15 .z) = true ∧ acts (withGroup ⟨0, 3, 1, 0, none⟩) (.bwait 15 .z) = true ∧
    (acts (inGang false (withGroup ⟨0, 3, 0, 0, none⟩)) (.barr (.s 1) 15) = true ∧
      ((inGang false one).cur.map fun sl => decide (sl.gangInfo = none)) = some false ∧
      writesGood (inGang false (withGroup ⟨0, 3, 0, 0, none⟩)) ∧ holds (inGang false (withGroup ⟨0, 3, 0, 0, none⟩))) ∧
    clear (word (2 ^ 16) (withRing one)) (.bmask 15 (.s 2)) = true ∧
    acts (word (2 ^ 16 - 1) (withGroup ⟨0, 1, 0, 0, none⟩)) (.bmask 15 (.s 2)) = true ∧
    acts (word 1 (withGroup ⟨0, 3, 1, 0, none⟩)) (.bmask 15 (.s 2)) = true := by
  simp only [holds_iff, writesGood_iff]
  decide +kernel

/-- Channel port 8 of core 0 bound by the record at a physical address. -/
def bound (h : Nat) (w : Nat) : State :=
  (word w one).modCore 0 fun x => { x with bind := [(8, ⟨h, 0, 0, 0, 0, 0⟩)] }
def bindIt : Instr := .chbind (.s 1) 0 (.s 2)
/-- A shape word in s2 and a tag in s3. -/
def fusing (size leader : Nat) (l : List FuseReq) : State :=
  (withGangs (withS [(2, shapeWord size leader), (3, 7)] one)).modClus 0 fun x => { x with fuses := l }
def fuseIt : Instr := .gfuse (.s 1) (.s 2) (.s 3)

theorem witness_ChannelsAndGangsFollowTheirRules :
    (acts one (.xwait 3 .z) = true ∧ acts (one.modCore 0 fun x => { x with xfdone := [(3, 1)] }) (.xwait 3 .z) = true) ∧
    ([2 ^ 32, 2 ^ 19, 2 ^ 30, 2 ^ 31 + 1].all (fun w => clear (bound 0 w) bindIt) = true) ∧
    ([0xFF, 0xFF00, 0x40, 0x1000].all (fun w => acts (bound 0 w) bindIt) = true) ∧
    (acts (bound 0x40080 0) bindIt = true ∧ ((bound 0x40080 0).core 0).binding 8 = ⟨0x40080, 0, 0, 0, 0, 0⟩) ∧
    ([0x7003F, 0x0F00].all (fun w => acts (bound 0 w) bindIt && acts (bound 0x40040 w) bindIt) = true) ∧
    ([0, 0x40040, 0x40080].all (fun h => acts (bound h (2 ^ 31)) bindIt) = true) ∧
    (readS (fusing 4 0 []) fuseIt 1 (.s 2) = shapeWord 4 0 ∧ clear (inGang false (fusing 4 0 [])) fuseIt = true ∧
      acts (fusing 1 1 []) fuseIt = true ∧ acts (fusing 4 0 []) fuseIt = true ∧ 4 ≤ (fusing 4 0 []).maxGang 0 ∧
      (∃ j < 2 ^ 4, (0 : Nat) = 0 + j / gangW 4 * 64 + j % gangW 4) ∧
      acts (fusing 4 0 [⟨0, 1, 0, 0, 4, 7, 0⟩]) fuseIt = true ∧ acts one (.gsplit (.s 1)) = true ∧ clear (inGang false one) fuseIt = true ∧
      (withS [(2, 0)] one).cur.isSome = true ∧ [(0 : Word), 5, 0x8000].all (fun w => clear (withS [(2, w), (3, 7)] one) fuseIt) = true) ∧
    (acts (inGang true one) (.gsplit (.s 1)) = true ∧ ((inGang true one).slot 1 0).isSome = true ∧
      acts (inGang false (withPool 2 one)) (.gsplit (.s 1)) = true ∧ 2 ≤ bits ((inGang false (withPool 2 one)).pool 0) 95 64 ∧
      acts (inGang false (withPool 0 one)) (.gsplit (.s 1)) = true ∧ bits ((inGang false (withPool 0 one)).pool 0) 95 64 < 2) := by
  decide +kernel

/-- Vector registers 1, 2 and 3 with these tags. -/
def tags (t u v : Tag) : State := withV [(1, t, 0), (2, u, 0), (3, v, 0)] one
/-- The same, an A-slot whose predicate p0 enables nothing. -/
def everywhere (t u v : Tag) (i : Instr) : Bool := acts (tags t u v) i && acting (masked (tags t u v)) i
def integerTags : List Tag := [1, 8]
def floatTags : List Tag := [9, 12]

theorem carries_iff (s : State) (x : VSrc) (t : Tag) : carries s x t ↔
    (if Sys2Proof.Machine.VSrc.named x then decide (tagOf s x = some t)
      else !decide (x = .lane) || decide (1 ≤ t.toNat ∧ t.toNat ≤ 8)) = true := by
  unfold carries integerTag
  split <;> simp [Decidable.imp_iff_not_or]

theorem witness_IntegerVectorResultsFollowTable :
    (∀ t ∈ integerTags, integerTag t ∧ typeOf (tags t t t) [.v 1, .v 2] = some t ∧ typeOf (tags t t t) [.v 1, .v 2, .v 3] = some t ∧
      carries (tags t t t) (.v 2) t ∧ carries (tags t t t) (.v 3) t ∧ carries (tags t t t) .lane t ∧
      integerRows.all (fun r => everywhere t t t (r.1 (.v 3) (.v 1) (.v 2)) && acts (tags t t t) (r.1 .z (.v 1) .lane)) = true ∧
      logicRows.all (fun r => everywhere t t t (r.1 (.v 3) (.v 1) (.v 2))) = true ∧
      shiftRows.all (fun r => everywhere t t t (r.1 (.v 3) (.v 1) (.v 2))) = true ∧
      unaryElementRows.all (fun r => everywhere t t t (r.1 (.v 3) (.v 1))) = true ∧
      elementCompares.all (fun r => everywhere t t t (r.1 7 (.v 1) (.v 2))) = true ∧
      everywhere t t t (.vmad (.v 3) (.v 1) (.v 2)) = true ∧ everywhere t t t (.vsel (.v 3) (.v 1) (.v 2)) = true) ∧
    (∀ t ∈ ([0, 9, 16] : List Tag), ¬ integerTag t ∧ typeOf (tags t t t) [.v 1, .v 2] = some t ∧
      integerRows.all (fun r => clear (tags t t t) (r.1 (.v 3) (.v 1) (.v 2))) = true ∧
      shiftRows.all (fun r => clear (tags t t t) (r.1 (.v 3) (.v 1) (.v 2))) = true ∧
      unaryElementRows.all (fun r => clear (tags t t t) (r.1 (.v 3) (.v 1))) = true ∧
      elementCompares.all (fun r => clear (tags t t t) (r.1 7 (.v 1) (.v 2))) = true ∧
      clear (tags t t t) (.vmad (.v 3) (.v 1) (.v 2)) = true ∧ clear (tags t t t) (.vdot (.v 3) (.v 1) (.v 2)) = true) ∧
    (integerTag 1 ∧ tagOf (tags 1 2 1) (.v 2) = some 2 ∧ typeOf (tags 1 2 1) [.v 1, .v 2] = some 1 ∧
      integerRows.all (fun r => clear (tags 1 2 1) (r.1 (.v 3) (.v 1) (.v 2))) = true ∧
      elementCompares.all (fun r => clear (tags 1 2 1) (r.1 7 (.v 1) (.v 2))) = true ∧
      clear (tags 1 2 1) (.vsel (.v 3) (.v 1) (.v 2)) = true) ∧
    (tagOf (tags 1 3 1) (.v 2) = some 3 ∧ ¬ (integerTag 3 ∧ widthOfTag 3 = widthOfTag 1) ∧
      shiftRows.all (fun r => clear (tags 1 3 1) (r.1 (.v 3) (.v 1) (.v 2))) = true) ∧
    (tagOf (tags 1 1 2) (VDst.src (.v 3)) = some 2 ∧ clear (tags 1 1 2) (.vmad (.v 3) (.v 1) (.v 2)) = true) ∧
    (∀ t ∈ ([1, 4] : List Tag), carries (tags t t (if signedTag t then 5 else 6)) (.v 3) (if signedTag t then 5 else 6) ∧
      everywhere t t (if signedTag t then 5 else 6) (.vdot (.v 3) (.v 1) (.v 2)) = true) := by
  simp only [carries_iff, integerTag]
  refine ⟨?_, ?_, ?_, ?_, ?_, ?_⟩ <;> decide

/-- Tags that are assigned, and some that are not (R148). -/
theorem witness_validTag :
    (∀ t ∈ ([0, 8, 16, 29, 31] : List Tag), validTag t ∧ typeOf (tags t t t) [.v 1, .v 2] = some t) ∧
    (∀ t ∈ ([17, 28] : List Tag), ¬ validTag t ∧ typeOf (tags t t t) [.v 1, .v 2] = some t ∧ typeOf (tags t t t) [.v 1] = some t ∧
      (logicRows.all fun r => clear (tags t t t) (r.1 (.v 3) (.v 1) (.v 2))) = true ∧
      (permuteRows.all fun r => clear (tags t t t) (r.1 (.v 3) (.v 1) (.s 2))) = true ∧
      [Instr.vsel (.v 3) (.v 1) (.v 2), .vshuf (.v 3) (.v 1) (.v 2), .vext (.s 1) (.v 1) (.s 2), .vins (.v 3) (.v 1) (.s 2),
        .vcmpr (.v 3) (.v 1), .vtagq (.s 1) (.v 1)].all (clear (tags t t t)) = true) := by
  unfold validTag
  refine ⟨?_, ?_⟩ <;> decide

theorem witness_carriesWidth : carriesWidth (tags 1 2 1) (.v 2) (widthOfTag 1) ∧ carriesWidth one .z 8 :=
  ⟨⟨2, by decide, by unfold integerTag; decide, by decide⟩, trivial⟩

theorem witness_FloatingVectorResultsFollowTable :
    (∀ t ∈ floatTags, floatingTag t ∧ typeOf (tags t t t) [.v 1, .v 2] = some t ∧ carries (tags t t t) (.v 2) t ∧
      carries (tags t t t) (.v 3) t ∧
      floatRows.all (fun r => everywhere t t t (r.1 (.v 3) (.v 1) (.v 2)) && acts (tags t t t) (r.1 .z (.v 1) .z)) = true ∧
      accumulateRows.all (fun r => everywhere t t t (r.1 (.v 3) (.v 1) (.v 2))) = true ∧
      floatUnaryRows.all (fun r => everywhere t t t (r.1 (.v 3) (.v 1))) = true ∧
      floatCompares.all (fun r => everywhere t t t (r.1 0 (.v 1) (.v 2))) = true ∧ everywhere t t t (.fclass (.v 3) (.v 1)) = true) ∧
    (∀ t ∈ ([8, 13] : List Tag), ¬ floatingTag t ∧ typeOf (tags t t t) [.v 1, .v 2] = some t ∧
      floatRows.all (fun r => clear (tags t t t) (r.1 (.v 3) (.v 1) (.v 2))) = true ∧
      accumulateRows.all (fun r => clear (tags t t t) (r.1 (.v 3) (.v 1) (.v 2))) = true ∧
      floatUnaryRows.all (fun r => clear (tags t t t) (r.1 (.v 3) (.v 1))) = true ∧
      floatCompares.all (fun r => clear (tags t t t) (r.1 0 (.v 1) (.v 2))) = true ∧ clear (tags t t t) (.fclass (.v 3) (.v 1)) = true) ∧
    (tagOf (tags 9 10 10) (.v 2) = some 10 ∧ tagOf (tags 9 9 10) (VDst.src (.v 3)) = some 10 ∧
      floatRows.all (fun r => clear (tags 9 10 10) (r.1 (.v 3) (.v 1) (.v 2))) = true ∧
      floatCompares.all (fun r => clear (tags 9 10 10) (r.1 0 (.v 1) (.v 2))) = true ∧
      accumulateRows.all (fun r => clear (tags 9 9 10) (r.1 (.v 3) (.v 1) (.v 2))) = true) ∧
    (∀ t ∈ floatTags, typeOf (tags t t t) [.lane, .v 2] = some t ∧ typeOf (tags t t t) [.v 1, .lane] = some t ∧
      typeOf (tags t t t) [.lane, .v 2, VDst.src (.v 3)] = some t ∧ carries (tags t t t) (VDst.src (.v 3)) t ∧
      floatRows.all (fun r => clear (tags t t t) (r.1 (.v 3) .lane (.v 2)) && clear (tags t t t) (r.1 (.v 3) (.v 1) .lane)) = true ∧
      accumulateRows.all (fun r => clear (tags t t t) (r.1 (.v 3) .lane (.v 2)) &&
        clear (tags t t t) (r.1 (.v 3) (.v 1) .lane)) = true ∧
      floatCompares.all (fun r => clear (tags t t t) (r.1 0 .lane (.v 2)) && clear (tags t t t) (r.1 0 (.v 1) .lane)) = true) := by
  simp only [carries_iff, floatingTag]
  refine ⟨?_, ?_, ?_, ?_⟩ <;> decide

/-- A control word in s2. -/
def control (t u : Tag) (c : Nat) : State := withS [(2, BitVec.ofNat 64 c)] (tags t u t)

theorem witness_ConversionsAndTagsFollowRules :
    (∀ t ∈ ([1, 15] : List Tag), typeOf (control t t 15) [.v 1] = some t ∧
      acts (control t t 15) (.cvt (.v 3) (.v 1) (.s 2)) = true ∧ acts (control t t 1) (.cvt (.v 3) (.v 1) (.s 2)) = true ∧
      clear (control t t 16) (.cvt (.v 3) (.v 1) (.s 2)) = true ∧ clear (control t t 512) (.cvt (.v 3) (.v 1) (.s 2)) = true) ∧
    (conversionParts 15 10 = 8 ∧ acts (control 15 15 (10 + 7 * 32)) (.cvt (.v 3) (.v 1) (.s 2)) = true ∧
      clear (control 15 15 (10 + 8 * 32)) (.cvt (.v 3) (.v 1) (.s 2)) = true) ∧
    (∀ t ∈ ([0, 16, 31] : List Tag), ¬ (1 ≤ t.toNat ∧ t.toNat ≤ 15) ∧ clear (control t t 1) (.cvt (.v 3) (.v 1) (.s 2)) = true) ∧
    (∀ t ∈ ([10, 12] : List Tag), acts (control t t (31 + 3 * 32)) (.cvtq (.v 15) (.v 1) (.s 2)) = true ∧
      scaledValues 31 / (2048 / widthOfTag 12) = 4 ∧ acts (control t t 29) (.cvtq (.o 3) (.v 1) (.s 2)) = true ∧
      clear (control t t 28) (.cvtq (.v 15) (.v 1) (.s 2)) = true) ∧
    (∀ t ∈ ([9, 13] : List Tag), ¬ (10 ≤ t.toNat ∧ t.toNat ≤ 12) ∧ clear (control t t 31) (.cvtq (.v 15) (.v 1) (.s 2)) = true) ∧
    (∀ t ∈ ([29, 31] : List Tag), typeOf (withV [(2, t, 0), (3, 16, 0)] one) [(VPair.v 1).lo.src] = some t ∧
      tagOf (withV [(2, t, 0), (3, 16, 0)] one) (VPair.v 1).hi.src = some 16 ∧
      acts (withS [(2, 12)] (withV [(2, t, 0), (3, 16, 0)] one)) (.cvtdq (.v 1) (.v 1) (.s 2)) = true ∧
      clear (withS [(2, 8)] (withV [(2, t, 0), (3, 16, 0)] one)) (.cvtdq (.v 1) (.v 1) (.s 2)) = true) ∧
    (clear (withS [(2, 9)] (withV [(2, 29, 0), (3, 15, 0)] one)) (.cvtdq (.v 1) (.v 1) (.s 2)) = true ∧ (15 : Tag) ≠ 16) ∧
    (∀ c ∈ [0, 16, 29, 31], acts (control 1 1 c) (.vtag (.v 3) .lane (.s 2)) = true) ∧
    (∀ c ∈ [17, 28, 32], clear (control 1 1 c) (.vtag (.v 3) .lane (.s 2)) = true) ∧
    everywhere 0 0 0 (.vtagq (.s 1) (.v 1)) = true ∧
    (integerTag 1 ∧ integerTag 8 ∧ (∃ q, (fmtOf 15).val false 0 ≠ .nan q) ∧ (F32.val false 0x7FC00000).isNan = true ∧
      F16.val false 0x7C00 = .inf false) := by
  unfold integerTag
  refine ⟨by decide, by decide, by decide, by decide, by decide, by decide, by decide, by decide, by decide, by decide,
    by decide, by decide, ⟨false, by decide⟩, by decide⟩

theorem witness_PermutesFollowTable :
    (∀ t ∈ ([0, 15, 16] : List Tag), typeOf (tags t 8 t) [.v 1] = some t ∧
      permuteRows.all (fun r => everywhere t 8 t (r.1 (.v 3) (.v 1) (.s 2))) = true ∧
      everywhere t 8 t (.vext (.s 1) (.v 1) (.s 2)) = true ∧ everywhere t 8 t (.vins (.v 3) (.v 1) (.s 2)) = true ∧
      everywhere t 8 t (.vcmpr (.v 3) (.v 1)) = true) ∧
    (everywhere 9 8 9 (.vshuf (.v 3) (.v 1) (.v 2)) = true ∧ typeOf (tags 9 8 9) [.v 1, .v 2] = some 9 ∧
      clear (tags 9 6 9) (.vshuf (.v 3) (.v 1) (.v 2)) = true ∧ ¬ (integerTag 6 ∧ widthOfTag 6 = widthOfTag 9)) ∧
    everywhere 0 0 0 (.vlane (.o 7) (.s 1) .z) = true := by
  unfold integerTag
  decide

theorem witness_carriesWidth_vshuf : carriesWidth (tags 9 8 9) (.v 2) (widthOfTag 9) :=
  ⟨8, by decide, by unfold integerTag; decide, by decide⟩

theorem witness_ReductionsFoldTheFixedTree :
    (∀ t ∈ integerTags, integerTag t ∧ typeOf (tags t t t) [.v 1] = some t ∧
      reductionRows.all (fun r => everywhere t t t (r.1 (.s 1) (.v 1))) = true) ∧
    (∀ t ∈ ([0, 9] : List Tag), ¬ integerTag t ∧ reductionRows.all (fun r => clear (tags t t t) (r.1 (.s 1) (.v 1))) = true) ∧
    (∀ t ∈ ([0, 8] : List Tag), bitReductionRows.all (fun r => everywhere t t t (r.1 (.s 1) (.v 1))) = true) ∧
    bitReductionRows.all (fun r => clear (tags 9 9 9) (r.1 (.s 1) (.v 1))) = true ∧
    (∀ t ∈ floatTags, floatingTag t ∧ floatReductionRows.all (fun r => everywhere t t t (r.1 (.s 1) (.v 1))) = true) ∧
    (∀ t ∈ ([8, 13] : List Tag), ¬ floatingTag t ∧ floatReductionRows.all (fun r => clear (tags t t t) (r.1 (.s 1) (.v 1))) = true) := by
  unfold integerTag floatingTag
  refine ⟨?_, ?_, ?_, ?_, ?_, ?_⟩ <;> decide

/-- The greatest value of f16 is within its range. -/
theorem witness_RoundingIsCorrect :
    F16 ∈ [F64, F32, F16, BF16, E4M3, E5M2, E2M1] ∧ rational false F16.maxN F16.maxQ ≤ rational false F16.maxN F16.maxQ ∧
    F16.maxN ≠ 0 ∧ (3 : Nat) < 4 := by
  exact ⟨by simp, Rat.le_refl, by decide, by decide⟩

/-- R438: what is stored under one key id reads as stored under that id alone, and the rest of its 16-byte unit does not. -/
theorem test_key_ids :
    let t := one.writePa 0x30000 8 5 3
    t.viewBytes 0x30000 8 3 = 5 ∧ t.stale 0 0x30000 = true ∧ t.stale 3 0x30008 = true ∧ t.stale 0 0x30010 = false := by
  decide +kernel

/-- The continuation owns core 0's matrix unit. -/
def own (s : State) : State := withSlot (fun sl => { sl with matrix := true }) s
/-- A descriptor of 32 bytes (Table Matrix-3). -/
def descOf (addr sbase k fmt : Nat) : Nat := addr + sbase * 2 ^ 64 + k * 2 ^ 128 + 64 * 2 ^ 144 + fmt * 2 ^ 152 + 0xFFFF * 2 ^ 160
/-- The owner, with a descriptor at 0x30000 named by s2, and every line of the first 16 KiB allocated. -/
def withDesc (d : Nat) : State :=
  ((own (at_ 0x30000 one)).writePa 0x30000 32 d).modCore 0 fun x =>
    { x with owner := (List.range 128).map fun l => (l, 0x40040) }
def onCore (f : Core → Core) (s : State) : State := s.modCore 0 f
def aDesc (fmt : Nat) : ADesc := ⟨BitVec.ofNat 64 localBase, BitVec.ofNat 64 localBase, 1, fmt, 0xFFFF⟩
def bTile (fmt k : Nat) : BTile := ⟨[], [], fmt, k, 0xFFFF⟩
/-- A granule of an earlier `mst`. -/
def aStore : MstGranule := ⟨0, true, 0x38000, .mem 0x38000 0 0, 0, 0⟩

theorem desc_good : goodDesc (descOf localBase localBase 65535 31) 65535 ∧ goodDesc (descOf localBase 0 256 12) 256 ∧
    ¬ goodDesc (descOf localBase localBase 0 31) 65535 ∧ ¬ goodDesc (descOf localBase localBase 257 31) 256 := by
  unfold goodDesc
  refine ⟨?_, ?_, ?_, ?_⟩ <;> decide +kernel

theorem witness_MatrixInstructionsActOnTheUnit_owner :
    (one.cur.isSome = true ∧ ¬ ownsMatrix one ∧ cwBad 0 = false ∧ readS one (.mband 0 .z) 1 .z = 0 ∧
      [Instr.mzero 0 false, .mlda 0 .z, .mldb .z, .mring 1, .mma 0 .z 0, .mband 0 .z, .mst 0 .z ⟨0, 13⟩, .mldt 0 .z ⟨0, 1⟩, .mfence,
        .mchk (.s 1)].all (clear one) = true) ∧
    (ownsMatrix (own one) ∧ [Instr.mzero 15 true, .mzero 0 false, .mchk (.s 1)].all (acts (own one)) = true) := by
  simp only [ownsMatrix_iff]
  decide +kernel

theorem witness_MatrixInstructionsActOnTheUnit_loads :
    ownsMatrix (withDesc 0) ∧
    ((descTrap (at_ 0x30010 (own one)) 0x30010).isSome = true ∧
      [Instr.mlda 0 (.s 2), .mldb (.s 2)].all (clear (at_ 0x30010 (own one))) = true) ∧
    (descTrap (withDesc (descOf localBase localBase 0 31)) 0x30000 = none ∧
      descBytes (withDesc (descOf localBase localBase 0 31)) 0x30000 = descOf localBase localBase 0 31 ∧
      [Instr.mlda 3 (.s 2), .mldb (.s 2)].all (clear (withDesc (descOf localBase localBase 0 31))) = true) ∧
    (¬ (localBase ≤ 0x30000) ∧ descTrap (withDesc (descOf 0x30000 localBase 1 31)) 0x30000 = none ∧
      clear (withDesc (descOf 0x30000 localBase 1 31)) (.mlda 0 (.s 2)) = true) ∧
    (descTrap (withDesc (descOf localBase localBase 65535 31)) 0x30000 = none ∧
      descBytes (withDesc (descOf localBase localBase 65535 31)) 0x30000 = descOf localBase localBase 65535 31 ∧
      acts (withDesc (descOf localBase localBase 65535 31)) (.mlda 3 (.s 2)) = true) ∧
    (let s := withDesc (descOf localBase (localBase + 1024) 1 31)
     descTrap s 0x30000 = none ∧ descBytes s 0x30000 = descOf localBase (localBase + 1024) 1 31 ∧
      rangeLoadFault s localBase 1024 = none ∧ rangeLoadFault s (localBase + 1024) 256 = none ∧
      dataPoison s localBase 1024 = none ∧ dataPoison s (localBase + 1024) 256 = none ∧ acts s (.mldb (.s 2)) = true ∧
      nonePosted s 0x30000 32 ∧ nonePosted s localBase 1024 ∧ nonePosted s (localBase + 1024) 256) := by
  simp only [ownsMatrix_iff, nonePosted_iff]
  refine ⟨?_, ?_, ?_, ?_, ?_, ?_⟩ <;> decide +kernel

theorem witness_MatrixInstructionsActOnTheUnit_places :
    (Claims.scaled 31 ∧ ¬ isLocal 0x30000 ∧ isLocal localBase ∧
      descTrap (withDesc (descOf localBase 0x30000 1 31)) 0x30000 = none ∧
      clear (withDesc (descOf localBase 0x30000 1 31)) (.mlda 0 (.s 2)) = true) ∧
    (let s := withDesc (descOf (pageAt 1) localBase 1 31)
     descTrap s 0x30000 = none ∧ (rangeLoadFault s (pageAt 1) 1024).isSome = true ∧ clear s (.mldb (.s 2)) = true) ∧
    (let s := { withDesc (descOf localBase localBase 1 31) with poison := [(spadKey 0 9, true)] }
     descTrap s 0x30000 = none ∧ (dataPoison s localBase 1024).isSome = true ∧ rangeLoadFault s localBase 1024 = none ∧
      clear s (.mldb (.s 2)) = true) ∧
    (ownLag (withDesc 0) localBase = 3 ∧ ownLag (withDesc 0) 0x30000 = 0) := by
  unfold Claims.scaled isLocal
  refine ⟨?_, ?_, ?_, ?_⟩ <;> decide +kernel

theorem witness_MatrixInstructionsActOnTheUnit_others :
    (clear (withS [(2, 65536)] (own one)) (.mband 4 (.s 2)) = true ∧ ((own one).core 0).cur = none ∧
      sget none ((own one).core 0).adesc 3 = none ∧
      [Instr.mband 4 (.s 2), .mband 3 (.s 2)].all (clear (withS [(2, 65535)] (own one))) = true) ∧
    (acts (onCore (fun x => { x with cur := some (bTile 31 1) }) (own one)) (.mband 4 .z) = true ∧
      acts (onCore (fun x => { x with adesc := [(3, some (aDesc 31))] }) (own one)) (.mband 3 .z) = true) ∧
    [Instr.mring 0, .mring 1, .mring 4].all (acts (own one)) = true ∧
    (((own one).core 0).tileTag 1 ≠ 5 ∧ clear (own (at_ 0x30000 one)) (.mst 1 (.s 2) ⟨2, 1⟩) = true) ∧
    (let s := onCore (fun x => { x with tileTags := [(1, 10)] }) (own (at_ 0x30008 one))
     ((List.range 64).findSome? fun r => checkAccess s .store false (tileRow 0x30008 ⟨0, 1⟩ r) 256 16).isSome = true ∧
      clear s (.mst 1 (.s 2) ⟨0, 1⟩) = true ∧ clear s (.mldt 1 (.s 2) ⟨0, 1⟩) = true) ∧
    (let s := onCore (fun x => { x with tileTags := [(1, 10)], mst := [aStore] }) (own (at_ 0x30000 one))
     ((List.range 64).findSome? fun r => checkAccess s .store false (tileRow 0x30000 ⟨1, 0⟩ r) 128 16) = none ∧
      tilePoison s 1 = none ∧ clear s (.mst 1 (.s 2) ⟨1, 0⟩) = true ∧ clear s .mfence = true) ∧
    (let s := onCore (fun x => { x with tileTags := [(1, 10)] }) (own (at_ 0x30000 one))
     ((List.range 64).findSome? fun r => checkAccess s .store false (tileRow 0x30000 ⟨0, 13⟩ r) 256 16) = none ∧
      (s.core 0).tileTag 1 = 10 ∧ tilePoison s 1 = none ∧ acts s (.mst 1 (.s 2) ⟨0, 13⟩) = true ∧ acts s .mfence = true) ∧
    (let s := withSlot (fun sl => { sl with poisoned := [tileCode 1] }) (onCore (fun x => { x with tileTags := [(1, 10)] })
       (own (at_ 0x30000 one)))
     (tilePoison s 1).isSome = true ∧ clear s (.mst 1 (.s 2) ⟨0, 13⟩) = true) ∧
    (let s := { own (at_ 0x30000 one) with poison := [(0x30000, true)] }
     ((List.range 64).findSome? fun r => checkAccess s .load false (tileRow 0x30000 ⟨0, 1⟩ r) 256 16) = none ∧
      (∃ r < 64, (s.readVa (issuer s) .load (tileRow 0x30000 ⟨0, 1⟩ r) 256).2 = true) ∧ clear s (.mldt 1 (.s 2) ⟨0, 1⟩) = true) ∧
    (let s := own (at_ 0x30000 one)
     ((List.range 64).findSome? fun r => checkAccess s .load false (tileRow 0x30000 ⟨0, 1⟩ r) 256 16) = none ∧
      (∀ r < 64, (s.readVa (issuer s) .load (tileRow 0x30000 ⟨0, 1⟩ r) 256).2 = false) ∧ acts s (.mldt 1 (.s 2) ⟨0, 1⟩) = true ∧
      ∀ r < 64, nonePosted s (tileRow 0x30000 ⟨0, 1⟩ r) 256) := by
  simp only [nonePosted_iff]
  refine ⟨?_, ?_, ?_, ?_, ?_, ?_, ?_, ?_, ?_, ?_⟩ <;> decide +kernel

/-- The owner with A descriptor 0, CUR and tile 0 in place. -/
def product (fmtA fmtB k : Nat) (tag : Tag) (idle : Bool) : State :=
  onCore (fun x => { x with
    adesc := [(0, some (aDesc fmtA))], cur := some (bTile fmtB k), tileTags := [(0, tag)], matIdle := idle,
    owner := (List.range 128).map fun l => (l, 0x40040) }) (own one)
def mmaIt : Instr := .mma 0 (.s 1) 63

theorem witness_MmaAccumulatesOntoTheTile :
    ownsMatrix (product 1 1 1 5 false) ∧
    ([2 ^ 24, 2 ^ 19, 5 * 2 ^ 16, 2 ^ 15, 4].all (fun w => clear (withS [(1, BitVec.ofNat 64 w)] (own one)) mmaIt) = true) ∧
    (sget none ((own one).core 0).adesc 0 = none ∧ ((own one).core 0).cur = none ∧ clear (own one) mmaIt = true) ∧
    (sget none ((product 1 1 1 5 false).core 0).adesc 0 = some (aDesc 1) ∧ ((product 1 1 1 5 false).core 0).cur = some (bTile 1 1) ∧
      ((product 1 1 1 5 false).core 0).tileTag 0 = 5) ∧
    ((bTile 12 1).fmt ≠ (aDesc 1).fmt ∧ clear (product 1 12 1 5 false) mmaIt = true) ∧
    (((product 1 1 1 10 false).core 0).tileTag 0 ≠ 5 ∧ clear (product 1 1 1 10 false) mmaIt = true) ∧
    ((aDesc 1).k < 32 * 0 + (bTile 1 2).k ∧ clear (product 1 1 2 5 false) mmaIt = true) ∧
    (mmaFault mmaIt 0 0 (product 1 1 1 5 true) = none ∧ ((product 1 1 1 5 true).core 0).matIdle = true ∧
      clear (product 1 1 1 5 true) mmaIt = true) ∧
    (mmaFault mmaIt 0 0 (product 1 1 1 5 false) = none ∧ ((product 1 1 1 5 false).core 0).matIdle = false ∧
      swf 0 ((product 1 1 1 5 false).core 0).tiles = true ∧ swf 0 ((product 1 1 1 5 false).core 0).spad = true ∧
      swf 0 (bTile 1 1).data = true ∧ acts (product 1 1 1 5 false) mmaIt = true) ∧
    (let s := { product 1 1 1 5 false with poison := [(spadKey 0 0, true)] }
     (mmaFault mmaIt 0 0 s).isSome = true ∧ ((s.core 0).tileTag 0) = 5 ∧ clear s mmaIt = true) ∧
    (let s := withS [(1, 0x10000)] (product 1 1 1 5 false)
     mmaFault mmaIt 0 0x10000 s = none ∧ acts s mmaIt = true) := by
  simp only [ownsMatrix_iff]
  refine ⟨?_, ?_, ?_, ?_, ?_, ?_, ?_, ?_, ?_, ?_, ?_⟩ <;> decide +kernel

/-! ## Encodings and steps -/

theorem witness_DecodeOfEncodeIsThePair :
    Pair.wf (.normal 7 true (.br 0x20000) (.vadd (.v 31) .lc (.o 7)) (some (7, true))) = true ∧
    Pair.wf (.lone 0 false (.add .z .lit (.q 15)) 0xFFFFFFFF) = true ∧
    Pair.wf (.lone 7 true (.cas (.w128 15 .la 0) (some ⟨.speculative, .rlx, 15⟩)) 0x20F) = true := by decide

theorem witness_EncodeOfDecodeIsTheWords :
    [(0x39184081, 0x960C3042), (0x840010AB, 0xFFFFFFFF), (0x03980000, 0x07FC0000)].all (fun x : Half × Half =>
      match decodePair x.1 x.2 with | .ok _ => true | .error _ => false) = true := by decide

/-- The words w in place, their issue next: by name, and as the first crew ready once the agenda is empty. -/
def byName (w : Nat) : State := State.reset.withFetchWord 64 w
def byTurn (w : Nat) : State := { byName w with agenda := [] }
def verdictOf (w : Nat) : Option Verdict :=
  match decodePair (BitVec.ofNat 32 w) (BitVec.ofNat 32 (w / 2 ^ 32)) with
  | .ok p => some (verdict ((byName w).begin 0 0) (pairPlans ((byName w).begin 0 0) p))
  | .error _ => none
/-- Why the words do not decode. -/
def refused (c a : Half) : Option Reject := match decodePair c a with | .ok _ => none | .error e => some e
/-- `add s1, s2, lit`, lone; `br` beside `nop`; `evwait` without the cluster; `ret` to an address not aligned; `ldfe` of
an empty granule. -/
def addLit : Nat := 0x7840010AB
def brNop : Nat := 0x07FC00000003FFFB

theorem witness_StepRunsTheDecodedPair :
    (firstOf (byName addLit) [evHold, evStall]).isNone = true ∧ accessFirst (.st .b64 (.s 1) (.s 2) 0) = true ∧
    accessFirst (.br 0) = false ∧ ((byName addLit).agenda = [.issue 0 0] ∧ ({ byName addLit with agenda := [] } : State).pkg.running = true ∧
      ({ byName addLit with agenda := [] } : State).selected [(0, 0)] = true ∧ ((placeSlot 0).crew 0 0).head? = some (0, 0)) ∧
    ((byTurn addLit).agenda = [] ∧ (byTurn addLit).pkg.stopped = false ∧ (firstOf (byTurn addLit) events).isNone = true ∧
      (byTurn addLit).nextIssue = some (0, 0)) ∧
    (((byTurn addLit).slot 0 0).map Slot.virt = some none ∧ ((byTurn addLit).slot 0 0).map Slot.gangInfo = some none) ∧
    (byTurn addLit).fetchTrap 0 (placeSlot 0) = none ∧
    (fetched (byTurn addLit) 0 (placeSlot 0) = addLit ∧ fetched (byTurn brNop) 0 (placeSlot 0) = brNop) ∧
    [addLit, brNop].all (fun w => match verdictOf w with | some .go => true | _ => false) = true ∧
    (match verdictOf (0x07FC0000 * 2 ^ 32 + 0x00800000) with | some (.trap _ _) => true | _ => false) = true ∧
    (match ((byName 0).begin 0 0 |> fun s => verdict (owes aRead s) (pairPlans (owes aRead s) (.normal 0 false (.fence .acq 0) .nopA none))) with
      | .wait _ => true | _ => false) = true := by
  refine ⟨?_, ?_, ?_, ?_, ?_, ?_, ?_, ?_, ?_, ?_, ?_⟩ <;> decide +kernel

/-- `bmask 15, s2` beside a word whose A field is a code of no register; s2 is out of range. -/
def badBoth : State := withS [(2, 0x10000)] (byTurn 0x04005D84009003C2)

theorem witness_StepTrapsOnWordsThatDoNotDecode :
    (encodePair (.normal 0 false (.bmask 15 (.s 2)) .nopA none)).1 = 0x009003C2 ∧
    (badBoth.fetchTrap 0 (placeSlot 0)).isNone = true ∧ fetched badBoth 0 (placeSlot 0) = 0x04005D84009003C2 ∧
    (decodePair 0x009003C2 0x04005D84).toOption = none ∧ refused 0x009003C2 0x04005D84 = some (.illopnd true 1) ∧
    otherSlotTrap (badBoth.begin 0 0) 0x009003C2 = some ⟨0x02, 5, 0, false⟩ ∧ refused 0x03980000 0x04005D84 = some (.illopnd true 1) ∧
    otherSlotTrap ((byTurn 0x04005D8403980000).begin 0 0) 0x03980000 = none ∧
    ((byTurn 0).fetchTrap 0 { placeSlot 0 with pc := 0x20004 }).isSome = true ∧
    ((byTurn 0).fetchTrap 0 { placeSlot 0 with pc := BitVec.ofNat 64 (pageAt 1) }).isSome = true ∧
    [0x07FC000000340000, 0x07FC000007FC0000, 0x0398000003980000, 0x07FC000001184B40].all (fun w =>
      ((byTurn w).fetchTrap 0 (placeSlot 0)).isNone && (fetched (byTurn w) 0 (placeSlot 0) == w) &&
      match decodePair (BitVec.ofNat 32 w) (BitVec.ofNat 32 (w / 2 ^ 32)) with | .ok _ => false | .error _ => true) = true := by
  decide +kernel

theorem reset_canon : State.reset.canon := by
  unfold State.canon State.memOk
  decide

theorem witness_StepKeepsMemoryCanonical :
    (byName addLit).canon ∧ ∃ t, step (byName addLit) = .next t := by
  refine ⟨?_, ?_⟩
  · unfold State.canon State.memOk; decide +kernel
  · cases h : step (byName addLit) with
    | next t => exact ⟨t, rfl⟩
    | fault f =>
      have : (match step (byName addLit) with | .next _ => true | _ => false) = true := by decide +kernel
      simp [h] at this
    | refused r =>
      have : (match step (byName addLit) with | .next _ => true | _ => false) = true := by decide +kernel
      simp [h] at this

/-! ## Continuations between their pairs -/

/-- The slot waits for w. -/
def waits (w : Wait) (reissue : Bool) : State → State := withSlot fun sl => { sl with hold := some ⟨w, 0, reissue, []⟩ }
def aRequest : ProxyReq := ⟨0, 1, 0, some 0, 0x30000, 0, 64, .add, 1, none, false, 0⟩
/-- One pair of a translation, `nop || nop`, and the translation that it is. -/
def aPair (act : TAct) : TPair := ⟨0x03980000, 0x07FC0000, 0, 0, 0, act, [], [], [], true, false, false, false, [], [], 0, 0, []⟩
def aTrans (act : TAct) : TransSpec := ⟨1, 0, 0, 0, placeCode, [], [], [], [], [aPair act], []⟩
def virtOf : Virt := ⟨1, 0, 0, 0, placeCode, true, 0, [], false, [], [], []⟩
/-- The slot stands at that pair. -/
def standing (act : TAct) (s : State) : State :=
  let s := { withSlot (fun sl => { sl with native := false, virt := some virtOf }) s with translations := [(0, 0, aTrans act)] }
  s.modCore 1 fun x => { x with slots := x.slots.map fun y => (y.1, y.2.map fun sl => { sl with native := false, virt := some virtOf }) }
/-- The same, in an innermost domain at level 1 of this many members. -/
def stepping (act : TAct) (members : Nat) : State := standing act (withDom 1 members 0 one)
def xferOf : Xfer := { dest := .args, src := .const 0x30000, len := 64, ch := 0 }
def checked2 : State → State := withCsrs fun c => { c with chk := 2 }
def standsIn (s : State) (a : TAct) : Bool := s.standsAt 0 0 a && (s.slot 0 0).any fun sl => (s.tpair sl sl.pc.toNat).isSome
def trapOf (s : State) (xs : List Xfer) : Option Trap := (s.slot 0 0).bind (boundaryTrap s xs)

theorem witness_ResultsWaitsAndBoundaries :
    (atProxy { one with reqs := [aRequest] } (placeSlot 0) 0 = true ∧ atProxy one (placeSlot 0) 0 = false) ∧
    (windowed (.xfer 0 0) = false ∧ windowed (.group 0 0 1) = true ∧ one.waitOver 0 (placeSlot 0) (.group 0 0 1) = false ∧
      one.waitOver 0 (placeSlot 0) (.group 0 0 0) = true ∧ ((waits (.group 0 0 0) true one).cur.bind Slot.hold).isSome = true ∧
      delivered (.line 0 0 (some 3) (some (.s 1))) = some (.s 1, 3) ∧ delivered (.group 0 0 0) = none) ∧
    (one.standsAt 0 0 (.boundary none) = false ∧ standsIn (stepping (.boundary (some [xferOf])) 2) (.boundary (some [xferOf])) = true ∧
      ((stepping (.boundary (some [xferOf])) 2).slot 0 0).map Slot.gangInfo = some none ∧
      trapOf (stepping (.boundary (some [xferOf])) 2) [xferOf] = none ∧
      (trapOf (checked2 (stepping (.boundary (some [xferOf])) 2)) [xferOf]).isSome = true ∧
      (trapOf (stepping (.boundary (some [])) 0) []).isSome = true) ∧
    (standsIn (stepping (.boundary none) 2) (.boundary none) = true ∧ trapOf (stepping (.boundary none) 2) [] = none ∧
      (trapOf (stepping (.boundary none) 0) []).isSome = true ∧ one.stepIds = [] ∧
      ({ one with stepIds := [(⟨0, 1⟩, 0, 0, [(0, 1)])] } : State).stepIds = [(⟨0, 1⟩, 0, 0, [(0, 1)])] ∧
      ((stepping (.boundary none) 2).slot 0 0).map Slot.callDepth = some 0) ∧
    (let s := standing (.boundary none) (inGang false one)
     (s.slot 0 0).bind Slot.gangInfo = some ⟨2, 0, 0, 0, false, [(0, 0), (1, 0)]⟩ ∧ s.standsAt 0 0 (.boundary none) = true ∧
      [(0, 0), (1, 0)].all (fun m => (s.slot m.1 m.2).any fun x => x.virt.isSome && (s.tpair x x.pc.toNat).isSome &&
        (boundaryTrap s [] x).isNone) = true) ∧
    (let s := standing (.boundary (some [xferOf])) (inGang false one)
     s.standsAt 0 0 (.boundary (some [xferOf])) = true ∧
      [(0, 0), (1, 0)].all (fun m => (s.slot m.1 m.2).any fun x => x.virt.isSome && (s.tpair x x.pc.toNat).isSome &&
        (boundaryTrap s [xferOf] x).isNone) = true) ∧
    ((standing (.fault true) one).standsAt 0 0 (.fault true) = true ∧ (standing (.fault false) one).standsAt 0 0 (.fault false) = true ∧
      (standing (.fault false) one).standsAt 0 0 (.fault true) = false) ∧
    (one.cur.map Slot.pc = some one.issue.pc) := by
  refine ⟨?_, ?_, ?_, ?_, ?_, ?_, ?_, ?_⟩ <;> decide +kernel

/-- A continuation of a translation that waits for a channel and may leave. -/
def leaving : State := user (waits (.xfer 0 0) false (withPool 2 one))
/-- Record 2, native code, with this state field and priority 3, as R56 seals it; its container holds its pc. -/
def withRecord (vpc st gang : Nat) (s : State) : State :=
  (withPool 0 s).writeRec 0 2 (vpc + 0x50800 * 2 ^ 64 + 3 * 2 ^ 224 + gang * 2 ^ 229 + st * 2 ^ 234 + 5 * 2 ^ 480)
/-- Handle 1, whose body may be entered at offset 0. -/
def withEntry (s : State) : State :=
  { s with objects := [{ anObject true with bodies := [aBody 0 []] }] }
def chainAt (d : Nat) (s : State) : State := s.modDie d fun x => { x with ready := [(3, [⟨0, 2⟩])] }
/-- Record 2 ready on die 0 to enter that body. -/
def readyRecord (gang : Nat) : State := chainAt 0 (withEntry (withRecord (2 ^ 44) 2 gang one))
def suspend (w : Wait) (finished : Bool) (s : State) : State :=
  { s with suspended := [⟨0, 2, 0, { placeSlot 0 with idx := 2 }, w, false, finished, [], .none⟩] }
/-- The frame lies where nothing is mapped. -/
def moved : State → State := withSlot fun sl => { sl with frame := BitVec.ofNat 64 (pageAt 1) }
/-- Record 2 submitted with one key. -/
def submitted (held : Nat) : State :=
  { (withPool 0 one).writeRec 0 2 (0x50800 * 2 ^ 64 + 2 ^ 234 + 7 * 2 ^ 256 + (7 * 2 ^ 60 + held) * 2 ^ 384) with reserving := [⟨0, 2⟩] }
def firstPlace : Nat := (entriesOf ((submitted 0).readRec 0 2)).headD 0

/-- Whether a member of the slot's crew traps as the leader is stored, and, where none does and its frame stands, whether
the save succeeds. -/
def saveOf (s : State) : Bool × Option Bool :=
  match s.slot 0 0, s.canLeave 0 0 with
  | some sl, some h =>
    let s1 := Claims.dropPackets (s.release 0 0) 0 0
    match s1.slot 0 0 with
    | some x =>
      ((s1.storeTrap 0 0 x).isSome, if leaderOf 0 0 sl = (0, 0) && (s1.lostFrame x).isNone && (s1.storeTrap 0 0 x).isNone then
        some (match s1.storeSlot 0 x (s.wakeOf 0 sl h.w).2 with | .ok _ => true | .error _ => false) else none)
    | none => (false, none)
  | _, _ => (false, none)
/-- The leader of the slot's continuation would be stored. -/
def stores_ (s : State) : Bool :=
  saveOf s == (false, some true)
/-- The rectangle that its core lies in is being drained for a gang. -/
def pressed : State := (withRecord (2 ^ 44) 2 1 leaving).modDie 0 fun x => { x with drain := some (0, ⟨0, 2⟩) }

theorem witness_ContinuationsLeaveWakeAndReturn_leave :
    one.canLeave 0 0 = none ∧ one.evictable 0 0 = false ∧ pressed.evictable 0 0 = true ∧ stores_ pressed = true ∧ (leaving.canLeave 0 0).isSome = true ∧
    (match leaving.canLeave 0 0 with | some h => decide (leaving.now < h.since + 4096) | none => false) = true ∧
    (match ({ leaving with now := 4096 } : State).canLeave 0 0 with | some h => decide (h.since + 4096 ≤ 4096) | none => false) = true ∧
    stores_ leaving = true ∧ stores_ (inGang false (withGangs leaving)) = true ∧ saveOf (failed leaving) = (true, none) ∧
    saveOf (inGang false leaving) = (false, some false) ∧
    (match (moved leaving).slot 0 0 with
      | some x => (((moved leaving).release 0 0).lostFrame x).isSome && ((moved leaving).canLeave 0 0).isSome
      | none => false) = true := by
  refine ⟨?_, ?_, ?_, ?_, ?_, ?_, ?_, ?_, ?_, ?_, ?_, ?_⟩ <;> decide +kernel

/-- Record 2 in this state, written back to wait for w. -/
def away (st : Nat) (w : Wait) (finished : Bool) : State := suspend w finished (withRecord 0 st 0 one)
def suspAt (s : State) (f : Susp → Bool) : Bool := (s.suspOf 0 2).any f

theorem witness_ContinuationsLeaveWakeAndReturn_wake :
    (suspAt (away 4 (.timer 0) true) fun u => u.finished) = true ∧
    (suspAt (away 4 (.xfer 0 0) false) fun u => !u.finished && !(away 4 (.xfer 0 0) false).suspOver u) = true ∧
    (suspAt (away 4 .results false) fun u => !u.finished && (away 4 .results false).suspOver u && plainWait u.w && !u.reissue &&
      u.others.isEmpty && u.img.hold.isNone) = true ∧
    (suspAt (away 7 (.timer 0) true) fun u => u.finished && (away 7 (.timer 0) true).suspOver u && isTimer u.w &&
      (away 7 (.timer 0) true).standsBack u) = true ∧
    (suspAt (away 4 (.group 0 0 0) true) fun u => u.finished && (away 4 (.group 0 0 0) true).suspOver u && !isTimer u.w &&
      (away 4 (.group 0 0 0) true).standsBack u) = true ∧
    (let s := suspend (.group 0 0 0) true ((withPool 0 one).writeRec 0 2 (2 ^ 44 + pageAt 1 * 2 ^ 64 + 4 * 2 ^ 234))
     (suspAt s fun u => u.finished && s.suspOver u && !isTimer u.w && s.standsBack u) = true ∧ (s.lostRec 0 2).isSome = true) ∧
    ((away 4 (.group 0 0 0) true).lostRec 0 2 = none ∧ (away 7 (.timer 0) true).lostRec 0 2 = none) ∧
    (suspAt (away 5 (.group 0 0 0) true) fun u => !(away 5 (.group 0 0 0) true).standsBack u) = true ∧
    ((away 4 (.timer 0) true).suspended.all fun x => decide (x.redo = .none)) = true := by decide +kernel

theorem witness_ContinuationsLeaveWakeAndReturn_pickup :
    (let s := readyRecord 0
     (s.freeAt 0 1 && dieOf 0 = 0 && s.pickFor 0 0 = some ⟨0, 2⟩ && !s.gangBefore 0 0 ⟨0, 2⟩ && !(s.die 0).ovf && !(s.die 0).lost) = true ∧
      (s.unchain ⟨0, 2⟩).lostRec 0 2 = none ∧ (s.unchain ⟨0, 2⟩).recFault 0 2 = none) ∧
    (let s := chainAt 0 (withRecord (2 ^ 44) 2 0 one)
     (s.freeAt 0 1 && dieOf 0 = 0 && s.pickFor 0 0 = some ⟨0, 2⟩ && !s.gangBefore 0 0 ⟨0, 2⟩ && !(s.die 0).ovf && !(s.die 0).lost) = true ∧
      (s.unchain ⟨0, 2⟩).lostRec 0 2 = none ∧ ((s.unchain ⟨0, 2⟩).recFault 0 2).isSome = true) ∧
    (let s := { suspend (.ports [(0, 1)]) true (readyRecord 0) with
       suspended := [⟨0, 2, 0, { placeSlot 0 with idx := 2, pc := 0x30000 }, .ports [(0, 1)], true, true, [], .pair⟩] }
     (s.freeAt 0 1 && s.pickFor 0 0 = some ⟨0, 2⟩ && !s.gangBefore 0 0 ⟨0, 2⟩) = true ∧ s.reqs = [] ∧ (s.suspOf 0 2).any (fun u => u.redo = .pair) = true ∧
      (s.unchain ⟨0, 2⟩).lostRec 0 2 = none ∧ (s.unchain ⟨0, 2⟩).recFault 0 2 = none) ∧
    (let s := chainAt 0 (one.modCtx 0 fun x => { x with contpool := BitVec.ofNat 64 (pageAt 1) })
     (s.freeAt 0 1 && dieOf 0 = 0 && s.pickFor 0 0 = some ⟨0, 2⟩ && !s.gangBefore 0 0 ⟨0, 2⟩ && !(s.die 0).ovf && !(s.die 0).lost) = true ∧
      ((s.unchain ⟨0, 2⟩).lostRec 0 2).isSome = true) := by
  refine ⟨?_, ?_, ?_, ?_⟩ <;> decide +kernel

theorem witness_ContinuationsLeaveWakeAndReturn_keys :
    ((⟨0, 2⟩ : RecId) ∉ one.reserving ∧ (⟨0, 2⟩ : RecId) ∈ (submitted 0).reserving) ∧
    (entriesOf ((submitted 1).readRec 0 2)).drop (recWake ((submitted 1).readRec 0 2) % 8) = [] ∧
    (entriesOf ((submitted 0).readRec 0 2)).drop (recWake ((submitted 0).readRec 0 2) % 8) = [firstPlace] ∧
    (submitted 0).keyEntry firstPlace = none ∧ (submitted 0).entryStopped firstPlace = false ∧
    ((submitted 0).putEntry firstPlace (some ⟨some ⟨0, 3⟩, []⟩)).keyEntry firstPlace = some ⟨some ⟨0, 3⟩, []⟩ ∧
    ((submitted 0).modDie (firstPlace / 65536) fun x => { x with lostRecs := [⟨0, 4⟩] }).entryStopped firstPlace = true := by
  decide +kernel

/-! ## Launches, gangs, requests and objects -/

/-- A packet of context 0 whose words are n, by port `port` of core 0. -/
def packet (n port : Nat) : Packet := ⟨BitVec.ofNat 512 n, 0, true, 0, none, 0, port, none⟩
/-- A queue whose ring at 0x33000 has one slot to serve; WIDX and RIDX stand at 0x34000. -/
def aQueue (target : Nat) (err : Bool) : Queue :=
  ⟨0, 0x32000, 0, 0x33000, 4, 0x34000, 0x34008, 0x34000, 0, target, 31, err, 0⟩
def withQueue (target widx : Nat) (err : Bool) : State :=
  { (one.writePa 0x34000 8 widx).writePa 0x33000 8 1 with queues := [aQueue target err] }
def aLaunch (started done completed : Bool) (status live : Nat) : Launch :=
  { id := 0, queue := 0, pkt := packet (1 + 2 ^ 44 * 2 ^ 64 + 2 ^ 256 + 3 * 2 ^ 376) 4, started := started, done := done,
    completed := completed, live := live, retired := 0, timesum := 0, accepted := 0, firstPickup := none, terminated := false,
    status := status, prev := none, ops := 0, bytes := 0, winAt := 0, cls := none }
def withLaunch (l : Launch) (s : State) : State := { s with launches := [l], launchOf := [(⟨0, 2⟩, 0)] }

theorem witness_LaunchesAreAcceptedStartedAndReported :
    ((withQueue 1 1 false).queue 0).isSome = true ∧ (aQueue 1 false).target ≠ 3 ∧
    (withQueue 3 0 false).queueReady (aQueue 3 false) = false ∧ (withQueue 3 1 false).queueReady (aQueue 3 false) = true ∧
    (packet 1 4).type = 1 ∧ (packet 2 4).type ≠ 1 ∧
    ((aLaunch true true false 0 0).started = true ∧ (aLaunch true true false 0 0).completed = false ∧
      (aLaunch true true false 0 0).winAt + 130000 ≤ ({ one with now := 130000 } : State).now ∧ one.now < 0 + 130000) ∧
    (withLaunch (aLaunch false false false 0 0) one).launch 0 = some (aLaunch false false false 0 0) ∧
    (withLaunch (aLaunch false false false 0 0) one).launchMayStart (aLaunch false false false 0 0) = true ∧
    (withLaunch (aLaunch false false false 0 0) one).launchFirst (aLaunch false false false 0 0) = true ∧
    one.launchMayStart (aLaunch true true false 0 0) = false ∧
    ((aLaunch true true false 0 0).started = true ∧ (aLaunch true true false 0 0).completed = false ∧ (aLaunch true true false 0 0).live = 0) ∧
    (0 < (aLaunch true false false 0 1).live ∧ (aLaunch true false false 0 1).status < 2 ^ 32) := by decide +kernel

/-- Die 0's cores are gone. -/
def deadDie (s : State) : State :=
  { s with cores := (List.range 1024).filterMap fun c => if dieOf c = 0 then some (c, { Core.reset with dead := true }) else none }
/-- Record 2, in launch 0 over dies 0 and 1, ready on die 0. -/
def moving : State := withLaunch (aLaunch true true false 0 1) (chainAt 0 (withRecord (2 ^ 44) 2 0 (deadDie one)))
/-- A ready gang of two whose frame lies where nothing is mapped. -/
def farGang : State :=
  chainAt 0 ((withPool 0 one).writeRec 0 2 (2 ^ 44 + pageAt 1 * 2 ^ 64 + 3 * 2 ^ 224 + 2 ^ 229 + 2 * 2 ^ 234 + 5 * 2 ^ 480))
/-- Die 0 has cores 0 and 1 left, and every slot of core 1 is taken. -/
def crowdedDie (s : State) : State :=
  { deadDie s with cores := (1, { Core.reset with slots := (List.range 8).map fun k => (k, some (placeSlot 0)) }) ::
      (deadDie s).cores.drop 2 }
/-- A gang of two that has been ready since cycle 0. -/
def gangWaits (now size : Nat) : State := { readyRecord size with now := now, gangSince := [(⟨0, 2⟩, 0)] }
/-- Two requests to fuse cores 0 and 1, whose slots stand at their `gfuse`. -/
def fuseSlot (c : Nat) : Slot := { placeSlot 0 with hold := some ⟨.fuse 0 1 7 (.s 1), 0, false, []⟩, idx := 1 + c }
def fuseReqs : List FuseReq := [⟨0, 0, 0, 0, 1, 7, 0⟩, ⟨1, 0, 0, 0, 1, 7, 0⟩]
def fused (l : List FuseReq) : State :=
  ((one.modCore 0 fun x => { x with slots := [(0, some (fuseSlot 0))] }).modCore 1 fun x =>
    { x with slots := [(0, some (fuseSlot 1))] }).modClus 0 fun x => { x with fuses := l }

theorem moving_may : mayMove moving ⟨0, 2⟩ 0 1 := by
  refine ⟨by decide, ⟨by decide +kernel, by decide +kernel, by decide +kernel, by decide +kernel⟩,
    ⟨⟨0, aLaunch true true false 0 1, by decide +kernel⟩, by decide +kernel, by decide +kernel⟩, ?_⟩
  rw [show ((chainOf moving 0 ⟨0, 2⟩).dropWhile (· ≠ ⟨0, 2⟩)).drop 1 = [] from by decide +kernel]
  simp

theorem witness_GangsArePlacedAndFused_place :
    ¬ mayMove one ⟨0, 2⟩ 0 1 ∧
    gangReady one 0 ⟨0, 2⟩ 0 1 = false ∧
    (gangReady (readyRecord 1) 0 ⟨0, 2⟩ 0 1 = true ∧ recGang ((readyRecord 1).readRec 0 2) ≤ 4 ∧
      (gangLeaves (readyRecord 1) 0 ⟨0, 2⟩).lostRec 0 2 = none ∧ (gangLeaves (readyRecord 1) 0 ⟨0, 2⟩).recFault 0 2 = none ∧
      (readyRecord 1).suspOf 0 2 = none) ∧
    (gangReady farGang 0 ⟨0, 2⟩ 0 1 = true ∧ ((gangLeaves farGang 0 ⟨0, 2⟩).lostRec 0 2).isSome = true) := by
  refine ⟨fun h => absurd h.2.1.1 (by decide +kernel), by decide +kernel, by decide +kernel, by decide +kernel⟩

theorem witness_GangsArePlacedAndFused_drain :
    (gangWaits 65000 1).gangStalled 0 ⟨0, 2⟩ = false ∧ (crowdedDie (gangWaits 65000 1)).gangStalled 0 ⟨0, 2⟩ = true ∧
    (crowdedDie (gangWaits 65000 1)).bestRect 0 ⟨0, 2⟩ 1 = none ∧ (crowdedDie (gangWaits 65000 1)).bestRect 0 ⟨0, 2⟩ 0 = some 0 ∧
    ((crowdedDie (gangWaits 65000 1)).die 0).drain = none ∧ (crowdedDie (gangWaits 65000 1)).mostRoom 0 ⟨0, 2⟩ 0 = true ∧
    (∃ x ∈ (crowdedDie (gangWaits 65000 1)).gangSince, x.1 = ⟨0, 2⟩) ∧
    (crowdedDie (gangWaits 65000 1)).gangWait * 1300 ≤ (crowdedDie (gangWaits 65000 1)).gangWaited ⟨0, 2⟩ := by
  refine ⟨?_, ?_, ?_, ?_, ?_, ?_, ?_, ?_⟩ <;> decide +kernel

theorem witness_GangsArePlacedAndFused_timeout :
    (one.gangSince.any fun x => x.1 == (⟨0, 2⟩ : RecId)) = false ∧
    ((gangWaits 1365000 1).gangSince.any fun x => x.1 == (⟨0, 2⟩ : RecId)) = true ∧
    ((gangWaits 1365000 1).gangWait + (gangWaits 1365000 1).gangLimit) * 1300 ≤ (gangWaits 1365000 1).gangWaited ⟨0, 2⟩ ∧
    ((withLaunch (aLaunch true true false 0 1) (gangWaits 1365000 1)).launchOfRec 0 2).bind
      (withLaunch (aLaunch true true false 0 1) (gangWaits 1365000 1)).launch = some (aLaunch true true false 0 1) ∧
    lGopt (aLaunch true true false 0 1).pkt = false ∧ lGopt (packet (1 + 2 ^ 397) 4) = true ∧
    (gangWaits 1365000 1).launchOfRec 0 2 = none := by decide +kernel

theorem witness_GangsArePlacedAndFused_fuse :
    one.fuseReady 0 0 1 7 = none ∧ (fused fuseReqs).fuseReady 0 0 1 7 = some fuseReqs ∧
    (∀ f ∈ fuseReqs, ∃ d after, fusesTo (fused fuseReqs) f d after) ∧
    ((fused (fuseReqs.take 1)).clus (clusterOf 0)).fuses.find? (fun f => f.core == 0 && f.slot == 0) = some ⟨0, 0, 0, 0, 1, 7, 0⟩ ∧
    (fused (fuseReqs.take 1)).now < 65536 ∧ ({ fused (fuseReqs.take 1) with now := 65536 } : State).fuseReady 0 0 1 7 = none ∧
    fusesTo ({ fused (fuseReqs.take 1) with now := 65536 } : State) ⟨0, 0, 0, 0, 1, 7, 0⟩ (.s 1) [] := by
  refine ⟨by decide +kernel, by decide +kernel, ?_, by decide +kernel, by decide +kernel, by decide +kernel,
    ⟨fuseSlot 0, 0, false, by decide +kernel⟩⟩
  intro f hf
  simp only [fuseReqs, List.mem_cons, List.not_mem_nil, or_false] at hf
  rcases hf with rfl | rfl
  · exact ⟨.s 1, [], fuseSlot 0, 0, false, by decide +kernel⟩
  · exact ⟨.s 1, [], fuseSlot 1, 0, false, by decide +kernel⟩

/-- A request about address a. -/
def req (a b : Nat) : Req := ⟨0, a, b, 0x38000⟩
/-- A queue descriptor at 0x32000 that may be registered. -/
def withDescriptor (s : State) : State :=
  s.writePa 0x32000 64 (0x33000 + 4 * 2 ^ 200)

/-- Record 2 in state 5, with a container of its own. -/
def contained : State :=
  let s := (withArea (withRecord (2 ^ 44) 5 0 one)).writePa 0x60000 64 (4096 * 2 ^ 64)
  match s.saveContainer 0 2 1 1 0x40080 (s.trapFields 0 0 { placeSlot 0 with idx := 2 } (s.trapPoint (placeSlot 0) false false 0 8) false) with
  | .ok t => t
  | .error _ => s

theorem witness_RequestsActAndReport_records :
    (withPool 0 one).reqRec (req 0x40000 0) = none ∧ (withPool 0 one).reqRec (req 0x403C0 0) = some 15 ∧ (withPool 0 one).reqRec (req 0x40400 0) = none ∧
    recState ((withRecord (2 ^ 44) 2 0 one).readRec 0 2) ≠ 5 ∧ (withRecord (2 ^ 44) 5 0 one).reqRec (req 0x40080 0) = some 2 ∧
    recState ((withRecord (2 ^ 44) 5 0 one).readRec 0 2) = 5 ∧ (withRecord (2 ^ 44) 5 0 one).fatal.contains ⟨0, 2⟩ = false ∧
    ((withRecord (2 ^ 44) 5 0 one).adoptContainer 0 2).ownContainer 0 2 = none ∧
    ({ withRecord (2 ^ 44) 5 0 one with fatal := [⟨0, 2⟩] } : State).fatal.contains ⟨0, 2⟩ = true := by decide +kernel

theorem witness_RequestsActAndReport_container :
    (recState (contained.readRec 0 2) == 5 && contained.reqRec (req 0x40080 0) == some 2 &&
      ((contained.adoptContainer 0 2).ownContainer 0 2).isSome && contained.fatal.isEmpty &&
      (getField ((contained.adoptContainer 0 2).containerFields 0 2) 9 0).isSome) = true := by decide +kernel

theorem witness_RequestsActAndReport_queues :
    (one.queues.find? fun q => q.ctx == 0 && q.desc.toNat == 0x32000) = none ∧ one.queueBad 0 0x32000 = true ∧
    (withDescriptor one).queueBad 0 0x32000 = false ∧
    ((withQueue 1 1 false).queues.find? fun q => q.ctx == 0 && q.desc.toNat == 0x32000) = some (aQueue 1 false) ∧
    (aQueue 1 false).err = false ∧ (aQueue 1 true).err = true ∧
    (withDescriptor (withQueue 1 1 true)).queueBad 0 0x32000 = false ∧ (withQueue 1 1 true).queueBad 0 0x32000 = true ∧
    (∃ l ∈ (withLaunch (aLaunch false false false 0 0) (withQueue 3 0 false)).launches, l.queue = 0 ∧ l.started = false) ∧
    (withQueue 1 1 false).queueRidx (aQueue 1 false) ≠ (withQueue 1 1 false).queueWidx (aQueue 1 false) ∧
    (withQueue 1 0 false).queueRidx (aQueue 1 false) = (withQueue 1 0 false).queueWidx (aQueue 1 false) ∧
    (∀ l ∈ (withQueue 1 0 false).launches, l.queue = 0 → l.started = true) := by decide +kernel

theorem witness_RequestsActAndReport_parameters :
    (req 0 0).arg1 = 0 ∧ 2 ^ 32 ≤ (req 0 (2 ^ 32)).arg1 ∧ 3 ≤ (req 3 1).arg0 ∧
    0 < (req 2 (2 ^ 32 - 1)).arg1 ∧ (req 2 (2 ^ 32 - 1)).arg1 < 2 ^ 32 ∧ (req 0 1).arg0 = 0 ∧ (req 1 1).arg0 = 1 := by decide

/-- An object of four empty sections, its digest computed apart from the model (R100). -/
def emptyObject : List Byte := leBytes 160 0xa00000000000008004000000000000000000000000000000a00000000000008003000000000000000000000000000000a00000000000008002000000000000000000000000000000a0000000000000800103553e2a7c67c1a02a1cae5cb5fab1e757cf564f800c873f000000000000000000000000000000a000000000000000400000000400000000004001004f464c4e
/-- The domain table lies where nothing is mapped. -/
def farTable : State := one.writePa 0x40000 64 (16 + 0x50000 * 2 ^ 128 + 1024 * 2 ^ 192 + pageAt 1 * 2 ^ 256)
/-- The sections of the object above. -/
def itsSects : List Sect := (parseSects emptyObject).getD []
def loadCode (s : State) (n : Nat) : Nat :=
  s.loadFault 0 emptyObject 0x30000 itsSects ((parseSyms (bytesOf emptyObject itsSects 0x8004)).getD []) n

theorem emptyObject_verifies : verify emptyObject = 0 := by decide +kernel

theorem witness_ObjectsTranslationsAndWalks :
    verify [] ≠ 0 ∧ one.referenced 1 = false ∧ ({ one with translations := [(0, 0, aTrans .op)] } : State).referenced 1 = true ∧
    ((parseSects emptyObject).isSome = true ∧ loadCode (withPool 0 one) 0 = 0 ∧ loadCode (withPool 0 one) 1 = 0 ∧
      (withPool 0 one).domRoom 0 1 = true ∧ (farTable.domRoom 0 1 = false ∧ loadCode farTable 1 = 0x0B)) ∧
    (entryStands (withEntry one) 7 1 ⟨64, 0⟩ ∧ entryStands (withEntry one) 0 1 ⟨0, 0⟩ ∧ ¬ entryStands one 0 1 ⟨0, 0⟩ ∧
      ¬ entryStands (withEntry one) 8 1 ⟨0, 0⟩) ∧
    firstLeaf one 0x30000 = true ∧ firstLeaf one (pageAt 1) = false := by
  refine ⟨by decide +kernel, by decide +kernel, by decide +kernel, by decide +kernel, ⟨?_, ?_, ?_, ?_⟩, by decide +kernel,
    by decide +kernel⟩
  · exact ⟨by decide, by decide +kernel, { anObject true with bodies := [aBody 0 []] }, aBody 0 [], by decide +kernel⟩
  · exact ⟨by decide, by decide +kernel, { anObject true with bodies := [aBody 0 []] }, aBody 0 [], by decide +kernel⟩
  · rintro ⟨_, _, o, b, h, _⟩; exact absurd h (by rw [show one.object 1 = none from by decide +kernel]; simp)
  · exact fun h => absurd h.1 (by decide)

/-! ## Engines -/

/-- An operation of type 2 to 7 on the packet. -/
def anOp (p : Packet) (started ended : Bool) (bytes : Nat) : EngOp :=
  { id := 0, pkt := p, die := 0, started := started, ended := ended, status := 0, bytes := bytes, refused := false, rows := [], param := none,
    failAt := none, outSeg := none, completed := false }
def withOp (o : EngOp) (s : State) : State := { s with ops := [o] }
def pushing (p : Packet) (s : State) : State := s.modDie 0 fun x => { x with pushed := [p] }
def waitPkt (id : Nat) : Packet := packet (6 + id * 2 ^ 96) 1
def markPkt (a : Nat) : Packet := packet (7 + a * 2 ^ 64 + 9 * 2 ^ 128) 1
def sideIs (s : State) (p : Packet) (k : Acc) (a : Nat) : Nat :=
  match s.sideOf p.who k true a with
  | .ok (.place (.mem _ _ _)) => 1 | .ok (.place (.spad _ _)) => 2 | .ok (.remote _) => 3 | .ok (.place _) => 4 | .error _ => 0

/-- A WAITID and a MARKER that may settle, and a state with that operation alone. -/
def settling (p : Packet) : State := withOp (anOp p false false 0) one

theorem settles :
    [waitPkt (2 ^ 32 - 1), markPkt 0x30000, markPkt 0x30004, markPkt (pageAt 1)].all (fun p =>
      p.type = 6 || p.type = 7) = true ∧
    (∀ p ∈ [waitPkt (2 ^ 32 - 1), markPkt 0x30000, markPkt 0x30004, markPkt (pageAt 1)], maySettle (settling p) (anOp p false false 0)) ∧
    ¬ maySettle (settling (waitPkt 0)) (anOp (waitPkt 0) false false 0) ∧
    ¬ maySettle { settling (markPkt 0x30000) with ops := [anOp (markPkt 0x30000) false false 0,
      anOp (packet (7 + 2 ^ 24) 1) false false 0] } (anOp (markPkt 0x30000) false false 0) := by
  unfold maySettle opWaitsNot idsPast
  refine ⟨?_, ?_, ?_, ?_⟩ <;> decide +kernel

theorem witness_OperationsAreAcceptedAndReported :
    ((one.die 0).pushed = [] ∧ ((pushing (waitPkt 0) one).die 0).pushed = [waitPkt 0] ∧ packetBad (waitPkt 0) = false ∧
      packetBad (packet 8 1) = true) ∧
    ((withQueue 1 1 true).queue 0 = some (aQueue 1 true) ∧ (withQueue 1 0 false).queueReady (aQueue 1 false) = false ∧
      (withQueue 1 1 false).queueReady (aQueue 1 false) = true) ∧
    ((withOp (anOp (waitPkt 0) false false 0) one).op 0 = some (anOp (waitPkt 0) false false 0) ∧ (waitPkt 0).type = 6 ∧
      one.orderOk (waitPkt 0) = true ∧ ¬ ((sget (0 : Half) (one.core (wCore (waitPkt 0))).xfdone (wCh (waitPkt 0))) - (wId (waitPkt 0) + 1)).toNat < 2 ^ 31 ∧
      ((sget (0 : Half) (one.core (wCore (waitPkt (2 ^ 32 - 1)))).xfdone (wCh (waitPkt (2 ^ 32 - 1)))) - (wId (waitPkt (2 ^ 32 - 1)) + 1)).toNat < 2 ^ 31) ∧
    ((markPkt 0x30000).type = 7 ∧ sget (0 : Half) (one.core (markPkt 0x30000).ncore).xfdone 0 = (markPkt 0x30000).xid ∧
      sget (0 : Half) ((onCore (fun x => { x with xfdone := [(0, 1)] }) one).core 0).xfdone 0 ≠ (markPkt 0x30000).xid ∧
      mAddr (markPkt 0x30004) % 8 ≠ 0 ∧ mAddr (markPkt 0x30000) % 8 = 0 ∧ sideIs one (markPkt 0) .store (pageAt 1) = 0 ∧
      sideIs one (markPkt 0) .store 0x30000 = 1 ∧ sideIs (withLines one) (markPkt 0) .store (windowBase + 8) = 2) ∧
    ((anOp (waitPkt 0) false false 0).ended = false ∧ (anOp (waitPkt 0) true true 0).ended = true ∧
      (anOp (waitPkt 0) true true 0).completed = false) := by
  refine ⟨?_, ?_, ?_, ?_, ?_⟩ <;> decide +kernel

/-- A copy of n bytes from a to b. -/
def copyPkt (a b n : Nat) : Packet := packet (2 + a * 2 ^ 64 + b * 2 ^ 128 + n * 2 ^ 192) 1
/-- Scale-out window 0, at page 5, names device 5. -/
def farOut : State := { withLines mapped2 with fab := { one.fab with scaleOut := [(0, 0x8000000000000005)] } }
def sidesOf (p : Packet) : Nat × Nat := (sideIs farOut p .load (cSrc p), sideIs farOut p .store (cDst p))
def gatherPkt (t count nsrc : Nat) : Packet :=
  packet (t + 0x30000 * 2 ^ 64 + (count - 1) * 2 ^ 128 + 16 * 2 ^ 144 + 4 * 2 ^ 224 + nsrc * 2 ^ 256) 2
def rowsOp : EngOp := { anOp (gatherPkt 3 2 1) true false 2 with rows := [(0, 1), (1, 0)] }

theorem witness_TransfersMoveTheirBytes_copy :
    ((withOp (anOp (copyPkt 0x30000 0x31000 64) false false 0) one).mayStart (anOp (copyPkt 0x30000 0x31000 64) false false 0) = true ∧
      (withOp (anOp (copyPkt 0x30000 0x31000 64) true false 0) one).mayStart (anOp (copyPkt 0x30000 0x31000 64) true false 0) = false) ∧
    (sidesOf (copyPkt (pageAt 5) (pageAt 5 + 64) 64) = (3, 3) ∧ sidesOf (copyPkt (pageAt 5) 0x30000 64) = (3, 1) ∧
      sidesOf (copyPkt 0x30000 (pageAt 5) 64) = (1, 3) ∧ sidesOf (copyPkt 0x30000 0x31000 64) = (1, 1) ∧
      sidesOf (copyPkt (pageAt 3) 0x31000 64) = (0, 1) ∧ sidesOf (copyPkt 0x31000 (pageAt 3) 64) = (1, 0) ∧
      sidesOf (copyPkt windowBase (windowBase + 64) 64) = (2, 2)) ∧
    (Sys2Proof.Claims.apart (copyPkt windowBase (windowBase + 64) 64) ∧ (one.die (dieOf 0)).lost = false) := by
  refine ⟨by decide +kernel, by decide +kernel, ?_, by decide +kernel⟩
  unfold Sys2Proof.Claims.apart
  decide +kernel

theorem witness_TransfersMoveTheirBytes_others :
    (({ anOp (copyPkt 0 0 64) true false 0 with outSeg := some ⟨64, 0, true, none, 0x30000, 0, 0⟩ } : EngOp).outSeg =
      some ⟨64, 0, true, none, 0x30000, 0, 0⟩) ∧
    ((withOp (anOp (gatherPkt 3 2 1) false false 0) one).mayStart (anOp (gatherPkt 3 2 1) false false 0) = true ∧
      (gatherPkt 4 2 1).type = 4 ∧ gCount (gatherPkt 3 2 1) = 2 ∧ gCount (gatherPkt 3 65536 1) = 65536) ∧
    (rowsOp.rows.find? (fun x => x.1 == 1) = some (1, 0) ∧ firstOfSource (gNsrc rowsOp.pkt) 1 rowsOp.rows = false ∧
      firstOfSource (gNsrc rowsOp.pkt) 0 rowsOp.rows = true ∧ (1 : Nat) < gRows rowsOp.pkt ∧
      (withBits [] one).spadOk 0 (gToff rowsOp.pkt + 1 / gNsrc rowsOp.pkt * gRowb rowsOp.pkt) (gRowb rowsOp.pkt) = true ∧
      (withBits [] one).spadOk 0 (gDoff rowsOp.pkt + 0 * gRowb rowsOp.pkt) (gRowb rowsOp.pkt) = true) := by
  refine ⟨?_, ?_, ?_⟩ <;> decide +kernel

/-- An all-reduce whose group of two stands at 0x30000: cores 0 and 1 of this device. -/
def collPkt (group : Nat) : Packet := packet (5 + group * 2 ^ 256 + 2 ^ 192 + 10 * 2 ^ 336) 3
def withMembers (s : State) : State := (s.writePa 0x30000 16 (2 + 7 * 2 ^ 64)).writePa 0x30010 8 (2 ^ 32)
def aColl (posted : List (Nat × Nat)) (members : List Nat) : Coll :=
  { id := 0, gid := 7, inst := 0, nmem := 2, posted := posted, members := members, root := 0, kind := 0, fmt := 10, rop := 0, count := 1,
    pos := 0, live := true }

/-- A collective that has read these bytes of its group. -/
def collAt (group : Nat) (param : Option (List Byte)) : EngOp := { anOp (collPkt group) true false 0 with param := param }
/-- What the bytes read say: none yet, a status, or the group. -/
def groupCode : Option (Except Nat (Nat × Nat × List Nat)) → Nat × List Nat
  | none => (0, [])
  | some (.error e) => (1, [e])
  | some (.ok (g, root, ms)) => (2, g :: root :: ms)
/-- The granule n bytes into the group, as it is read. -/
def granuleAt (o : EngOp) (s : State) (n : Nat) : Option (List Byte) :=
  (s.readGranule o (xGroup o.pkt + n)).toOption.map Prod.snd

theorem witness_TransfersMoveTheirBytes_collectives :
    ((withOp (anOp (collPkt 0x30000) false false 0) one).mayStart (anOp (collPkt 0x30000) false false 0) = true ∧
      (withOp (collAt 0x30000 none) one).mayStart (collAt 0x30000 none) = false ∧
      (granuleAt (collAt (pageAt 1) (some [])) one 0).isNone = true ∧
      (granuleAt (collAt 0x30000 (some [])) one 0).map (fun l => groupCode (one.groupOf (collPkt 0x30000) l)) = some (1, [BADPKT]) ∧
      (granuleAt (collAt 0x30000 (some [])) (withMembers one) 0).map (fun l =>
        groupCode ((withMembers one).groupOf (collPkt 0x30000) l)) = some (0, []) ∧
      ((granuleAt (collAt 0x30000 (some [])) (withMembers one) 0).bind fun a =>
        (granuleAt (collAt 0x30000 (some a)) (withMembers one) 16).map fun b =>
          groupCode ((withMembers one).groupOf (collPkt 0x30000) (a ++ b))) = some (2, [7, 0, 0, 1])) ∧
    ((match one.sideOf (collPkt 0x30000).who .load false 0x30000 with
        | .ok x => decide (x.granule = some 0x30000) && (one.sideRead x 16).2.isEmpty | .error _ => false) = true ∧
      (one.die 0).pcache = [] ∧ ((one.modDie 0 fun d => { d with pcache := [(3, 0x30000, [7])] }).die 0).pcache.find?
        (fun e => e.2.1 == 0x30000) = some (3, 0x30000, [7])) ∧
    ((aColl [] [0, 1]).posted.length < one.localMembers (aColl [] [0, 1]) ∧
      one.localMembers (aColl [(0, 0), (1, 1)] [0, 1]) ≤ (aColl [(0, 0), (1, 1)] [0, 1]).posted.length ∧
      one.localMembers (aColl [(0, 0)] [0, 5 * 1024]) ≤ (aColl [(0, 0)] [0, 5 * 1024]).posted.length ∧
      ({ one with fab := { one.fab with lostPeers := [5] } } : State).fab.lostPeers.contains (5 * 1024 / 1024 % 1024) = true ∧
      5 * 1024 / 1024 ≠ one.pkg.devId.toNat ∧ (∀ m ∈ (aColl [] [0, 1]).members, one.fab.lostPeers.contains (m / 1024 % 1024) = false)) := by
  refine ⟨⟨?_, ?_, ?_, ?_, ?_, ?_⟩, ?_, ?_⟩ <;> decide +kernel

/-! ## Homes, cores and the package -/

/-- A front-end's buffer on line 0x600, and a line owned by core 5. -/
def withBuffer (s : State) : State := { s with lines := [(0x600, { Line.inv with st := .modified, bufs := [(0, 1, 7)] })] }

theorem witness_HomesServeRequests :
    (one.requestOk 0 (2 ^ 50) .load = false ∧ one.requestOk 1023 0x30000 .store = true ∧ one.tileAt 0x30000 = none ∧
      one.region 0x30000 = some .hbm ∧ (sget Line.inv one.lines 0x600).bufs = []) ∧
    (one.requestOk 1031 0x30000 .engineRead = true ∧ one.requestOk 1024 0x30000 .engineWrite = true ∧ one.deviceMem 0x30000 = true ∧
      ((withTiles [0x30000] one).tileAt 0x30000).isSome = true ∧ (withTiles [0x30000] one).requestOk 1024 0x30000 .engineWrite = true ∧ one.requestOk 1024 0x30000 .engineRead = true ∧
      one.requestOk hostAgent 0x30000 .store = true ∧
      ({ one with fab := { one.fab with members := [7] } } : State).requestOk 1047 0x30000 .engineWrite = true) ∧
    ((∀ b ∈ (sget Line.inv (withBuffer one).lines 0x600).bufs, b.1 = 0) ∧ (sget Line.inv (withBuffer one).lines 0x600).bufs ≠ []) ∧
    (one.deviceMem (0x600 * 128) = true ∧ one.tileAt (0x600 * 128) = none ∧ (127 : Nat) < 128 ∧
      127 / 16 ≠ home (0x600 * 128) / 16 ∧ (one.die (127 / 16)).lost = false ∧ one.deviceMem (2 ^ 60) = false) ∧
    (0x30004 % (64 / 8) ≠ 0 ∧ 0x30008 % (64 / 8) = 0 ∧ (one.placeOf ⟨0, true, 0⟩ .atomic false 0x30008).toOption = some (.mem 0x30008 0 0) ∧
      (one.placeOf ⟨0, true, 0⟩ .atomic false (pageAt 1)).toOption = none ∧
      ((withLines one).placeOf ⟨0, true, 0⟩ .atomic false (localBase + 8)).toOption = some (.spad 0 8)) ∧
    (one.reqs[0]? = none ∧ ({ one with reqs := [aRequest] } : State).reqs[0]? = some aRequest ∧
      (∃ r ∈ [aRequest, aRequest].take 1, r.pa / 128 = aRequest.pa / 128) ∧ (∀ r ∈ [aRequest].take 0, r.pa / 128 ≠ aRequest.pa / 128) ∧
      one.proxyFails aRequest.pa = false ∧ (one.modDie (home aRequest.pa / 16) fun x => { x with lost := true }).proxyFails aRequest.pa = true ∧
      one.placePoisoned (.mem aRequest.pa 1 0) (aRequest.w / 8) = false ∧ one.placePoisoned (.mem 0x30008 0 0) 8 = false ∧
      ({ one with poison := [(0x30008, true)] } : State).placePoisoned (.mem 0x30008 0 0) 8 = true ∧
      (({ one with poison := [(0x30008, true)] } : State).placeOf ⟨0, true, 0⟩ .atomic false 0x30008).toOption = some (.mem 0x30008 0 0) ∧
      one.deviceMem aRequest.pa = true ∧ ({ aRequest with pend := none } : ProxyReq).pend = none ∧
      aRequest.spurious = none) := by
  refine ⟨?_, ?_, ?_, ?_, ?_, ?_⟩ <;> decide +kernel

def flying : List Flight := [⟨0, 1, 4, 7, 0, 0⟩, ⟨0, 1, 4, 8, 0, 0⟩]
def aRing (p : RingPhase) : Ring := ⟨0, 1, 12, 1, none, p⟩
/-- Core 0's tile on its way, in this phase. -/
def sending (p : RingPhase) : State := onCore (fun x => { x with ring := some (aRing p) }) one

theorem witness_CoresAndClustersMoveOn :
    (holderOf 0x40040 = 0x40040 ∧ holderOf 0x3F = 0 ∧ sget 0 ((withLines one).core 0).owner 0 ≠ 0 ∧
      sget 0 ((withLines one).core 0).owner 12287 = 0 ∧ ((withLines one).core 0).allocated 1 = true ∧
      ((withLines one).core 0).allocated 2 = false) ∧
    (let s := onCore (fun x => { x with bind := [(8, ⟨0, 0, 0x40040, 0, 0, 0⟩)] }) one
     (s.core 0).binding 8 = ⟨0, 0, 0x40040, 0, 0, 0⟩ ∧ routeOk 0 ((0x3F : Word).setWidth 8) (((0x3F : Word) >>> 8).setWidth 8) = true ∧
      routeOk 0 ((0xFF : Word).setWidth 8) (((0xFF : Word) >>> 8).setWidth 8) = false) ∧
    (flying[1]? = some ⟨0, 1, 4, 8, 0, 0⟩ ∧ ((flying.take 1).any fun g => g.src == 0 && g.core == 1 && g.port == 4) = true ∧
      flying[0]? = some ⟨0, 1, 4, 7, 0, 0⟩ ∧ (flying.take 0).any (fun g => g.src == 0) = false) ∧
    ((one.core 0).ring = none ∧ ((sending .waiting).core 0).ring = some (aRing .waiting) ∧ ((sending .waiting).core 1).inb = .empty ∧
      (((sending .waiting).modCore 1 fun x => { x with inb := .filling }).core 1).inb ≠ .empty ∧ one.now < 2 ∧
      1 ≤ one.now ∧ (aRing (.streaming 1)).fin ≤ one.now ∧
      ((onCore (fun x => { x with inb := .full none }) (sending .committed)).core 0).inb = .full none ∧ (∀ x, (one.core 0).inb ≠ .full x)) ∧
    ((one.core 0).mst[0]? = none ∧ ((onCore (fun x => { x with mst := [aStore] }) one).core 0).mst[0]? = some aStore ∧
      aStore.due < one.now ∧ one.now ≤ ({ aStore with due := 4 } : MstGranule).due) ∧
    ((one.core 0).matIdle = true ∧ ((onCore (fun x => { x with matIdle := false }) one).core 0).matIdle = false ∧
      one.now < (one.core 0).lastMma + 13000 ∧ (one.core 0).lastMma + 13000 ≤ ({ one with now := 2 ^ 40 } : State).now) ∧
    (256 ≤ ((fullUnit one).clus 0).regs.length ∧ (one.clus 0).regs.length < 256 ∧ (one.slot 0 0).isSome = true) ∧
    (one.holderNow 0 ≠ some 0 ∧ (withRing one).holderNow 0 = some 0) := by
  refine ⟨?_, ?_, ?_, ⟨?_, ?_, ?_, ?_, ?_, ?_, ?_, ?_, ?_⟩, ?_, ?_, ?_, ?_⟩
  case refine_12 => intro x h; exact absurd h (by simp [show (one.core 0).inb = .empty from by decide +kernel])
  all_goals decide +kernel

theorem witness_BarrierObjectsCountArrivals :
    (let s1 := (withDom 1 2 0 one).putDomain 0 1 (putBits ((withDom 1 2 0 one).domain 0 1) 63 32 1)
     domArrived (s1.domain 0 1) < domMembers (s1.domain 0 1)) ∧
    (let s := (withPool 2 one).writePa 0x70040 64 (2 * 2 ^ 64 + 2 ^ 128 + 2 ^ 131 + 9 * 2 ^ 160 + 2 ^ 32)
     let s1 := s.putDomain 0 1 (putBits (s.domain 0 1) 63 32 2)
     let d := s1.domain 0 1
     domWaitUp d = false ∧ domMembers d ≠ 0 ∧ domMembers d ≤ domArrived d ∧ domUp d = true ∧
      domPdev d ≠ (s1.putDomain 0 1 (putBits d 132 132 1)).pkg.devId.toNat) ∧
    (domWaitUp (one.domain 0 1) = false ∧ domWaitUp ((one.putDomain 0 1 (2 ^ 132)).domain 0 1) = true ∧ one.domHole 0 1 = none ∧
      (one.putDomain 0 1 (2 ^ 132)).domHole 0 1 = none ∧ ((noPool one).domHole 0 1).isSome = true) ∧
    (one.domExists 0 1 = false ∧ (withDom 1 2 0 one).domExists 0 1 = false ∧
      ((withDom 1 2 0 one).writePa 0x40000 64 (2 * 2 ^ 320)).domExists 0 1 = true ∧
      one.devLost 9 = false) := by
  refine ⟨?_, ?_, ?_, ?_⟩ <;> decide +kernel

theorem witness_StartsStopsAndPower :
    (one.pkg.running = true ∧ ({ one with pkg := { one.pkg with running := false } } : State).pkg.running = false ∧
      (∃ x ∈ [95, 111], 110 < x) ∧ (∀ x ∈ [96, 110], x ≤ 110)) ∧
    (({ one with pkg := { one.pkg with stopped := true } } : State).pkg.stopped = true ∧ one.agenda = []) ∧
    (one.pkg.stopped = false ∧ one.pkg.recovery = false ∧ ({ one with pkg := { one.pkg with recovery := true } } : State).pkg.recovery = true) ∧
    ((0 : Nat) < 63 ∧ (63 : Nat) < 64 ∧ 64 ≤ (64 : Nat)) := by decide +kernel

/-- A pod of devices 0, 5 and 7. -/
def pod : State := { one with fab := { one.fab with members := [0, 5, 7] } }

theorem witness_FailuresLinksAndPeers :
    ((one.die 7).lost = false ∧ 10 ≤ (10 : Nat) ∧ ((one.modDie 0 fun x => { x with lost := true }).die 0).lost = true ∧
      (one.die 8).lost = false ∧ (one.die 9).lost = false) ∧
    (one.deviceMem (2 ^ 60) = false ∧ one.deviceMem 0x30000 = true ∧ one.dirty 0x30000 = false ∧ (withBuffer one).dirty 0x30000 = true) ∧
    (((withLines one).core 0).allocated 0 = true ∧ (one.core 0).allocated 0 = false) ∧
    (one.slot 0 1 = none ∧ (one.slot 0 0).isSome = true) ∧
    (one.region 0x000E000000000000 = some .host ∧ one.region 0x30000 ≠ some .host) ∧
    (pod.isPeer (0x0001000000000000 + 5 * 2 ^ 41) = true ∧ pod.isPeer 0x30000 = false) ∧
    (pod.fab.members.contains 5 = true ∧ pod.fab.lostPeers.contains 5 = false ∧ 5 ≠ pod.pkg.devId.toNat % 1024 ∧
      pod.fab.members.contains 6 = false) := by
  refine ⟨?_, ?_, ?_, ?_, ?_, ?_, ?_⟩ <;> decide +kernel

/-- The slot whose pair issues. -/
def curOf (s : State) : Slot := s.cur.getD (placeSlot 0)

theorem witness_TasksAndDispatcherComplete_instructions :
    (one.cur.isSome = true ∧ (∀ g, (curOf one).gangInfo = some g → (0, 0) ∈ g.members) ∧
      (∀ g, (curOf (inGang false one)).gangInfo = some g → (0, 0) ∈ g.members)) ∧
    (mayArrive (withDom 1 2 1 one) (curOf (withDom 1 2 1 one)) 1 ∧ mayArrive (withDom 0 2 1 one) (curOf (withDom 0 2 1 one)) 0 ∧
      [Instr.phase 1, .parrive (.s 1) 1, .pwait 1 .z].all (clear (withDom 1 2 1 one)) = true ∧ clear (withDom 0 2 1 one) (.phase 0) = true) ∧
    (holds (withRing (withDom 1 2 1 one)) ∧ [Instr.owait 1 .z, .oarr (.s 1) 1 .z].all (clear (withRing (withDom 1 2 1 one))) = true) ∧
    (clear one (.xwait 0 .z) = true ∧ clear (word (2 ^ 31) one) (.chbind (.s 1) 7 (.s 2)) = true ∧
      clear (word 0x700FF one) (.chbind (.s 1) 7 (.s 2)) = true ∧ (0x700FF : Nat) < 2 ^ 31 ∧ bits 0x700FF 30 19 = 0) ∧
    (readS (fusing 4 0 []) fuseIt 1 (.s 2) = shapeWord 4 0 ∧ clear (fusing 4 0 []) fuseIt = true ∧ (curOf one).gangInfo = none ∧
      (curOf one).gang = 0 ∧ clear one (.gsplit (.s 1)) = true) ∧
    (clear one (.csrr (.s 1) 0x0C2) = true ∧ csrOpen one (.csrw 0x0C4 (.s 1)) 0 0x0C4 (.s 1) ∧ clear one (.csrw 0x0C4 (.s 1)) = true ∧
      csrOpen (user one) (.csrs 0x010 (.s 1)) 1 0x010 (.s 1) ∧ clear (user one) (.csrs 0x010 (.s 1)) = true ∧
      csrOpen one (.csrc 0x055 .z) 2 0x055 .z ∧ clear one (.csrc 0x055 .z) = true) := by
  simp only [holds_iff, mayArrive, arrivable, writesGood_iff, csrOpen]
  refine ⟨⟨by decide, ?_, ?_⟩, ?_, ?_, ?_, ?_, ?_⟩
  · intro g h; rw [show (curOf one).gangInfo = none from by decide] at h; cases h
  · intro g h
    rw [show (curOf (inGang false one)).gangInfo = some ⟨2, 0, 0, 0, false, [(0, 0), (1, 0)]⟩ from by decide] at h
    cases h; decide
  all_goals decide +kernel

/-- The parts of `storable` that a save decides. -/
def savesAt (s : State) (c k : Nat) (sl : Slot) (h : Hold) : Bool :=
  match (Claims.dropPackets (s.release c k) c k).slot c k with
  | none => false
  | some x =>
    let s1 := Claims.dropPackets (s.release c k) c k
    x.gangInfo.isNone && (s1.lostFrame x).isNone && (s1.storeTrap c k x).isNone &&
      (match s1.storeSlot c x (s.wakeOf c sl h.w).2 with | .ok _ => true | .error _ => false)

theorem storable_of {s : State} {c k : Nat} {sl : Slot} {h : Hold} (h1 : sl.gangInfo = none) (h2 : s.slot c k = some sl)
    (h3 : s.canLeave c k = some h) (hb : savesAt s c k sl h = true) : storable s c k sl h := by
  refine ⟨h1, h2, h3, ?_⟩
  unfold savesAt at hb
  split at hb
  · cases hb
  · rename_i x hx
    simp only [Bool.and_eq_true, Option.isNone_iff_eq_none] at hb
    obtain ⟨⟨⟨a, b⟩, e⟩, g⟩ := hb
    split at g
    · rename_i s2 hs; exact ⟨x, s2, hx, a, b, e, hs⟩
    · cases g

theorem witness_TasksAndDispatcherComplete_steps :
    (one.slot 0 0).isSome = true ∧ ((one.modDie 0 fun x => { x with trapq := some ⟨0x70000, 0, 6⟩ }).die 0).trapq = some ⟨0x70000, 0, 6⟩ ∧
    (curOf one).pc = one.issue.pc ∧ (standing (.fault true) one).standsAt 0 0 (.fault true) = true ∧
    (atProxy one (placeSlot 0) 0 = false ∧ ((owes { aRead with due := 0 } one).slot 0 0).any (fun sl => sl.pending.any fun p =>
      decide (p.id = 0 ∧ p.due < one.now)) = true) ∧
    storable leaving 0 0 (curOf leaving) ⟨.xfer 0 0, 0, false, []⟩ ∧ storable pressed 0 0 (curOf pressed) ⟨.xfer 0 0, 0, false, []⟩ ∧
    (0 + 4096 ≤ ({ leaving with now := 4096 } : State).now ∧ pressed.evictable 0 0 = true) ∧
    (mayPickUp (readyRecord 0) 0 0 1 0 2) ∧
    ((⟨0, 2⟩ : RecId) ∈ (submitted 1).reserving ∧
      (entriesOf ((submitted 1).readRec 0 2)).drop (recWake ((submitted 1).readRec 0 2) % 8) = []) ∧
    (withQueue 3 1 false).queueReady (aQueue 3 false) = true ∧
    (fusesTo ({ fused (fuseReqs.take 1) with now := 65536 } : State) ⟨0, 0, 0, 0, 1, 7, 0⟩ (.s 1) []) := by
  refine ⟨by decide +kernel, by decide +kernel, by decide +kernel, by decide +kernel, by decide +kernel, ?_, ?_, by decide +kernel,
    by unfold mayPickUp; decide +kernel, by decide +kernel, by decide +kernel, ⟨fuseSlot 0, 0, false, by decide +kernel⟩⟩
  all_goals exact storable_of (by decide +kernel) (by decide +kernel) (by decide +kernel) (by decide +kernel)

/-- Both sides of the copy's segment are places. -/
def placesOf (s : State) (o : EngOp) : Bool :=
  match segmentSides s o with | (.ok (.place _), .ok (.place _)) => true | _ => false
def aCopy (started : Bool) : EngOp := anOp (copyPkt 0x30000 0x31000 64) started false 0

theorem witness_EnginesMemoryAndPackageComplete_engines :
    (((pushing (waitPkt 0) one).die 0).pushed = [waitPkt 0] ∧ (withQueue 1 1 false).queueReady (aQueue 1 false) = true) ∧
    ((withOp (aCopy false) one).op 0 = some (aCopy false) ∧ (aCopy false).pkt.type = 2 ∧
      (withOp (aCopy false) one).mayStart (aCopy false) = true ∧ (aCopy true).started = true ∧ (aCopy true).ended = false ∧
      (aCopy true).outSeg = none ∧ placesOf (withOp (aCopy true) one) (aCopy true) = true) ∧
    ((gatherPkt 3 2 1).type = 3 ∧ (gatherPkt 4 2 1).type = 4 ∧
      (withOp (anOp (gatherPkt 4 2 1) false false 0) one).mayStart (anOp (gatherPkt 4 2 1) false false 0) = true ∧
      rowsOp.rows.find? (fun x => x.1 == 0) = some (0, 1) ∧ firstOfSource (gNsrc rowsOp.pkt) 0 rowsOp.rows = true) ∧
    ((collPkt 0x30000).type = 5 ∧ (withOp (anOp (collPkt 0x30000) false false 0) one).mayStart (anOp (collPkt 0x30000) false false 0) = true ∧
      one.orderOk (waitPkt (2 ^ 32 - 1)) = true ∧
      ((sget (0 : Half) (one.core (wCore (waitPkt (2 ^ 32 - 1)))).xfdone (wCh (waitPkt (2 ^ 32 - 1)))) - (wId (waitPkt (2 ^ 32 - 1)) + 1)).toNat < 2 ^ 31 ∧
      sget (0 : Half) (one.core (markPkt 0x30000).ncore).xfdone (markPkt 0).channel = (markPkt 0x30000).xid ∧
      (anOp (waitPkt 0) true true 0).ended = true ∧ (anOp (waitPkt 0) true true 0).completed = false) ∧
    ((aColl [(0, 0), (1, 1)] [0, 1]).live = true ∧
      one.localMembers (aColl [(0, 0), (1, 1)] [0, 1]) ≤ (aColl [(0, 0), (1, 1)] [0, 1]).posted.length ∧
      (∀ m ∈ (aColl [(0, 0), (1, 1)] [0, 1]).members, ¬ (one.fab.lostPeers.contains (m / 1024 % 1024) = true ∧
        m / 1024 ≠ one.pkg.devId.toNat))) := by
  refine ⟨?_, ?_, ?_, ?_, ?_⟩ <;> decide +kernel

theorem witness_EnginesMemoryAndPackageComplete_memory :
    (one.requestOk 1031 0x30000 .engineRead = true ∧ one.requestOk 1023 0x30000 .load = true) ∧
    (0x8 % (64 / 8) = 0 ∧ (∀ pa key, Place.spad 0 8 ≠ .mem pa 0 key) ∧
      ((withLines one).placeOf ⟨0, true, 0⟩ .atomic false (localBase + 8)).toOption = some (.spad 0 8)) ∧
    (({ one with reqs := [aRequest] } : State).reqs[0]? = some aRequest ∧ ∀ r ∈ [aRequest].take 0, r.pa / 128 ≠ aRequest.pa / 128) ∧
    (one.deviceMem (0x600 * 128) = true ∧ one.tileAt (0x600 * 128) = none ∧ 127 / 16 ≠ home (0x600 * 128) / 16 ∧
      (one.die (127 / 16)).lost = false ∧ firstLeaf one 0x30000 = true) ∧
    (verify emptyObject = 0 ∧ loadCode (withPool 0 one) 0 = 0 ∧ (withPool 0 one).referenced 1 = false) ∧
    (flying[0]? = some ⟨0, 1, 4, 7, 0, 0⟩ ∧ (∀ g ∈ flying.take 0, ¬ (g.src = 0 ∧ g.core = 1 ∧ g.port = 4)) ∧
      ((one.modCore 0 fun x => { x with count0 := 1 }).core 0).count0 = sget (0 : Half) (one.core 1).seen 0 + 1) ∧
    (domWaitUp ((one.putDomain 0 1 (2 ^ 132)).domain 0 1) = true ∧
      ((withDom 1 2 0 one).writePa 0x40000 64 (2 * 2 ^ 320)).domExists 0 1 = true) ∧
    (((waits (.group 0 0 0) false one).slot 0 0).any (fun sl => sl.hold.any fun h => windowed h.w) = true ∧
      one.waitOver 0 (placeSlot 0) (.group 0 0 0) = true) ∧
    ((one.clus 0).regs.length < 256 ∧ (one.slot 0 0).isSome = true ∧ (withRing one).holderNow 0 = some 0) := by
  refine ⟨?_, ⟨?_, fun pa key h => (by cases h), ?_⟩, ?_, ?_, ?_, ?_, ?_, ?_, ?_⟩ <;> decide +kernel

theorem witness_EnginesMemoryAndPackageComplete_package :
    (((sending (.streaming 1)).core 0).ring = some (aRing (.streaming 1)) ∧ (1 : Nat) ≤ one.now ∧ (aRing (.streaming 1)).fin ≤ one.now) ∧
    (((onCore (fun x => { x with mst := [aStore] }) one).core 0).mst[0]? = some aStore ∧
      (one.core 0).lastMma + 13000 ≤ ({ one with now := 2 ^ 40 } : State).now) ∧
    (holderOf 0x40040 ≠ 0 ∧ sget 0 (one.core 0).owner 12287 = 0 ∧ ((withLines one).core 0).allocated 1 = true) ∧
    (let s := onCore (fun x => { x with bind := [(8, ⟨0, 0, 0x40040, 0, 0, 0⟩)] }) one
     ((s.core 0).binding 8).staged ≠ 0 ∧ ((s.core 0).binding 8).holder = 0 ∧
      routeOk 0 ((0x3F : Word).setWidth 8) (((0x3F : Word) >>> 8).setWidth 8) = true) ∧
    (one.pkg.running = true ∧ (∀ x ∈ [95, 40], x ≤ 95) ∧ one.pkg.stopped = false ∧ one.pkg.recovery = false ∧ one.pkg.cxlUp = true ∧
      (2 ^ 48 - 2048) + 2048 ≤ 2 ^ 48 ∧ (one.die 9).lost = false) ∧
    (errorAt one (.memory 0x30000) (unitOfPa 0x30000) ∧ errorAt one (.recordLine 0x30000) (unitOfPa 0x30000) ∧
      errorAt one (.cleanLine 0x30000) (home 0x30000 / 16) ∧ errorAt (withLines one) (.scratch 0 1) 0 ∧
      errorAt one (.register 0 0 31) 0 ∧ errorAt one (.matrixAcc 5) (dieOf 5) ∧ errorAt one (.dieState 7) 7 ∧
      errorAt one (.transEntry 2 0) 2 ∧ errorAt one (.paramEntry 3 0) 3 ∧ errorAt one (.pageEntry 4 0 0) 4) ∧
    (one.region 0x000E000000000000 = some .host ∧ one.deviceMem 0x30000 = true ∧
      pod.isPeer (0x0001000000000000 + 5 * 2 ^ 41) = true ∧ pod.fab.members.contains 5 = true ∧ pod.fab.lostPeers.contains 5 = false ∧
      5 ≠ pod.pkg.devId.toNat % 1024) := by
  unfold errorAt
  refine ⟨?_, ?_, ?_, ?_, ?_, ?_, ?_⟩ <;> decide +kernel

/-! ## What the encoding refuses: one ill-formed term for each check (R22 step 3, R40) -/

theorem test_literal_needs_a_lone_pair :
    firstBad false (.add (.s 1) (.s 2) .lit) = some 2 ∧ wf true (.add (.s 1) (.s 2) .lit) = true ∧
    firstBad false (.vadd (.v 1) .lit (.v 2)) = some 1 := by decide

theorem test_ports_have_one_direction :
    firstBad true (.callr .z (.q 1)) = some 1 ∧ wf false (.callr .z (.q 4)) = true ∧ firstBad false (.qstat (.q 0) 0) = some 0 ∧
    firstBad false (.add (.q 1) (.s 1) (.s 2)) = none ∧ firstBad false (.add (.q 6) (.s 1) (.s 2)) = some 0 := by decide

theorem test_creation_literals :
    firstBad false (.spawn (.s 1) (.s 2) (.s 3) ⟨true, none, 0, none⟩) = some 3 ∧
    firstBad true (.spawn (.s 1) (.s 2) (.s 3) ⟨false, some 0, 0, none⟩) = some 3 ∧
    wf true (.spawn (.s 1) (.s 2) (.s 3) ⟨true, some 7, 4, some 31⟩) = true := by decide

theorem test_levels_start_at_one :
    firstBad false (.parrive (.s 1) 0) = some 1 ∧ firstBad false (.pwait 0 (.s 1)) = some 1 ∧
    firstBad false (.oarr (.s 1) 0 (.s 2)) = some 1 ∧ firstBad false (.owait 0 (.s 2)) = some 1 ∧ wf false (.phase 0) = true := by
  decide

theorem test_atomic_attributes :
    firstBad true (.amoAdd .w64 (.nr (.s 1) (.s 2)) (some ⟨.unpaired, .acq, 2⟩)) = some 3 ∧
    firstBad true (.amoAdd .w64 (.ret (.s 1) (.s 2) (.s 3)) (some ⟨.commutative, .acq, 2⟩)) = some 3 ∧
    firstBad true (.amoSwap .w64 (.s 1) (.s 2) (.s 3) (some ⟨.quantum, .rlx, 2⟩)) = some 3 ∧
    firstBad false (.amoSwap .w64 (.s 1) (.s 2) (.s 3) (some ⟨.speculative, .rlx, 2⟩)) = some 3 ∧
    wf true (.amoSwap .w64 (.s 1) (.s 2) (.s 3) (some ⟨.speculative, .rlx, 2⟩)) = true := by decide

theorem test_tags_csrs_rings_and_layouts :
    firstBad false (.vld (.v 1) (.s 2) 17) = some 2 ∧ wf false (.vld (.v 1) (.s 2) 16) = true ∧
    firstBad false (.vlds (.v 1) 0 28) = some 2 ∧ firstBad false (.vsts .lane 0) = some 0 ∧
    firstBad false (.csrr (.s 1) 2) = some 1 ∧ firstBad false (.csrw 0 (.s 1)) = some 1 ∧ wf false (.csrr (.s 1) 0) = true ∧
    firstBad false (.mring 0) = some 1 ∧ firstBad false (.mst 0 (.s 1) ⟨0, 0⟩) = some 2 ∧ wf false (.mst 0 (.s 1) ⟨1, 0⟩) = true := by
  decide

theorem test_vector_types_come_from_a_register :
    firstBad true (.vadd (.v 1) .z .lit) = some 1 ∧ firstBad false (.vadd (.v 1) .z .lane) = some 1 ∧
    wf false (.vadd (.v 1) .z .la) = true := by decide

/-- The words do not decode, for this reason. -/
def refuses (c a : Half) (r : Reject) : Bool := match decodePair c a with | .error x => x == r | .ok _ => false

-- opcode 0x1FE is in no table; an A-class instruction in the C-slot; jmpr's B field is zero, and 1 stands in it
theorem test_words_refused :
    refuses 0b0_000_0_011100110_000000_000000_000000 0b0_000_0_111111110_000000_000000_000000 (.illop true 0x1FE) = true ∧
    refuses 0b0_000_0_100000000_000001_000010_000011 0b0_000_0_111111111_000000_000000_000000 (.illpair false) = true ∧
    refuses 0b0_000_0_000001010_000000_011111_000001 0b0_000_0_111111111_000000_000000_000000 (.illopnd false 2) = true := by
  decide

/-! ## What instructions compute (values worked out from the manual's tables) -/

/-- The result that an instruction leaves owed, for a = s2, b = s3. -/
def owed (i : Instr) (s : State) : Option Pending :=
  match exec i (mid s) with
  | .next t => t.cur.bind fun sl => sl.pending.getLast?
  | _ => none
/-- A scalar result and its flags. -/
def scalarOf (i : SDst → SSrc → SSrc → Instr) (a b : Word) : Option (Word × Byte) :=
  (owed (i (.s 1) (.s 2) (.s 3)) (withS [(2, a), (3, b)] one)).map fun p => (p.val.setWidth 64, p.flags)
def immOf (i : SDst → SSrc → BitVec 6 → Instr) (a : Word) (m : BitVec 6) : Option Word :=
  (owed (i (.s 1) (.s 2) m) (withS [(2, a)] one)).map fun p => p.val.setWidth 64

theorem test_scalar_arithmetic :
    scalarOf .sub 3 5 = some (0xFFFFFFFFFFFFFFFE, 0) ∧ scalarOf .mulhS (-1) (-1) = some (0, 0) ∧
    scalarOf .mulhN (-1) (-1) = some (0xFFFFFFFFFFFFFFFE, 0) ∧ scalarOf .divS (-7) 2 = some (0xFFFFFFFFFFFFFFFD, 0) ∧
    scalarOf .remS (-7) 2 = some (-1, 0) ∧ scalarOf .divN 7 0 = some (-1, 0x80) ∧ scalarOf .remN 7 0 = some (7, 0x80) ∧
    scalarOf .divS 0x8000000000000000 (-1) = some (0x8000000000000000, 0) ∧
    scalarOf .remS 0x8000000000000000 (-1) = some (0, 0) := by decide

theorem test_scalar_shifts_and_narrow :
    scalarOf .sar (-7) 1 = some (-4, 0) ∧ scalarOf .shl 1 0x7F = some (0x8000000000000000, 0) ∧
    scalarOf .rot 0x8000000000000001 1 = some (3, 0) ∧ scalarOf .rot 5 64 = some (5, 0) ∧
    scalarOf .lea 0x00FFFFFFFFFFFFFF 2 = some (1, 0) ∧ scalarOf .sext 0x80 8 = some (0xFFFFFFFFFFFFFF80, 0) ∧
    scalarOf .sext 0x80 0 = some (0x80, 0) ∧ scalarOf .zext 0x1FF 8 = some (0xFF, 0) ∧
    scalarOf .add32 0x7FFFFFFF 1 = some (0xFFFFFFFF80000000, 0) ∧ scalarOf .andn 0xFF 0x0F = some (0xF0, 0) ∧
    scalarOf .minS (-1) 1 = some (-1, 0) ∧ scalarOf .minN (-1) 1 = some (1, 0) ∧ scalarOf .setLt (-1) 0 = some (1, 0) ∧
    scalarOf .setLtn (-1) 0 = some (0, 0) := by decide

theorem test_scalar_immediates :
    immOf .addi 5 0x3F = some 4 ∧ immOf .andi 0xFF 0x20 = some 0xE0 ∧ immOf .shli 1 0x3F = some 0x8000000000000000 ∧
    immOf .sari 0x8000000000000000 0x3F = some (-1) := by decide

/-- n copies of an element of width e. -/
def rep (e x : Nat) : Vec := BitVec.ofNat 2048 ((List.range (2048 / e)).foldl (fun v i => v + x * 2 ^ (e * i)) 0)
/-- Element 0 of the vector result of A = v2 and B = v3 of one tag, D = v1 before, and its flags. -/
def vecOf (i : VDst → VSrc → VSrc → Instr) (t : Tag) (e a b d : Nat) : Option (Nat × Byte) :=
  (owed (i (.v 1) (.v 2) (.v 3)) (withV [(1, t, rep e d), (2, t, rep e a), (3, t, rep e b)] one)).map fun p =>
    ((p.val.toNat / 2 ^ (2048 - e)), p.flags)

theorem test_vector_integers :
    vecOf .vadd 1 8 0xFF 2 0 = some (1, 0) ∧ vecOf .vmulh 3 16 0xFFFF 0xFFFF 0 = some (0, 0) ∧
    vecOf .vmulh 4 16 0xFFFF 0xFFFF 0 = some (0xFFFE, 0) ∧ vecOf .vsar 6 32 0x80000000 32 0 = some (0xFFFFFFFF, 0) ∧
    vecOf .vshl 5 32 1 32 0 = some (0, 0) ∧ vecOf .vmin 7 64 (2 ^ 64 - 1) 1 0 = some (2 ^ 64 - 1, 0) ∧
    vecOf .vmad 5 32 3 4 5 = some (17, 0) := by decide +kernel

theorem test_vector_floats :
    -- 1 + 2^-24 ties to 1 and is inexact; 1.5 × 1.5 = 2.25; 1 / 0 is +∞ and DZ; +∞ − +∞ is the canonical NaN and NV
    vecOf .fadd 10 32 0x3F800000 0x33800000 0 = some (0x3F800000, 0x10) ∧
    vecOf .fmul 10 32 0x3FC00000 0x3FC00000 0 = some (0x40100000, 0) ∧
    vecOf .fdiv 10 32 0x3F800000 0 0 = some (0x7F800000, 0x02) ∧
    vecOf .fsub 10 32 0x7F800000 0x7F800000 0 = some (0x7FC00000, 0x01) ∧
    vecOf .fma 9 64 0x4000000000000000 0x4008000000000000 0x3FF0000000000000 = some (0x401C000000000000, 0) := by
  decide +kernel

/-- Element 0 of the conversion of A = v2 of tag t and width e to a destination tag and width. -/
def cvtOf (t : Tag) (e a : Nat) (tag : Tag) (f : Nat) : Option (Nat × Byte) :=
  (owed (.cvt (.v 1) (.v 2) (.s 3)) (withS [(3, tag.setWidth 64)] (withV [(2, t, rep e a)] one))).map fun p =>
    (p.val.toNat % 2 ^ f, p.flags)

-- 1 + 2^-8 ties to the even bf16 1.0; 2.5 goes to 2; −1 saturates as a natural number
theorem test_conversions :
    cvtOf 10 32 0x3F808000 12 16 = some (0x3F80, 0x10) ∧ cvtOf 10 32 0x40200000 5 32 = some (2, 0x10) ∧
    cvtOf 11 16 0x3C00 10 32 = some (0x3F800000, 0) ∧ cvtOf 5 32 7 10 32 = some (0x40E00000, 0) := by decide +kernel

/-- The scalar that a reduction of v2 gives. -/
def redOf (i : SDst → VSrc → Instr) (t : Tag) (e a : Nat) : Option (Word × Byte) :=
  (owed (i (.s 1) (.v 2)) (withV [(2, t, rep e a)] one)).map fun p => (p.val.setWidth 64, p.flags)

-- 64 × 2.0 = 128.0; 128 × (−1) = −128; the AND of equal elements
theorem test_reductions :
    redOf .fredAdd 10 32 0x40000000 = some (0x43000000, 0) ∧ redOf .vredAdd 3 16 0xFFFF = some (0xFFFFFFFFFFFFFF80, 0) ∧
    redOf .vredAnd 2 8 0x5A = some (0x5A, 0) := by decide +kernel

/-! ## One step from reset (R18-R22, R169, R175, R259) -/

/-- The state after the first step with these words at the pc. -/
def stepped (c a : Half) : Option State :=
  match step (State.reset.withFetchWord 64 (c.toNat + a.toNat * 2 ^ 32)) with
  | .next t => some t
  | _ => none

-- nop || add s1, z, z: the pc passes the pair, and s1 is owed
theorem test_step_runs_a_pair :
    ((stepped 0b0_000_0_011100110_000000_000000_000000 0b0_000_0_100000000_000001_101010_101010).bind fun t =>
      (t.slot 0 0).map fun sl => (sl.pc, sl.pending.map Pending.dst)) = some (BitVec.ofNat 64 placeCode + 8, [.s 1]) := by
  decide +kernel

-- br -2 || nop: pc + 8 × (−2)
theorem test_step_branches :
    ((stepped 0b0_000_0_000000000_111111_111111_111110 0b0_000_0_111111111_000000_000000_000000).bind fun t =>
      (t.slot 0 0).map fun sl => sl.pc) = some (BitVec.ofNat 64 placeCode - 16) := by decide +kernel

end Sys2Proof.Tests
end

section
/-!
PROOFS. Operand codes, the codes within a literal, and the fields of a word: each reads exactly its own codes.
-/
namespace Sys2Proof

/-! ## Operand codes (R23, R24, R29) -/

theorem SSrc.dec_eq_some {c : Nat} {x : SSrc} : SSrc.dec c = some x ↔ x.enc = c := by
  constructor
  · unfold SSrc.dec
    split_ifs <;> rintro ⟨⟩ <;> simp only [SSrc.enc] <;> omega
  · rintro rfl
    cases x <;> grind [SSrc.enc, SSrc.dec]

theorem SDst.dec_eq_some {c : Nat} {x : SDst} : SDst.dec c = some x ↔ x.enc = c := by
  constructor
  · unfold SDst.dec
    split_ifs <;> rintro ⟨⟩ <;> simp only [SDst.enc] <;> omega
  · rintro rfl
    cases x <;> grind [SDst.enc, SDst.dec]

theorem SAcc.dec_eq_some {c : Nat} {x : SAcc} : SAcc.dec c = some x ↔ x.enc = c := by
  constructor
  · unfold SAcc.dec
    split_ifs <;> rintro ⟨⟩
    · rfl
    · simp only [SAcc.enc]; omega
  · rintro rfl
    cases x <;> grind [SAcc.enc, SAcc.dec]

theorem VSrc.dec_eq_some {c : Nat} {x : VSrc} : VSrc.dec c = some x ↔ x.enc = c := by
  constructor
  · unfold VSrc.dec
    split_ifs <;> rintro ⟨⟩ <;> simp only [VSrc.enc] <;> omega
  · rintro rfl
    cases x <;> grind [VSrc.enc, VSrc.dec]

theorem VDst.dec_eq_some {c : Nat} {x : VDst} : VDst.dec c = some x ↔ x.enc = c := by
  constructor
  · unfold VDst.dec
    split_ifs <;> rintro ⟨⟩ <;> simp only [VDst.enc] <;> omega
  · rintro rfl
    cases x <;> grind [VDst.enc, VDst.dec]

theorem VPair.dec_eq_some {c : Nat} {x : VPair} : VPair.dec c = some x ↔ x.enc = c := by
  constructor
  · unfold VPair.dec
    split_ifs <;> rintro ⟨⟩ <;> simp only [VPair.enc] <;> omega
  · rintro rfl
    cases x <;> grind [VPair.enc, VPair.dec]

theorem FenceKind.dec_eq_some {c : Nat} {x : FenceKind} : FenceKind.dec c = some x ↔ x.code = c := by
  unfold FenceKind.dec
  split <;> cases x <;> simp_all [FenceKind.code, eq_comm]

theorem AUse.dec_eq_some {c : Nat} {x : AUse} : AUse.dec c = some x ↔ x.code = c := by
  unfold AUse.dec
  split <;> cases x <;> simp_all [AUse.code, eq_comm]

theorem AOrder.dec_eq_some {c : Nat} {x : AOrder} : AOrder.dec c = some x ↔ x.code = c := by
  unfold AOrder.dec
  split <;> cases x <;> simp_all [AOrder.code, eq_comm]

/-! ## Fields -/

/-- What a sequence of field checks accepts. -/
@[simp] theorem bind_eq_ok {ε α β : Type} {e : Except ε α} {f : α → Except ε β} {b : β} :
    (e >>= f) = .ok b ↔ ∃ a, e = .ok a ∧ f a = .ok b := by
  cases e with
  | error x => simp [bind, Except.bind]
  | ok a => simp [bind, Except.bind]

@[simp] theorem pure_eq_ok {ε α : Type} {a b : α} : (pure a : Except ε α) = .ok b ↔ a = b := by
  simp [pure, Except.pure]

@[simp] theorem zeroF_eq_ok {f x : Nat} {u : Unit} : zeroF f x = .ok u ↔ x = 0 := by
  unfold zeroF; split <;> simp_all
@[simp] theorem unary_eq_ok {b : Nat} {u : Unit} : unary b = .ok u ↔ b = 42 := by
  unfold unary; split <;> simp_all
@[simp] theorem ssrc_eq_ok {f c : Nat} {x : SSrc} : ssrc f c = .ok x ↔ x.enc = c := by
  rw [← SSrc.dec_eq_some]; unfold ssrc; split <;> simp_all
@[simp] theorem sdst_eq_ok {f c : Nat} {x : SDst} : sdst f c = .ok x ↔ x.enc = c := by
  rw [← SDst.dec_eq_some]; unfold sdst; split <;> simp_all
@[simp] theorem sacc_eq_ok {f c : Nat} {x : SAcc} : sacc f c = .ok x ↔ x.enc = c := by
  rw [← SAcc.dec_eq_some]; unfold sacc; split <;> simp_all
@[simp] theorem vsrc_eq_ok {f c : Nat} {x : VSrc} : vsrc f c = .ok x ↔ x.enc = c := by
  rw [← VSrc.dec_eq_some]; unfold vsrc; split <;> simp_all
@[simp] theorem vdst_eq_ok {f c : Nat} {x : VDst} : vdst f c = .ok x ↔ x.enc = c := by
  rw [← VDst.dec_eq_some]; unfold vdst; split <;> simp_all
@[simp] theorem vpair_eq_ok {f c : Nat} {x : VPair} : vpair f c = .ok x ↔ x.enc = c := by
  rw [← VPair.dec_eq_some]; unfold vpair; split <;> simp_all

@[simp] theorem fin_eq_ok {n f x : Nat} {y : Fin n} : fin n f x = .ok y ↔ y.val = x := by
  unfold fin
  split
  · simp [Fin.ext_iff, eq_comm]
  · next h => simp; rintro rfl; exact h y.isLt

@[simp] theorem even_eq_ok {f c : Nat} {g : Fin 16} : even f c = .ok g ↔ 2 * g.val = c := by
  unfold even
  split
  · simp [Fin.ext_iff]; omega
  · simp; omega

@[simp] theorem tagF_eq_ok {b : Nat} {t : Tag} : tagF b = .ok t ↔ t.toNat = b := by
  unfold tagF
  split
  · simp [BitVec.toNat_eq]; omega
  · simp; omega

@[simp] theorem chan_eq_ok {a : Nat} {n : Fin 8} : chan a = .ok n ↔ 8 + n.val = a := by
  unfold chan
  split
  · simp [Fin.ext_iff]; omega
  · simp; omega

@[simp] theorem zeroTag_eq_ok {b : Nat} {z : Bool} : zeroTag b = .ok z ↔ (if z then 5 else 10) = b := by
  unfold zeroTag
  split_ifs <;> simp_all <;> omega

@[simp] theorem layout_eq_ok {b : Nat} {l : TileLayout} : layout b = .ok l ↔ l.enc = b := by
  obtain ⟨⟨f, hf⟩, ⟨r, hr⟩⟩ := l
  unfold layout TileLayout.enc
  split
  · simp; omega
  · simp; omega

/-! ## Offsets and numbers (R33, R182, R185) -/

theorem mkOff_off (o : BitVec 18) : mkOff (offD o) (offA o) (offB o) = o := by
  apply BitVec.eq_of_toNat_eq
  simp only [mkOff, offD, offA, offB, BitVec.toNat_ofNat]
  omega

theorem off_mkOff {d a b : Nat} (hd : d < 64) (ha : a < 64) (hb : b < 64) :
    offD (mkOff d a b) = d ∧ offA (mkOff d a b) = a ∧ offB (mkOff d a b) = b := by
  simp only [mkOff, offD, offA, offB, BitVec.toNat_ofNat]
  omega

theorem mkNum_parts (n : BitVec 12) : mkNum (n.toNat / 64) (n.toNat % 64) = n := by
  apply BitVec.eq_of_toNat_eq
  simp only [mkNum, BitVec.toNat_ofNat]
  omega

theorem parts_mkNum {a b : Nat} (ha : a < 64) (hb : b < 64) :
    (mkNum a b).toNat / 64 = a ∧ (mkNum a b).toNat % 64 = b := by
  simp only [mkNum, BitVec.toNat_ofNat]
  omega

/-! ## Literals (Tables Instruction-8 and Task-2) -/

theorem AUse.code_le (u : AUse) : u.code ≤ 4 := by cases u <;> decide
theorem AOrder.code_le (o : AOrder) : o.code ≤ 4 := by cases o <;> decide
theorem FenceKind.code_le (k : FenceKind) : k.code ≤ 3 := by cases k <;> decide

/-- A lone atomic's literal is read exactly as the USE, ORDER and SCOPE that it encodes; a normal pair has none. -/
@[simp] theorem attr_eq_ok {lit : Option Half} {x : Option AAttr} :
    attr lit = .ok x ↔ lit = x.map fun y => BitVec.ofNat 32 y.enc := by
  cases lit with
  | none => cases x <;> simp [attr]
  | some l =>
    constructor
    · intro h
      simp only [attr] at h
      split_ifs at h with hl
      split at h
      · next u o hu ho =>
        cases h
        rw [AUse.dec_eq_some] at hu
        rw [AOrder.dec_eq_some] at ho
        simp only [Option.map_some, AAttr.enc, hu, ho, Option.some.injEq]
        apply BitVec.eq_of_toNat_eq
        rw [BitVec.toNat_ofNat]
        omega
      · cases h
    · intro h
      obtain ⟨⟨u, o, sc⟩, rfl, hl⟩ := Option.map_eq_some_iff.1 h.symm
      subst hl
      have hu := u.code_le
      have ho := o.code_le
      have hn : (BitVec.ofNat 32 (AAttr.enc ⟨u, o, sc⟩)).toNat = 128 * u.code + 16 * o.code + sc.val := by
        simp only [AAttr.enc, BitVec.toNat_ofNat]; omega
      have hu' := AUse.dec_eq_some.2 (show u.code = (128 * u.code + 16 * o.code + sc.val) / 128 % 8 by omega)
      have ho' := AOrder.dec_eq_some.2 (show o.code = (128 * u.code + 16 * o.code + sc.val) / 16 % 8 by omega)
      simp only [attr, hn, hu', ho']
      rw [if_neg (by omega)]
      simp [Fin.ext_iff]
      omega

theorem attr_none_eq_ok {x : Option AAttr} : attr none = .ok x ↔ x = none := by cases x <;> simp
theorem attr_some_eq_ok {l : Half} {x : Option AAttr} :
    attr (some l) = .ok x ↔ ∃ y, some y = x ∧ BitVec.ofNat 32 y.enc = l := by
  cases x with
  | none => simp
  | some y => simp; exact eq_comm

/-- The fields of a creation literal (Table Task-2). -/
theorem Creation.enc_fields (c : Creation) :
    c.enc < 32768 ∧ c.enc / 16384 % 2 = c.matrix.toNat ∧ c.enc / 2048 % 8 = c.dlevel.elim 0 Fin.val ∧
      c.enc / 512 % 4 = c.dlevel.isSome.toNat ∧ c.enc / 64 % 8 = c.gang.val ∧ c.enc / 32 % 2 = c.prio.isSome.toNat ∧
      c.enc % 32 = c.prio.elim 0 Fin.val := by
  obtain ⟨m, dl, g, pr⟩ := c
  cases m <;> cases dl <;> cases pr <;>
    simp only [Creation.enc, Bool.toNat_true, Bool.toNat_false, Option.elim, Option.isSome, if_true, Bool.false_eq_true,
      if_false] <;> omega

/-- The creation literal is read exactly as the creation that it encodes. -/
@[simp] theorem creation_eq_ok {lit : Option Half} {c : Creation} :
    creation lit = .ok c ↔ lit.getD 0 = BitVec.ofNat 32 c.enc := by
  obtain ⟨hlt, hm, hd, hds, hg, hp, hps⟩ := c.enc_fields
  have hmod : c.enc % 2 ^ 32 = c.enc := Nat.mod_eq_of_lt (hlt.trans (by norm_num))
  rw [BitVec.toNat_eq, BitVec.toNat_ofNat, hmod]
  simp only [creation]
  constructor
  · intro h
    split_ifs at h <;> cases h <;> simp only [Creation.enc, decide_eq_true_eq] <;> split_ifs <;> omega
  · intro h
    have hgl := c.gang.isLt
    simp only [h, hm, hd, hds, hg, hp, hps]
    rw [if_neg (by omega), dif_neg (by omega)]
    obtain ⟨m, dl, ⟨g, _⟩, pr⟩ := c
    cases m <;> cases dl <;> cases pr <;> simp

/-- A fence in a normal pair has kind and scope in A and B; a lone one has both in its literal (R39). -/
@[simp] theorem fenceForm_eq_ok {lit : Option Half} {d a b : Nat} {i : Instr} :
    fenceForm lit d a b = .ok i ↔ ∃ k sc, Instr.fence k sc = i ∧ d = 0 ∧ match lit with
      | none => k.code = a ∧ sc.val = b
      | some l => a = 0 ∧ b = 0 ∧ l = BitVec.ofNat 32 (16 * (k.code + 1) + sc.val) := by
  cases lit with
  | none =>
    simp only [fenceForm, bind_eq_ok, zeroF_eq_ok, ← FenceKind.dec_eq_some]
    cases FenceKind.dec a with
    | none => simp
    | some k =>
      simp only [bind_eq_ok, pure_eq_ok, fin_eq_ok, Option.some.injEq]
      constructor
      · rintro ⟨-, rfl, sc, hb, rfl⟩
        exact ⟨k, sc, rfl, rfl, rfl, hb⟩
      · rintro ⟨_, sc, rfl, hd, rfl, hb⟩
        exact ⟨(), hd, sc, hb, rfl⟩
  | some l =>
    simp only [fenceForm, bind_eq_ok, zeroF_eq_ok]
    constructor
    · rintro ⟨-, rfl, -, rfl, -, rfl, h⟩
      split_ifs at h with hl
      · cases h
      split at h
      · cases h
      · split at h
        · next x hx =>
          rw [FenceKind.dec_eq_some] at hx
          cases h
          refine ⟨x, _, rfl, rfl, rfl, rfl, BitVec.eq_of_toNat_eq ?_⟩
          simp only [BitVec.toNat_ofNat]
          omega
        · cases h
    · rintro ⟨k, sc, rfl, rfl, rfl, rfl, rfl⟩
      have hk := k.code_le
      have hn : (BitVec.ofNat 32 (16 * (k.code + 1) + sc.val)).toNat = 16 * (k.code + 1) + sc.val := by
        simp only [BitVec.toNat_ofNat]; omega
      have hq : (16 * (k.code + 1) + sc.val) / 16 = k.code + 1 := by omega
      refine ⟨(), rfl, (), rfl, (), rfl, ?_⟩
      simp only [hn, hq, FenceKind.dec_eq_some.2 rfl]
      rw [if_neg (by omega)]
      simp [Fin.ext_iff]

end Sys2Proof
end

section
/-!
PROOFS. The opcode map from words to instructions: what a word's fields decode to has those fields (R36-R42).
-/
namespace Sys2Proof
open Sys2Proof.Machine

/-- The fields op, D, A and B, with LIT in a lone pair, stand for `i`: they are its own, and so is the literal. -/
def EncodedBy (i : Instr) (op d a b : Nat) (lit : Option Half) : Prop :=
  fields lit.isSome i = some (op, d, a, b) ∧ ∀ l, lit = some l → litOf i l = l

section
variable {op d a b : Nat} {lit : Option Half} {i : Instr}

theorem encodedBy_of_decScalar (hb : b < 64) (h : decScalar op d a b = .ok i) : EncodedBy i op d a b lit := by
  revert h
  unfold decScalar
  split <;>
    simp only [sss, ssz, ssi, bind_eq_ok, pure_eq_ok, sdst_eq_ok, ssrc_eq_ok, unary_eq_ok, zeroF_eq_ok, fin_eq_ok,
      forall_exists_index, and_imp, reduceCtorEq, false_imp_iff] <;>
    intros <;> subst_vars <;>
    exact ⟨by change some (_, _, _, _) = _; simp only [BitVec.toNat_ofNat, Nat.mod_eq_of_lt hb], fun _ _ => rfl⟩

theorem encodedBy_of_decVector (h : decVector op d a b = .ok i) : EncodedBy i op d a b lit := by
  revert h
  unfold decVector
  split <;>
    simp only [vvv, vvz, pvv, vvs, bind_eq_ok, pure_eq_ok, vdst_eq_ok, vsrc_eq_ok, vpair_eq_ok, ssrc_eq_ok, unary_eq_ok,
      fin_eq_ok, forall_exists_index, and_imp, reduceCtorEq, false_imp_iff] <;>
    intros <;> subst_vars <;>
    exact ⟨rfl, fun _ _ => rfl⟩

theorem encodedBy_of_decMove (h : decMove op d a b = .ok i) : EncodedBy i op d a b lit := by
  revert h
  unfold decMove
  split <;>
    simp only [vvv, vvz, vvs, svz, bind_eq_ok, pure_eq_ok, vdst_eq_ok, vsrc_eq_ok, sdst_eq_ok, ssrc_eq_ok, unary_eq_ok,
      zeroF_eq_ok, zeroTag_eq_ok, layout_eq_ok, fin_eq_ok, forall_exists_index, and_imp, reduceCtorEq, false_imp_iff] <;>
    intros <;> subst_vars <;>
    exact ⟨rfl, fun _ _ => rfl⟩

theorem encodedBy_of_decMem (hb : b < 64) (h : decMem op d a b = .ok i) : EncodedBy i op d a b lit := by
  revert h
  unfold decMem
  split <;>
    simp only [sss, ssi, bind_eq_ok, pure_eq_ok, vdst_eq_ok, vsrc_eq_ok, sdst_eq_ok, ssrc_eq_ok, even_eq_ok, tagF_eq_ok,
      zeroF_eq_ok, fin_eq_ok, forall_exists_index, and_imp, reduceCtorEq, false_imp_iff] <;>
    intros <;> subst_vars <;>
    exact ⟨by
      change some (_, _, _, _) = _
      simp only [BitVec.toNat_ofNat, Nat.mod_eq_of_lt hb, LdSize.code, AcqSize.code, StSize.code, W2.code],
      fun _ _ => rfl⟩

theorem encodedBy_of_decTask (hd : d < 64) (ha : a < 64) (hb : b < 64) (h : decTask op d a b lit = .ok i) :
    EncodedBy i op d a b lit := by
  obtain ⟨hoffd, hoffa, hoffb⟩ := off_mkOff hd ha hb
  revert h
  unfold decTask
  cases lit <;> split <;>
    simp only [sss, bind_eq_ok, pure_eq_ok, sdst_eq_ok, ssrc_eq_ok, creation_eq_ok, fenceForm_eq_ok, chan_eq_ok,
      zeroF_eq_ok, fin_eq_ok, forall_exists_index, and_imp, reduceCtorEq, false_imp_iff, Except.ok.injEq,
      Option.getD_some, Option.getD_none] <;>
    intros <;> subst_vars <;>
    exact ⟨by
      change some (_, _, _, _) = _
      simp only [hoffd, hoffa, hoffb, Option.isSome, if_true, Bool.false_eq_true, if_false],
      by rintro _ ⟨⟩ <;> rfl⟩

theorem encodedBy_of_decAtomic (ha : a < 64) (hb : b < 64) (h : decAtomic op d a b lit = .ok i) :
    EncodedBy i op d a b lit := by
  obtain ⟨hnuma, hnumb⟩ := parts_mkNum ha hb
  revert h
  unfold decAtomic
  cases lit <;> split <;>
    simp only [sss, amoRet, amoNr, bind_eq_ok, pure_eq_ok, sdst_eq_ok, ssrc_eq_ok, sacc_eq_ok, even_eq_ok,
      attr_none_eq_ok, attr_some_eq_ok,
      zeroF_eq_ok, forall_exists_index, and_imp, reduceCtorEq, false_imp_iff] <;>
    intros <;> subst_vars <;>
    exact ⟨by
      change some (_, _, _, _) = _
      simp only [hnuma, hnumb, AForm.isRet, AForm.encD, AForm.encA, AForm.encB, CasForm.code, CasForm.encD,
        CasForm.encA, CasForm.encB, W2.code, FFmt.code, if_true, Bool.false_eq_true, if_false],
      by rintro _ ⟨⟩ <;> rfl⟩
end

end Sys2Proof
end

section
/-!
PROOFS. Decoding is the inverse of encoding: the fields of a well-formed instruction decode to it, form by form (Tables
Instruction-7, Instruction-10 to Instruction-13).
-/
namespace Sys2Proof
open Sys2Proof.Machine

/-! ## The forms read what they encode -/

/-- A field check that passes hands its operand on. -/
theorem bind_ok {ε α β : Type} {e : Except ε α} {x : α} {f : α → Except ε β} {r : Except ε β}
    (he : e = .ok x) (hf : f x = r) : e >>= f = r := by
  subst he; exact hf

/-- A field that must be 0 is. -/
theorem zero_ok {β : Type} {f : Nat} {k : Unit → Except Nat β} {r : Except Nat β} (h : k () = r) :
    zeroF f 0 >>= k = r := h

theorem ssrc_enc {f : Nat} {x : SSrc} : ssrc f x.enc = .ok x := ssrc_eq_ok.2 rfl
theorem sdst_enc {f : Nat} {x : SDst} : sdst f x.enc = .ok x := sdst_eq_ok.2 rfl
theorem sacc_enc {f : Nat} {x : SAcc} : sacc f x.enc = .ok x := sacc_eq_ok.2 rfl
theorem vsrc_enc {f : Nat} {x : VSrc} : vsrc f x.enc = .ok x := vsrc_eq_ok.2 rfl
theorem vdst_enc {f : Nat} {x : VDst} : vdst f x.enc = .ok x := vdst_eq_ok.2 rfl
theorem vpair_enc {f : Nat} {x : VPair} : vpair f x.enc = .ok x := vpair_eq_ok.2 rfl
theorem fin_val {n f : Nat} {x : Fin n} : fin n f x.val = .ok x := fin_eq_ok.2 rfl
theorem even_twice {f : Nat} {g : Fin 16} : even f (2 * g.val) = .ok g := even_eq_ok.2 rfl
theorem tagF_toNat {t : Tag} : tagF t.toNat = .ok t := tagF_eq_ok.2 rfl
theorem chan_add {n : Fin 8} : chan (8 + n.val) = .ok n := chan_eq_ok.2 rfl
theorem zeroTag_of {z : Bool} : zeroTag (if z then 5 else 10) = .ok z := zeroTag_eq_ok.2 rfl
theorem layout_enc {l : TileLayout} : layout l.enc = .ok l := layout_eq_ok.2 rfl

theorem imm_toNat {α : Type} {k : BitVec 6 → α} {v : BitVec 6} :
    (.ok (k (BitVec.ofNat 6 v.toNat)) : Except Nat α) = .ok (k v) := by rw [BitVec.ofNat_toNat, BitVec.setWidth_eq]
theorem off_enc {k : BitVec 18 → Instr} {o : BitVec 18} :
    (.ok (k (mkOff (offD o) (offA o) (offB o))) : Except Nat Instr) = .ok (k o) := by rw [mkOff_off]
theorem num_enc {k : BitVec 12 → Instr} {n : BitVec 12} :
    (.ok (k (mkNum (n.toNat / 64) (n.toNat % 64))) : Except Nat Instr) = .ok (k n) := by rw [mkNum_parts]

theorem numArg_enc {k : BitVec 12 → SSrc → Instr} {n : BitVec 12} {x : SSrc} :
    (.ok (k (mkNum (n.toNat / 64) (n.toNat % 64)) x) : Except Nat Instr) = .ok (k n x) := by rw [mkNum_parts]

theorem sss_enc {k : SDst → SSrc → SSrc → Instr} {d : SDst} {a b : SSrc} :
    sss k d.enc a.enc b.enc = .ok (k d a b) :=
  bind_ok sdst_enc <| bind_ok ssrc_enc <| bind_ok ssrc_enc rfl
theorem ssz_enc {k : SDst → SSrc → Instr} {d : SDst} {a : SSrc} : ssz k d.enc a.enc 42 = .ok (k d a) :=
  bind_ok sdst_enc <| bind_ok ssrc_enc rfl
theorem ssi_enc {k : SDst → SSrc → BitVec 6 → Instr} {d : SDst} {a : SSrc} {v : BitVec 6} :
    ssi k d.enc a.enc v.toNat = .ok (k d a v) :=
  bind_ok sdst_enc <| bind_ok ssrc_enc imm_toNat
theorem vvv_enc {k : VDst → VSrc → VSrc → Instr} {d : VDst} {a b : VSrc} :
    vvv k d.enc a.enc b.enc = .ok (k d a b) :=
  bind_ok vdst_enc <| bind_ok vsrc_enc <| bind_ok vsrc_enc rfl
theorem vvz_enc {k : VDst → VSrc → Instr} {d : VDst} {a : VSrc} : vvz k d.enc a.enc 42 = .ok (k d a) :=
  bind_ok vdst_enc <| bind_ok vsrc_enc rfl
theorem pvv_enc {k : PReg → VSrc → VSrc → Instr} {d : PReg} {a b : VSrc} :
    pvv k d.val a.enc b.enc = .ok (k d a b) :=
  bind_ok fin_val <| bind_ok vsrc_enc <| bind_ok vsrc_enc rfl
theorem vvs_enc {k : VDst → VSrc → SSrc → Instr} {d : VDst} {a : VSrc} {b : SSrc} :
    vvs k d.enc a.enc b.enc = .ok (k d a b) :=
  bind_ok vdst_enc <| bind_ok vsrc_enc <| bind_ok ssrc_enc rfl
theorem svz_enc {k : SDst → VSrc → Instr} {d : SDst} {a : VSrc} : svz k d.enc a.enc 42 = .ok (k d a) :=
  bind_ok sdst_enc <| bind_ok vsrc_enc rfl

/-! ## What the literal of a well-formed instruction is -/

theorem badField_of_wf {lone : Bool} {i : Instr} (h : wf lone i = true) : badField lone i = none := by
  unfold wf firstBad at h
  split at h
  · cases h
  · exact Option.isNone_iff_eq_none.1 h

/-- R36-R38: USE, ORDER and SCOPE of an atomic stand in a lone pair and nowhere else, and are its literal. -/
theorem attr_of_badField {lit : Option Half} {nr : Bool} {i : Instr} {x : Option AAttr}
    (h : (if attrOk lit.isSome nr i x then none else some 3) = none)
    (hl : ∀ y, x = some y → ∀ l, lit = some l → BitVec.ofNat 32 y.enc = l) : attr lit = .ok x := by
  rw [attr_eq_ok]
  cases lit with
  | none =>
    cases x with
    | none => rfl
    | some y => cases h
  | some l =>
    cases x with
    | none => cases h
    | some y => exact congrArg some (hl y rfl l rfl).symm

/-- R107: a creation other than the plain one stands in a lone pair, and is its literal. -/
theorem creation_of_badField {lit : Option Half} {c : Creation}
    (h : (if creationOk lit.isSome c then none else some 3) = none)
    (hl : ∀ l, lit = some l → BitVec.ofNat 32 c.enc = l) : creation lit = .ok c := by
  rw [creation_eq_ok]
  cases lit with
  | some l => exact (hl l rfl).symm
  | none =>
    split at h
    · next hok =>
      simp only [creationOk, Option.isSome_none, Bool.false_or, Bool.and_eq_true, beq_iff_eq] at hok
      rw [hok.2]; rfl
    · cases h

/-! ## The opcode map -/

section
variable {lit : Option Half}

theorem amoRet_enc {k : AForm → Option AAttr → Instr} {d : SDst} {a b : SSrc} {x : Option AAttr}
    (hx : attr lit = .ok x) : amoRet k lit d.enc a.enc b.enc = .ok (k (.ret d a b) x) :=
  bind_ok sdst_enc <| bind_ok ssrc_enc <| bind_ok ssrc_enc <| bind_ok hx rfl

theorem amoNr_enc {k : AForm → Option AAttr → Instr} {d a : SSrc} {x : Option AAttr}
    (hx : attr lit = .ok x) : amoNr k lit d.enc a.enc 0 = .ok (k (.nr d a) x) :=
  bind_ok ssrc_enc <| bind_ok ssrc_enc <| zero_ok <| bind_ok hx rfl

theorem fence_enc {k : FenceKind} {sc : Fin 16} : fenceForm none 0 k.code sc.val = .ok (.fence k sc) :=
  fenceForm_eq_ok.2 ⟨k, sc, rfl, rfl, rfl, rfl⟩

theorem loneFence_enc {l : Half} {k : FenceKind} {sc : Fin 16}
    (h : BitVec.ofNat 32 (16 * (k.code + 1) + sc.val) = l) : fenceForm (some l) 0 0 0 = .ok (.fence k sc) :=
  fenceForm_eq_ok.2 ⟨k, sc, rfl, rfl, rfl, rfl, h.symm⟩

/-- The fields and the literal of a well-formed instruction decode to it. -/
theorem decodeOp_of_encodedBy {i : Instr} {op d a b : Nat} (hwf : wf lit.isSome i = true)
    (henc : EncodedBy i op d a b lit) : decodeOp op d a b lit = .ok i := by
  obtain ⟨h, hl⟩ := henc
  replace hwf := badField_of_wf hwf
  cases i
  case br | brpAny | brpAll | brpNone | brsZ | brsNz | brsLt | brsGe | call | loop => cases h; exact off_enc
  case gfuse | cflush | cwb | cinv | tcinv | spalloc | spfree | tdecl | tundecl | tfwd | add | sub | mul | mulhS
      | mulhN | divS | divN | remS | remN | and | or | xor | andn | shl | shr | sar | rot | minS | maxS | minN
      | maxN | sel | lea | sext | zext | add32 | sub32 | mul32 | setEq | setNe | setLt | setGe | setLtn
      | setGen => cases h; exact sss_enc
  case clz | popc | mov => cases h; exact ssz_enc
  case addi | andi | ori | xori | shli | shri | sari => cases h; exact ssi_enc
  case vadd | vsub | vmul | vmulh | vand | vor | vxor | vshl | vshr | vsar | vmin | vmax | vmad | vdot | vsel
      | fadd | fsub | fmul | fma | fms | fnma | fnms | fmin | fmax | fdiv | vshuf => cases h; exact vvv_enc
  case vabs | vpopc | fabs | fneg | fsqrt | frcp | frsq | fexp2 | flog2 | fclass | vcmpr => cases h; exact vvz_enc
  case vcmpEq | vcmpNe | vcmpLt | vcmpGe | fcmpEq | fcmpLt | fcmpLe | fcmpUn => cases h; exact pvv_enc
  case cvt | vbcast | vslideUp | vslideDn | vins | vtag => cases h; exact vvs_enc
  case vredAdd | vredMin | vredMax | vredAnd | vredOr | fredAdd | fredMin | fredMax | vtagq =>
    cases h; exact svz_enc
  -- control transfer, task level and cluster
  case callr => cases h; exact zero_ok <| bind_ok sdst_enc <| bind_ok ssrc_enc rfl
  case jmpr | ret | susp | eret | mldb => cases h; exact zero_ok <| zero_ok <| bind_ok ssrc_enc rfl
  case spawn | spawnk =>
    cases h
    exact bind_ok sdst_enc <| bind_ok ssrc_enc <| bind_ok ssrc_enc <| bind_ok (creation_of_badField hwf hl) rfl
  case retire | suspon | fecl | feset => cases h; exact zero_ok <| bind_ok ssrc_enc <| bind_ok ssrc_enc rfl
  case phase | evwait | mring => cases h; exact zero_ok <| zero_ok <| bind_ok fin_val rfl
  case parrive | barr | qstat => cases h; exact zero_ok <| bind_ok sdst_enc <| bind_ok fin_val rfl
  case pwait | evsig | bwait | bmask | owait | xwait => cases h; exact zero_ok <| bind_ok fin_val <| bind_ok ssrc_enc rfl
  case gsplit | mchk => cases h; exact zero_ok <| zero_ok <| bind_ok sdst_enc rfl
  case oarr => cases h; exact bind_ok sdst_enc <| bind_ok fin_val <| bind_ok ssrc_enc rfl
  case chbind => cases h; exact bind_ok sdst_enc <| bind_ok chan_add <| bind_ok ssrc_enc rfl
  case fence k sc =>
    cases lit with
    | none => cases h; exact fence_enc
    | some l => cases h; exact loneFence_enc (hl l rfl)
  case tfence | nopC | mfence | nopA => cases h; rfl
  -- core memory
  case ld z _ _ _ => cases z <;> cases h <;> exact ssi_enc
  case ldx z _ _ _ => cases z <;> cases h <;> exact sss_enc
  case ldAcq z _ _ _ => cases z <;> cases h <;> exact bind_ok sdst_enc <| bind_ok ssrc_enc <| bind_ok fin_val rfl
  case st z _ _ _ => cases z <;> cases h <;> exact bind_ok ssrc_enc <| bind_ok ssrc_enc imm_toNat
  case stx z _ _ _ => cases z <;> cases h <;> exact bind_ok ssrc_enc <| bind_ok ssrc_enc <| bind_ok ssrc_enc rfl
  case stRel z _ _ _ => cases z <;> cases h <;> exact bind_ok ssrc_enc <| bind_ok ssrc_enc <| bind_ok fin_val rfl
  case vld | ldfeV | ldfeVc => cases h; exact bind_ok vdst_enc <| bind_ok ssrc_enc <| bind_ok tagF_toNat rfl
  case vlds => cases h; exact bind_ok vdst_enc <| bind_ok even_twice <| bind_ok tagF_toNat rfl
  case vst | stfeV => cases h; exact bind_ok vsrc_enc <| bind_ok ssrc_enc imm_toNat
  case vsts => cases h; exact zero_ok <| bind_ok vsrc_enc <| bind_ok even_twice rfl
  case vgath w _ _ _ => cases w <;> cases h <;> exact bind_ok vdst_enc <| bind_ok ssrc_enc <| bind_ok vsrc_enc rfl
  case vscat w _ _ _ => cases w <;> cases h <;> exact bind_ok vsrc_enc <| bind_ok ssrc_enc <| bind_ok vsrc_enc rfl
  case ldfe64 | ldfe64c => cases h; exact zero_ok <| bind_ok sdst_enc <| bind_ok ssrc_enc rfl
  case stfe64 => cases h; exact bind_ok ssrc_enc <| bind_ok ssrc_enc imm_toNat
  -- atomics
  case amoAdd w f _ | amoAnd w f _ | amoOr w f _ | amoXor w f _ | amoSmin w f _ | amoSmax w f _ | amoNmin w f _
      | amoNmax w f _ | famoFadd w f _ | famoFmin w f _ | famoFmax w f _ =>
    have hx := attr_of_badField hwf (by rintro y rfl; exact hl)
    cases f with
    | ret => cases w <;> cases h <;> exact amoRet_enc hx
    | nr => cases w <;> cases h <;> exact amoNr_enc hx
  case amoSwap w _ _ _ _ =>
    have hx := attr_of_badField hwf (by rintro y rfl; exact hl)
    cases w <;> cases h <;> exact bind_ok sdst_enc <| bind_ok ssrc_enc <| bind_ok ssrc_enc <| bind_ok hx rfl
  case cas f _ =>
    have hx := attr_of_badField hwf (by rintro y rfl; exact hl)
    cases f with
    | w32 | w64 => cases h; exact bind_ok sacc_enc <| bind_ok ssrc_enc <| bind_ok ssrc_enc <| bind_ok hx rfl
    | w128 => cases h; exact bind_ok even_twice <| bind_ok ssrc_enc <| bind_ok even_twice <| bind_ok hx rfl
  -- system
  case csrr => cases h; exact bind_ok sdst_enc num_enc
  case csrw | csrs | csrc => cases h; exact bind_ok ssrc_enc numArg_enc
  case trap => cases h; exact zero_ok <| num_enc
  -- predicates, conversions and moves
  case pand | por | pxor => cases h; exact bind_ok fin_val <| bind_ok fin_val <| bind_ok fin_val rfl
  case pnot => cases h; exact bind_ok fin_val <| bind_ok fin_val <| zero_ok rfl
  case pset => cases h; exact bind_ok fin_val <| bind_ok ssrc_enc <| bind_ok fin_val rfl
  case pget => cases h; exact bind_ok sdst_enc <| bind_ok fin_val <| bind_ok fin_val rfl
  case cvtq => cases h; exact bind_ok vpair_enc <| bind_ok vsrc_enc <| bind_ok ssrc_enc rfl
  case cvtdq => cases h; exact bind_ok vdst_enc <| bind_ok vpair_enc <| bind_ok ssrc_enc rfl
  case vext => cases h; exact bind_ok sdst_enc <| bind_ok vsrc_enc <| bind_ok ssrc_enc rfl
  case vlane => cases h; exact bind_ok vdst_enc <| bind_ok ssrc_enc <| bind_ok ssrc_enc rfl
  -- matrix
  case mzero => cases h; exact zero_ok <| bind_ok fin_val <| bind_ok zeroTag_of rfl
  case mlda | mband => cases h; exact zero_ok <| bind_ok fin_val <| bind_ok ssrc_enc rfl
  case mma => cases h; exact bind_ok fin_val <| bind_ok ssrc_enc <| bind_ok fin_val rfl
  case mst | mldt => cases h; exact bind_ok fin_val <| bind_ok ssrc_enc <| bind_ok layout_enc rfl
  -- the device's own steps have no fields
  all_goals cases h
end

end Sys2Proof
end

section
/-!
PROOFS. Words and pairs, both ways (R12-R17, R40): the bits of a word, what a slot's word decodes to, and the two
round trips of a pair.
-/
namespace Sys2Proof
open Sys2Proof.Machine

/-! ## The ranges of opcodes and fields -/

theorem SSrc.enc_lt (x : SSrc) : x.enc < 64 := by cases x <;> simp only [SSrc.enc] <;> omega
theorem SDst.enc_lt (x : SDst) : x.enc < 64 := by cases x <;> simp only [SDst.enc] <;> omega
theorem SAcc.enc_lt (x : SAcc) : x.enc < 64 := by cases x <;> simp only [SAcc.enc] <;> omega
theorem VSrc.enc_lt (x : VSrc) : x.enc < 64 := by cases x <;> simp only [VSrc.enc] <;> omega
theorem VDst.enc_lt (x : VDst) : x.enc < 64 := by cases x <;> simp only [VDst.enc] <;> omega
theorem VPair.enc_lt (x : VPair) : x.enc < 64 := by cases x <;> simp only [VPair.enc] <;> omega
theorem TileLayout.enc_lt (x : TileLayout) : x.enc < 64 := by unfold TileLayout.enc; omega
theorem AForm.encD_lt (f : AForm) : f.encD < 64 := by cases f <;> simp only [AForm.encD, SSrc.enc_lt, SDst.enc_lt]
theorem AForm.encA_lt (f : AForm) : f.encA < 64 := by cases f <;> simp only [AForm.encA, SSrc.enc_lt]
theorem AForm.encB_lt (f : AForm) : f.encB < 64 := by cases f <;> simp only [AForm.encB, SSrc.enc_lt, Nat.ofNat_pos]
theorem even_lt (g : Fin 16) : 2 * g.val < 64 := by omega
theorem CasForm.encD_lt (f : CasForm) : f.encD < 64 := by
  cases f <;> simp only [CasForm.encD, SAcc.enc_lt, even_lt]
theorem CasForm.encA_lt (f : CasForm) : f.encA < 64 := by cases f <;> simp only [CasForm.encA, SSrc.enc_lt]
theorem CasForm.encB_lt (f : CasForm) : f.encB < 64 := by
  cases f <;> simp only [CasForm.encB, SSrc.enc_lt, even_lt]
theorem off_lt (o : BitVec 18) : offD o < 64 ∧ offA o < 64 ∧ offB o < 64 := by
  simp only [offD, offA, offB]; omega
theorem num_lt (n : BitVec 12) : n.toNat / 64 < 64 ∧ n.toNat % 64 < 64 := by omega
theorem imm_lt (v : BitVec 6) : v.toNat < 64 := v.isLt
theorem tag_lt (t : Tag) : t.toNat < 64 := t.isLt.trans (by decide)
theorem fin_lt {n : Nat} (h : n ≤ 64) (x : Fin n) : x.val < 64 := x.isLt.trans_le h
theorem chan_lt (n : Fin 8) : 8 + n.val < 64 := by omega
theorem zeroTag_lt (z : Bool) : (if z then 5 else 10) < 64 := by cases z <;> decide
theorem fence_lt (lone : Bool) (k : FenceKind) : (if lone then 0 else k.code) < 64 := by
  have := k.code_le
  split <;> omega
theorem fenceScope_lt (lone : Bool) (s : Fin 16) : (if lone then 0 else s.val) < 64 := by
  split <;> omega

/-- The fields of an instruction fit theirs in the word. -/
theorem fields_lt {lone : Bool} {i : Instr} {op d a b : Nat} (h : fields lone i = some (op, d, a, b)) :
    d < 64 ∧ a < 64 ∧ b < 64 := by
  cases i <;> cases h <;>
    simp only [SSrc.enc_lt, SDst.enc_lt, VSrc.enc_lt, VDst.enc_lt, VPair.enc_lt, TileLayout.enc_lt, AForm.encD_lt,
      AForm.encA_lt, AForm.encB_lt, CasForm.encD_lt, CasForm.encA_lt, CasForm.encB_lt, even_lt, off_lt, num_lt, imm_lt,
      tag_lt, fin_lt, chan_lt, zeroTag_lt, fence_lt, fenceScope_lt, Nat.reduceLeDiff, Nat.ofNat_pos, Nat.reduceLT, and_self]

/-- The opcode of an instruction does not depend on where it stands. -/
theorem fields_opcode (lone : Bool) (i : Instr) : (fields lone i).map Prod.fst = (fields false i).map Prod.fst := by
  cases i <;> rfl

/-- What decodes has an assigned opcode (R43). -/
theorem assigned_of_decodeOp {op d a b : Nat} {lit : Option Half} {i : Instr} (h : decodeOp op d a b lit = .ok i) :
    assigned op = true := by
  unfold decodeOp at h
  split_ifs at h <;> [unfold decTask at h; unfold decMem at h; unfold decAtomic at h; unfold decScalar at h;
    unfold decVector at h; unfold decMove at h] <;> split at h
  any_goals rfl
  all_goals cases h

theorem lt_of_assigned {op : Nat} (h : assigned op = true) : op < 512 := by
  simp only [assigned, Bool.not_eq_true', Bool.or_eq_false_iff, decide_eq_false_iff_not] at h
  exact Nat.lt_of_not_le h.2

theorem encodedBy_of_decodeOp {op d a b : Nat} {lit : Option Half} {i : Instr} (hd : d < 64) (ha : a < 64) (hb : b < 64)
    (h : decodeOp op d a b lit = .ok i) : EncodedBy i op d a b lit := by
  unfold decodeOp at h
  split_ifs at h
  · exact encodedBy_of_decTask hd ha hb h
  · exact encodedBy_of_decMem hb h
  · exact encodedBy_of_decAtomic ha hb h
  · exact encodedBy_of_decScalar hb h
  · exact encodedBy_of_decVector h
  · exact encodedBy_of_decMove h

theorem fields_false_of_fields {lone : Bool} {i : Instr} {op d a b : Nat} (h : fields lone i = some (op, d, a, b)) :
    ∃ d' a' b', fields false i = some (op, d', a', b') := by
  have ho := (fields_opcode lone i).symm
  rw [h] at ho
  obtain ⟨⟨_, d', a', b'⟩, hf, rfl⟩ := Option.map_eq_some_iff.1 ho
  exact ⟨d', a', b', hf⟩

theorem opcode_of_fields {lone : Bool} {i : Instr} {op d a b : Nat} (h : fields lone i = some (op, d, a, b)) :
    opcode i = op := by
  obtain ⟨d', a', b', hf⟩ := fields_false_of_fields h
  simp only [opcode, hf]

theorem native_of_fields {lone : Bool} {i : Instr} {op d a b : Nat} (h : fields lone i = some (op, d, a, b)) :
    native i = true := by
  obtain ⟨d', a', b', hf⟩ := fields_false_of_fields h
  simp only [native, hf, Option.isSome_some]

theorem fields_of_native {i : Instr} (lone : Bool) (h : native i = true) :
    ∃ op d a b, fields lone i = some (op, d, a, b) := by
  have ho := fields_opcode lone i
  obtain ⟨⟨op, _⟩, hf⟩ := Option.isSome_iff_exists.1 h
  rw [hf] at ho
  obtain ⟨⟨_, d, a, b⟩, hl, -⟩ := Option.map_eq_some_iff.1 ho
  exact ⟨_, d, a, b, hl⟩

/-! ## The bits of a word (R12) -/

section
variable {top op d a b : Nat} (htop : top < 32) (hop : op < 512) (hd : d < 64) (ha : a < 64) (hb : b < 64)
include htop hop hd ha hb

/-- The parts of a word are those that it was made of. -/
theorem mkWord_parts :
    (mkWord top op d a b).toNat / 2 ^ 27 = top ∧ wordOp (mkWord top op d a b) = op ∧
      (mkWord top op d a b).toNat / 4096 % 64 = d ∧ (mkWord top op d a b).toNat / 64 % 64 = a ∧
      (mkWord top op d a b).toNat % 64 = b := by
  simp only [wordOp, mkWord, BitVec.toNat_ofNat]
  omega
end

/-- A word is made of its parts. -/
theorem mkWord_of_parts (w : Half) :
    mkWord (w.toNat / 2 ^ 27) (wordOp w) (w.toNat / 4096 % 64) (w.toNat / 64 % 64) (w.toNat % 64) = w := by
  apply BitVec.eq_of_toNat_eq
  simp only [wordOp, mkWord, BitVec.toNat_ofNat]
  omega

/-! ## One slot's word -/

/-- A slot's word decodes exactly to the well-formed instructions whose fields, and literal in a lone pair, it has. -/
theorem decodeSlot_eq_ok {w : Half} {lit : Option Half} {i : Instr} : decodeSlot w lit = .ok i ↔
    wf lit.isSome i = true ∧
      EncodedBy i (wordOp w) (w.toNat / 4096 % 64) (w.toNat / 64 % 64) (w.toNat % 64) lit := by
  constructor
  · intro h
    unfold decodeSlot at h
    split at h
    · cases h
    · next j hj =>
      split at h
      · cases h
      · next hbad =>
        cases h
        exact ⟨by rw [wf, hbad]; rfl, encodedBy_of_decodeOp (by omega) (by omega) (by omega) hj⟩
  · rintro ⟨hwf, henc⟩
    simp only [decodeSlot, decodeOp_of_encodedBy hwf henc, Option.isNone_iff_eq_none.1 hwf]

theorem assigned_of_encodedBy {i : Instr} {op d a b : Nat} {lit : Option Half} (hwf : wf lit.isSome i = true)
    (h : EncodedBy i op d a b lit) : assigned op = true :=
  assigned_of_decodeOp (decodeOp_of_encodedBy hwf h)

/-- The word that encodes an instruction: its upper bits, its opcode, and what it decodes to. -/
theorem decodeSlot_encodeWord {top : Nat} {i : Instr} {lit : Option Half} (htop : top < 32)
    (hwf : wf lit.isSome i = true) (hn : native i = true) (hl : ∀ l, lit = some l → litOf i l = l) :
    let w := encodeWord lit.isSome top i
    w.toNat / 2 ^ 27 = top ∧ wordOp w = opcode i ∧ assigned (wordOp w) = true ∧ decodeSlot w lit = .ok i := by
  obtain ⟨op, d, a, b, hf⟩ := fields_of_native lit.isSome hn
  obtain ⟨hd, ha, hb⟩ := fields_lt hf
  have henc : EncodedBy i op d a b lit := ⟨hf, hl⟩
  have hop := assigned_of_encodedBy hwf henc
  obtain ⟨ht, ho, hpd, hpa, hpb⟩ := mkWord_parts htop (lt_of_assigned hop) hd ha hb
  simp only [encodeWord, hf]
  refine ⟨ht, ho.trans (opcode_of_fields hf).symm, ho.symm ▸ hop, decodeSlot_eq_ok.2 ⟨hwf, ?_⟩⟩
  rw [ho, hpd, hpa, hpb]
  exact henc

/-- A slot's word that decodes is the word of the instruction with its upper bits. -/
theorem encodeWord_of_decodeSlot {w : Half} {i : Instr} {lit : Option Half} (h : decodeSlot w lit = .ok i) :
    wf lit.isSome i = true ∧ native i = true ∧ opcode i = wordOp w ∧
      encodeWord lit.isSome (w.toNat / 2 ^ 27) i = w ∧ ∀ l, lit = some l → litOf i l = l := by
  obtain ⟨hwf, hf, hl⟩ := decodeSlot_eq_ok.1 h
  refine ⟨hwf, native_of_fields hf, opcode_of_fields hf, ?_, hl⟩
  simp only [encodeWord, hf, mkWord_of_parts]

/-- Only an instruction with fields in LIT (`takesAttr`) has a literal of its own. -/
theorem litOf_eq_self {i : Instr} {lit : Half} (h : takesAttr i = false) : litOf i lit = lit := by
  cases i
  case spawn | spawnk | fence | amoAdd | amoAnd | amoOr | amoXor | amoSmin | amoSmax | amoNmin | amoNmax | amoSwap
      | famoFadd | famoFmin | famoFmax | cas => cases h
  all_goals rfl

/-! ## Pairs -/

/-- PE, PR and PN are read exactly as the predicate that they encode (R13). -/
theorem decodePred_eq_ok {w : Half} {pe : Option (Fin 8 × Bool)} :
    decodePred w = .ok pe ↔ predTop pe = w.toNat / 2 ^ 27 := by
  unfold decodePred
  obtain _ | ⟨p, n⟩ := pe
  · simp only [predTop]
    split_ifs <;> simp <;> omega
  · have := p.isLt
    cases n <;> simp only [predTop, if_true, Bool.false_eq_true, if_false] <;> split_ifs <;> simp [Fin.ext_iff] <;>
      omega

theorem predTop_lt (pe : Option (Fin 8 × Bool)) : predTop pe < 32 := by
  obtain _ | ⟨p, n⟩ := pe
  · decide
  · cases n <;> simp only [predTop, if_true, Bool.false_eq_true, if_false] <;> omega

/-- The GAP and W bits of word 0 (R12). -/
def gapTop (g : Fin 8) (sw : Bool) : Nat := 2 * g.val + (if sw then 1 else 0)

theorem gapTop_lt (g : Fin 8) (sw : Bool) : gapTop g sw < 16 := by
  unfold gapTop; split <;> omega

/-- GAP and W as the decoder reads them. -/
def gapOf (w : Half) : Fin 8 := ⟨w.toNat / 2 ^ 28 % 8, by omega⟩
def swOf (w : Half) : Bool := decide (w.toNat / 2 ^ 27 % 2 = 1)

theorem gap_of_top {w : Half} {n : Nat} {g : Fin 8} {sw : Bool} (h : w.toNat / 2 ^ 27 = 16 * n + gapTop g sw) :
    w.toNat / 2 ^ 31 = n ∧ gapOf w = g ∧ swOf w = sw := by
  cases sw <;> simp [gapTop, gapOf, swOf, Fin.ext_iff] at * <;> omega

theorem top_of_gap (w : Half) : w.toNat / 2 ^ 27 = 16 * (w.toNat / 2 ^ 31) + gapTop (gapOf w) (swOf w) := by
  simp only [gapTop, gapOf, swOf, decide_eq_true_eq]
  split <;> omega

/-- When a pair of words is the lone pair of an instruction (R16, R40). -/
theorem decodePair_eq_lone {w0 w1 : Half} {g : Fin 8} {sw : Bool} {i : Instr} {lit : Half} :
    decodePair w0 w1 = .ok (.lone g sw i lit) ↔ w0.toNat / 2 ^ 27 = 16 + gapTop g sw ∧ w1 = lit ∧
      assigned (wordOp w0) = true ∧ decodeSlot w0 (some w1) = .ok i ∧
      (takesAttr i || namesLit i || w1 == 0) = true := by
  constructor
  · intro h
    unfold decodePair at h
    split_ifs at h with hlone hasg
    · split at h
      · cases h
      · next j hj =>
        split_ifs at h with hok
        cases h
        exact ⟨(top_of_gap w0).trans (by rw [hlone]; rfl), rfl, by simpa using hasg, hj, hok⟩
    · split at h
      · cases h
      · split at h
        · cases h
        · split at h
          · cases h
          · cases h
          · split_ifs at h; cases h
  · rintro ⟨htop, rfl, hasg, hdec, hok⟩
    obtain ⟨hlone, hg, hs⟩ := gap_of_top (n := 1) htop
    simp only [gapOf] at hg
    simp only [swOf] at hs
    simp only [decodePair, hlone, hasg, hdec, hok, hg, hs, if_true, Bool.not_true, Bool.false_eq_true, if_false]

/-- When a pair of words is the normal pair of two instructions (R12-R15, R17). -/
theorem decodePair_eq_normal {w0 w1 : Half} {g : Fin 8} {sw : Bool} {c a : Instr} {pe : Option (Fin 8 × Bool)} :
    decodePair w0 w1 = .ok (.normal g sw c a pe) ↔ w0.toNat / 2 ^ 27 = gapTop g sw ∧ predTop pe = w1.toNat / 2 ^ 27 ∧
      assigned (wordOp w0) = true ∧ assigned (wordOp w1) = true ∧ wordOp w0 < 256 ∧ 256 ≤ wordOp w1 ∧
      decodeSlot w0 none = .ok c ∧ decodeSlot w1 none = .ok a ∧ (pe.isNone || !unpredicable a) = true := by
  constructor
  · intro h
    unfold decodePair at h
    split_ifs at h with hlone _ h0 h1 hc ha
    · split at h
      · cases h
      · split_ifs at h; cases h
    · split at h
      · cases h
      · next hdc =>
        split at h
        · cases h
        · next hda =>
          have h31 : w0.toNat / 2 ^ 31 = 0 := by omega
          have htop : w0.toNat / 2 ^ 27 = gapTop (gapOf w0) (swOf w0) :=
            (top_of_gap w0).trans (by rw [h31, Nat.mul_zero, Nat.zero_add])
          simp only [Bool.not_eq_true', Bool.not_eq_false] at h0 h1
          split at h
          · cases h
          · next hpe =>
            cases h
            exact ⟨htop, decodePred_eq_ok.1 hpe, h0, h1, Nat.lt_of_not_le hc, Nat.le_of_not_lt ha, hdc, hda, rfl⟩
          · next hpe =>
            split_ifs at h with hu
            cases h
            exact ⟨htop, decodePred_eq_ok.1 hpe, h0, h1, Nat.lt_of_not_le hc, Nat.le_of_not_lt ha, hdc, hda,
              by simpa using hu⟩
  · rintro ⟨htop, hpe, h0, h1, hc, ha, hdc, hda, hp⟩
    obtain ⟨hlone, hg, hs⟩ := gap_of_top (n := 0) (htop.trans (by rw [Nat.mul_zero, Nat.zero_add]))
    simp only [gapOf] at hg
    simp only [swOf] at hs
    simp only [decodePair, hlone, h0, h1, hdc, hda, decodePred_eq_ok.2 hpe, hg, hs, Nat.not_le.2 hc, Nat.not_lt.2 ha,
      Nat.zero_ne_one, Bool.not_true, Bool.false_eq_true, if_false]
    cases pe with
    | none => rfl
    | some p =>
      simp only [Option.isNone_some, Bool.false_or, Bool.not_eq_true'] at hp
      simp only [hp, Bool.false_eq_true, if_false]

/-- Settles O39: the words of a pair have its parts (`decodeSlot_encodeWord`), so each slot decodes to its instruction. -/
theorem decodeOfEncodeIsThePair : Obligations.DecodeOfEncodeIsThePair := by
  unfold Obligations.DecodeOfEncodeIsThePair
  rintro (⟨g, sw, c, a, pe⟩ | ⟨g, sw, i, lit⟩) hwf
  · simp only [Pair.wf, isA, Bool.and_eq_true, Bool.not_eq_true', decide_eq_true_eq, decide_eq_false_iff_not] at hwf
    obtain ⟨⟨⟨⟨⟨⟨hc, ha⟩, hnc⟩, hna⟩, hcc⟩, haa⟩, hp⟩ := hwf
    obtain ⟨htop, hop, hasg, hdec⟩ :=
      decodeSlot_encodeWord (lit := none) ((gapTop_lt g sw).trans (by decide)) hc hnc nofun
    obtain ⟨htop', hop', hasg', hdec'⟩ := decodeSlot_encodeWord (lit := none) (predTop_lt pe) ha hna nofun
    exact decodePair_eq_normal.2 ⟨htop, htop'.symm, hasg, hasg', hop ▸ Nat.lt_of_not_le hcc, hop' ▸ haa, hdec, hdec', hp⟩
  · simp only [Pair.wf, Bool.and_eq_true] at hwf
    obtain ⟨⟨hi, hn⟩, hlit⟩ := hwf
    have hlo : litOf i lit = lit ∧ (takesAttr i || namesLit i || lit == 0) = true := by
      cases ht : takesAttr i
      · exact ⟨litOf_eq_self ht, by simpa [ht] using hlit⟩
      · exact ⟨(eq_of_beq (by simpa only [ht, if_true] using hlit)).symm, rfl⟩
    obtain ⟨htop, hop, hasg, hdec⟩ := decodeSlot_encodeWord (lit := some lit) (top := 16 + gapTop g sw)
      (by have := gapTop_lt g sw; omega) hi hn (by rintro _ ⟨⟩; exact hlo.1)
    have henc : encodePair (.lone g sw i lit) = (encodeWord true (16 + gapTop g sw) i, lit) := by
      simp only [encodePair, hlo.1, gapTop, Nat.add_assoc]
    rw [henc]
    exact decodePair_eq_lone.2 ⟨htop, rfl, hasg, hdec, hlo.2⟩

/-- Settles O40: a slot that decodes is the word of its instruction (`encodeWord_of_decodeSlot`), upper bits included. -/
theorem encodeOfDecodeIsTheWords : Obligations.EncodeOfDecodeIsTheWords := by
  unfold Obligations.EncodeOfDecodeIsTheWords
  rintro w0 w1 (⟨g, sw, c, a, pe⟩ | ⟨g, sw, i, lit⟩) h
  · obtain ⟨htop, hpe, -, -, hc, ha, hdc, hda, hp⟩ := decodePair_eq_normal.1 h
    obtain ⟨hwc, hnc, hoc, hec, -⟩ := encodeWord_of_decodeSlot hdc
    obtain ⟨hwa, hna, hoa, hea, -⟩ := encodeWord_of_decodeSlot hda
    rw [htop] at hec
    rw [← hpe] at hea
    refine ⟨?_, Prod.ext hec hea⟩
    simp only [Option.isSome_none] at hwc hwa
    simp only [Pair.wf, isA, hwc, hwa, hnc, hna, hoc, hoa, ha, hp, Nat.not_le.2 hc, decide_true, decide_false,
      Bool.and_self, Bool.not_false]
  · obtain ⟨htop, rfl, -, hdec, hlit⟩ := decodePair_eq_lone.1 h
    obtain ⟨hwf, hn, -, he, hl⟩ := encodeWord_of_decodeSlot hdec
    rw [htop, gapTop, ← Nat.add_assoc] at he
    refine ⟨?_, Prod.ext he (hl _ rfl)⟩
    simp only [Option.isSome_some] at hwf
    simp only [Pair.wf, hwf, hn, hl _ rfl, Bool.and_self, Bool.true_and]
    cases ht : takesAttr i
    · simpa only [ht, Bool.false_or, Bool.false_eq_true, if_false] using hlit
    · simp only [if_true, beq_self_eq_true]

end Sys2Proof
end

section
/-!
PROOFS. The checks of an access (R11, R227).
-/
namespace Sys2Proof.Machine

section
variable {s : State} {w : Who} {k : Acc} {e : Bool} {va : Nat}

theorem placeOf_above (h : 2 ^ 56 ≤ va) : s.placeOf w k e va = .error XLATE := if_pos h

theorem placeOf_window {c off : Nat} (hk : k ≠ .fetch) (h : va < 2 ^ 56) (hw : window w.core va = some (c, off)) :
    s.placeOf w k e va = if spadLimit ≤ off || !(s.core c).allocated (off / 128) then .error LOCALRANGE
      else .ok (.spad c off) := by
  simp only [State.placeOf, if_neg (Nat.not_le.2 h), if_neg hk, hw]

theorem placeOf_reserved (hk : k ≠ .fetch) (h : va < 2 ^ 56) (hw : window w.core va = none) (hb : windowBase ≤ va) :
    s.placeOf w k e va = .error XLATE := by
  simp only [State.placeOf, if_neg (Nat.not_le.2 h), if_neg hk, hw, if_pos hb]

section
variable (hk : k ≠ .fetch) (h : va < 2 ^ 56) (hw : window w.core va = none) (hb : va < windowBase)
include hk h hw hb

theorem placeOf_unmapped (hl : s.walk w.ctx va = .none) : s.placeOf w k e va = .error XLATE := by
  simp only [State.placeOf, if_neg (Nat.not_le.2 h), if_neg hk, hw, if_neg (Nat.not_le.2 hb), hl]

variable {l : Leaf} {raw : Nat} {srcs : List Nat} (hl : s.walk w.ctx va = .leaf l raw srcs)
include hl

theorem placeOf_unpopulated (hr : s.region (l.pa + va % l.size) = none) : s.placeOf w k e va = .error XLATE := by
  simp only [State.placeOf, if_neg (Nat.not_le.2 h), if_neg hk, hw, if_neg (Nat.not_le.2 hb), hl, hr]

theorem placeOf_forbidden {r : Region} (hr : s.region (l.pa + va % l.size) = some r)
    (hp : l.permits k w.native = false) : s.placeOf w k e va = .error PROT := by
  simp only [State.placeOf, if_neg (Nat.not_le.2 h), if_neg hk, hw, if_neg (Nat.not_le.2 hb), hl, hr, hp, Bool.not_false,
    if_true]

/-- In a plain range the place is the physical one, or the scope table's (R342). -/
theorem placeOf_plain {r : Region} (hr : s.region (l.pa + va % l.size) = some r)
    (hp : l.permits k w.native = true) (hplain : r.plain = true) :
    s.placeOf w k e va = match if k = .load then s.scopeOffset w.ctx va else none with
      | some o => .ok (.scope o (l.pa + va % l.size))
      | none => .ok (.mem (l.pa + va % l.size) l.mt l.key) := by
  simp only [State.placeOf, if_neg (Nat.not_le.2 h), if_neg hk, hw, if_neg (Nat.not_le.2 hb), hl, hr, hp, Bool.not_true,
    Bool.false_eq_true, if_false]
  cases r with
  | hbm | ddr | peer | host => rfl
  | scaleOut | scaleTable | coreWin | event => cases hplain
end

/-- A natural unit that is aligned is a single piece: it passes where its first byte does, and traps as that does. -/
theorem accessTrap_ok {ea n : Nat} {p : Place} (hn : n = 1 ∨ n = 2 ∨ n = 4 ∨ n = 8) (ha : ea % n = 0)
    (hp : s.placeOf w k e ea = .ok p) : s.accessTrap w k e ea n n = none := by
  simp only [State.accessTrap, ha, piecesOf_aligned hn ha, ne_eq, not_true_eq_false, if_false, List.findSome?_cons,
    List.findSome?_nil, hp]

theorem accessTrap_error {ea n c : Nat} (hn : n = 1 ∨ n = 2 ∨ n = 4 ∨ n = 8) (ha : ea % n = 0)
    (hc : s.placeOf w k e ea = .error c) :
    s.accessTrap w k e ea n n = some (if c = MCHECK then trapInfo MCHECK 2 else memTrap c k ea n) := by
  simp only [State.accessTrap, ha, piecesOf_aligned hn ha, ne_eq, not_true_eq_false, if_false, List.findSome?_cons, hc]

theorem accessTrap_misaligned {ea n al : Nat} (ha : ea % al ≠ 0) :
    s.accessTrap w k e ea n al = some (memTrap MISALIGN k ea n) := if_pos ha
end

end Sys2Proof.Machine

namespace Sys2Proof
open Sys2Proof.Machine

/-- Settles O15: the checks of `placeOf` one by one, and an aligned natural unit is a single piece. -/
theorem accessesAreCheckedInOrder : Obligations.AccessesAreCheckedInOrder := by
  unfold Obligations.AccessesAreCheckedInOrder
  refine ⟨fun s w k e va hk => ⟨placeOf_above, fun h c off hw => ?_, fun h hw => ⟨placeOf_reserved hk h hw, fun hb =>
    ⟨placeOf_unmapped hk h hw hb, fun l raw srcs hl => ?_⟩⟩⟩, fun s w k e ea n hn => ?_⟩
  · rw [placeOf_window hk h hw]
    simp only [Core.allocated, Bool.or_eq_true, Bool.not_eq_true', decide_eq_false_iff_not, not_not, decide_eq_true_eq]
    rfl
  · refine ⟨placeOf_unpopulated hk h hw hb hl, fun r hr hp => placeOf_forbidden hk h hw hb hl hr hp,
      fun r hr hp hplain => ?_⟩
    rw [placeOf_plain hk h hw hb hl hr hp hplain]
    refine ⟨fun hs => ?_, fun o hload hs => ?_⟩
    · rcases hs with hs | hs
      · rw [if_neg hs]
      · rw [hs, ite_self]
    · rw [if_pos hload, hs]
  · refine ⟨accessTrap_misaligned, fun ha p hp => accessTrap_ok hn ha hp, fun ha c hc hm => ?_, fun ha hc => ?_⟩
    · rw [accessTrap_error hn ha hc, if_neg hm]
    · rw [accessTrap_error hn ha hc, if_pos rfl]; rfl

end Sys2Proof
end

section
/-!
PROOFS. A fixed-latency result lands in its latch and register, and nowhere else (R139).
-/
namespace Sys2Proof.Machine

theorem mergeBits_allOnes {n : Nat} (new old : BitVec n) : mergeBits (BitVec.allOnes n) new old = new := by
  rw [mergeBits, BitVec.and_allOnes, BitVec.not_allOnes, BitVec.and_zero, BitVec.or_zero]

theorem put_scalar (r : Regs) (n : Nat) (v : Word) (tag : Tag) :
    r.put (.s n) (v.setWidth 2048) (BitVec.allOnes 2048) tag = { r with s := sset 0 r.s n v } := by
  have hm : (BitVec.allOnes 2048).setWidth 64 = BitVec.allOnes 64 := BitVec.eq_of_getLsbD_eq fun i hi => by
    rw [BitVec.getLsbD_setWidth, BitVec.getLsbD_allOnes, BitVec.getLsbD_allOnes]; simp; omega
  have hv : (v.setWidth 2048).setWidth 64 = v := BitVec.setWidth_setWidth_of_le v (by decide)
  simp only [Regs.put, hm, hv, mergeBits_allOnes]

theorem putResult_regs (sl : Slot) (p : Pending) (hd : p.dst ≠ .none) :
    (sl.putResult p).regs = sl.regs.put p.dst p.val p.mask p.tag := by
  rw [Slot.putResult, if_neg hd]

theorem putResult_csrs (sl : Slot) (p : Pending) : (sl.putResult p).csrs = sl.csrs := by
  rw [Slot.putResult]; split <;> rfl

theorem putLatch_csrs (sl : Slot) (p : Pending) : (sl.putLatch p).csrs = sl.csrs := by
  rw [Slot.putLatch]; split <;> rfl

/-- The latch of the A class takes the masked bits. -/
theorem putLatch_la {sl : Slot} {p : Pending} (hl : p.latch = some true) (hp : p.latchPred = false) :
    (sl.putLatch p).regs =
      { sl.regs with la := ⟨mergeBits p.latchMask p.latchVal.val sl.regs.la.val, p.latchVal.tag⟩ } := by
  simp only [Slot.putLatch, hl, hp, Bool.false_eq_true, if_false]

theorem putLatch_lc {sl : Slot} {p : Pending} (hl : p.latch = some false) (hp : p.latchPred = false) :
    (sl.putLatch p).regs =
      { sl.regs with lc := ⟨mergeBits p.latchMask p.latchVal.val sl.regs.lc.val, p.latchVal.tag⟩ } := by
  simp only [Slot.putLatch, hl, hp, Bool.false_eq_true, if_false]

theorem getLsbD_mergeBits {n : Nat} (mask new old : BitVec n) (k : Nat) (hk : k < n) :
    (mergeBits mask new old).getLsbD k = if mask.getLsbD k then new.getLsbD k else old.getLsbD k := by
  simp only [mergeBits, BitVec.getLsbD_or, BitVec.getLsbD_and, BitVec.getLsbD_not, hk, decide_true, Bool.true_and]
  cases mask.getLsbD k <;> simp

section
variable {sl : Slot} {p : Pending} {n : Nat} (h : sl.pending = [p]) (hf : p.fixed = true)
include h hf

/-- What a fixed result does in the cycle it is due, to its latch and, where that is readable as soon, its register. -/
theorem applyResults_at_due (hn : p.due = n) (hl : p.latch.isSome = true) (hd : p.dst ≠ .none) (hr : p.regAt = n) :
    Slot.applyResults n sl =
      { (sl.putLatch p).putResult p with
        pending := [{ p with latch := none, dst := .none, wroteLatch := p.latch, wrote := p.dst }] } := by
  rw [applyResults_due h hf hn.le]
  simp [Slot.settle, Pending.timed, Pending.latchAt, hf, hl, hd, hr, hn]

/-- What a fixed result for a v register does in the cycle it is due: its latch. -/
theorem applyResults_at_due_late (hn : p.due = n) (hl : p.latch.isSome = true) (hr : p.regAt = n + 1) :
    Slot.applyResults n sl =
      { sl.putLatch p with pending := [{ p with latch := none, wroteLatch := p.latch }] } := by
  rw [applyResults_due h hf hn.le]
  simp [Slot.settle, Pending.timed, Pending.latchAt, hf, hl, hr, hn]

/-- A result with nothing left to write puts its flags in FLAGS and is gone. -/
theorem applyResults_after_due (hn : p.due + 1 = n) (hl : p.latch = none) (hd : p.dst = .none) :
    Slot.applyResults n sl = { sl.orFlags p.flags with pending := [] } := by
  rw [applyResults_due h hf (by omega)]
  simp [Slot.settle, Pending.timed, hf, hl, hd, hn]

/-- The register of a result whose latch is written comes one cycle after it is due, with its flags. -/
theorem applyResults_after_due_late (hn : p.due + 1 = n) (hl : p.latch = none) (hd : p.dst ≠ .none)
    (hr : p.regAt = n) :
    Slot.applyResults n sl = { (sl.putResult p).orFlags p.flags with pending := [] } := by
  rw [applyResults_due h hf (by omega)]
  simp [Slot.settle, Pending.timed, hf, hl, hd, hr, hn]
end

end Sys2Proof.Machine

namespace Sys2Proof
open Sys2Proof.Machine Sys2Proof.Claims

/-- A fixed-latency scalar result: the register and the latch of its class in the cycle it is due. -/
theorem scalarPending_at_due {sl : Slot} {n : Fin 32} {v : Word} {aslot : Bool} {f : Byte} {due : Nat}
    (h : sl.pending = [scalarPending n v aslot f due]) :
    (Slot.applyResults due sl).regs = { sl.regs with
      s := sset 0 sl.regs.s n.val v
      la := if aslot then ⟨v.setWidth 2048, 0⟩ else sl.regs.la
      lc := if aslot then sl.regs.lc else ⟨v.setWidth 2048, 0⟩ } ∧
    (Slot.applyResults due sl).csrs = sl.csrs ∧
    (Slot.applyResults due sl).pending = [{ scalarPending n v aslot f due with
      latch := none, dst := .none, wroteLatch := some aslot, wrote := .s n.val }] := by
  have hd : (scalarPending n v aslot f due).dst ≠ .none := RegDst.noConfusion
  rw [applyResults_at_due (n := due) h rfl rfl rfl hd rfl]
  refine ⟨?_, (putResult_csrs _ _).trans (putLatch_csrs _ _), rfl⟩
  refine (putResult_regs _ _ hd).trans ((put_scalar _ _ _ _).trans ?_)
  cases aslot
  · rw [putLatch_lc rfl rfl]
    simp only [scalarPending, Pending.blank, mergeBits_allOnes, Bool.false_eq_true, if_false]
  · rw [putLatch_la rfl rfl]
    simp only [scalarPending, Pending.blank, mergeBits_allOnes, if_true]

/-- A fixed-latency vector result: la in the cycle it is due. -/
theorem vectorPending_at_due {sl : Slot} {n : Fin 32} {v m : Vec} {tag : Tag} {f : Byte} {due : Nat}
    (h : sl.pending = [vectorPending n v m tag f due]) :
    (Slot.applyResults due sl).regs = { sl.regs with la := ⟨mergeBits m v sl.regs.la.val, tag⟩ } ∧
    (Slot.applyResults due sl).csrs = sl.csrs ∧
    (Slot.applyResults due sl).pending = [{ vectorPending n v m tag f due with latch := none, wroteLatch := some true }] := by
  have hr : (vectorPending n v m tag f due).regAt = due + 1 := by
    simp [Pending.regAt, vectorPending, n.isLt]
  rw [applyResults_at_due_late (n := due) h rfl rfl rfl hr]
  exact ⟨putLatch_la rfl rfl, putLatch_csrs _ _, rfl⟩

/-- Settles O8: the result is written part by part, each in its cycle, and its flags one cycle after it is due. -/
theorem fixedLatencyResultsLand : Obligations.FixedLatencyResultsLand := by
  unfold Obligations.FixedLatencyResultsLand
  refine ⟨fun sl n v aslot f due h => ⟨fun t ht => applyResults_early h ?_, ?_⟩, fun sl n v m tag f due h => ?_⟩
  · exact Bool.and_eq_false_iff.2 (.inr (decide_eq_false (Nat.not_le.2 ht)))
  · obtain ⟨hregs, hcsrs, hpend⟩ := scalarPending_at_due h
    extract_lets x y
    have hy : y = { x.orFlags f with pending := [] } := applyResults_after_due hpend rfl rfl rfl rfl
    have hsr (j : Nat) : x.regs.sr j = if j = n.val then v else sl.regs.sr j := by
      rw [Regs.sr, hregs]; exact sget_sset _ _ _ _ _
    refine ⟨(hsr _).trans (if_pos rfl), fun j hj => (hsr j).trans (if_neg hj), ?_, ?_, ?_, hcsrs, ?_, ?_, ?_⟩
    · rw [hregs]
    · rw [hregs]
    · rw [hregs]; cases aslot <;> exact ⟨rfl, rfl⟩
    · rw [hy]; rfl
    · rw [hy]
      show { x.csrs with flags := x.csrs.flags ||| f } = { sl.csrs with flags := sl.csrs.flags ||| f }
      rw [show x.csrs = sl.csrs from hcsrs]
    · rw [hy]
  · obtain ⟨hregs, hcsrs, hpend⟩ := vectorPending_at_due h
    extract_lets x y
    have hr : ({ vectorPending n v m tag f due with latch := none, wroteLatch := some true } : Pending).regAt = due + 1 := by
      simp [Pending.regAt, vectorPending, n.isLt]
    have hy : y = { (x.putResult _).orFlags f with pending := [] } :=
      applyResults_after_due_late hpend rfl rfl rfl RegDst.noConfusion hr
    have hyr : y.regs = x.regs.put (.v n.val) v m tag := by
      rw [hy]; exact putResult_regs _ _ RegDst.noConfusion
    have hvr (j : Nat) : y.regs.vr j = if j = n.val then ⟨mergeBits m v (sl.regs.vr n.val).val, tag⟩ else sl.regs.vr j := by
      rw [Regs.vr, hyr, hregs]; exact sget_sset _ _ _ _ _
    refine ⟨?_, ?_, ?_, ?_, hcsrs, ?_, ?_, ?_, ?_, fun j hj => (hvr j).trans (if_neg hj), ?_, ?_, ?_, ?_⟩
    · rw [hregs]
    · rw [hregs]
    · rw [hregs]
    · rw [hregs]
    · rw [hregs]
    · rw [hregs]; exact fun k hk => getLsbD_mergeBits m v _ k hk
    · rw [hvr, if_pos rfl]
    · rw [hvr, if_pos rfl]; exact fun k hk => getLsbD_mergeBits m v _ k hk
    · rw [hyr, hregs]; rfl
    · rw [hyr]; rfl
    · rw [hy]
      show ((x.putResult _).orFlags f).csrs = { sl.csrs with flags := sl.csrs.flags ||| f }
      rw [Slot.orFlags, putResult_csrs, show x.csrs = sl.csrs from hcsrs]
    · rw [hy]

end Sys2Proof
end

section
/-!
PROOFS. The frame of the register instructions fails for `cvtq`, whose second result is a part of its first (R206): the
slot owes two entries under one number.
-/
namespace Sys2Proof
open Sys2Proof.Machine Sys2Proof.Claims

/-- Results owed one by one each take a number of their own. -/
theorem foldl_owe_numbers (ps : List Pending) (sl : Slot) :
    (ps.foldl Slot.owe sl).pending.length + sl.nextId = sl.pending.length + (ps.foldl Slot.owe sl).nextId := by
  induction ps generalizing sl with
  | nil => rfl
  | cons p ps ih =>
    have h := ih (sl.owe p)
    simp only [Slot.owe, List.length_append, List.length_singleton] at h
    rw [List.foldl_cons]
    simp only [Slot.owe]
    omega

/-- A further change of the slot whose pair issues. -/
theorem onlySlot_then_modCur {s t : State} {f : Slot → Slot} (h : OnlySlot s t s.issue f) (g : Slot → Slot) :
    OnlySlot s (t.modCur g) s.issue (fun sl => g (f sl)) := by
  have hi : t.issue = s.issue := by
    obtain ⟨⟨cs, rfl⟩, -⟩ := h
    rfl
  exact h.trans (hi ▸ onlySlot_modCur t g)

/-- `cvtq` owes a result and one more part of it. -/
theorem onlySlot_cvtq (s : State) (d : VPair) (a : VSrc) (b : SSrc) :
    ∃ p q, OnlySlot s ((planCvtq d a b).act s) s.issue (fun sl => (sl.owe p).oweMore 1 q) :=
  ⟨_, _, onlySlot_then_modCur (onlySlot_giveV s _ _ _ _ _ _) (fun sl => sl.oweMore 1 _)⟩

/-- A slot with every register zero and nothing owed. -/
def idleSlot : Slot :=
  { ctx := 0, idx := 0, recVa := 0, recPa := 0, gen := 0, prio := 0, gang := 0, matrix := false, launch := none,
    image := none, native := false, virt := none, pc := 0, lastPc := 0, args := 0, frame := 0, dom := 0,
    regs := ⟨[], [], [], VReg.zero, VReg.zero⟩, csrs := ⟨0, 0, 0, 0, 0, 0, 0, 0, []⟩, pickup := 0, pending := [],
    csrPend := [], nextId := 0, seq := 0, issuedAt := 0, gapUntil := 0, readySince := 0, hold := none, quantum := [],
    qcount := 0, asm := [], poisoned := [], failedNr := false, failedNor := false, noEvict := false, phase0 := 0,
    touched := 0, slotNo := 0, gangInfo := none }

/-- That slot in core 0, issuing a pair whose checks are made. -/
def issuingState : State :=
  { State.reset with
    issue := { Issue.none with checked := true }
    cores := [(0, { Core.reset with slots := [(0, some idleSlot)] })] }

/-- Refutes O7: in `issuingState`, `cvtq v0, v2, s3` owes two entries but takes one number, as no list of owed results
does. -/
theorem not_registerInstructionsOnlyOweResults : ¬ Obligations.RegisterInstructionsOnlyOweResults := by
  unfold Obligations.RegisterInstructionsOnlyOweResults
  intro h
  obtain ⟨t, ps, hexec, ⟨-, -, hfold⟩, -⟩ := h issuingState (.cvtq (.v 0) (.v 2) (.s 3)) rfl rfl rfl rfl
  have hrun : t = (planCvtq (.v 0) (.v 2) (.s 3)).act issuingState := by
    rw [← Plan.run_of_checked (s := issuingState) _ rfl rfl]
    exact (Host.Outcome.next.inj hexec).symm
  obtain ⟨p, q, -, -, hact⟩ := onlySlot_cvtq issuingState (.v 0) (.v 2) (.s 3)
  have hslot : some (ps.foldl Slot.owe idleSlot) = some ((idleSlot.owe p).oweMore 1 q) :=
    (hfold 0 0).symm.trans (hrun ▸ hact 0 0)
  have hn := foldl_owe_numbers ps idleSlot
  rw [Option.some.inj hslot] at hn
  exact absurd hn (by simp [Slot.owe, Slot.oweMore, idleSlot])

end Sys2Proof
end

section
/-!
PROOFS. The issue of one slot's pair: a native continuation in no gang is its own crew, and its pair is that of its words.
-/
namespace Sys2Proof.Machine
open Sys2Proof Sys2Proof.Claims

/-! ## Going on -/

theorem andThen_next (s : State) (f : State → Answer) : andThen (.next s) f = f s := rfl

theorem andThen_assoc (o : Answer) (f g : State → Answer) :
    andThen (andThen o f) g = andThen o fun s => andThen (f s) g := by
  cases o <;> rfl

/-! ## A native slot in no gang -/

theorem tpair_of_native {sl : Slot} (h : sl.virt = none) (s : State) (pc : Nat) : s.tpair sl pc = none := by
  simp only [State.tpair, h]

theorem crew_of_single {sl : Slot} (h : sl.gangInfo = none) (c k : Nat) : sl.crew c k = [(c, k)] := by
  simp only [Slot.crew, h]

theorem specialPair_of_native {sl : Slot} (h : sl.virt = none) (s : State) (c k : Nat) : specialPair s c k sl = none := by
  simp only [specialPair, tpair_of_native h]

theorem pairWords_of_native {sl : Slot} (h : sl.virt = none) (s : State) (c : Nat) :
    s.pairWords c sl = (BitVec.ofNat 32 (fetched s c sl), BitVec.ofNat 32 (fetched s c sl / 2 ^ 32)) := by
  simp only [State.pairWords, h, fetched]

/-- A named issue that nothing precedes, of a selected crew's leader. -/
theorem moveNamed_issue {r : State} {c k : Nat} {sl : Slot} (hrun : r.pkg.running = true)
    (hfirst : firstOf { r with agenda := .issue c k :: r.agenda } [evHold, evStall] = none)
    (hsl : r.slot c k = some sl) (hsel : r.selected (sl.crew c k) = true) (hhead : (sl.crew c k).head? = some (c, k)) :
    moveNamed exec (.issue c k) r = issueCrew exec c k r := by
  simp only [moveNamed, hsl, hrun, hfirst, hsel, hhead, Bool.not_true, Bool.false_eq_true, if_false, beq_self_eq_true,
    Bool.and_self, if_true]

/-- What the step is when it issues the pair of a slot. -/
theorem step_of_issues {s r : State} {c k : Nat} (h : issues s r c k) : step s = issueCrew exec c k r := by
  rcases h with ⟨l, hag, hr, hrun, hfirst, sl, hsl, hsel, hhead⟩ | ⟨hag, hstop, hrun, hfirst, hnext, rfl⟩
  · have hs : { r with agenda := .issue c k :: r.agenda } = s := by rw [hr, ← hag]
    rw [step, move, hag]
    exact (congrArg (moveNamed exec _) hr.symm).trans (moveNamed_issue hrun (hs ▸ hfirst) hsl hsel hhead)
  · simp only [step, move, hag, hstop, moveOn, hrun, hfirst, hnext, Bool.not_true, Bool.false_eq_true, if_false]

section
variable {r : State} {c k : Nat} {sl : Slot} (hsl : r.slot c k = some sl)
include hsl

theorem slot_begin : (r.begin c k).slot c k = some sl := by
  simp only [State.begin, hsl]
  exact hsl

theorem begin_eq : r.begin c k = { r with issue := Issue.of c k sl.pc } := by
  simp only [State.begin, hsl]

variable (hv : sl.virt = none) (hg : sl.gangInfo = none)
include hv

/-- The issue of a native slot: fetch, decoding, and the run of the pair. -/
theorem issueCrew_of_native :
    issueCrew exec c k r = andThen (issueAt.issuePair exec c k r sl) fun t => .next (t.afterIssue r sl c k) := by
  simp only [issueCrew, hsl, issueAt, hv]

/-- A fetch that fails traps. -/
theorem issueCrew_of_fetchTrap {t : Trap} (ht : r.fetchTrap c sl = some t) :
    issueCrew exec c k r = .next (unissued r c k sl ((r.begin c k).trapPair t false false)) := by
  rw [issueCrew_of_native hsl hv]
  simp only [issueAt.issuePair, specialPair_of_native hv, ht, andThen_next, unissued]

variable (hf : r.fetchTrap c sl = none)
include hf

/-- An unassigned opcode traps ILLOP (R43). -/
theorem issueCrew_of_illop {aslot : Bool} {op : Nat} (hop : op < 512)
    (hd : decodePair (BitVec.ofNat 32 (fetched r c sl)) (BitVec.ofNat 32 (fetched r c sl / 2 ^ 32)) =
      .error (.illop aslot op)) :
    issueCrew exec c k r = .next (unissued r c k sl ((r.begin c k).trapPair (trapInfo ILLOP op) aslot false)) := by
  have hcur : (r.begin c k).cur = some sl := by
    rw [State.cur, begin_eq hsl]; exact hsl
  have hpc : sl.pc = (r.begin c k).issue.pc := by rw [begin_eq hsl]; rfl
  have hx : exec (.unassignedOpcode aslot (BitVec.ofNat 9 op)) (r.begin c k) =
      .next ((r.begin c k).trapPair (trapInfo ILLOP op) aslot false) := by
    show execUnassignedOpcode aslot (BitVec.ofNat 9 op) (r.begin c k) = _
    simp only [execUnassignedOpcode, hcur, if_pos hpc, BitVec.toNat_ofNat, Nat.mod_eq_of_lt hop]
  rw [issueCrew_of_native hsl hv]
  simp only [issueAt.issuePair, specialPair_of_native hv, hf, pairWords_of_native hv, hd, hx, andThen_next, unissued]

/-- Other words that do not decode trap as `rejectTrap` says. -/
theorem issueCrew_of_reject {e : Reject} (he : ∀ a op, e ≠ .illop a op)
    (hd : decodePair (BitVec.ofNat 32 (fetched r c sl)) (BitVec.ofNat 32 (fetched r c sl / 2 ^ 32)) = .error e) :
    issueCrew exec c k r =
      let t := (r.begin c k).rejectTrap (BitVec.ofNat 32 (fetched r c sl)) e
      .next (unissued r c k sl ((r.begin c k).trapPair t.1 t.2 false)) := by
  rw [issueCrew_of_native hsl hv]
  simp only [issueAt.issuePair, specialPair_of_native hv, hf, pairWords_of_native hv, hd]
  cases e with
  | illop a op => exact absurd rfl (he a op)
  | _ => rfl

include hg in
/-- Words that decode run as the pair of the slot alone. -/
theorem issueCrew_of_pair {p : Pair} (hd : decodesTo r c sl p) :
    issueCrew exec c k r = andThen (runPair exec p [(c, k)] r) fun t => .next (t.afterIssue r sl c k) := by
  unfold decodesTo at hd
  rw [issueCrew_of_native hsl hv]
  simp only [issueAt.issuePair, specialPair_of_native hv, hf, pairWords_of_native hv, hd, crew_of_single hg]
end

/-- The trap of an illegal code of the A-slot gives way to what step 3 finds in the C-slot (R22). -/
theorem rejectTrap_illopndA (s : State) (w0 : Half) (f : Nat) :
    s.rejectTrap w0 (.illopnd true f) = match otherSlotTrap s w0 with
      | some t => (t, false)
      | none => (trapInfo ILLOPND f, true) := by
  unfold State.rejectTrap otherSlotTrap
  cases decodeSlot w0 none <;> rfl

theorem rejectTrap_other (s : State) (w0 : Half) {e : Reject} (he : ∀ f, e ≠ .illopnd true f) :
    s.rejectTrap w0 e = Reject.trap e := by
  unfold State.rejectTrap
  split
  · next f _ _ => exact absurd rfl (he f)
  · rfl

end Sys2Proof.Machine

namespace Sys2Proof
open Sys2Proof.Machine Sys2Proof.Claims

/-- Settles O43: the step is the slot's issue (`step_of_issues`), which stops at the fetch or at the decoder. -/
theorem stepTrapsOnWordsThatDoNotDecode : Obligations.StepTrapsOnWordsThatDoNotDecode := by
  unfold Obligations.StepTrapsOnWordsThatDoNotDecode
  intro s r c k sl h hsl hv hg
  rw [step_of_issues h]
  refine ⟨fun t ht => issueCrew_of_fetchTrap hsl hv ht, fun hf => ?_⟩
  intro w e he trap
  cases e with
  | illop aslot op => exact fun hop => issueCrew_of_illop hsl hv hf hop he
  | illpair aslot =>
    have hx := issueCrew_of_reject hsl hv hf (by simp) he
    rwa [rejectTrap_other _ _ (by simp)] at hx
  | noEncoding =>
    have hx := issueCrew_of_reject hsl hv hf (by simp) he
    rwa [rejectTrap_other _ _ (by simp)] at hx
  | illopnd aslot field =>
    have hx := issueCrew_of_reject hsl hv hf (by simp) he
    cases aslot with
    | false => rwa [rejectTrap_other _ _ (by simp)] at hx
    | true =>
      rw [rejectTrap_illopndA] at hx
      refine ⟨fun ho => ?_, fun t ho => ?_⟩
      · rwa [ho] at hx
      · rwa [ho] at hx

end Sys2Proof

namespace Sys2Proof.Machine
open Sys2Proof Sys2Proof.Claims

section
variable {r : State} {c k : Nat} {sl : Slot} {p : Pair} (hsl : r.slot c k = some sl) (hv : sl.virt = none)
include hsl hv

theorem memberVerdict_of_native :
    r.memberVerdict p true c k = verdict (r.begin c k) (pairPlans (r.begin c k) p) := by
  simp only [State.memberVerdict, slot_begin hsl, Option.bind_some, tpair_of_native hv, Option.map_none, memberPlans,
    if_true]

/-- A native slot's pair runs both slots, then its pushes and pops. -/
theorem runMember_of_native : runMember exec p true c k r =
    andThen (runSlots exec p true (r.begin c k)) fun t => .next ((t.flushPushes).popAll (pairIs p)) := by
  simp only [runMember, State.tryDone, State.extraPops, State.enterPair, State.leavePair, slot_begin hsl, Option.bind_some,
    tpair_of_native hv, Option.bind_none, Option.map_none, List.append_nil, if_true]

theorem crewGo_of_native : r.crewGo c k = .seq := by
  simp only [State.crewGo, hsl, Option.bind_some, tpair_of_native hv, Option.map_none]

/-- The pair of one slot traps. -/
theorem runPair_trap {t : Trap} {a : Bool}
    (h : verdict (r.begin c k) (pairPlans (r.begin c k) p) = .trap t a) :
    runPair exec p [(c, k)] r = .next { ((r.begin c k).trapPair t a false) with issue := Issue.none } := by
  simp only [runPair, State.crewVerdicts, memberVerdict_of_native hsl hv, h, List.map_nil, crewTrap]

/-- The pair of one slot waits. -/
theorem runPair_wait {w : Wait} (h : verdict (r.begin c k) (pairPlans (r.begin c k) p) = .wait w) :
    runPair exec p [(c, k)] r = .next { r.holdSlot c k w true with issue := Issue.none } := by
  simp only [runPair, State.crewVerdicts, memberVerdict_of_native hsl hv, h, List.map_nil, crewTrap, State.crewHeld,
    crewWaits, State.holdAll, List.foldl_cons, List.foldl_nil]

/-- The pair of one slot acts: both slots, and what follows their effects. -/
theorem runPair_go (h : verdict (r.begin c k) (pairPlans (r.begin c k) p) = .go) :
    andThen (runPair exec p [(c, k)] r) (fun t => .next (t.afterIssue r sl c k)) =
      andThen (runSlots exec p true (r.begin c k)) fun t => .next (retired r c k sl p t) := by
  simp only [runPair, State.crewVerdicts, memberVerdict_of_native hsl hv, h, List.map_nil, crewTrap, State.crewHeld,
    crewWaits, State.crowded, runCrew, andThen_next, runMember_of_native hsl hv, crewGo_of_native hsl hv, andThen_assoc,
    List.foldl_nil]
  rfl
end

/-- A pair that has pushed nothing has nothing to push. -/
theorem flushPushes_of_nil {s : State} (h : s.issue.pushes = []) : s.flushPushes = s := by
  have hs : { s with issue := { s.issue with pushes := [] } } = s := by rw [← h]
  simp only [State.flushPushes, h, List.filter_nil, List.append_nil, List.foldl_nil, hs]

/-- The only slot of a lone pair is its C-slot. -/
theorem runSlots_lone (g : Fin 8) (sw : Bool) (i : Instr) (lit : Half) {s : State} (h : s.issue.pushes = []) :
    runSlots exec (.lone g sw i lit) true s = runC exec (.lone g sw i lit) s := by
  simp only [runSlots, runA, andThen_next, if_true, flushPushes_of_nil h, ite_self]
  split
  · cases runC exec (.lone g sw i lit) s <;> rfl
  · rfl

end Sys2Proof.Machine

namespace Sys2Proof
open Sys2Proof.Machine Sys2Proof.Claims

/-- Settles O42: the crew of a native slot in no gang is the slot alone, so its pair runs by `runSlots` on that slot. -/
theorem stepRunsTheDecodedPair : Obligations.StepRunsTheDecodedPair := by
  unfold Obligations.StepRunsTheDecodedPair
  intro s r c k sl p h hsl hv hg hf hd
  rw [step_of_issues h, issueCrew_of_pair hsl hv hg hf hd]
  split
  · next t a hver => rw [runPair_trap hsl hv hver]; rfl
  · next w hver => rw [runPair_wait hsl hv hver]; rfl
  · next hver =>
    rw [runPair_go hsl hv hver]
    cases p with
    | lone g sw i lit =>
      rw [runSlots_lone _ _ _ _ (by rw [begin_eq hsl]; rfl)]
      rfl
    | normal g sw i a pe =>
      simp only [runSlots, pairC, if_true]
      split
      · rw [andThen_assoc]; rfl
      · rw [andThen_assoc]; rfl

end Sys2Proof
end

section
/-!
PROOFS. Results that arrive and waits that end (R139, R299, R481).
-/
namespace Sys2Proof.Machine
open Sys2Proof Sys2Proof.Claims

/-! ## Delivery of a result -/

/-- A result that is not due, or that a proxy still works on, is not delivered. -/
theorem resultDelivery_idle {s : State} {c k id : Nat} {sl : Slot} (hsl : s.slot c k = some sl)
    (h : ¬ (atProxy s sl id = false ∧ ∃ p ∈ sl.pending, p.id = id ∧ p.due < s.now)) :
    exec (.resultDelivery c k id) s = .next s := by
  show execResultDelivery c k id s = _
  simp only [execResultDelivery, hsl]
  refine if_pos ?_
  simpa [atProxy, or_iff_not_imp_left] using h

/-- One that is due is delivered to its slot. -/
theorem resultDelivery_due {s : State} {c k id : Nat} {sl : Slot} (hsl : s.slot c k = some sl)
    (h : atProxy s sl id = false ∧ ∃ p ∈ sl.pending, p.id = id ∧ p.due < s.now) :
    exec (.resultDelivery c k id) s = .next (s.modSlot c k (Slot.deliver s.now id)) := by
  show execResultDelivery c k id s = _
  simp only [execResultDelivery, hsl]
  refine if_neg ?_
  simpa [atProxy, or_iff_not_imp_left] using h

/-- Delivery marks the results of that number that are still owed. -/
theorem deliver_eq (now id : Nat) (sl : Slot) : Slot.deliver now id sl =
    { sl with pending := sl.pending.map fun p =>
        if p.id = id ∧ p.fixed = false ∧ p.delivered = false then { p with delivered := true, due := now } else p } := by
  simp only [Slot.deliver, Pending.owed, Bool.and_eq_true, Bool.not_eq_true', decide_eq_true_eq]

/-! ## Ends of waits -/

/-- RELEASE_WINDOW looks at the waits that a close, a flip or a fire ends, and at no other. -/
theorem exec_releaseWindow {s : State} {c k : Nat} {sl : Slot} {h : Hold} (hsl : s.slot c k = some sl)
    (hh : sl.hold = some h) :
    exec (.releaseWindow c k) s = .next (if windowed h.w then s.endHold c k else s) := by
  show execReleaseWindow c k s = _
  obtain ⟨w, since, reissue, after⟩ := h
  simp only [execReleaseWindow, hsl, Option.bind_some, hh]
  cases w
  case stall w => cases w <;> rfl
  all_goals rfl

section
variable {s : State} {c k : Nat} {sl : Slot} {h : Hold} (hsl : s.slot c k = some sl) (hh : sl.hold = some h)
include hsl hh

theorem endHold_waiting (hw : s.waitOver c sl h.w = false) : s.endHold c k = s := by
  unfold State.endHold
  rw [hsl]; dsimp only
  rw [hh]; dsimp only
  rw [hw]; rfl

variable (hw : s.waitOver c sl h.w = true)
include hw

/-- The end of a wait before a pair that is still to issue. -/
theorem endHold_reissue (hr : h.reissue = true) : s.endHold c k = s.modSlot c k fun sl => { sl with
    hold := none, readySince := if sl.readySince < h.since then sl.readySince else max s.now sl.gapUntil } := by
  unfold State.endHold
  rw [hsl]; dsimp only
  rw [hh]; dsimp only
  rw [hw, hr]; rfl

variable (hwin : windowed h.w = true) (hr : h.reissue = false)
include hwin hr

/-- The end of a window's wait delivers the count of a fired line to its load, and the next wait begins. -/
theorem endHold_load {d : SDst} {n : Half} (hd : delivered h.w = some (d, n)) :
    s.endHold c k = (s.lateResult c k d n.toNat true).nextWait c k h.after false := by
  obtain ⟨w, since, reissue, after⟩ := h
  simp only at hw hwin hr hd
  subst hr
  unfold State.endHold
  rw [hsl]; dsimp only
  rw [hh]; dsimp only
  rw [hw]
  cases w
  case line cl l fired load => cases fired <;> cases load <;> cases hd; rfl
  all_goals cases hd

theorem endHold_plain (hd : delivered h.w = none) : s.endHold c k = s.nextWait c k h.after false := by
  obtain ⟨w, since, reissue, after⟩ := h
  simp only at hw hwin hr hd
  subst hr
  unfold State.endHold
  rw [hsl]; dsimp only
  rw [hh]; dsimp only
  rw [hw]
  cases w
  case line cl l fired load =>
    cases fired with
    | none => rfl
    | some n => cases load with
      | none => rfl
      | some d => cases hd
  case group | phase => rfl
  case stall w => cases w <;> cases hwin; rfl
  all_goals cases hwin
end

/-! ## A result that comes late -/

/-- A move changes at most the register of a result for a scalar register or for none. -/
theorem moved_scalar {p : Pending} {d : SDst} (h : p.dst = d.reg) (m : TMove) : ∃ r, p.moved m = { p with dst := r } := by
  have hv (n : Nat) : p.dst ≠ .v n := by rw [h]; cases d <;> exact RegDst.noConfusion
  have hp (n : Nat) : p.dst ≠ .p n := by rw [h]; cases d <;> exact RegDst.noConfusion
  cases m with
  | s a b => simp only [Pending.moved]; split <;> exact ⟨_, rfl⟩
  | v a b | elem a b t => exact ⟨_, if_neg (hv a)⟩
  | p a b | all a b => exact ⟨_, if_neg (hp a)⟩

theorem route_scalar {p : Pending} {d : SDst} (h : p.dst = d.reg) (ms : List TMove) :
    ∃ r, p.route ms = { p with dst := r } := by
  unfold Pending.route
  split
  · exact moved_scalar h _
  · exact ⟨_, rfl⟩

theorem slot_nextWait {s : State} {c k : Nat} {sl : Slot} (hsl : s.slot c k = some sl) (after : List Wait) :
    (s.nextWait c k after false).slot c k =
      some { sl with hold := nextHold s.now after, readySince := max s.now sl.gapUntil } := by
  simp only [State.nextWait, State.slot_modSlot, and_self, if_true, hsl, Option.map_some, Bool.false_eq_true, if_false]

/-- A late result is owed to its slot, under its own register where the slot runs no translation. -/
theorem slot_lateResult {s : State} {c k : Nat} {sl : Slot} (hsl : s.slot c k = some sl) (d : SDst) (v : Nat) (m : Bool) :
    ∃ p n, (s.lateResult c k d v m).slot c k = some { sl with pending := sl.pending ++ [p], nextId := n } ∧
      (sl.virt = none → p.dst = d.reg) ∧ p.val = BitVec.ofNat 2048 v ∧ p.owed = true := by
  simp only [State.lateResult, State.slot_modSlot, and_self, if_true, hsl, Option.map_some]
  refine ⟨_, _, rfl, fun hv => ?_, ?_⟩
  · simp only [State.tpair, hv]; rfl
  · generalize hp : Pending.route _ _ = q
    obtain ⟨r, hr⟩ := route_scalar (d := d) (p := _) rfl _ |>.imp fun _ h => hp.symm.trans h
    rw [hr]
    exact ⟨rfl, rfl⟩

/-! ## The slot after a window's wait -/

section
variable {s : State} {c k : Nat} {sl : Slot} {h : Hold} (hsl : s.slot c k = some sl) (hh : sl.hold = some h)
  (hw : s.waitOver c sl h.w = true)
include hsl hh hw

theorem slot_endHold_reissue (hr : h.reissue = true) : (s.endHold c k).slot c k = some { sl with
    hold := none, readySince := if sl.readySince < h.since then sl.readySince else max s.now sl.gapUntil } := by
  rw [endHold_reissue hsl hh hw hr, State.slot_modSlot, if_pos ⟨rfl, rfl⟩, hsl, Option.map_some]

variable (hwin : windowed h.w = true) (hr : h.reissue = false)
include hwin hr

theorem slot_endHold_plain (hd : delivered h.w = none) : (s.endHold c k).slot c k = some { sl with
    hold := nextHold s.now h.after, readySince := max s.now sl.gapUntil } := by
  rw [endHold_plain hsl hh hw hwin hr hd, slot_nextWait hsl]

theorem slot_endHold_load {d : SDst} {n : Half} (hd : delivered h.w = some (d, n)) :
    ∃ x p, (s.endHold c k).slot c k = some x ∧ x.pc = sl.pc ∧ x.hold = nextHold s.now h.after ∧
      x.readySince = max s.now sl.gapUntil ∧ x.pending = sl.pending ++ [p] ∧ (sl.virt = none → p.dst = d.reg) ∧
      p.val = BitVec.ofNat 2048 n.toNat ∧ p.owed = true := by
  obtain ⟨p, i, hlate, hdst, hval, howed⟩ := slot_lateResult hsl d n.toNat true
  have hnow : (s.lateResult c k d n.toNat true).now = s.now := State.modSlot_now _ _ _ _
  rw [endHold_load hsl hh hw hwin hr hd, slot_nextWait hlate, hnow]
  exact ⟨_, p, rfl, rfl, rfl, rfl, rfl, hdst, hval, howed⟩
end

end Sys2Proof.Machine
end

section
/-!
PROOFS. Step boundaries (R84): each member of a crew is given its waits and goes on past the boundary, one by one.
-/
namespace Sys2Proof.Machine
open Sys2Proof Sys2Proof.Claims

/-! ## Changes of one slot -/

/-- Outside their slots the two states agree on what a boundary reads and on what it leaves alone. -/
structure SameRest (s t : State) : Prop where
  now : t.now = s.now
  mem : t.mem = s.mem
  translations : t.translations = s.translations
  stepIds : t.stepIds = s.stepIds

theorem SameRest.refl (s : State) : SameRest s s := ⟨rfl, rfl, rfl, rfl⟩

theorem SameRest.trans {s t u : State} (h : SameRest s t) (k : SameRest t u) : SameRest s u :=
  ⟨k.now.trans h.now, k.mem.trans h.mem, k.translations.trans h.translations, k.stepIds.trans h.stepIds⟩

theorem SameRest.tpair {s t : State} (h : SameRest s t) (sl : Slot) (pc : Nat) : t.tpair sl pc = s.tpair sl pc := by
  simp only [State.tpair, State.translationAt, h.translations]

/-- `t` is `s` with the slot `m` changed by `f`. -/
def ChangesSlot (s t : State) (m : Nat × Nat) (f : Slot → Slot) : Prop :=
  SameRest s t ∧ ∀ n : Nat × Nat, t.slot n.1 n.2 = if n = m then (s.slot n.1 n.2).map f else s.slot n.1 n.2

theorem changesSlot_modSlot (s : State) (m : Nat × Nat) (f : Slot → Slot) : ChangesSlot s (s.modSlot m.1 m.2 f) m f := by
  refine ⟨⟨State.modSlot_now _ _ _ _, State.modSlot_mem _ _ _ _, State.modSlot_translations _ _ _ _,
    State.modSlot_stepIds _ _ _ _⟩, fun n => ?_⟩
  rw [State.slot_modSlot]
  simp only [Prod.ext_iff]

theorem changesSlot_putSlot {s : State} {m : Nat × Nat} {sl : Slot} (hsl : s.slot m.1 m.2 = some sl) (f : Slot → Slot) :
    ChangesSlot s (s.putSlot m.1 m.2 (some (f sl))) m f := by
  refine ⟨⟨rfl, rfl, rfl, rfl⟩, fun n => ?_⟩
  rw [State.slot_putSlot]
  by_cases h : n = m
  · subst h; simp only [and_self, if_true, hsl, Option.map_some]
  · rw [if_neg (fun e => h (Prod.ext e.1 e.2)), if_neg h]

theorem changesSlot_empty {s : State} {m : Nat × Nat} (hsl : s.slot m.1 m.2 = none) (f : Slot → Slot) :
    ChangesSlot s s m f := by
  refine ⟨SameRest.refl s, fun n => ?_⟩
  split
  · next h => rw [h, hsl]; rfl
  · rfl

theorem changesSlot_id (s : State) (m : Nat × Nat) : ChangesSlot s s m id := by
  refine ⟨SameRest.refl s, fun n => ?_⟩
  rw [Option.map_id, id, ite_self]

/-- Changes of slots that are all different leave each slot changed once. -/
theorem slot_foldl {α : Type} {g : State → α → State} {key : α → Nat × Nat} {f : α → Slot → Slot} {s0 : State}
    (hstep : ∀ s a, SameRest s0 s → ChangesSlot s (g s a) (key a) (f a)) (l : List α) (s : State) (hs : SameRest s0 s)
    (hn : (l.map key).Nodup) :
    SameRest s0 (l.foldl g s) ∧
      (∀ a ∈ l, (l.foldl g s).slot (key a).1 (key a).2 = (s.slot (key a).1 (key a).2).map (f a)) ∧
      ∀ n : Nat × Nat, n ∉ l.map key → (l.foldl g s).slot n.1 n.2 = s.slot n.1 n.2 := by
  induction l generalizing s with
  | nil => exact ⟨hs, nofun, fun _ _ => rfl⟩
  | cons a l ih =>
    rw [List.map_cons, List.nodup_cons] at hn
    obtain ⟨hrest, hslot⟩ := hstep s a hs
    obtain ⟨h1, h2, h3⟩ := ih (g s a) (hs.trans hrest) hn.2
    rw [List.foldl_cons]
    refine ⟨h1, fun b hb => ?_, fun n hnn => ?_⟩
    · rcases List.mem_cons.1 hb with rfl | hb
      · rw [h3 _ hn.1, hslot, if_pos rfl]
      · rw [h2 b hb, hslot, if_neg fun e : key b = key a => hn.1 (by rw [← e]; exact List.mem_map_of_mem hb)]
    · rw [List.map_cons, List.mem_cons, not_or] at hnn
      rw [h3 n hnn.2, hslot, if_neg hnn.1]

/-! ## A member at a boundary -/

/-- A slot given its waits, as far as there are any. -/
def startHold (now : Nat) (ws : List Wait) (sl : Slot) : Slot :=
  { sl with hold := (nextHold now ws).orElse fun _ => sl.hold }

/-- A slot past the boundary at which it stands. -/
def pastBoundary (s : State) (sl : Slot) : Slot :=
  match sl.virt, s.tpair sl sl.pc.toNat with
  | some v, some t => s.goOn 0 ((sl.routed t.moves).passed s.now sl.pc sl.pc 0 t.waits) v t .seq
  | _, _ => sl.passed s.now sl.pc (sl.pc + 8) 0 []

theorem finishPair_boundary {s : State} {c k : Nat} {sl : Slot} (hsl : s.slot c k = some sl) :
    s.finishPair c k (.lone 0 false .nopC 0) (sl.pc + 8) s .seq = s.putSlot c k (some (pastBoundary s sl)) := by
  unfold State.finishPair pastBoundary
  simp only [hsl, Option.bind_some]
  cases hv : sl.virt with
  | none => rfl
  | some v =>
    cases s.tpair sl sl.pc.toNat with
    | none => rfl
    | some t => rfl

theorem pastBoundary_congr {s t : State} (h : SameRest s t) (sl : Slot) : pastBoundary t sl = pastBoundary s sl := by
  simp only [pastBoundary, h.tpair, h.now]
  rfl

theorem pastBoundary_pc (s : State) (sl : Slot) : (pastBoundary s sl).pc = sl.pc + 8 := by
  unfold pastBoundary
  split <;> rfl

/-- The waits of a member are followed by those of its pair. -/
theorem pastBoundary_hold {s : State} {sl : Slot} {p : TPair} {h : Hold} (hv : sl.virt.isSome = true)
    (ht : s.tpair sl sl.pc.toNat = some p) (hh : sl.hold = some h) :
    (pastBoundary s sl).hold = some { h with after := h.after ++ p.waits } := by
  obtain ⟨v, hv⟩ := Option.isSome_iff_exists.1 hv
  unfold pastBoundary
  rw [hv, ht]
  simp only [State.goOn, Slot.passed, Slot.routed, hh, TPair.waits]
  split <;> simp_all

/-- The waits that a boundary gives to member j of its crew: only the first advances the phase. -/
def memberWaits (own : Nat → Nat → List Wait) (m : Nat × Nat) (j : Nat) : List Wait :=
  if j = 0 then own m.1 m.2 else (own m.1 m.2).filter (· ≠ .stepPhase)

/-- One member of a crew, with its place in it, is given its waits. -/
def holdMember (own : Nat → Nat → List Wait) (s : State) (x : (Nat × Nat) × Nat) : State :=
  match nextHold s.now (memberWaits own x.1 x.2) with
  | some h => s.modSlot x.1.1 x.1.2 fun sl => { sl with hold := some h }
  | none => s

/-- One member of a crew goes on past the boundary. -/
def passMember (s : State) (m : Nat × Nat) : State :=
  match s.slot m.1 m.2 with
  | some sl => s.finishPair m.1 m.2 (.lone 0 false .nopC 0) (sl.pc + 8) s .seq
  | none => s

theorem openStep_eq (s : State) (crew : List (Nat × Nat)) (own : Nat → Nat → List Wait) :
    s.openStep crew own = crew.foldl passMember (crew.zipIdx.foldl (holdMember own) s) := rfl

theorem changesSlot_holdMember {s0 s : State} (own : Nat → Nat → List Wait) (x : (Nat × Nat) × Nat) (h : SameRest s0 s) :
    ChangesSlot s (holdMember own s x) x.1 (startHold s0.now (memberWaits own x.1 x.2)) := by
  unfold holdMember startHold
  rw [h.now]
  split
  · next w hw => rw [hw]; exact changesSlot_modSlot s x.1 _
  · next hw => rw [hw]; exact changesSlot_id s x.1

theorem changesSlot_passMember {s0 s : State} (m : Nat × Nat) (h : SameRest s0 s) :
    ChangesSlot s (passMember s m) m (pastBoundary s0) := by
  unfold passMember
  split
  · next sl hsl =>
    rw [finishPair_boundary hsl, pastBoundary_congr h]
    exact changesSlot_putSlot hsl _
  · next hsl => exact changesSlot_empty hsl _

/-- A boundary opens: every member of the crew has its waits and stands past the boundary. -/
theorem slot_openStep (s : State) {crew : List (Nat × Nat)} (own : Nat → Nat → List Wait) (hn : crew.Nodup) :
    SameRest s (s.openStep crew own) ∧ ∀ j m, crew[j]? = some m → ∀ sl, s.slot m.1 m.2 = some sl →
      (s.openStep crew own).slot m.1 m.2 = some (pastBoundary s (startHold s.now (memberWaits own m j) sl)) := by
  rw [openStep_eq]
  obtain ⟨h1, h2, -⟩ := slot_foldl (key := Prod.fst) (fun _ x h => changesSlot_holdMember own x h) crew.zipIdx s
    (SameRest.refl s) (by rwa [List.zipIdx_map_fst])
  obtain ⟨h3, h4, -⟩ := slot_foldl (key := id) (fun _ m h => changesSlot_passMember m h) crew _ h1 (by rwa [List.map_id])
  refine ⟨h3, fun j m hj sl hsl => ?_⟩
  have hx : (m, j) ∈ crew.zipIdx := List.mem_zipIdx_iff_getElem?.2 hj
  exact (h4 m (List.mem_of_getElem? hj)).trans (by rw [id, h2 _ hx, hsl]; rfl)

end Sys2Proof.Machine
end

section
/-!
PROOFS. The two boundaries of a step: which trap, and what opens (R84, R85).
-/
namespace Sys2Proof.Machine
open Sys2Proof Sys2Proof.Claims

section
variable {s : State} {c k : Nat}

/-- A slot that stands at a pair of its translation has one. -/
theorem virt_of_standsAt {sl : Slot} {a : TAct} (hsl : s.slot c k = some sl) (h : s.standsAt c k a = true) :
    sl.virt.isSome = true := by
  unfold State.standsAt at h
  simp only [hsl] at h
  split at h
  · next hv _ => rw [hv]; rfl
  · cases h

/-- The first member of a crew that faults at a boundary with these transfers, and its trap. -/
def crewFault (s : State) (xs : List Xfer) (crew : List (Nat × Nat)) : Option ((Nat × Nat) × Trap) :=
  crew.findSome? fun m => ((s.slot m.1 m.2).bind (boundaryTrap s xs)).map fun t => (m, t)

theorem crewFault_single {sl : Slot} (hsl : s.slot c k = some sl) (xs : List Xfer) :
    crewFault s xs [(c, k)] = (boundaryTrap s xs sl).map fun t => ((c, k), t) := by
  simp only [crewFault, List.findSome?_cons, List.findSome?_nil, hsl, Option.bind_some]
  cases boundaryTrap s xs sl <;> rfl

theorem crewFault_eq_none {xs : List Xfer} {crew : List (Nat × Nat)}
    (h : ∀ m ∈ crew, ∃ x, s.slot m.1 m.2 = some x ∧ boundaryTrap s xs x = none) : crewFault s xs crew = none := by
  rw [crewFault, List.findSome?_eq_none_iff]
  intro m hm
  obtain ⟨x, hx, ht⟩ := h m hm
  simp only [hx, Option.bind_some, ht, Option.map_none]

/-! ## STEP_COMM_OPEN -/

/-- The waits of a member at a communication boundary. -/
def commWaits (s : State) (xs : List Xfer) (c k : Nat) : List Wait :=
  match s.slot c k with
  | some x => [.stepPhase, .stepPush (transfers x xs)]
  | none => []

theorem stepCommOpen_idle {xs : List Xfer} (h : s.standsAt c k (.boundary (some xs)) = false) :
    exec (.stepCommOpen c k xs) s = .next s := by
  show execStepCommOpen c k xs s = _
  unfold execStepCommOpen
  split
  · rfl
  · rw [h]; rfl

section
variable {sl : Slot} {xs : List Xfer} (hsl : s.slot c k = some sl)
  (hst : s.standsAt c k (.boundary (some xs)) = true)
include hsl hst

theorem stepCommOpen_traps {m : Nat × Nat} {t : Trap} (hf : crewFault s xs (sl.crew c k) = some (m, t)) :
    exec (.stepCommOpen c k xs) s = .next (trapAt s m.1 m.2 t) := by
  show execStepCommOpen c k xs s = _
  unfold execStepCommOpen
  rw [hsl]; dsimp only
  rw [hst, show List.findSome? (fun m => ((s.slot m.1 m.2).bind fun x =>
    (xs.findSome? x.xferFault).orElse fun _ => s.boundaryFault x).map fun t => (m, t)) (sl.crew c k) = _ from hf]
  rfl

theorem stepCommOpen_opens (hf : crewFault s xs (sl.crew c k) = none) :
    exec (.stepCommOpen c k xs) s = .next (s.openStep (sl.crew c k) (commWaits s xs)) := by
  show execStepCommOpen c k xs s = _
  unfold execStepCommOpen
  rw [hsl]; dsimp only
  rw [hst, show List.findSome? (fun m => ((s.slot m.1 m.2).bind fun x =>
    (xs.findSome? x.xferFault).orElse fun _ => s.boundaryFault x).map fun t => (m, t)) (sl.crew c k) = _ from hf]
  rfl
end

/-! ## STEP_COMPUTE_OPEN -/

/-- The packets of the step before, for whose end a compute boundary waits, and its phase. -/
def computeWaits (s : State) (sl : Slot) (crew : List (Nat × Nat)) (c : Nat) : List Wait :=
  (s.stepIds.filterMap fun x =>
    if x.1 = ⟨sl.ctx, sl.idx⟩ && x.2.2.1 = sl.callDepth && (x.2.1 = c || crew.length = 1) then
      some (.stepXfers x.2.1 x.2.2.2) else none) ++ [.stepPhase]

/-- The crew of a slot with its compute step open. -/
def computeOpened (s : State) (sl : Slot) (crew : List (Nat × Nat)) : State :=
  s.openStep crew fun c _ => computeWaits s sl crew c

/-- What is left of the packets on record once a slot has opened its compute step. -/
def otherStepIds (s : State) (sl : Slot) : List (RecId × Nat × Nat × List (Nat × Half)) :=
  s.stepIds.filter fun x => !(x.1 == ⟨sl.ctx, sl.idx⟩ && x.2.2.1 == sl.callDepth)

theorem stepComputeOpen_idle (h : s.standsAt c k (.boundary none) = false) :
    exec (.stepComputeOpen c k) s = .next s := by
  show execStepComputeOpen c k s = _
  unfold execStepComputeOpen
  split
  · rfl
  · rw [h]; rfl

section
variable {sl : Slot} (hsl : s.slot c k = some sl) (hst : s.standsAt c k (.boundary none) = true)
include hsl hst

theorem stepComputeOpen_traps {m : Nat × Nat} {t : Trap} (hf : crewFault s [] (sl.crew c k) = some (m, t)) :
    exec (.stepComputeOpen c k) s = .next (trapAt s m.1 m.2 t) := by
  show execStepComputeOpen c k s = _
  unfold execStepComputeOpen
  rw [hsl]; dsimp only
  rw [hst, show List.findSome? (fun m => ((s.slot m.1 m.2).bind s.boundaryFault).map fun t => (m, t)) (sl.crew c k) = _
      from hf]
  rfl

/-- The crew opens its step, and the packets on record are forgotten. -/
theorem stepComputeOpen_opens (hf : crewFault s [] (sl.crew c k) = none) :
    exec (.stepComputeOpen c k) s = .next { computeOpened s sl (sl.crew c k) with
      stepIds := otherStepIds (computeOpened s sl (sl.crew c k)) sl } := by
  show execStepComputeOpen c k s = _
  unfold execStepComputeOpen
  rw [hsl]; dsimp only
  rw [hst, show List.findSome? (fun m => ((s.slot m.1 m.2).bind s.boundaryFault).map fun t => (m, t)) (sl.crew c k) = _
      from hf]
  rfl
end
end

end Sys2Proof.Machine
end

section
/-!
PROOFS. Boundaries of a lone slot and of a gang, member by member (R84), and the obligation on results, waits and boundaries.
-/
namespace Sys2Proof.Machine
open Sys2Proof Sys2Proof.Claims

section
variable {s : State} {c k : Nat}

/-- A lone slot stands after the boundary with its own waits, then its pair's. -/
theorem standsAfter_openStep {sl : Slot} {a : Option (List Xfer)} {p : TPair} (hat : atBoundary s c k sl a p)
    {own : Nat → Nat → List Wait} {h : Hold} (hh : nextHold s.now (own c k) = some h) :
    standsAfter (s.openStep [(c, k)] own) c k sl { h with after := h.after ++ p.waits } := by
  obtain ⟨⟨hsl, -⟩, hst, hp⟩ := hat
  have hv := virt_of_standsAt hsl hst
  have hx := (slot_openStep s own (List.nodup_singleton (c, k))).2 0 (c, k) rfl sl hsl
  refine ⟨_, hx, pastBoundary_pc _ _, pastBoundary_hold hv hp ?_⟩
  simp only [startHold, memberWaits, if_true, hh, Option.orElse_some]

theorem crew_of_gang {g : Gang} (hg : (s.slot c k).bind Slot.gangInfo = some g) :
    ∃ sl, s.slot c k = some sl ∧ sl.crew c k = g.members := by
  obtain ⟨sl, hsl, hgi⟩ := Option.bind_eq_some_iff.1 hg
  exact ⟨sl, hsl, by simp only [Slot.crew, hgi]⟩

/-- What a member of a gang has once its boundary opens, by its place: the first alone advances the phase. -/
theorem member_openStep {a : Option (List Xfer)} {g : Gang} (hat : gangAtBoundary s c k a g)
    (own : Nat → Nat → List Wait) {m : Nat × Nat} (hm : m ∈ g.members) {x : Slot} (hx : s.slot m.1 m.2 = some x) :
    ∃ j, (j = 0 ↔ g.members.head? = some m) ∧ (s.openStep g.members own).slot m.1 m.2 =
      some (pastBoundary s (startHold s.now (memberWaits own m j) x)) := by
  obtain ⟨-, -, hn, -⟩ := hat
  obtain ⟨j, hj⟩ := List.mem_iff_getElem?.1 hm
  refine ⟨j, ?_, (slot_openStep s own hn).2 j m hj x hx⟩
  rw [List.head?_eq_getElem?]
  refine ⟨fun h0 => h0 ▸ hj, fun h0 => ?_⟩
  exact (List.getElem?_inj (List.getElem?_eq_some_iff.1 hj).1 hn).1 (hj.trans h0.symm)

theorem crewFault_gang {a : Option (List Xfer)} {g : Gang} (hat : gangAtBoundary s c k a g) :
    crewFault s (a.getD []) g.members = none := by
  obtain ⟨-, -, -, hm⟩ := hat
  refine crewFault_eq_none fun m hmem => ?_
  obtain ⟨x, hx, -, -, ht⟩ := hm m hmem
  exact ⟨x, hx, ht⟩

/-- Every member of a gang stands after a communication boundary: the first with the phase, the others with their packets. -/
theorem gangStandsAfter_comm {xs : List Xfer} {g : Gang} (hat : gangAtBoundary s c k (some xs) g) :
    gangStandsAfter s (s.openStep g.members (commWaits s xs)) g .stepPhase fun x => .stepPush (transfers x xs) := by
  intro m hm x hx
  obtain ⟨j, hj, hslot⟩ := member_openStep hat (commWaits s xs) hm hx
  obtain ⟨-, -, -, hall⟩ := hat
  obtain ⟨x', hx', hv, hp, -⟩ := hall m hm
  obtain rfl : x' = x := Option.some.inj (hx'.symm.trans hx)
  obtain ⟨p, hp⟩ := Option.isSome_iff_exists.1 hp
  have hown : commWaits s xs m.1 m.2 = [.stepPhase, .stepPush (transfers x' xs)] := by simp only [commWaits, hx]
  by_cases h0 : j = 0
  · have hh : (startHold s.now (memberWaits (commWaits s xs) m j) x').hold =
        some ⟨.stepPhase, s.now, false, [.stepPush (transfers x' xs)]⟩ := by
      simp only [startHold, memberWaits, h0, if_true, hown]; rfl
    exact ⟨_, _, hslot, pastBoundary_pc _ _, pastBoundary_hold hv hp hh, (if_pos (hj.1 h0)).symm⟩
  · have hh : (startHold s.now (memberWaits (commWaits s xs) m j) x').hold =
        some ⟨.stepPush (transfers x' xs), s.now, false, []⟩ := by
      simp only [startHold, memberWaits, h0, if_false, hown]; rfl
    exact ⟨_, _, hslot, pastBoundary_pc _ _, pastBoundary_hold hv hp hh, (if_neg fun h => h0 (hj.2 h)).symm⟩

theorem openStep_single_rest (own : Nat → Nat → List Wait) : SameRest s (s.openStep [(c, k)] own) :=
  (slot_openStep s own (List.nodup_singleton (c, k))).1

section
variable {sl : Slot} {xs : List Xfer} {p : TPair} (hat : atBoundary s c k sl (some xs) p)
include hat

theorem stepCommOpen_traps_single {t : Trap} (ht : boundaryTrap s xs sl = some t) :
    exec (.stepCommOpen c k xs) s = .next (trapAt s c k t) := by
  obtain ⟨⟨hsl, hg⟩, hst, -⟩ := hat
  exact stepCommOpen_traps (m := (c, k)) hsl hst (by rw [crew_of_single hg, crewFault_single hsl, ht]; rfl)

theorem stepCommOpen_opens_single (ht : boundaryTrap s xs sl = none) :
    exec (.stepCommOpen c k xs) s = .next (s.openStep [(c, k)] (commWaits s xs)) ∧
      standsAfter (s.openStep [(c, k)] (commWaits s xs)) c k sl
        ⟨.stepPhase, s.now, false, .stepPush (transfers sl xs) :: p.waits⟩ := by
  have hopen := hat
  obtain ⟨⟨hsl, hg⟩, hst, -⟩ := hat
  have hcrew := crew_of_single hg c k
  have hown : nextHold s.now (commWaits s xs c k) = some ⟨.stepPhase, s.now, false, [.stepPush (transfers sl xs)]⟩ := by
    simp only [commWaits, hsl]; rfl
  have hx := stepCommOpen_opens hsl hst (by rw [hcrew, crewFault_single hsl, ht]; rfl)
  rw [hcrew] at hx
  exact ⟨hx, standsAfter_openStep hopen hown⟩
end

/-- A lone slot at a compute boundary whose last communication step is on record waits for its packets, then the phase. -/
theorem nextHold_computeWaits_recorded {sl : Slot} {n : Nat} {ids : List (Nat × Half)}
    (h : s.stepIds = [(⟨sl.ctx, sl.idx⟩, n, sl.callDepth, ids)]) :
    nextHold s.now (computeWaits s sl [(c, k)] c) = some ⟨.stepXfers n ids, s.now, false, [.stepPhase]⟩ := by
  simp [computeWaits, h, nextHold]

theorem nextHold_computeWaits_none {sl : Slot} (h : ∀ x ∈ s.stepIds, x.1 ≠ ⟨sl.ctx, sl.idx⟩) :
    nextHold s.now (computeWaits s sl [(c, k)] c) = some ⟨.stepPhase, s.now, false, []⟩ := by
  have hnil : (s.stepIds.filterMap fun x =>
      if x.1 = ⟨sl.ctx, sl.idx⟩ && x.2.2.1 = sl.callDepth && (x.2.1 = c || [(c, k)].length = 1) then
        some (Wait.stepXfers x.2.1 x.2.2.2) else none) = [] := by
    rw [List.filterMap_eq_nil_iff]
    intro x hx
    simp [h x hx]
  rw [computeWaits, hnil]
  rfl

section
variable {sl : Slot} {p : TPair} (hat : atBoundary s c k sl none p)
include hat

theorem stepComputeOpen_traps_single {t : Trap} (ht : boundaryTrap s [] sl = some t) :
    exec (.stepComputeOpen c k) s = .next (trapAt s c k t) := by
  obtain ⟨⟨hsl, hg⟩, hst, -⟩ := hat
  exact stepComputeOpen_traps (m := (c, k)) hsl hst (by rw [crew_of_single hg, crewFault_single hsl, ht]; rfl)

theorem stepComputeOpen_opens_single (ht : boundaryTrap s [] sl = none) {h : Hold}
    (hh : nextHold s.now (computeWaits s sl [(c, k)] c) = some h) :
    StepsTo (.stepComputeOpen c k) s fun t =>
      standsAfter t c k sl { h with after := h.after ++ p.waits } ∧ t.stepIds = otherStepIds s sl := by
  have hopen := hat
  obtain ⟨⟨hsl, hg⟩, hst, -⟩ := hat
  have hcrew := crew_of_single hg c k
  have hx := stepComputeOpen_opens hsl hst (by rw [hcrew, crewFault_single hsl, ht]; rfl)
  rw [hcrew] at hx
  refine ⟨_, hx, standsAfter_openStep (own := fun c _ => computeWaits s sl [(c, k)] c) hopen hh, ?_⟩
  show otherStepIds (computeOpened s sl [(c, k)]) sl = _
  rw [otherStepIds, computeOpened, (openStep_single_rest _).stepIds]
  rfl
end

/-- With every packet on record its own, none is left; with none its own, all are. -/
theorem otherStepIds_recorded {sl : Slot} {n : Nat} {ids : List (Nat × Half)}
    (h : s.stepIds = [(⟨sl.ctx, sl.idx⟩, n, sl.callDepth, ids)]) : otherStepIds s sl = [] := by
  simp [otherStepIds, h]

theorem otherStepIds_none {sl : Slot} (h : ∀ x ∈ s.stepIds, x.1 ≠ ⟨sl.ctx, sl.idx⟩) : otherStepIds s sl = s.stepIds := by
  rw [otherStepIds, List.filter_eq_self]
  intro x hx
  simp [h x hx]

/-- The members of a gang all stand past a compute boundary, and its own packets are no longer on record. -/
theorem stepComputeOpen_gang {g : Gang} (hat : gangAtBoundary s c k none g) :
    StepsTo (.stepComputeOpen c k) s fun t =>
      (∀ m ∈ g.members, ∀ x, s.slot m.1 m.2 = some x → ∃ y, t.slot m.1 m.2 = some y ∧ y.pc = x.pc + 8) ∧
      ∀ x ∈ t.stepIds, ∀ sl, s.slot c k = some sl → x.1 = ⟨sl.ctx, sl.idx⟩ → x.2.2.1 ≠ sl.callDepth := by
  obtain ⟨sl, hsl, hcrew⟩ := crew_of_gang hat.1
  have hx := stepComputeOpen_opens hsl hat.2.1 (hcrew ▸ crewFault_gang hat)
  rw [hcrew] at hx
  refine ⟨_, hx, fun m hm x hx => ?_, fun x hx sl' hsl' hr => ?_⟩
  · obtain ⟨j, -, hslot⟩ := member_openStep hat (fun c _ => computeWaits s sl g.members c) hm hx
    exact ⟨_, hslot, pastBoundary_pc _ _⟩
  · obtain rfl : sl = sl' := Option.some.inj (hsl.symm.trans hsl')
    have hf := (List.mem_filter.1 (show x ∈ otherStepIds (computeOpened s sl g.members) sl from hx)).2
    simpa [hr] using hf

theorem stepCommOpen_gang {g : Gang} {xs : List Xfer} (hat : gangAtBoundary s c k (some xs) g) :
    exec (.stepCommOpen c k xs) s = .next (s.openStep g.members (commWaits s xs)) := by
  obtain ⟨sl, hsl, hcrew⟩ := crew_of_gang hat.1
  have hx := stepCommOpen_opens hsl hat.2.1 (hcrew ▸ crewFault_gang hat)
  rwa [hcrew] at hx
end

end Sys2Proof.Machine

namespace Sys2Proof
open Sys2Proof.Machine Sys2Proof.Claims

/-- Settles O46: each step of the device has its equation above; a boundary's effect is `slot_openStep`. -/
theorem resultsWaitsAndBoundaries : Obligations.ResultsWaitsAndBoundaries := by
  unfold Obligations.ResultsWaitsAndBoundaries
  refine ⟨?delivery, ?window, ?idle, ?comm, ?commGang, ?compute, ?computeGang, ?unassigned, ?lowered⟩
  case delivery =>
    intro s c k sl id hsl due
    refine ⟨resultDelivery_idle hsl, fun h => ⟨_, resultDelivery_due hsl h, ?_, fun c' k' hne => ?_,
      State.modSlot_mem _ _ _ _, State.modSlot_lines _ _ _ _⟩⟩
    · rw [State.slot_modSlot, if_pos ⟨rfl, rfl⟩, hsl, Option.map_some, deliver_eq]
    · rw [State.slot_modSlot, if_neg (by omega)]
  case window =>
    intro s c k sl h hsl hh
    rw [Steps, StepsTo, exec_releaseWindow hsl hh]
    refine ⟨fun ho => ?_, fun hwin hw => ⟨_, congrArg _ (if_pos hwin), ?_⟩⟩
    · rcases ho with ho | ho
      · rw [ho]; rfl
      · rw [endHold_waiting hsl hh ho, ite_self]
    cases hr : h.reissue with
    | true => exact ⟨_, slot_endHold_reissue hsl hh hw hr, rfl, fun _ => ⟨rfl, rfl, rfl⟩, nofun⟩
    | false =>
      cases hd : delivered h.w with
      | none => exact ⟨_, slot_endHold_plain hsl hh hw hwin hr hd, rfl, nofun, fun _ => ⟨rfl, rfl, rfl⟩⟩
      | some dn =>
        obtain ⟨x, p, hx, hpc, hhold, hready, hpend⟩ := slot_endHold_load hsl hh hw hwin hr hd
        exact ⟨x, hx, hpc, nofun, fun _ => ⟨hhold, hready, p, hpend⟩⟩
  case idle => exact fun s c k xs => ⟨stepCommOpen_idle, stepComputeOpen_idle⟩
  case comm =>
    intro s c k sl xs p hat
    refine ⟨fun t ht => stepCommOpen_traps_single hat ht, fun ht => ?_⟩
    obtain ⟨hx, hafter⟩ := stepCommOpen_opens_single hat ht
    exact ⟨_, hx, hafter, (openStep_single_rest _).mem⟩
  case commGang =>
    exact fun s c k g xs hat =>
      ⟨_, stepCommOpen_gang hat, gangStandsAfter_comm hat, (slot_openStep s _ hat.2.2.1).1.mem⟩
  case compute =>
    intro s c k sl p hat
    refine ⟨fun t ht => stepComputeOpen_traps_single hat ht, fun ht n ids hids => ?_, fun ht hids => ?_⟩
    · obtain ⟨t, hx, hafter, hrec⟩ := stepComputeOpen_opens_single hat ht (nextHold_computeWaits_recorded hids)
      exact ⟨t, hx, hafter, hrec.trans (otherStepIds_recorded hids)⟩
    · obtain ⟨t, hx, hafter, hrec⟩ := stepComputeOpen_opens_single hat ht (nextHold_computeWaits_none hids)
      exact ⟨t, hx, hafter, hrec.trans (otherStepIds_none hids)⟩
  case computeGang => exact fun s c k g hat => stepComputeOpen_gang hat
  case unassigned =>
    intro s aslot op sl hcur hpc
    show execUnassignedOpcode aslot op s = _
    simp only [execUnassignedOpcode, hcur, if_pos hpc]
    rfl
  case lowered =>
    intro s c k tr id cap
    refine ⟨fun h => ?_, fun h => ?_⟩
    · show execLoweredFaultReached c k tr id cap s = _
      simp only [execLoweredFaultReached, h, Bool.false_eq_true, if_false]
    · show execLoweredFaultReached c k tr id cap s = _
      simp only [execLoweredFaultReached, h, if_true]
      rfl

end Sys2Proof
end

section
/-!
PROOFS. What a LOAD_OBJECT that passes does to the generation of the handle it gives (R101, R432), and the refutation of the
obligation on objects, translations and walks.
-/
namespace Sys2Proof.Machine
open Sys2Proof

/-- A sparse map keeps no entry for its default, so after a write of the default a read answers whatever default the
reader names. -/
theorem sget_sset_default {α : Type} [DecidableEq α] (d d' : α) (m : List (Nat × α)) (k : Nat) :
    sget d (sset d' m k d') k = d := by
  rw [sset, if_pos rfl, sget_sdel, if_pos rfl]

/-- LOAD_OBJECT of a verified image goes on to the checks and the installation. -/
theorem exec_loadObject_verified (s : State) (ctx : Nat) (place : LoadPlace) {img : List Byte} {l : List Sect}
    (hv : verify img = 0) (hl : parseSects img = some l) :
    exec (.loadObject ctx img place) s =
      .next (s.finishLoad ctx img place.base l ((parseSyms (bytesOf img l 0x8004)).getD []) place.dom0) := by
  show execLoadObject ctx img place s = _
  simp only [execLoadObject, hv, hl]

/-- A load that passes its checks writes 0 to the generation of the handle it answers. -/
theorem finishLoad_handleGen {s : State} {ctx : Nat} {img : List Byte} {place : Nat} {l : List Sect} {syms : List Sym}
    {dom0 : List Dom0} (h : s.loadFault ctx img place l syms dom0.length = 0) :
    ∃ m, (s.finishLoad ctx img place l syms dom0).handleGen =
      sset 0 m (s.finishLoad ctx img place l syms dom0).loaded.2 0 := by
  simp only [State.finishLoad, h, ne_eq, not_true_eq_false, if_false]
  exact ⟨_, rfl⟩

/-- After a load that passes, the generation of its handle is not listed: a read answers the reader's own default. The
machine reads it with 0, the value a fresh handle is to have. -/
theorem sget_handleGen_loadObject {s t : State} {ctx : Nat} {img : List Byte} {place : LoadPlace} {l : List Sect}
    (hv : verify img = 0) (hl : parseSects img = some l)
    (h : s.loadFault ctx img place.base l ((parseSyms (bytesOf img l 0x8004)).getD []) place.dom0.length = 0)
    (hx : exec (.loadObject ctx img place) s = .next t) (d : Half) : sget d t.handleGen t.loaded.2 = d := by
  rw [exec_loadObject_verified s ctx place hv hl] at hx
  obtain rfl := Host.Outcome.next.inj hx
  obtain ⟨m, hm⟩ := finishLoad_handleGen h
  rw [hm, sget_sset_default]

end Sys2Proof.Machine

namespace Sys2Proof
open Sys2Proof.Machine Sys2Proof.Claims

/-! ## An object that loads in the state after reset -/

/-- A code object with nothing in it: the header of 64 bytes (R93), its DIGEST worked out beforehand, and the entries of the
four required sections, 0x8001 to 0x8004, each empty. -/
def bareObject : List Byte := leBytes 160 0xa00000000000008004000000000000000000000000000000a00000000000008003000000000000000000000000000000a00000000000008002000000000000000000000000000000a0000000000000800103553e2a7c67c1a02a1cae5cb5fab1e757cf564f800c873f000000000000000000000000000000a000000000000000400000000400000000004001004f464c4e

/-- It is loaded at address 0, and the request has no `dom0` clause. -/
def barePlace : LoadPlace := ⟨0, []⟩

def bareSects : List Sect := (parseSects bareObject).getD []

theorem verify_bareObject : verify bareObject = 0 := by decide +kernel

theorem parseSects_bareObject : parseSects bareObject = some bareSects := by decide +kernel

theorem loadFault_reset_bareObject : State.reset.loadFault 0 bareObject barePlace.base bareSects
    ((parseSyms (bytesOf bareObject bareSects 0x8004)).getD []) barePlace.dom0.length = 0 := by decide +kernel

/-- Refutes O51: its clause on a load that passes reads the generation of the new handle with default 1, but the
generation 0 that the load writes is the map's own default and so is not listed: the read answers 1. The bare object,
loaded in the state after reset, is an instance. (A read with default 0, as the machine makes it, answers 0 by
`sget_handleGen_loadObject`.) -/
theorem not_objectsTranslationsAndWalks : ¬ Obligations.ObjectsTranslationsAndWalks := by
  unfold Obligations.ObjectsTranslationsAndWalks
  rintro ⟨hload, -, -, -⟩
  obtain ⟨-, -, hpass⟩ := (hload State.reset 0 bareObject barePlace).2 bareSects verify_bareObject parseSects_bareObject
  obtain ⟨t, hexec, o, -, -, hloaded, hgen⟩ := hpass loadFault_reset_bareObject
  have hone := sget_handleGen_loadObject verify_bareObject parseSects_bareObject loadFault_reset_bareObject hexec 1
  rw [hloaded, hgen] at hone
  exact absurd hone (by decide)

end Sys2Proof
end

section
/-!
PROOFS. The four CSR instructions (R131, R133, R182): what their plans check, and when they act.
-/
namespace Sys2Proof.Machine
open Sys2Proof Sys2Proof.Claims

/-! ## The right and the privilege to write a CSR -/

theorem toNat_eq_csr (num : BitVec 12) {n : Nat} (hn : n < 4096) : num.toNat = n ↔ num = BitVec.ofNat 12 n := by
  rw [BitVec.toNat_eq, BitVec.toNat_ofNat, Nat.mod_eq_of_lt hn]

theorem csrBad_of_writable {s : State} {num : BitVec 12}
    (h : csrWritable num.toNat = true ∨ (num = 0x055 ∧ supervisor s = true)) : csrBad s num.toNat = none := by
  rcases h with h | ⟨rfl, h⟩
  · simp only [csrBad, h, Bool.true_or, if_true]
  · simp [csrBad, h, INBOXST]

theorem csrBad_of_readOnly {s : State} {num : BitVec 12}
    (h : ¬ (csrWritable num.toNat = true ∨ (num = 0x055 ∧ supervisor s = true))) : csrBad s num.toNat = some 1 := by
  refine if_neg fun hc => h ?_
  simp only [Bool.or_eq_true, Bool.and_eq_true, decide_eq_true_eq] at hc
  exact hc.imp_right fun ⟨hn, hs⟩ => ⟨(toNat_eq_csr num (by decide)).1 hn, hs⟩

theorem csrWritable_of_super {n : Nat} (h : csrSuper n = true) : csrWritable n = true := by
  simp only [csrWritable, h, Bool.or_true]

theorem csrPriv_of_allowed {s : State} {n : Nat} (h : csrSuper n = true → supervisor s = true) : csrPriv s n = none := by
  refine if_neg ?_
  simpa using h

theorem csrPriv_of_program {s : State} {n : Nat} (hn : csrSuper n = true) (hs : supervisor s = false) :
    csrPriv s n = some (1 + n * 65536) := by
  simp [csrPriv, hn, hs]

/-! ## The checks of a write -/

/-- Clearing bits 4:0 rounds down to a multiple of 32. -/
theorem toNat_sub_and_31 (v : Word) : (v - (v &&& 31)).toNat = v.toNat / 32 * 32 := by
  have hand : (v &&& 31).toNat = v.toNat % 32 := by
    rw [BitVec.toNat_and]; exact Nat.and_two_pow_sub_one_eq_mod _ 5
  have hlt := v.isLt
  rw [BitVec.toNat_sub, hand]
  omega

theorem dreqFault_eq (s : State) (n : Nat) (v : Word) : dreqFault s n v = if n = 0x0C4 then dreqAccess s v else none := by
  simp only [dreqFault, DREQ, dreqAccess, toNat_sub_and_31]

/-- A write of DREQ accesses its request block; one of DREQ or SAVEBASE is a release. -/
theorem csrPlan_fault (s : State) (i : Instr) (op : Nat) (num : BitVec 12) (d : SSrc) :
    (csrPlan i op num d).fault s =
      ((if num = 0x0C4 then dreqAccess s (written op (csrOf s 0x0C4) (readS s i 0 d)) else none).orElse fun _ =>
        if num = 0x0C4 ∨ num = 0x0C1 then failedWrites s false else none) := by
  have hd : num.toNat = 0x0C4 ↔ num = 0x0C4 := toNat_eq_csr num (by decide)
  have hs : num.toNat = 0x0C1 ↔ num = 0x0C1 := toNat_eq_csr num (by decide)
  have hw : (if op = 0 then dreqFault s num.toNat (readS s i 0 d)
      else dreqFault s num.toNat (csrNew op (s.csr s.issue.core s.issue.slot num.toNat) (readS s i 0 d))) =
      if num = 0x0C4 then dreqAccess s (written op (csrOf s 0x0C4) (readS s i 0 d)) else none := by
    simp only [dreqFault_eq, hd]
    by_cases hn : num = 0x0C4
    · subst hn
      simp only [if_true, written, csrNew]
      split <;> rfl
    · simp only [if_neg hn, ite_self]
  simp only [csrPlan, hw, DREQ, hd, hs, Bool.or_eq_true, decide_eq_true_eq]

theorem csrPlan_fault_none {s : State} {i : Instr} {op : Nat} {num : BitVec 12} {d : SSrc}
    (hreq : num = 0x0C4 → dreqAccess s (written op (csrOf s 0x0C4) (readS s i 0 d)) = none)
    (hrel : num = 0x0C4 ∨ num = 0x0C1 → writesGood s) : (csrPlan i op num d).fault s = none := by
  rw [csrPlan_fault]
  have hw : (if num = 0x0C4 ∨ num = 0x0C1 then failedWrites s false else none) = none := by
    split
    · next h => exact hrel h
    · rfl
  rw [hw]
  split
  · next h => rw [hreq h]; rfl
  · rfl

/-- What a failed posted write raises. -/
theorem failedWrites_of_not_good {s : State} (h : ¬ writesGood s) : failedWrites s false = some ⟨0x28, 2, 0, false⟩ := by
  unfold writesGood postedGood at h
  revert h
  unfold failedWrites
  dsimp only
  split
  · split
    · exact fun _ => rfl
    · exact fun h => absurd rfl h
  · exact fun h => absurd rfl h

/-! ## `csrr`, `csrw`, `csrs` and `csrc` -/

theorem acts_csrr {s : State} {d : SDst} {num : BitVec 12} (h : csrSuper num.toNat = true → supervisor s = true) :
    Acts (.csrr d num) s (giveS (.csrr d num) d (csrOf s num.toNat) 0 s) :=
  acts_of (planCsrr d num) rfl rfl rfl (csrPriv_of_allowed h) rfl rfl rfl rfl

theorem traps_csrr {s : State} {d : SDst} {num : BitVec 12} (hn : csrSuper num.toNat = true) (hs : supervisor s = false) :
    Traps (.csrr d num) s ⟨0x07, 1 + num.toNat * 65536, 0, false⟩ := by
  refine traps_of_own (planCsrr d num) rfl rfl ?_
  have hp : (planCsrr d num).priv s = some (1 + num.toNat * 65536) := csrPriv_of_program hn hs
  rw [Plan.ownTrap, show (planCsrr d num).bad s = none from rfl, hp]
  rfl

/-- The writing forms, with their operations. -/
theorem exec_csrWriting {r : (BitVec 12 → SSrc → Instr) × Nat} (hr : r ∈ [(Instr.csrw, 0), (Instr.csrs, 1), (Instr.csrc, 2)])
    (s : State) (num : BitVec 12) (d : SSrc) : exec (r.1 num d) s = .next ((csrPlan (r.1 num d) r.2 num d).run s) := by
  simp only [List.mem_cons, List.not_mem_nil, or_false] at hr
  rcases hr with rfl | rfl | rfl <;> rfl

section
variable {r : (BitVec 12 → SSrc → Instr) × Nat} (hr : r ∈ [(Instr.csrw, 0), (Instr.csrs, 1), (Instr.csrc, 2)])
  {s : State} {num : BitVec 12} {d : SSrc}
include hr

theorem acts_csrWriting (hw : csrWritable num.toNat = true ∨ (num = 0x055 ∧ supervisor s = true))
    (hp : csrSuper num.toNat = true → supervisor s = true)
    (hreq : num = 0x0C4 → dreqAccess s (written r.2 (csrOf s 0x0C4) (readS s (r.1 num d) 0 d)) = none)
    (hrel : num = 0x0C4 ∨ num = 0x0C1 → writesGood s) :
    Acts (r.1 num d) s ((giveS (r.1 num d) .z (csrOf s num.toNat) 0 s).modCur fun sl =>
      { sl with csrPend := sl.csrPend ++ [(num.toNat, r.2, readS s (r.1 num d) 0 d)] }) :=
  acts_of (csrPlan (r.1 num d) r.2 num d) (exec_csrWriting hr s num d) rfl (csrBad_of_writable hw) (csrPriv_of_allowed hp)
    rfl (csrPlan_fault_none hreq hrel) rfl rfl

/-- With the right and the privilege, the plan's own fault is the trap. -/
theorem traps_csrWriting (hn : csrSuper num.toNat = true) (hs : supervisor s = true) {t : Trap}
    (hf : (csrPlan (r.1 num d) r.2 num d).fault s = some t) : Traps (r.1 num d) s t :=
  traps_of (csrPlan (r.1 num d) r.2 num d) (exec_csrWriting hr s num d) rfl
    (csrBad_of_writable (.inl (csrWritable_of_super hn))) (csrPriv_of_allowed fun _ => hs) rfl hf

theorem traps_csrWriting_block {t : Trap} (hs : supervisor s = true)
    (ht : dreqAccess s (written r.2 (csrOf s 0x0C4) (readS s (r.1 0x0C4 d) 0 d)) = some t) : Traps (r.1 0x0C4 d) s t := by
  refine traps_csrWriting hr (by decide) hs ?_
  rw [csrPlan_fault, if_pos rfl, ht]
  rfl

theorem traps_csrWriting_release (hs : supervisor s = true) (hn : num = 0x0C4 ∨ num = 0x0C1)
    (hreq : num = 0x0C4 → dreqAccess s (written r.2 (csrOf s 0x0C4) (readS s (r.1 num d) 0 d)) = none)
    (hw : ¬ writesGood s) : Traps (r.1 num d) s ⟨0x28, 2, 0, false⟩ := by
  refine traps_csrWriting hr (by rcases hn with rfl | rfl <;> decide) hs ?_
  rw [csrPlan_fault, if_pos hn, failedWrites_of_not_good hw]
  split
  · next h => rw [hreq h]; rfl
  · rfl

theorem traps_csrWriting_readOnly (h : ¬ (csrWritable num.toNat = true ∨ (num = 0x055 ∧ supervisor s = true))) :
    Traps (r.1 num d) s ⟨0x02, 1, 0, false⟩ := by
  refine traps_of_own (csrPlan (r.1 num d) r.2 num d) (exec_csrWriting hr s num d) rfl ?_
  have hb : (csrPlan (r.1 num d) r.2 num d).bad s = some 1 := csrBad_of_readOnly h
  rw [Plan.ownTrap, hb]
  rfl

theorem traps_csrWriting_program (hn : csrSuper num.toNat = true) (hs : supervisor s = false) :
    Traps (r.1 num d) s ⟨0x07, 1 + num.toNat * 65536, 0, false⟩ := by
  refine traps_of_own (csrPlan (r.1 num d) r.2 num d) (exec_csrWriting hr s num d) rfl ?_
  have hb : (csrPlan (r.1 num d) r.2 num d).bad s = none := csrBad_of_writable (.inl (csrWritable_of_super hn))
  have hp : (csrPlan (r.1 num d) r.2 num d).priv s = some (1 + num.toNat * 65536) := csrPriv_of_program hn hs
  rw [Plan.ownTrap, hb, hp]
  rfl
end

end Sys2Proof.Machine
end

section
/-!
PROOFS. CSR writes as they take effect (R131, R133, R134, R183): what each changes, and that a read of any other CSR finds
what it found.
-/
namespace Sys2Proof.Machine
open Sys2Proof Sys2Proof.Claims

/-! ## What a read of a CSR looks at -/

/-- CSR n reads the same from two sets of a slot's own CSRs. -/
structure CsrsAlike (n : Nat) (a b : Csrs) : Prop where
  flags : n = 0x010 → b.flags = a.flags
  ftrap : n = 0x011 → b.ftrap = a.ftrap
  fctl : n = 0x012 → b.fctl = a.fctl
  chk : n = 0x020 → b.chk = a.chk
  lead : n = 0x038 → b.lead = a.lead
  quant : b.quant = a.quant
  time : b.time = a.time
  xflast : b.xflast = a.xflast
  domm : b.domm = a.domm

section
variable {s : State} {c k : Nat} {sl : Slot} {g : Slot → Slot} (hsl : s.slot c k = some sl)
include hsl

/-- The leader of a slot's gang, before and after a change of the slot. -/
theorem leaderOf_modSlot (hgi : (g sl).gangInfo = sl.gangInfo) :
    (s.modSlot c k g).leaderOf (g sl) = s.leaderOf sl ∨ s.leaderOf sl = sl ∧ (s.modSlot c k g).leaderOf (g sl) = g sl := by
  simp only [State.leaderOf, hgi]
  cases sl.gangInfo with
  | none => exact .inr ⟨rfl, rfl⟩
  | some gi =>
    simp only [State.slot_modSlot]
    by_cases hl : gi.leaderCore = c ∧ gi.leaderSlot = k
    · rw [if_pos hl, hl.1, hl.2, hsl]; exact .inr ⟨rfl, rfl⟩
    · rw [if_neg hl]
      cases s.slot gi.leaderCore gi.leaderSlot with
      | none => exact .inr ⟨rfl, rfl⟩
      | some x => exact .inl rfl

/-- TOUCHED of a gang is that of its members' slots. -/
theorem gangTouched_modSlot (htouched : (g sl).touched = sl.touched) {x y : Slot} (hgi : y.gangInfo = x.gangInfo)
    (ht : y.touched = x.touched) : (s.modSlot c k g).gangTouched y = s.gangTouched x := by
  simp only [State.gangTouched, hgi, ht]
  have hm (m : Nat × Nat) : ((s.modSlot c k g).slot m.1 m.2).map Slot.touched = (s.slot m.1 m.2).map Slot.touched := by
    rw [State.slot_modSlot]
    split
    · next h => rw [h.1, h.2, hsl]; exact congrArg some htouched
    · rfl
  cases x.gangInfo with
  | none => rfl
  | some gi =>
    dsimp only
    split
    · rfl
    · refine List.foldl_ext _ _ _ fun t m _ => ?_
      have hm := hm m
      cases h : (s.modSlot c k g).slot m.1 m.2 <;> cases h' : s.slot m.1 m.2 <;> simp_all

/-- A change of a slot's own CSRs, and of the writes that wait, leaves every CSR that reads alike from both. -/
theorem csr_modSlot {n : Nat} (hg : g sl = { sl with csrs := (g sl).csrs, csrPend := (g sl).csrPend })
    (h : CsrsAlike n sl.csrs (g sl).csrs) : (s.modSlot c k g).csr c k n = s.csr c k n := by
  have hgi : (g sl).gangInfo = sl.gangInfo := by rw [hg]
  have htc : (g sl).touched = sl.touched := by rw [hg]
  have htouched : (s.modSlot c k g).gangTouched ((s.modSlot c k g).leaderOf (g sl)) = s.gangTouched (s.leaderOf sl) := by
    rcases leaderOf_modSlot hsl hgi with hl | ⟨hl, hl'⟩
    · rw [hl]; exact gangTouched_modSlot hsl htc rfl rfl
    · rw [hl, hl']; exact gangTouched_modSlot hsl htc hgi htc
  obtain ⟨l, hcore⟩ := State.core_modSlot s c k c g
  obtain ⟨hflags, hftrap, hfctl, hchk, hlead, hquant, htime, hxflast, hdomm⟩ := h
  unfold State.csr
  rw [State.slot_modSlot, if_pos ⟨rfl, rfl⟩, hsl, Option.map_some]
  dsimp only
  rw [htouched, hcore, hg]
  generalize (g sl).csrs = cs at *
  simp only [State.slotTime, State.slotLtime, State.ltime, State.launch, State.ctx, State.trapqbase, State.die, gangidx,
    Core.inboxst, State.modSlot_now, State.modSlot_ctxs, State.modSlot_dies, State.modSlot_launches, State.modSlot_images,
    State.modSlot_pkg, hquant, htime, hxflast, hdomm]
  by_cases h10 : n = 0x010
  · simp only [hflags h10, h10]; rfl
  by_cases h11 : n = 0x011
  · simp only [hftrap h11, h11]; rfl
  by_cases h12 : n = 0x012
  · simp only [hfctl h12, h12]; rfl
  by_cases h20 : n = 0x020
  · simp only [hchk h20, h20]; rfl
  by_cases h38 : n = 0x038
  · simp only [hlead h38, h38]; rfl
  simp only [h10, h11, h12, h20, h38, if_false]
end

/-! ## A write that acts on its CSR alone -/

/-- In `t` CSR num of slot k of core c reads the low w bits of v; every other CSR reads as in `s`, and memory is as it
was. -/
def CsrTakes (s t : State) (c k num w : Nat) (v : Word) : Prop :=
  t.csr c k num = nat64 (v.toNat % 2 ^ w) ∧ (∀ n, n ≠ num → t.csr c k n = s.csr c k n) ∧ t.mem = s.mem

section
variable {s : State} {c k : Nat} {sl : Slot} (v : Word) (hsl : s.slot c k = some sl)
include hsl

/-- A CSR that stands in the slot. -/
theorem csrTakes_slotCsr {num w : Nat} {f : Csrs → Csrs}
    (hput : s.putCsr c k num v = s.modSlot c k fun x => { x with csrs := f x.csrs })
    (hread : (s.modSlot c k fun x => { x with csrs := f x.csrs }).csr c k num = nat64 (v.setWidth w).toNat)
    (hrest : ∀ n, n ≠ num → CsrsAlike n sl.csrs (f sl.csrs)) : CsrTakes s (s.putCsr c k num v) c k num w v := by
  rw [hput]
  refine ⟨hread.trans (congrArg nat64 (BitVec.toNat_setWidth _ _)), fun n hn => csr_modSlot hsl rfl (hrest n hn),
    State.modSlot_mem _ _ _ _⟩

theorem csrTakes_flags : CsrTakes s (s.putCsr c k 0x010 v) c k 0x010 8 v := by
  refine csrTakes_slotCsr v hsl (f := fun x => { x with flags := v.setWidth 8 }) ?_ ?_ fun n hn => ?_
  · simp only [State.putCsr, hsl]; rfl
  · simp only [State.csr, State.slot_modSlot, hsl, and_self, if_true, Option.map_some]; rfl
  · exact ⟨fun h => absurd h hn, fun _ => rfl, fun _ => rfl, fun _ => rfl, fun _ => rfl, rfl, rfl, rfl, rfl⟩

theorem csrTakes_ftrap : CsrTakes s (s.putCsr c k 0x011 v) c k 0x011 8 v := by
  refine csrTakes_slotCsr v hsl (f := fun x => { x with ftrap := v.setWidth 8 }) ?_ ?_ fun n hn => ?_
  · simp only [State.putCsr, hsl]; rfl
  · simp only [State.csr, State.slot_modSlot, hsl, and_self, if_true, Option.map_some]; rfl
  · exact ⟨fun _ => rfl, fun h => absurd h hn, fun _ => rfl, fun _ => rfl, fun _ => rfl, rfl, rfl, rfl, rfl⟩

theorem csrTakes_fctl : CsrTakes s (s.putCsr c k 0x012 v) c k 0x012 3 v := by
  refine csrTakes_slotCsr v hsl (f := fun x => { x with fctl := v.setWidth 3 }) ?_ ?_ fun n hn => ?_
  · simp only [State.putCsr, hsl]; rfl
  · simp only [State.csr, State.slot_modSlot, hsl, and_self, if_true, Option.map_some]; rfl
  · exact ⟨fun _ => rfl, fun _ => rfl, fun h => absurd h hn, fun _ => rfl, fun _ => rfl, rfl, rfl, rfl, rfl⟩

theorem csrTakes_chk : CsrTakes s (s.putCsr c k 0x020 v) c k 0x020 2 v := by
  refine csrTakes_slotCsr v hsl (f := fun x => { x with chk := v.setWidth 2 }) ?_ ?_ fun n hn => ?_
  · simp only [State.putCsr, hsl]; rfl
  · simp only [State.csr, State.slot_modSlot, hsl, and_self, if_true, Option.map_some]; rfl
  · exact ⟨fun _ => rfl, fun _ => rfl, fun _ => rfl, fun h => absurd h hn, fun _ => rfl, rfl, rfl, rfl, rfl⟩

theorem csrTakes_lead : CsrTakes s (s.putCsr c k 0x038 v) c k 0x038 4 v := by
  refine csrTakes_slotCsr v hsl (f := fun x => { x with lead := v.setWidth 4 }) ?_ ?_ fun n hn => ?_
  · simp only [State.putCsr, hsl]; rfl
  · simp only [State.csr, State.slot_modSlot, hsl, and_self, if_true, Option.map_some]; rfl
  · exact ⟨fun _ => rfl, fun _ => rfl, fun _ => rfl, fun _ => rfl, fun h => absurd h hn, rfl, rfl, rfl, rfl⟩
end

/-- TOUCHED of a gang is that of its members' slots. -/
theorem gangTouched_congr {s t : State} (h : ∀ c k, t.slot c k = s.slot c k) (sl : Slot) :
    t.gangTouched (t.leaderOf sl) = s.gangTouched (s.leaderOf sl) := by
  simp only [State.gangTouched, State.leaderOf, h]

theorem slot_modCore_of_slots {s : State} {c : Nat} {f : Core → Core} (h : (f (s.core c)).slots = (s.core c).slots)
    (d j : Nat) : (s.modCore c f).slot d j = s.slot d j := by
  simp only [State.slot, Core.slot, State.core_modCore]
  split
  · next e => rw [h, e]
  · rfl

section
variable {s : State} {c k : Nat} {sl : Slot} (v : Word) (hsl : s.slot c k = some sl)
include hsl

theorem csr_gsrc {n : Nat} (hlo : 0x058 ≤ n) (hhi : n ≤ 0x05F) :
    s.csr c k n = nat64 (sget 0 (s.core c).gsrc (n - 0x058)).toNat := by
  unfold State.csr
  rw [hsl]
  interval_cases n <;> rfl

/-- GSRC0-7, counters of the core. -/
theorem csrTakes_gsrc {num : Nat} (hlo : 0x058 ≤ num) (hhi : num ≤ 0x05F) :
    CsrTakes s (s.putCsr c k num v) c k num 32 v := by
  have hput : s.putCsr c k num v =
      s.modCore c fun x => { x with gsrc := sset 0 x.gsrc (num - 0x058) (v.setWidth 32) } := by
    simp only [State.putCsr, hsl]
    rw [if_neg (by omega), if_neg (by omega), if_neg (by omega), if_neg (by omega), if_neg (by omega), if_neg (by omega),
      if_pos (by simp [hlo, hhi])]
  rw [hput]
  have hslots := slot_modCore_of_slots (s := s) (c := c)
    (f := fun x => { x with gsrc := sset 0 x.gsrc (num - 0x058) (v.setWidth 32) }) rfl
  have hcore := State.core_modCore s c c fun x => { x with gsrc := sset 0 x.gsrc (num - 0x058) (v.setWidth 32) }
  rw [if_pos rfl] at hcore
  have hsl' := (hslots c k).trans hsl
  refine ⟨?_, fun n hn => ?_, rfl⟩
  · rw [csr_gsrc hsl' hlo hhi, hcore]
    dsimp only
    rw [sget_sset, if_pos rfl, BitVec.toNat_setWidth]
  by_cases hr : 0x058 ≤ n ∧ n ≤ 0x05F
  · rw [csr_gsrc hsl' hr.1 hr.2, csr_gsrc hsl hr.1 hr.2, hcore]
    dsimp only
    rw [sget_sset, if_neg (by omega)]
  · unfold State.csr
    rw [hslots, hsl]
    dsimp only
    rw [gangTouched_congr hslots, hcore]
    simp only [Bool.and_eq_true, decide_eq_true_eq, hr, if_false]
    rfl

/-- PTBASE stands in the context, apart from what the dies have cached under it. -/
theorem csrTakes_ptbase_ctx : CsrTakes s (s.modCtx sl.ctx fun x => { x with ptbase := v }) c k 0x0C2 64 v := by
  have hctx : (s.modCtx sl.ctx fun x => { x with ptbase := v }).ctx sl.ctx = { s.ctx sl.ctx with ptbase := v } :=
    (State.ctx_modCtx _ _ _ _).trans (if_pos rfl)
  have hslots (d j : Nat) : (s.modCtx sl.ctx fun x => { x with ptbase := v }).slot d j = s.slot d j := rfl
  have hv : v = nat64 (v.toNat % 2 ^ 64) := by
    rw [nat64, Nat.mod_eq_of_lt v.isLt, BitVec.ofNat_toNat, BitVec.setWidth_eq]
  refine ⟨?_, fun n hn => ?_, rfl⟩
  · unfold State.csr
    rw [hslots, hsl]
    dsimp only
    rw [hctx]
    exact hv
  · unfold State.csr
    rw [hslots, hsl]
    dsimp only
    rw [gangTouched_congr hslots, hctx]
    simp only [hn, if_false]
    rfl
end

/-- Of the dies a CSR read looks at the trap queue's base alone. -/
theorem csr_with_dies {s : State} {dies : List (Nat × Die)} (h : ∀ d, (sget Die.reset dies d).trapqBase = (s.die d).trapqBase)
    (c k n : Nat) : ({ s with dies := dies } : State).csr c k n = s.csr c k n := by
  have ht : ({ s with dies := dies } : State).trapqbase c = s.trapqbase c := h _
  unfold State.csr
  rw [ht]
  rfl

/-- PTBASE, whose write also drops what the dies have cached of the context. -/
theorem csrTakes_ptbase {s : State} {c k : Nat} {sl : Slot} (v : Word) (hsl : s.slot c k = some sl) :
    CsrTakes s (s.putCsr c k 0x0C2 v) c k 0x0C2 64 v := by
  have hput : s.putCsr c k 0x0C2 v = { s.modCtx sl.ctx fun x => { x with ptbase := v } with
      dies := s.dies.map fun c => (c.1, { c.2 with tlb := c.2.tlb.filter fun t => t.ctx ≠ sl.ctx }) } := by
    simp only [State.putCsr, hsl]; rfl
  obtain ⟨hread, hrest, hmem⟩ := csrTakes_ptbase_ctx v hsl
  have hdies (d : Nat) := congrArg Die.trapqBase
    (sget_map Die.reset s.dies (fun _ x => { x with tlb := x.tlb.filter fun t => t.ctx ≠ sl.ctx }) d rfl)
  have hcsr := csr_with_dies (s := s.modCtx sl.ctx fun x => { x with ptbase := v }) hdies c k
  rw [hput]
  exact ⟨(hcsr _).trans hread, fun n hn => (hcsr n).trans (hrest n hn), hmem⟩

/-- Every write of Table Core-3 that acts on its CSR alone. -/
theorem csrTakes_plain {s : State} {c k : Nat} {sl : Slot} (v : Word) (hsl : s.slot c k = some sl) :
    ∀ r ∈ plainCsrs, CsrTakes s (s.putCsr c k r.1 v) c k r.1 r.2 v := by
  intro r hr
  simp only [plainCsrs, List.mem_cons, List.not_mem_nil, or_false] at hr
  rcases hr with rfl | rfl | rfl | rfl | rfl | rfl | hr
  · exact csrTakes_flags v hsl
  · exact csrTakes_ftrap v hsl
  · exact csrTakes_fctl v hsl
  · exact csrTakes_chk v hsl
  · exact csrTakes_lead v hsl
  · exact csrTakes_ptbase v hsl
  · have hg : (0x058 ≤ r.1 ∧ r.1 ≤ 0x05F) ∧ r.2 = 32 := by
      rcases hr with rfl | rfl | rfl | rfl | rfl | rfl | rfl | rfl <;> decide
    rw [hg.2]
    exact csrTakes_gsrc v hsl hg.1.1 hg.1.2

/-- The write leaves the slot that made it, and no CSR reads otherwise for that. -/
theorem csr_dropCsr {s : State} {c k : Nat} {sl : Slot} (hsl : s.slot c k = some sl) (num n : Nat) :
    (s.dropCsr c k num).csr c k n = s.csr c k n :=
  csr_modSlot hsl rfl ⟨fun _ => rfl, fun _ => rfl, fun _ => rfl, fun _ => rfl, fun _ => rfl, rfl, rfl, rfl, rfl⟩

theorem slot_dropCsr {s : State} {c k : Nat} {sl : Slot} (hsl : s.slot c k = some sl) (num : Nat) :
    (s.dropCsr c k num).slot c k = some { sl with csrPend := dropPend num sl.csrPend } := by
  rw [State.dropCsr, State.slot_modSlot, if_pos ⟨rfl, rfl⟩, hsl]
  rfl

theorem exec_csrWrite_plain {s : State} {c k : Nat} {sl : Slot} (v : Word) (hsl : s.slot c k = some sl)
    {r : Nat × Nat} (hr : r ∈ plainCsrs) :
    ∃ t, exec (.csrWrite c k (BitVec.ofNat 12 r.1) v) s = .next t ∧ CsrTakes s t c k r.1 r.2 v := by
  have hnum : (BitVec.ofNat 12 r.1).toNat = r.1 := by
    revert r
    decide
  obtain ⟨hread, hrest, hmem⟩ := csrTakes_plain v (slot_dropCsr hsl r.1) r hr
  refine ⟨(s.dropCsr c k r.1).putCsr c k r.1 v, ?_, hread, fun n hn => (hrest n hn).trans (csr_dropCsr hsl _ n),
    hmem.trans (State.modSlot_mem _ _ _ _)⟩
  show execCsrWrite c k (BitVec.ofNat 12 r.1) v s = _
  rw [execCsrWrite, hnum]

/-! ## Writes that act on other state -/

/-- What leaves a slot for a write shared by several changes no core beyond its slots, no die and no memory. -/
theorem dropShared_frame (s : State) (num : Nat) (v : Word) (of : Nat → Slot → Bool) :
    (s.dropShared num v of).mem = s.mem ∧ ∀ c, ∃ l, (s.dropShared num v of).core c = { s.core c with slots := l } := by
  unfold State.dropShared
  split
  · exact ⟨State.modSlot_mem _ _ _ _, fun c => State.core_modSlot _ _ _ c _⟩
  · exact ⟨rfl, fun c => ⟨_, rfl⟩⟩

/-- R133: of INBOXST only LOST takes a write. -/
theorem exec_inboxstWrite (s : State) (c : Nat) (v : Word) : ∃ t, exec (.inboxstWrite c v) s = .next t ∧
    (t.core c).lost = BitVec.ofNat 32 (v.toNat / 2 ^ 32) ∧ (t.core c).inbox = (s.core c).inbox ∧
    (t.core c).ringCount = (s.core c).ringCount ∧ t.mem = s.mem := by
  obtain ⟨hmem, hcore⟩ := dropShared_frame s INBOXST v fun d _ => d == c
  obtain ⟨l, hl⟩ := hcore c
  have hlost : (v >>> 32).setWidth 32 = BitVec.ofNat 32 (v.toNat / 2 ^ 32) := by
    apply BitVec.eq_of_toNat_eq
    rw [BitVec.toNat_setWidth, BitVec.toNat_ushiftRight, BitVec.toNat_ofNat, Nat.shiftRight_eq_div_pow]
  refine ⟨_, rfl, ?_, ?_, ?_, hmem⟩ <;> rw [State.core_modCore, if_pos rfl, hl]
  exact hlost

/-- R442: a base that is null or out of line registers no queue. -/
theorem trapqOk_of_bad_base {s : State} {ctx : Nat} {base : Word} (h : base = 0 ∨ base.toNat % 4096 ≠ 0) :
    s.trapqOk ctx base = none := by
  refine if_pos ?_
  rcases h with h | h <;> simp [h]

theorem exec_trapqbaseWrite_of_bad_base {s : State} {die ctx : Nat} {base : Word} (h : base = 0 ∨ base.toNat % 4096 ≠ 0) :
    exec (.trapqbaseWrite die ctx base) s =
      .next (((s.releaseShared 0x0C0 base fun c sl => dieOf c == die && sl.ctx == ctx).modDie die
        fun x => { x with trapqBase := base }).modDie die fun x => { x with trapq := none, ovf := false }) := by
  show execTrapqbaseWrite die ctx base s = _
  simp only [execTrapqbaseWrite, trapqOk_of_bad_base h]

/-- TRAPQBASE always completes. -/
theorem exec_trapqbaseWrite_next (s : State) (die ctx : Nat) (base : Word) :
    ∃ t, exec (.trapqbaseWrite die ctx base) s = .next t := by
  show ∃ t, execTrapqbaseWrite die ctx base s = .next t
  unfold execTrapqbaseWrite
  dsimp only
  split
  · exact ⟨_, rfl⟩
  · exact ⟨_, rfl⟩

end Sys2Proof.Machine
end

section
/-!
PROOFS. The traces of a continuation's accesses (R70, R323), and the slots that stay occupied while a quantum batch is sent
(R357).
-/
namespace Sys2Proof.Machine
open Sys2Proof Sys2Proof.Claims

/-! ## Traces -/

/-- The same slots are occupied. -/
def SameOccupied (s t : State) : Prop := ∀ c k, (t.slot c k).isSome = (s.slot c k).isSome

theorem SameOccupied.trans {s t u : State} (h : SameOccupied s t) (h' : SameOccupied t u) : SameOccupied s u :=
  fun c k => (h' c k).trans (h c k)

/-- Each core of `t` is as in `s`, but for what its slots hold and its gating; the same slots are occupied. -/
structure SameCores (s t : State) : Prop where
  core : ∀ c, ∃ l g, t.core c = { s.core c with slots := l, gated := g }
  occupied : SameOccupied s t

theorem SameCores.refl (s : State) : SameCores s s := ⟨fun _ => ⟨_, _, rfl⟩, fun _ _ => rfl⟩

theorem SameCores.of_cores {s t : State} (h : t.cores = s.cores) : SameCores s t :=
  ⟨fun c => ⟨(s.core c).slots, (s.core c).gated, by rw [State.core, h]; rfl⟩,
    fun c k => by rw [State.slot, State.core, h]; rfl⟩

theorem SameCores.trans {s t u : State} (h : SameCores s t) (h' : SameCores t u) : SameCores s u := by
  refine ⟨fun c => ?_, h.occupied.trans h'.occupied⟩
  obtain ⟨l, g, ht⟩ := h.core c
  obtain ⟨l', g', hu⟩ := h'.core c
  exact ⟨l', g', by rw [hu, ht]⟩

/-- A fold of changes, each of which keeps the cores. -/
theorem SameCores.foldl {α : Type} {f : State → α → State} (hf : ∀ s a, SameCores s (f s a)) (l : List α) (s : State) :
    SameCores s (l.foldl f s) := by
  induction l generalizing s with
  | nil => exact .refl s
  | cons a l ih => exact (hf s a).trans (ih _)

theorem sameCores_modSlot (s : State) (c k : Nat) (f : Slot → Slot) : SameCores s (s.modSlot c k f) := by
  refine ⟨fun d => ?_, fun d j => ?_⟩
  · obtain ⟨l, hl⟩ := State.core_modSlot s c k d f
    exact ⟨l, (s.core d).gated, hl⟩
  · rw [State.slot_modSlot]
    split
    · exact Option.isSome_map
    · rfl

theorem sameCores_mapSlots (s : State) (f : Nat → Nat → Slot → Slot) : SameCores s (s.mapSlots f) :=
  ⟨fun c => ⟨_, (s.core c).gated, State.core_mapSlots s f c⟩, fun c k => by rw [State.slot_mapSlots]; exact Option.isSome_map⟩

/-- A change of one core that keeps its slots and all but its gating. -/
theorem sameCores_gate (s : State) (c : Nat) (b : Bool) : SameCores s (s.modCore c fun x => { x with gated := b }) := by
  refine ⟨fun d => ?_, fun d j => by rw [slot_modCore_of_slots rfl]⟩
  rw [State.core_modCore]
  split
  · next h => exact ⟨(s.core c).slots, b, by rw [h]⟩
  · exact ⟨_, _, rfl⟩

theorem sameCores_wake (s : State) (p : Nat → Bool) : SameCores s (s.wake p) := by
  unfold State.wake
  dsimp only
  split
  · exact .refl s
  · refine SameCores.trans ?_ (SameCores.foldl (fun t a => ?_) _ _)
    · exact .of_cores rfl
    · split
      · exact sameCores_gate t a false
      · exact .refl t

/-- R323: a request at home keeps what its parts keep: waking agents, the state of a tile or line, recalling a line's buffers. -/
theorem homeAccept_keeps {P : State → Prop} (hwake : ∀ t p, P t → P (t.wake p)) (htile : ∀ t b f, P t → P (t.modTile b f))
    (hmerge : ∀ t l p, P t → P (t.mergeBufs l p)) (hlines : ∀ (t : State) l, P t → P { t with lines := l })
    {s : State} (hs : P s) (a pa : Nat) (k : HomeKind) : P (s.homeAccept a pa k) := by
  have hbufs (t : State) (ht : P t) : P (if k = .engineWrite then t else t.mergeBufs (pa / 128) fun _ => true) := by
    split
    · exact ht
    · exact hmerge _ _ _ ht
  have hline (t : State) (ht : P t) : P (if t.arrayHolds a pa then
      { t with lines := sset Line.inv t.lines (pa / 128) ((sget Line.inv t.lines (pa / 128)).after a k) } else t) := by
    split
    · exact hlines _ _ ht
    · exact ht
  have hplain : P (match s.tileAt pa with
      | some t => (s.wake (t.probes a k)).modTile t.base fun t => t.after a k
      | none =>
        let s := s.wake ((sget Line.inv s.lines (pa / 128)).probes a k)
        let s := if k = .engineWrite then s else s.mergeBufs (pa / 128) fun _ => true
        if s.arrayHolds a pa then
          { s with lines := sset Line.inv s.lines (pa / 128) ((sget Line.inv s.lines (pa / 128)).after a k) }
        else s) := by
    split
    · exact htile _ _ _ (hwake _ _ hs)
    · exact hline _ (hbufs _ (hwake _ _ hs))
  unfold State.homeAccept
  split
  · exact hplain
  · exact hplain
  · exact hplain
  · exact hplain
  · exact hs

theorem sameCores_homeAccept (s : State) (a pa : Nat) (k : HomeKind) : SameCores s (s.homeAccept a pa k) :=
  homeAccept_keeps (P := SameCores s) (fun t p h => h.trans (sameCores_wake t p)) (fun _ _ _ h => h.trans (.of_cores rfl))
    (fun t l p h => h.trans (.of_cores (cores_mergeBufs t l p))) (fun _ _ h => h.trans (.of_cores rfl)) (.refl s) a pa k

theorem sameCores_effectsAt (s : State) (c : Nat) (h : HomeKind) (p : Place) : SameCores s (s.effectsAt c h p) := by
  cases p with
  | mem pa mt key =>
    refine SameCores.trans (t := if mt = 0 then s.homeAccept c pa h else s) ?_ (sameCores_modSlot _ _ _ _)
    split
    · exact sameCores_homeAccept _ _ _ _
    · exact .refl s
  | spad x off => exact sameCores_modSlot _ _ _ _
  | scope o pa => exact sameCores_modSlot _ _ _ _
  | event cl off => exact .refl s
  | coreWin x off => exact .refl s
  | table i off => exact .refl s

theorem sameCores_lineEffects (s : State) (w : Who) (k : Acc) (h : HomeKind) (va n : Nat) :
    SameCores s (s.lineEffects w k h va n) := by
  refine SameCores.foldl (fun t x => ?_) _ s
  dsimp only
  split
  · exact sameCores_effectsAt _ _ _ _
  · exact .refl t

/-! ## The slots while a batch is sent -/

theorem SameOccupied.of_cores {s t : State} (h : t.cores = s.cores) : SameOccupied s t := (SameCores.of_cores h).occupied

theorem sameOccupied_writeSpad (s : State) (c off n v : Nat) : SameOccupied s (s.writeSpad c off n v) := fun d j =>
  congrArg Option.isSome
    (slot_modCore_of_slots (s := s) (c := c) (f := fun x => { x with spad := putBytes x.spad off v n }) rfl d j)

theorem sameOccupied_rmwPlace (s : State) (p : Place) (w : Nat) (op : RmwOp) (v : Nat) (sp : Bool) :
    SameOccupied s (s.rmwPlace p w op v sp).1 := by
  unfold State.rmwPlace
  dsimp only
  split
  · exact fun _ _ => rfl
  cases p with
  | spad c off => exact sameOccupied_writeSpad _ _ _ _ _
  | mem pa mt key =>
    refine .of_cores ?_
    have hcores := cores_writePa s pa (w / 8) (rmw op w (s.readPlace (.mem pa mt key) (w / 8)) (v % 2 ^ w)).1 key
    dsimp only
    split <;> split <;> exact hcores
  | scope o pa => exact fun _ _ => rfl
  | event cl off => exact fun _ _ => rfl
  | coreWin c off => exact fun _ _ => rfl
  | table i off => exact fun _ _ => rfl

theorem sameOccupied_onRecord (s : State) (c ctx idx : Nat) (f : Slot → Slot) : SameOccupied s (s.onRecord c ctx idx f) :=
  (sameCores_mapSlots s fun d _ sl => if d = c && sl.ctx = ctx && sl.idx = idx then f sl else sl).occupied

theorem sameOccupied_perform (s : State) (q : ProxyReq) (p : Place) : SameOccupied s (s.perform q p) := by
  unfold State.perform
  split
  · split
    · exact sameOccupied_onRecord _ _ _ _ _
    · exact sameOccupied_onRecord _ _ _ _ _
  · dsimp only
    split
    · exact sameOccupied_rmwPlace _ _ _ _ _ _
    · exact (sameOccupied_rmwPlace _ _ _ _ _ _).trans (sameOccupied_onRecord _ _ _ _ _)

theorem sameOccupied_send (s : State) (q : ProxyReq) (p : Place) : SameOccupied s (s.send q p) := by
  unfold State.send
  split
  · exact .of_cores rfl
  · exact sameOccupied_perform s q p

/-- R357: sending a batch empties it, and no slot loses its continuation. -/
theorem slot_flushQuantum {s : State} {c k : Nat} {sl : Slot} (hsl : s.slot c k = some sl) :
    ∃ x : Slot, (s.flushQuantum c k).slot c k = some { x with quantum := [], qcount := 0 } := by
  have hfold (l : List QEntry) (t : State) : SameOccupied t (l.foldl (fun s q =>
      (s.effectsAt c .atomic q.place).send (q.request sl c) q.place) t) := by
    induction l generalizing t with
    | nil => exact fun _ _ => rfl
    | cons q l ih =>
      exact ((sameCores_effectsAt t c .atomic q.place).occupied.trans (sameOccupied_send _ _ _)).trans (ih _)
  simp only [State.flushQuantum, hsl, State.slot_modSlot, and_self, if_true]
  generalize hu : s.asSlot c k _ = u
  have ho : (u.slot c k).isSome = (s.slot c k).isSome := hu ▸ hfold sl.quantum _ c k
  rw [hsl] at ho
  obtain ⟨x, hx⟩ := Option.isSome_iff_exists.1 ho
  exact ⟨x, by rw [hx]; rfl⟩

/-- QUANT_WRITE (R183): the batch is sent first. -/
theorem exec_quantWrite {s : State} {c k : Nat} {sl : Slot} (v : Word) (hsl : s.slot c k = some sl) :
    ∃ t x, exec (.quantWrite c k v) s = .next t ∧ t.slot c k = some x ∧ x.csrs.quant = v.setWidth 16 ∧ x.quantum = [] ∧
      x.qcount = 0 := by
  obtain ⟨x, hx⟩ := slot_flushQuantum (slot_dropCsr hsl 0x080)
  refine ⟨_, { x with quantum := [], qcount := 0, csrs := { x.csrs with quant := v.setWidth 16 } }, rfl, ?_, rfl, rfl, rfl⟩
  have hput : ((s.dropCsr c k 0x080).flushQuantum c k).putCsr c k 0x080 v =
      ((s.dropCsr c k 0x080).flushQuantum c k).modSlot c k fun x => { x with csrs := { x.csrs with quant := v.setWidth 16 } } := by
    simp only [State.putCsr, hx]; rfl
  rw [hput, State.slot_modSlot, if_pos ⟨rfl, rfl⟩, hx]
  rfl

end Sys2Proof.Machine

namespace Sys2Proof
open Sys2Proof.Machine Sys2Proof.Claims

/-- Settles O14: the plans' own checks for the four instructions, and what `putCsr` and the CSR events leave. -/
theorem csrsAreReadAndWritten : Obligations.CsrsAreReadAndWritten := by
  unfold Obligations.CsrsAreReadAndWritten
  refine ⟨⟨fun s d num h => acts_csrr h, fun s d num hn hs => traps_csrr hn hs,
    fun r hr s num d hw hp hreq hrel => acts_csrWriting hr hw hp hreq hrel,
    fun r hr s d t hs ht => traps_csrWriting_block hr hs ht,
    fun r hr s num d hs hn hreq hw => traps_csrWriting_release hr hs hn hreq hw,
    fun r hr s num d h => traps_csrWriting_readOnly hr h,
    fun r hr s num d hn hs => traps_csrWriting_program hr hn hs⟩, ?plain, ?quant, ?inbox, ?savebase, ?trapq, ?noQueue, ?ridx⟩
  case plain => exact fun s c k sl v hsl r hr => exec_csrWrite_plain v hsl hr
  case quant => exact fun s c k v sl hsl => exec_quantWrite v hsl
  case inbox => exact exec_inboxstWrite
  case savebase =>
    intro s ctx base
    show execSavebaseWrite ctx base s = _
    unfold execSavebaseWrite
    dsimp only
    split <;> rfl
  case trapq =>
    intro s die ctx base
    by_cases h : base = 0 ∨ base.toNat % 4096 ≠ 0
    · refine ⟨_, exec_trapqbaseWrite_of_bad_base h, fun _ => ?_⟩
      simp only [State.die_modDie, if_true, true_and]
      rfl
    · obtain ⟨t, ht⟩ := exec_trapqbaseWrite_next s die ctx base
      exact ⟨t, ht, fun hb => absurd hb h⟩
  case noQueue =>
    intro s die ridx h
    show execTrapqRidxAdvance die ridx s = _
    simp only [execTrapqRidxAdvance, h]
  case ridx =>
    intro s die ridx q h
    show execTrapqRidxAdvance die ridx s = _
    simp only [execTrapqRidxAdvance, h]

end Sys2Proof
end

section
/-!
PROOFS. Entries of sparse maps with distinct keys: a map over values, entries of a list, and what leaving out zeros does.
-/
namespace Sys2Proof.Machine

section
variable {α : Type} {d : α}

/-- An entry of a list with distinct keys is what a read of its key finds. -/
theorem sget_of_mem {m : List (Nat × α)} (hn : (m.map Prod.fst).Nodup) {k : Nat} {v : α} (h : (k, v) ∈ m) :
    sget d m k = v := by
  induction m with
  | nil => cases h
  | cons c m ih =>
    obtain ⟨a, x⟩ := c
    rw [List.map_cons, List.nodup_cons] at hn
    rcases List.mem_cons.1 h with h | h
    · cases h; exact if_pos rfl
    · have ha : a ≠ k := fun e => hn.1 (List.mem_map.2 ⟨(k, v), h, e.symm⟩)
      rw [sget, if_neg ha, ih hn.2 h]

/-- Leaving out entries that hold the default changes no read, where the keys are distinct. -/
theorem sget_filter_ne_default [DecidableEq α] {m : List (Nat × α)} (hn : (m.map Prod.fst).Nodup) (k : Nat) :
    sget d (m.filter fun c => c.2 ≠ d) k = sget d m k := by
  induction m with
  | nil => rfl
  | cons c m ih =>
    obtain ⟨a, x⟩ := c
    rw [List.map_cons, List.nodup_cons] at hn
    have ih := ih hn.2
    by_cases hx : x = d
    · rw [List.filter_cons_of_neg (by simp [hx]), ih, sget]
      split
      · next ha =>
        rw [hx]
        exact sget_of_lt d fun c hc e => hn.1 (List.mem_map.2 ⟨c, hc, e.trans ha.symm⟩)
      · rfl
    · rw [List.filter_cons_of_pos (by simp [hx]), sget, sget, ih]

/-- The keys of a map in canonical form are distinct. -/
theorem nodup_of_swfFrom [DecidableEq α] {m : List (Nat × α)} {lo : Nat} (w : swfFrom d lo m = true) :
    (m.map Prod.fst).Nodup := by
  induction m generalizing lo with
  | nil => exact List.nodup_nil
  | cons c m ih =>
    obtain ⟨a, x⟩ := c
    simp only [swfFrom, Bool.and_eq_true, decide_eq_true_eq] at w
    rw [List.map_cons, List.nodup_cons]
    refine ⟨fun h => ?_, ih w.2⟩
    obtain ⟨e, he, hea⟩ := List.mem_map.1 h
    have hle := swfFrom_le w.2 e he
    rw [hea] at hle
    omega
end

end Sys2Proof.Machine
end

section
/-!
PROOFS. Tiles (R239, R245): a tile replaced holds what it is given, and the others what they held.
-/
namespace Sys2Proof.Machine
open Sys2Proof Sys2Proof.Claims

theorem mem_tilePos {i j : Nat} : (i, j) ∈ tilePos ↔ i < 64 ∧ j < 64 := by
  simp [tilePos]

theorem nodup_tilePos : tilePos.Nodup :=
  List.Nodup.product (l₁ := List.range 64) (l₂ := List.range 64) List.nodup_range List.nodup_range

/-- The elements of a tile have distinct keys. -/
theorem nodup_tileKeys (n : Nat) : (tilePos.map fun p => tileKey n p.1 p.2).Nodup := by
  refine nodup_tilePos.map_on fun p hp q hq h => ?_
  have hp := mem_tilePos.1 hp
  have hq := mem_tilePos.1 hq
  simp only [tileKey] at h
  exact Prod.ext (by omega) (by omega)

theorem sget_tileEntries (n : Nat) (f : Nat → Nat → Half) {i j : Nat} (hi : i < 64) (hj : j < 64) :
    sget 0 (nonZero (tilePos.map fun (i, j) => (tileKey n i j, f i j))) (tileKey n i j) = f i j := by
  have hn : ((tilePos.map fun (i, j) => (tileKey n i j, f i j)).map Prod.fst).Nodup := by
    rw [List.map_map]; exact nodup_tileKeys n
  rw [nonZero, sget_filter_ne_default hn]
  exact sget_of_mem hn (List.mem_map.2 ⟨(i, j), mem_tilePos.2 ⟨hi, hj⟩, rfl⟩)

/-- The keys of a tile's entries lie in the tile. -/
theorem key_of_mem_tileEntries {n : Nat} {f : Nat → Nat → Half} {e : Nat × Half}
    (h : e ∈ nonZero (tilePos.map fun (i, j) => (tileKey n i j, f i j))) : tileKey n 0 0 ≤ e.1 ∧ e.1 < tileKey (n + 1) 0 0 := by
  obtain ⟨⟨i, j⟩, hp, rfl⟩ := List.mem_map.1 (List.mem_filter.1 h).1
  have hp := mem_tilePos.1 hp
  simp only [tileKey]
  omega

theorem tileElem_putTile (x : Core) (n : Nat) (tag : Tag) (f : Nat → Nat → Half) {m i j : Nat} (hi : i < 64) (hj : j < 64) :
    (x.putTile n tag f).tileElem m i j = if m = n then f i j else x.tileElem m i j := by
  have hlo := sget_filter (0 : Half) x.tiles (fun k => decide (k < tileKey n 0 0)) (tileKey m i j)
  have hhi := sget_filter (0 : Half) x.tiles (fun k => decide (tileKey (n + 1) 0 0 ≤ k)) (tileKey m i j)
  have below : ∀ e ∈ x.tiles.filter (fun e => decide (e.1 < tileKey n 0 0)), e.1 < tileKey n 0 0 := fun e he => by
    simpa using (List.mem_filter.1 he).2
  have above : ∀ e ∈ x.tiles.filter (fun e => decide (tileKey (n + 1) 0 0 ≤ e.1)), tileKey (n + 1) 0 0 ≤ e.1 := fun e he => by
    simpa using (List.mem_filter.1 he).2
  have inside := fun e (he : e ∈ nonZero (tilePos.map fun (i, j) => (tileKey n i j, f i j))) => key_of_mem_tileEntries he
  simp only [decide_eq_true_eq] at hlo hhi
  have hsize : tileKey n 0 0 < tileKey (n + 1) 0 0 := by simp only [tileKey]; omega
  simp only [Core.tileElem, Core.putTile]
  rcases lt_trichotomy m n with h | rfl | h
  · have hk : tileKey m i j < tileKey n 0 0 := by simp only [tileKey]; omega
    rw [if_neg (by omega), sget_append_left _ _ (fun e he => by have := above e he; omega),
      sget_append_left _ _ (fun e he => by have := (inside e he).1; omega), hlo, if_pos hk]
  · have hk : tileKey m 0 0 ≤ tileKey m i j ∧ tileKey m i j < tileKey (m + 1) 0 0 := by simp only [tileKey]; omega
    rw [if_pos rfl, sget_append_left _ _ (fun e he => by have := above e he; omega),
      sget_append_right _ _ (fun e he => by have := below e he; omega)]
    exact sget_tileEntries m f hi hj
  · have hk : tileKey (n + 1) 0 0 ≤ tileKey m i j := by simp only [tileKey]; omega
    rw [if_neg (by omega), List.append_assoc, sget_append_right _ _ (fun e he => by have := below e he; omega),
      sget_append_right _ _ (fun e he => by have := (inside e he).2; omega), hhi, if_pos hk]

theorem tileIs_putTile {x y z : Core} {n : Nat} {tag : Tag} {f : Nat → Nat → Half} (ht : x.tiles = (y.putTile n tag f).tiles)
    (htags : x.tileTags = (y.putTile n tag f).tileTags) (hz : y.tiles = z.tiles) (hztags : y.tileTags = z.tileTags) :
    TileIs x z n tag f := by
  have helem (m : Nat) {i j : Nat} (hi : i < 64) (hj : j < 64) :
      x.tileElem m i j = if m = n then f i j else z.tileElem m i j := by
    rw [Core.tileElem, ht]
    exact (tileElem_putTile y n tag f hi hj).trans (by simp only [Core.tileElem, hz])
  have htag (m : Nat) : x.tileTag m = if m = n then tag else z.tileTag m := by
    rw [Core.tileTag, htags]
    exact (sget_sset _ _ _ _ _).trans (by rw [hztags, Core.tileTag])
  refine ⟨fun i hi j hj => (helem n hi hj).trans (if_pos rfl), (htag n).trans (if_pos rfl), fun m hm =>
    ⟨(htag m).trans (if_neg hm), fun i hi j hj => (helem m hi hj).trans (if_neg hm)⟩⟩

end Sys2Proof.Machine
end

section
/-!
PROOFS. Operand data in CUR (R243, R247): elements of K index beyond K read zero, the others as in memory.
-/
namespace Sys2Proof.Machine
open Sys2Proof Sys2Proof.Claims

/-- The bytes of a range stand under distinct offsets. -/
theorem swfFrom_pieceCells (r : Nat → Nat → Nat) (ea fuel va n : Nat) (h : ea ≤ va) :
    swfFrom 0 (va - ea) ((pieces fuel va n).flatMap fun (a, m) => cells (a - ea) (leBytes m (r a m))) = true := by
  induction fuel generalizing va n with
  | zero => rfl
  | succ fuel ih =>
    rw [pieces]
    split
    · rfl
    · obtain ⟨hcells, hlt⟩ := swfFrom_cells (leBytes (min n (128 - va % 128)) (r va (min n (128 - va % 128)))) (va - ea)
      rw [length_leBytes] at hlt
      rw [List.flatMap_cons]
      refine swfFrom_append (hi := va + min n (128 - va % 128) - ea) hcells (fun c hc => ?_) (ih _ _ (by omega)) (by omega)
      have := hlt c hc
      omega

theorem nodup_loadCells (s : State) (ea n : Nat) : ((s.loadCells ea n).map Prod.fst).Nodup :=
  nodup_of_swfFrom (swfFrom_pieceCells (fun a m => (s.readVa (issuer s) .load a m).1) ea (n / 128 + 2) ea n le_rfl)

/-- What trimming to K leaves of data byte b. -/
def trimByte (fmt k b : Nat) (v : Byte) : Byte :=
  if k ≤ kOfByte fmt b then 0 else if fmt = 31 && k = kOfByte fmt b + 1 then v &&& 15 else v

theorem sget_trimCells (fmt k : Nat) {l : List (Nat × Byte)} (hn : (l.map Prod.fst).Nodup) (b : Nat) :
    sget 0 (trimCells fmt k l) b = trimByte fmt k b (sget 0 l b) := by
  have hmap : (l.map fun c => (c.1, trimByte fmt k c.1 c.2)).map Prod.fst = l.map Prod.fst := by
    rw [List.map_map]; rfl
  have hz : trimByte fmt k b 0 = 0 := by
    unfold trimByte
    split
    · rfl
    · split <;> rfl
  exact (sget_filter_ne_default (m := l.map fun c => (c.1, trimByte fmt k c.1 c.2)) (hmap ▸ hn) b).trans
    (sget_map 0 l (trimByte fmt k) b hz)

/-- The K index of the bytes of an element: its own, or in e2m1 the even one of the two that share a byte. -/
theorem kOfByte_e2m1 {line block off : Nat} (hl : line < 64) (ho : off < 32) :
    kOfByte 31 (block * 64 * 16 + line * 16 + off / 2) = 32 * block + off / 2 * 2 := by
  simp only [kOfByte, blockBytes, if_true]
  omega

theorem kOfByte_bf16 {line block off h : Nat} (hl : line < 64) (ho : off < 32) (hh : h < 2) :
    kOfByte 12 (block * 64 * 64 + line * 64 + (2 * off + h)) = 32 * block + off := by
  simp only [kOfByte, blockBytes, if_true, Nat.reduceEqDiff, if_false]
  omega

theorem kOfByte_bytes {fmt line block off : Nat} (hf : fmt = 29 ∨ fmt = 1) (hl : line < 64) (ho : off < 32) :
    kOfByte fmt (block * 64 * 32 + line * 32 + off) = 32 * block + off := by
  rcases hf with rfl | rfl <;> simp only [kOfByte, blockBytes, Nat.reduceEqDiff, if_false] <;> omega

/-- The low nibble of a byte trimmed to it is the byte's, and its high nibble is zero. -/
theorem nibbles_and_15 (v : Byte) : (v &&& 15).toNat % 16 = v.toNat % 16 ∧ (v &&& 15).toNat / 16 % 16 = 0 := by
  have h : (v &&& 15).toNat = v.toNat % 16 := by
    rw [BitVec.toNat_and]
    exact Nat.and_two_pow_sub_one_eq_mod v.toNat 4
  omega

/-- The nibble of an e2m1 byte whose values have K indices i and i + 1, trimmed to K. -/
theorem nibble_trimByte {k b i : Nat} (hi : kOfByte 31 b = i) (v : Byte) {h : Nat} (hh : h < 2) :
    (trimByte 31 k b v).toNat / 16 ^ h % 16 = if i + h < k then v.toNat / 16 ^ h % 16 else 0 := by
  obtain ⟨hlow, hhigh⟩ := nibbles_and_15 v
  simp only [trimByte, hi, decide_true, Bool.true_and, decide_eq_true_eq]
  by_cases hk : k ≤ i
  · rw [if_pos hk, if_neg (by omega)]
    exact congrArg (· % 16) (Nat.zero_div _)
  · rw [if_neg hk]
    by_cases h1 : k = i + 1
    · rw [if_pos h1]
      rcases (show h = 0 ∨ h = 1 by omega) with rfl | rfl
      · rw [if_pos (by omega), pow_zero, Nat.div_one, Nat.div_one, hlow]
      · rw [if_neg (by omega), pow_one, hhigh]
    · rw [if_neg h1, if_pos (by omega)]

/-- A byte of a format whose elements are whole bytes, trimmed to K. -/
theorem trimByte_of_ne_e2m1 {f k b i : Nat} (hf : f ≠ 31) (hi : kOfByte f b = i) (v : Byte) :
    trimByte f k b v = if i < k then v else 0 := by
  simp only [trimByte, hi, hf, decide_false, Bool.false_and, Bool.false_eq_true, if_false, ← Nat.not_lt, ite_not]

/-- Trimmed to K, an element of K index below K is what it was, and every other is zero. -/
theorem elemCode_trim {fmt k line block off : Nat} (rd : Nat → Byte) (hf : fmt ∈ [31, 29, 1, 12]) (hl : line < 64)
    (ho : off < 32) : elemCode (fun b => trimByte fmt k b (rd b)) fmt line block off =
      if 32 * block + off < k then elemCode rd fmt line block off else 0 := by
  have whole (h : fmt = 29 ∨ fmt = 1) : elemCode (fun b => trimByte fmt k b (rd b)) fmt line block off =
      if 32 * block + off < k then elemCode rd fmt line block off else 0 := by
    have hi := kOfByte_bytes (block := block) h hl ho
    have h31 : fmt ≠ 31 := by omega
    have h12 : fmt ≠ 12 := by omega
    simp only [elemCode, blockBytes, if_neg h31, if_neg h12]
    rw [trimByte_of_ne_e2m1 h31 hi]
    split <;> rfl
  simp only [List.mem_cons, List.not_mem_nil, or_false] at hf
  rcases hf with rfl | rfl | rfl | rfl
  · have hi := kOfByte_e2m1 (block := block) hl ho
    simp only [elemCode, blockBytes, if_true]
    rw [nibble_trimByte hi _ (Nat.mod_lt _ (by decide)), show 32 * block + off / 2 * 2 + off % 2 = 32 * block + off by omega]
  · exact whole (.inl rfl)
  · exact whole (.inr rfl)
  · have h0 := kOfByte_bf16 (block := block) (h := 0) hl ho (by decide)
    have h1 := kOfByte_bf16 (block := block) (h := 1) hl ho (by decide)
    simp only [elemCode, blockBytes, Nat.reduceEqDiff, if_true, if_false, Nat.add_assoc, Nat.add_zero] at h0 h1 ⊢
    rw [trimByte_of_ne_e2m1 (by decide) h0, trimByte_of_ne_e2m1 (by decide) h1]
    split <;> rfl

end Sys2Proof.Machine
end

section
/-!
PROOFS. What every matrix instruction shares (R130, R143, R241, R265): its owner, the atomics posted before it, the traces of
its accesses and the time after which it retires.
-/
namespace Sys2Proof.Machine
open Sys2Proof Sys2Proof.Claims

/-! ## The owner (R130) -/

theorem owns_of_ownsMatrix {s : State} (h : ownsMatrix s) : owns s = true := by
  obtain ⟨sl, hsl, hm⟩ := h
  simp only [owns, hsl, hm]

theorem owns_of_not_ownsMatrix {s : State} (hs : s.cur.isSome = true) (h : ¬ ownsMatrix s) : owns s = false := by
  obtain ⟨sl, hsl⟩ := Option.isSome_iff_exists.1 hs
  simp only [owns, hsl]
  exact Bool.eq_false_iff.2 fun hm => h ⟨sl, hsl, hm⟩

theorem matFault_of_owner {s : State} (h : ownsMatrix s) (i : Instr) (f : State → Option Trap) : matFault i f s = f s :=
  if_pos (owns_of_ownsMatrix h)

theorem matFault_of_other {s : State} (hs : s.cur.isSome = true) (h : ¬ ownsMatrix s) (i : Instr) (f : State → Option Trap) :
    matFault i f s = some (notOwner (opcode i)) := by
  rw [matFault, owns_of_not_ownsMatrix hs h]
  rfl

/-- The trap of a plan of the unit, for its owner. -/
theorem fault_of_owner {s : State} (h : ownsMatrix s) {p : Plan} {i : Instr} {f : State → Option Trap}
    (hf : p.fault = matFault i f) : p.fault s = f s := by
  rw [hf]
  exact matFault_of_owner h i f

theorem no_fault_of_owner {s : State} (h : ownsMatrix s) {p : Plan} {i : Instr} (hf : p.fault = matFault i fun _ => none) :
    p.fault s = none := fault_of_owner h hf

/-- A plan of the unit whose earlier checks pass, for any other continuation. -/
theorem traps_of_other {s : State} (hs : s.cur.isSome = true) (h : ¬ ownsMatrix s) {i : Instr} {f : State → Option Trap}
    (p : Plan) (hf : p.fault = matFault i f) (he : exec i s = .next (p.run s)) (hi : p.instr = i) (hb : p.bad s = none)
    (hp : p.priv s = none) (ht : p.tag s = none) : Traps i s (notOwner (opcode i)) := by
  refine traps_of p he hi hb hp ht ?_
  rw [hf]
  exact matFault_of_other hs h i f

/-! ## The traces of its accesses (R70, R323) -/

theorem issue_wake (s : State) (p : Nat → Bool) : (s.wake p).issue = s.issue := by
  unfold State.wake
  dsimp only
  split
  · rfl
  · refine List.foldlRecOn (motive := fun t : State => t.issue = s.issue) _ _ rfl fun t ht a _ => ?_
    split <;> exact ht

theorem issue_mergeBufs (s : State) (l : Nat) (p : Nat → Bool) : (s.mergeBufs l p).issue = s.issue := by
  unfold State.mergeBufs
  extract_lets
  split
  split <;> rfl

theorem issue_homeAccept (s : State) (a pa : Nat) (k : HomeKind) : (s.homeAccept a pa k).issue = s.issue :=
  homeAccept_keeps (P := fun t => t.issue = s.issue) (fun t p h => (issue_wake t p).trans h) (fun _ _ _ h => h)
    (fun t l p h => (issue_mergeBufs t l p).trans h) (fun _ _ h => h) rfl a pa k

theorem issue_effectsAt (s : State) (c : Nat) (h : HomeKind) (p : Place) : (s.effectsAt c h p).issue = s.issue := by
  cases p with
  | mem pa mt key =>
    refine (State.modSlot_issue _ _ _ _).trans ?_
    split
    · exact issue_homeAccept _ _ _ _
    · rfl
  | spad x off => exact State.modSlot_issue _ _ _ _
  | scope o pa => exact State.modSlot_issue _ _ _ _
  | event cl off => rfl
  | coreWin x off => rfl
  | table i off => rfl

/-- `t` is `s` but for traces: the pair that issues, the cores but for their slots and gating, and the bytes of memory are the
same. -/
structure OnlyTraces (s t : State) : Prop where
  issue : t.issue = s.issue
  cores : SameCores s t
  bytes : ∀ j, t.byteAt j = s.byteAt j

theorem OnlyTraces.refl (s : State) : OnlyTraces s s := ⟨rfl, .refl s, fun _ => rfl⟩

theorem OnlyTraces.trans {s t u : State} (h : OnlyTraces s t) (h' : OnlyTraces t u) : OnlyTraces s u :=
  ⟨h'.issue.trans h.issue, h.cores.trans h'.cores, fun j => (h'.bytes j).trans (h.bytes j)⟩

theorem OnlyTraces.foldl {α : Type} {f : State → α → State} (hf : ∀ s a, OnlyTraces s (f s a)) (l : List α) (s : State) :
    OnlyTraces s (l.foldl f s) :=
  List.foldlRecOn l f (OnlyTraces.refl s) fun t ht a _ => ht.trans (hf t a)

theorem onlyTraces_modCur (s : State) (f : Slot → Slot) : OnlyTraces s (s.modCur f) :=
  ⟨State.modSlot_issue _ _ _ _, sameCores_modSlot _ _ _ _, byteAt_modCur s f⟩

theorem onlyTraces_lineEffects (s : State) (w : Who) (k : Acc) (h : HomeKind) (va n : Nat) :
    OnlyTraces s (s.lineEffects w k h va n) := by
  refine ⟨?_, sameCores_lineEffects s w k h va n, (lineEffects_bytes s w k h va n).1⟩
  refine List.foldlRecOn (motive := fun t : State => t.issue = s.issue) _ _ rfl fun t ht x _ => ?_
  dsimp only
  split
  · exact (issue_effectsAt _ _ _ _).trans ht
  · exact ht

/-- The core of the pair after traces and then a change of that core. -/
theorem OnlyTraces.coreOf_modCore {s t : State} (h : OnlyTraces s t) (f : Core → Core) :
    ∃ l g, coreOf (t.modCore t.issue.core f) = f { coreOf s with slots := l, gated := g } := by
  obtain ⟨l, g, hc⟩ := h.cores.core s.issue.core
  exact ⟨l, g, by rw [coreOf, State.core_modCore, State.modCore_issue, if_pos rfl, h.issue, hc]; rfl⟩

/-! ## Atomics posted before it (R143) -/

/-- Carrying out requests that are none of those held changes nothing. -/
theorem carryOutAll_of_none {s : State} {mine : ProxyReq → Bool} (h : ∀ q ∈ s.reqs, mine q = false) :
    s.carryOutAll mine = s := by
  have hgo (q : ProxyReq) (hq : q ∈ s.reqs) : (mine q || s.reqs.any fun p => mine p && p.sameLine q) = false := by
    rw [h q hq, Bool.false_or, List.any_eq_false]
    intro p hp
    rw [h p hp, Bool.false_and]
    exact Bool.false_ne_true
  have hnone : s.reqs.filter (fun q => mine q || s.reqs.any fun p => mine p && p.sameLine q) = [] :=
    List.filter_eq_nil_iff.2 fun q hq => by rw [hgo q hq]; exact Bool.false_ne_true
  have hall : s.reqs.filter (fun q => !(mine q || s.reqs.any fun p => mine p && p.sameLine q)) = s.reqs :=
    List.filter_eq_self.2 fun q hq => by rw [hgo q hq]; rfl
  simp only [State.carryOutAll, hnone, hall, List.foldl_nil]

theorem acceptRange_of_not_posted {s : State} {ctx idx ea n : Nat} (h : s.posted ctx idx ea n = false) :
    s.acceptRange ctx idx ea n = s := by
  unfold State.acceptRange
  split
  · rfl
  · next hne =>
    simp only [State.posted, hne, Bool.not_false, Bool.true_and, List.any_eq_false] at h
    refine List.foldlRecOn (motive := fun t => t = s) _ _ rfl fun t ht x hx => ?_
    subst ht
    have hx := h x hx
    dsimp only at hx ⊢
    split
    · next pa hpa =>
      simp only [hpa, Bool.not_eq_true, List.any_eq_false] at hx
      rw [State.acceptLine, if_neg hne]
      exact carryOutAll_of_none fun q hq => hx q hq
    · rfl

theorem catchUp_of_nonePosted {s : State} {ea n : Nat} (h : nonePosted s ea n) : s.catchUp ea n = s := by
  unfold State.catchUp
  split
  · next sl hsl => exact acceptRange_of_not_posted (h sl hsl)
  · rfl

/-! ## When it retires (R241, R265) -/

theorem holdPair_eq_modCur (s : State) (w : Wait) : s.holdPair w false = s.modCur fun sl => sl.wait s.now w false := rfl

theorem ownRanges_iff {s : State} {rs : List (Nat × Nat)} :
    ownRanges s rs = true ↔ ∀ r ∈ rs, ∀ x ∈ piecesOf r.1 r.2, ownLag s x.1 = 3 := by
  simp [ownRanges]

/-- What a slot owes for the load of a matrix instruction. -/
def loadOwed (now : Nat) : Pending := { Pending.blank with aslot := true, fixed := false, due := now, memRead := true }

theorem retireLoad_far (u : State) (n : Nat) {sl : Slot} (hsl : u.cur = some sl) :
    u.retireLoad false n = (((u.owe (loadOwed u.now)).holdPair (.loaded sl.nextId) false).modCur fun sl =>
      { sl with hold := sl.hold.map fun h => { h with after := .delay (n - 4) :: h.after } }) := by
  simp only [State.retireLoad, hsl]
  rfl

/-- A load from beyond the core is owed, and n − 4 cycles follow it; it changes the pair's own slot alone. -/
theorem retireLoad_far_parts (u : State) (n : Nat) {sl : Slot} (hsl : u.cur = some sl) :
    ∃ x h, (u.retireLoad false n).cur = some x ∧ x.regs = sl.regs ∧
      (∃ p, x.pending = sl.pending ++ [p] ∧ p.id = sl.nextId ∧ p.owed = true ∧ p.memRead = true) ∧
      x.hold = some h ∧ h.reissue = false ∧ h.w = .loaded sl.nextId ∧ h.after.head? = some (.delay (n - 4)) ∧
      (∀ c, { (u.retireLoad false n).core c with slots := [] } = { u.core c with slots := [] }) ∧
      ∀ j, (u.retireLoad false n).byteAt j = u.byteAt j := by
  rw [retireLoad_far u n hsl, holdPair_eq_modCur]
  have hcur (w : Wait) (now : Nat) (f : Slot → Slot) :
      (((u.owe (loadOwed u.now)).modCur fun sl => sl.wait now w false).modCur f).cur =
        some (f ((sl.owe (loadOwed u.now)).wait now w false)) := by
    rw [State.cur_modCur, State.cur_modCur, State.cur_owe, hsl]
    rfl
  refine ⟨_, _, hcur _ _ _, rfl, ⟨_, rfl, rfl, rfl, rfl⟩, rfl, rfl, rfl, rfl, fun c => ?_, fun j => ?_⟩
  · exact (onlySlot_modCur _ _).2.1 c |>.trans ((onlySlot_modCur _ _).2.1 c) |>.trans ((onlySlot_owe _ _).2.1 c)
  · rw [byteAt_modCur, byteAt_modCur]
    exact byteAt_modCur u _ j

/-- A matrix load that meets no trap and acts so as to retire as a load over these ranges. -/
theorem fetches_of {i : Instr} {s u : State} {rs : List (Nat × Nat)} {n : Nat} (p : Plan) (he : exec i s = .next (p.run s))
    (hi : p.instr = i) (hb : p.bad s = none) (hp : p.priv s = none) (ht : p.tag s = none) (hf : p.fault s = none)
    (hw : p.wait s = none) (ha : p.act s = u.retireLoad (ownRanges s rs) n) : Fetches i s u rs n := by
  refine ⟨fun hown => ?_, fun hfar sl hsl => ?_⟩
  · rw [ownRanges_iff.2 hown] at ha
    exact acts_of p he hi hb hp ht hf hw ha
  · rw [Bool.eq_false_iff.2 fun h => hfar (ownRanges_iff.1 h)] at ha
    obtain ⟨x, h, hparts⟩ := retireLoad_far_parts u n hsl
    exact ⟨_, x, h, acts_of p he hi hb hp ht hf hw ha, hparts⟩

end Sys2Proof.Machine
end

section
/-!
PROOFS. The matrix instructions of a continuation that does not own the unit (R130), and those that act on a part of it at
once: `mzero`, `mband`, `mring`, `mfence`, `mchk` (R245, R248, R250, R263, R264).
-/
namespace Sys2Proof.Machine
open Sys2Proof Sys2Proof.Claims

/-! ## Who does not own the unit (R130) -/

section
variable {s : State} (hs : s.cur.isSome = true) (h : ¬ ownsMatrix s)
include hs h

theorem traps_of_not_ownsMatrix :
    (∀ t z, Traps (.mzero t z) s (notOwner 0x1E0)) ∧ (∀ n a, Traps (.mlda n a) s (notOwner 0x1E1)) ∧
    (∀ a, Traps (.mldb a) s (notOwner 0x1E2)) ∧ (∀ c, Traps (.mring c) s (notOwner 0x1E3)) ∧
    (∀ t a p, cwBad (readS s (.mma t a p) 1 a) = false → Traps (.mma t a p) s (notOwner 0x1E4)) ∧
    (∀ n a, (readS s (.mband n a) 1 a).toNat < 65536 → Traps (.mband n a) s (notOwner 0x1E5)) ∧
    (∀ t a l, Traps (.mst t a l) s (notOwner 0x1E6)) ∧ (∀ t a l, Traps (.mldt t a l) s (notOwner 0x1E7)) ∧
    Traps .mfence s (notOwner 0x1E8) ∧ (∀ d, Traps (.mchk d) s (notOwner 0x1E9)) := by
  have hown := owns_of_not_ownsMatrix hs h
  refine ⟨fun t z => ?_, fun n a => ?_, fun a => ?_, fun c => ?_, fun t a p hcw => ?_, fun n a hv => ?_, fun t a l => ?_,
    fun t a l => ?_, ?_, fun d => ?_⟩
  · exact traps_of_other hs h (planMzero t z) rfl rfl rfl rfl rfl rfl
  · exact traps_of_other hs h (planMlda n a) rfl rfl rfl rfl rfl rfl
  · exact traps_of_other hs h (planMldb a) rfl rfl rfl rfl rfl rfl
  · exact traps_of_other hs h (planMring c) rfl rfl rfl rfl rfl rfl
  · have htag : mmaTag s t.val (readS s (.mma t a p) 1 a) = none := by rw [mmaTag, hown]; rfl
    exact traps_of_other hs h (planMma t a p) rfl rfl rfl (if_neg (by rw [hcw]; exact Bool.false_ne_true)) rfl htag
  · exact traps_of_other hs h (planMband n a) rfl rfl rfl (if_pos hv) rfl rfl
  · have htag : (planMst t a l).tag s = none := by simp only [planMst, hown]; rfl
    exact traps_of_other hs h (planMst t a l) rfl rfl rfl rfl rfl htag
  · exact traps_of_other hs h (planMldt t a l) rfl rfl rfl rfl rfl rfl
  · exact traps_of_other hs h planMfence rfl rfl rfl rfl rfl rfl
  · exact traps_of_other hs h (planMchk d) rfl rfl rfl rfl rfl rfl
end

/-! ## A part of the unit -/

/-- A tile written whole, after traces. -/
theorem tileIs_modCore {s t : State} (h : OnlyTraces s t) (n : Nat) (tag : Tag) (f : Nat → Nat → Half) :
    TileIs (coreOf ((t.modCore t.issue.core fun x => x.putTile n tag f).cleanTile n)) (coreOf s) n tag f := by
  obtain ⟨l, g, hput⟩ := h.coreOf_modCore fun x => x.putTile n tag f
  have hclean := onlyTraces_modCur (t.modCore t.issue.core fun x => x.putTile n tag f) fun sl =>
    { sl with poisoned := sl.poisoned.filter (· ≠ tileCode n) }
  obtain ⟨l', g', hcore⟩ := hclean.cores.core t.issue.core
  have hx : coreOf ((t.modCore t.issue.core fun x => x.putTile n tag f).cleanTile n) =
      { ({ coreOf s with slots := l, gated := g } : Core).putTile n tag f with slots := l', gated := g' } := by
    rw [coreOf, State.cleanTile, hclean.issue]
    exact hcore.trans (by rw [← hput]; rfl)
  exact tileIs_putTile (y := { coreOf s with slots := l, gated := g }) (by rw [hx]) (by rw [hx]) rfl rfl

theorem mband_bad {s : State} (n : Fin 5) (a : SSrc) (hv : 65536 ≤ (readS s (.mband n a) 1 a).toNat) :
    Traps (.mband n a) s ⟨ILLOPND, 5, 0, false⟩ := by
  have hbad : (planMband n a).bad s = some 5 := if_neg (by omega)
  exact traps_of_own (planMband n a) rfl rfl (by simp only [Plan.ownTrap, hbad]; rfl)

section
variable {s : State} (h : ownsMatrix s)
include h

theorem mzero_acts (t : Fin 16) (z : Bool) : ∃ u, Retires (.mzero t z) s u 2 0 ∧
    TileIs (coreOf u) (coreOf s) t.val (if z then 5 else 10) (fun _ _ => 0) ∧ u.mem = s.mem := by
  refine ⟨_, acts_of (planMzero t z) rfl rfl rfl rfl rfl (no_fault_of_owner h rfl) rfl rfl,
    tileIs_modCore (.refl s) _ _ _, State.modSlot_mem _ _ _ _⟩

theorem mband_unbound (n : Fin 5) (a : SSrc) (hv : (readS s (.mband n a) 1 a).toNat < 65536)
    (hn : (if n.val = 4 then (coreOf s).cur.isNone else (sget none (coreOf s).adesc n.val).isNone) = true) :
    Traps (.mband n a) s (notOwner 0x1E5) :=
  traps_of (planMband n a) rfl rfl (if_pos hv) rfl rfl (by simp only [planMband, matFault_of_owner h]; exact if_pos hn)

theorem mband_acts (n : Fin 5) (a : SSrc) (hv : (readS s (.mband n a) 1 a).toNat < 65536)
    (hn : (if n.val = 4 then (coreOf s).cur.isNone else (sget none (coreOf s).adesc n.val).isNone) = false) :
    ∃ u, Retires (.mband n a) s u 2 0 ∧ coreOf u =
      (let b := BitVec.ofNat 16 (readS s (.mband n a) 1 a).toNat
       if n.val = 4 then { coreOf s with cur := (coreOf s).cur.map fun t => { t with band := b } }
       else { coreOf s with adesc := smod none (coreOf s).adesc n.val fun o => o.map fun d => { d with band := b } }) := by
  have hbound : ¬ (if n.val = 4 then (unitOf s).cur.isNone else (sget none (unitOf s).adesc n.val).isNone) = true :=
    fun e => Bool.false_ne_true (hn.symm.trans e)
  refine ⟨_, acts_of (planMband n a) rfl rfl (if_pos hv) rfl rfl
    ((fault_of_owner h rfl).trans (if_neg hbound)) rfl rfl, ?_⟩
  rw [BitVec.ofNat_toNat]
  exact (State.core_modCore _ _ _ _).trans (if_pos rfl)

theorem mband_cur (n : Fin 5) (a : SSrc) (hv : (readS s (.mband n a) 1 a).toNat < 65536) (hn : n.val = 4) {b : BTile}
    (hb : (coreOf s).cur = some b) : ∃ u, Retires (.mband n a) s u 2 0 ∧
      (coreOf u).cur = some { b with band := BitVec.ofNat 16 (readS s (.mband n a) 1 a).toNat } ∧
      (coreOf u).adesc = (coreOf s).adesc := by
  obtain ⟨u, hu, hcore⟩ := mband_acts h n a hv (by rw [if_pos hn, hb]; rfl)
  dsimp only at hcore
  rw [if_pos hn] at hcore
  exact ⟨u, hu, by rw [hcore, hb]; rfl, by rw [hcore]⟩

theorem mband_slot (n : Fin 5) (a : SSrc) (hv : (readS s (.mband n a) 1 a).toNat < 65536) (hn : n.val < 4) {x : ADesc}
    (hx : sget none (coreOf s).adesc n.val = some x) : ∃ u, Retires (.mband n a) s u 2 0 ∧
      sget none (coreOf u).adesc n.val = some { x with band := BitVec.ofNat 16 (readS s (.mband n a) 1 a).toNat } ∧
      (∀ m, m ≠ n.val → sget none (coreOf u).adesc m = sget none (coreOf s).adesc m) ∧ (coreOf u).cur = (coreOf s).cur := by
  obtain ⟨u, hu, hcore⟩ := mband_acts h n a hv (by rw [if_neg (by omega), hx]; rfl)
  dsimp only at hcore
  rw [if_neg (by omega)] at hcore
  refine ⟨u, hu, ?_, fun m hm => ?_, by rw [hcore]⟩
  · rw [hcore]
    exact (sget_sset _ _ _ _ _).trans ((if_pos rfl).trans (by rw [hx]; rfl))
  · rw [hcore]
    exact (sget_sset _ _ _ _ _).trans (if_neg hm)

theorem mring_acts (c : Fin 5) : ∃ u, Acts (.mring c) s (u.holdPair .ring false) ∧
    (coreOf u).ring = some ⟨(issuer s).ctx, ringSucc (2 ^ c.val) s.issue.core, (curBytes (coreOf s) + 255) / 256 + 4, s.now,
      (coreOf s).cur, .waiting⟩ ∧
    (coreOf u).cur = (coreOf s).cur ∧ (∀ n, (u.core n).inb = (s.core n).inb) ∧ u.mem = s.mem := by
  have hacts := acts_of (t := (planMring c).act s) (planMring c) rfl rfl rfl rfl rfl (no_fault_of_owner h rfl) rfl rfl
  refine ⟨_, hacts, ?_, ?_, fun n => ?_, rfl⟩
  · rw [coreOf, State.core_modCore, State.modCore_issue, if_pos rfl]
    rfl
  · rw [coreOf, State.core_modCore, State.modCore_issue, if_pos rfl]
    rfl
  · rw [State.core_modCore]
    split
    · next hc => rw [hc]
    · rfl

theorem mfence_waits (hm : (coreOf s).mst ≠ []) : Waits .mfence s .mstBusy :=
  waits_of planMfence rfl rfl rfl rfl rfl (no_fault_of_owner h rfl) (if_neg fun e => hm (List.isEmpty_iff.1 e))
    (pairWait_of_stall _ rfl)

theorem mfence_acts (hm : (coreOf s).mst = []) : Retires .mfence s s 2 0 :=
  acts_of planMfence rfl rfl rfl rfl rfl (no_fault_of_owner h rfl) (if_pos (List.isEmpty_iff.2 hm)) rfl

end

/-- The status word of Table Matrix-8, by its fields from the low bits up. -/
theorem matStatus_eq (x : Core) : x.matStatus =
    (match x.cur with | some t => 1 + t.fmt * 2 ^ 8 + t.k * 2 ^ 16 | none => 0)
    + (match x.inb with | .empty => 0 | .filling => 1 | .full _ => 2) * 4
    + ((List.range 4).foldl (fun n k => n + if (sget none x.adesc k).isSome then 2 ^ k else 0) 0) * 16 + x.rpl.toNat * 2 ^ 32 := by
  have hadv : (fun n k => n + b2n (sget none x.adesc k).isSome * 2 ^ k) =
      fun n k => n + if (sget none x.adesc k).isSome then 2 ^ k else 0 := by
    funext n k
    simp only [b2n, ite_mul, one_mul, zero_mul]
  simp only [Core.matStatus, hadv]
  cases x.cur <;> cases x.inb <;> simp only [b2n, Option.isSome, if_true, Bool.false_eq_true, if_false] <;> omega

theorem core_issue_giveS (s : State) (i : Instr) (d : SDst) (v : Word) (fl : Byte) :
    (giveS i d v fl s).issue.core = s.issue.core := by
  have howe (p : Pending) : (s.owe p).issue = s.issue := State.modSlot_issue _ _ _ _
  cases d with
  | s n => exact congrArg Issue.core (howe _)
  | q n => exact (rfl : _ = (s.owe _).issue.core).trans (congrArg Issue.core (howe _))
  | z => exact congrArg Issue.core (howe _)

theorem mchk_acts {s : State} (h : ownsMatrix s) (d : SDst) : ∃ u, Acts (.mchk d) s u ∧ (coreOf u).rpl = 0 ∧
    u.cur = (giveS (.mchk d) d (nat64 (coreOf s).matStatus) 0 s).cur := by
  have hacts := acts_of (t := (giveS (.mchk d) d (BitVec.ofNat 64 (unitOf s).matStatus) 0 s).modCore s.issue.core
    fun x => { x with rpl := 0 }) (planMchk d) rfl rfl rfl rfl rfl (no_fault_of_owner h rfl) rfl rfl
  have hissue : (giveS (.mchk d) d (BitVec.ofNat 64 (unitOf s).matStatus) 0 s).issue.core = s.issue.core :=
    core_issue_giveS s (.mchk d) d _ 0
  refine ⟨_, hacts, ?_, slot_modCore_of_slots rfl _ _⟩
  rw [coreOf, State.core_modCore, State.modCore_issue, if_pos hissue]

end Sys2Proof.Machine
end

section
/-!
PROOFS. Binding a descriptor and loading an operand (R242-R247): `mlda` and `mldb`.
-/
namespace Sys2Proof.Machine
open Sys2Proof Sys2Proof.Claims

/-! ## Descriptors (R242, R246, R247) -/

theorem descReadFault_eq (s : State) (ea : Nat) : descReadFault s ea = descTrap s ea := by
  unfold descReadFault descTrap
  cases checkAccess s .load false ea 32 32 <;> rfl

theorem descAt_eq (s : State) (ea : Nat) : descAt s ea = descBytes s ea := rfl

theorem addr_adescOf (d : Nat) : (adescOf d).addr.toNat = bits d 63 0 := by
  simp [adescOf, bits]

theorem sbase_adescOf (d : Nat) : (adescOf d).sbase.toNat = bits d 127 64 :=
  Nat.mod_eq_of_lt (Nat.mod_lt _ (by decide))

theorem adescOf_eq (d : Nat) : adescOf d =
    ⟨nat64 (bits d 63 0), nat64 (bits d 127 64), bits d 143 128, bits d 156 152, BitVec.ofNat 16 (bits d 175 160)⟩ := by
  have h : (adescOf d).addr = nat64 (bits d 63 0) := by rw [← addr_adescOf]; simp [nat64]
  rw [← h]
  rfl

theorem scaledFmt_iff (f : Nat) : scaledFmt f = true ↔ Claims.scaled f := by
  simp [scaledFmt, Claims.scaled]

theorem inLocal_iff (a : Nat) : inLocal a = true ↔ isLocal a := by
  simp [inLocal, isLocal]

theorem descFault_cases (i : Instr) (kMax d : Nat) :
    (goodDesc d kMax → descFault i kMax d = none) ∧
      (¬ goodDesc d kMax → descFault i kMax d = some (notOwner (opcode i))) := by
  have hbad : (descLines d ≠ 64 || !fmtKnown (adescOf d).fmt || (adescOf d).k = 0 || kMax < (adescOf d).k
      || (adescOf d).addr.toNat % 16 ≠ 0 || (scaledFmt (adescOf d).fmt && (adescOf d).sbase.toNat % 16 ≠ 0)) = true ↔
      ¬ goodDesc d kMax := by
    rw [addr_adescOf, sbase_adescOf]
    simp only [fmtKnown, scaledFmt, Bool.or_eq_true, Bool.and_eq_true, Bool.not_eq_true', Bool.or_eq_false_iff, decide_eq_true_eq,
      decide_eq_false_iff_not]
    simp only [goodDesc, adescOf, descLines, List.mem_cons, List.not_mem_nil, or_false]
    omega
  exact ⟨fun h => if_neg fun e => hbad.1 e h, fun h => if_pos (hbad.2 h)⟩

theorem bindRange_of_addr {s : State} {d : Nat} (h : ¬ isLocal (bits d 63 0)) :
    bindRange s (adescOf d) = some (memTrap LOCALRANGE .load (bits d 63 0) (Config.operandSize s.freeCtr % 256 + 1)) := by
  rw [bindRange, addr_adescOf, if_pos (by rw [← inLocal_iff] at h; simpa using h)]
  rfl

theorem bindRange_of_sbase {s : State} {d : Nat} (h : isLocal (bits d 63 0)) (hs : Claims.scaled (bits d 156 152))
    (hb : ¬ isLocal (bits d 127 64)) :
    bindRange s (adescOf d) = some (memTrap LOCALRANGE .load (bits d 127 64) (Config.operandSize s.freeCtr % 256 + 1)) := by
  rw [← inLocal_iff] at h hb
  rw [← scaledFmt_iff] at hs
  rw [bindRange, addr_adescOf, sbase_adescOf, if_neg (by simpa using h),
    if_pos (by rw [Bool.eq_false_iff.2 hb, Bool.and_eq_true]; exact ⟨hs, rfl⟩)]
  rfl

theorem bindRange_of_local {s : State} {d : Nat} (h : isLocal (bits d 63 0))
    (hb : Claims.scaled (bits d 156 152) → isLocal (bits d 127 64)) : bindRange s (adescOf d) = none := by
  rw [← inLocal_iff] at h hb
  rw [← scaledFmt_iff] at hb
  rw [bindRange, addr_adescOf, sbase_adescOf, if_neg (by simpa using h), if_neg (by simpa [adescOf] using hb)]

/-! ## mlda (R246) -/

section
variable {s : State} (h : ownsMatrix s) (n : Fin 4) (a : SSrc) {ea d : Nat} (hea : (readS s (.mlda n a) 1 a).toNat = ea)
  (hd : descBytes s ea = d)
include h hea hd

theorem fault_planMlda : (planMlda n a).fault s =
    ((descTrap s ea).orElse fun _ => descFault (.mlda n a) 65535 d).orElse fun _ => bindRange s (adescOf d) := by
  subst hea hd
  simp only [planMlda, matFault_of_owner h, descReadFault_eq]
  rfl

theorem mlda_traps : (∀ t, descTrap s ea = some t → Traps (.mlda n a) s t) ∧
    (descTrap s ea = none → ¬ goodDesc d 65535 → Traps (.mlda n a) s (notOwner 0x1E1)) ∧
    (descTrap s ea = none → goodDesc d 65535 → ∀ t, bindRange s (adescOf d) = some t → Traps (.mlda n a) s t) := by
  have hf := fault_planMlda h n a hea hd
  have htraps {t : Trap} (ht : (planMlda n a).fault s = some t) : Traps (.mlda n a) s t :=
    traps_of (planMlda n a) rfl rfl rfl rfl rfl ht
  refine ⟨fun t ht => htraps ?_, fun ht hbad => htraps ?_, fun ht hgood t hb => htraps ?_⟩
  · rw [hf, ht]; rfl
  · rw [hf, ht, (descFault_cases _ _ _).2 hbad]; rfl
  · rw [hf, ht, (descFault_cases _ _ _).1 hgood, hb]; rfl

theorem mlda_acts (ht : descTrap s ea = none) (hgood : goodDesc d 65535) (hb : bindRange s (adescOf d) = none)
    (hpost : nonePosted s ea 32) : ∃ u, Fetches (.mlda n a) s u [(ea, 32)] 6 ∧
      (coreOf u).adesc = sset none (coreOf s).adesc n.val (some (adescOf d)) ∧ (coreOf u).tiles = (coreOf s).tiles ∧
      (coreOf u).cur = (coreOf s).cur := by
  have hf : (planMlda n a).fault s = none := by
    rw [fault_planMlda h n a hea hd, ht, (descFault_cases _ _ _).1 hgood, hb]; rfl
  obtain ⟨v, hv⟩ : ∃ v, v = s.lineEffects (issuer s) .load .load ea 32 := ⟨_, rfl⟩
  have htraces : OnlyTraces s v := hv ▸ onlyTraces_lineEffects s (issuer s) .load .load ea 32
  have hact : (planMlda n a).act s = (v.modCore v.issue.core fun x =>
      { x with adesc := sset none x.adesc n.val (some (adescOf d)) }).bump.retireLoad (ownRanges s [(ea, 32)]) 6 := by
    subst hea hd
    simp only [planMlda, catchUp_of_nonePosted hpost, htraces.issue, ← hv]
    rfl
  obtain ⟨l, g, hcore⟩ := htraces.coreOf_modCore fun x => { x with adesc := sset none x.adesc n.val (some (adescOf d)) }
  exact ⟨_, fetches_of (planMlda n a) rfl rfl rfl rfl rfl hf rfl hact, (congrArg Core.adesc hcore :),
    (congrArg Core.tiles hcore :), (congrArg Core.cur hcore :)⟩
end

/-! ## mldb (R247) -/

theorem dataLen_adescOf (d : Nat) : (adescOf d).dataLen = (bits d 143 128 + 31) / 32 * 64 * lineBytes (bits d 156 152) := rfl

theorem scaleLen_adescOf (d : Nat) : (adescOf d).scaleLen =
    if bits d 156 152 = 31 ∨ bits d 156 152 = 29 then (bits d 143 128 + 31) / 32 * 256 else 0 :=
  if_congr (scaledFmt_iff _) rfl rfl

/-- The first fault of loading a B operand: the ranges of data and scales, then poison in them. -/
def loadFault (s : State) (d : Nat) : Option Trap :=
  [rangeLoadFault s (bits d 63 0) (adescOf d).dataLen, rangeLoadFault s (bits d 127 64) (adescOf d).scaleLen,
    dataPoison s (bits d 63 0) (adescOf d).dataLen, dataPoison s (bits d 127 64) (adescOf d).scaleLen].findSome? id

theorem findSome_four {α : Type} (a b c e : Option α) :
    ((a.orElse fun _ => b).orElse fun _ => c.orElse fun _ => e) = [a, b, c, e].findSome? id := by
  cases a <;> cases b <;> cases c <;> cases e <;> rfl

/-- The operand that a descriptor names, as CUR holds it. -/
def bTileOf (s : State) (d : Nat) : BTile :=
  { data := trimCells (bits d 156 152) (bits d 143 128) (s.loadCells (bits d 63 0) (adescOf d).dataLen),
    scales := s.loadCells (bits d 127 64) (adescOf d).scaleLen, fmt := bits d 156 152, k := bits d 143 128,
    band := BitVec.ofNat 16 (bits d 175 160) }

/-- Its elements are those of memory below K, and zero from K on. -/
theorem elemCode_bTileOf (s : State) {d kMax : Nat} (hgood : goodDesc d kMax) {l k : Nat} (hl : l < 64) :
    elemCode (fun x => sget 0 (bTileOf s d).data x) (bits d 156 152) l (k / 32) (k % 32) =
      if k < bits d 143 128 then
        elemCode (fun x => sget 0 (s.loadCells (bits d 63 0) (adescOf d).dataLen) x) (bits d 156 152) l (k / 32) (k % 32)
      else 0 := by
  have hdata (x : Nat) : sget 0 (bTileOf s d).data x = trimByte (bits d 156 152) (bits d 143 128) x
      (sget 0 (s.loadCells (bits d 63 0) (adescOf d).dataLen) x) :=
    sget_trimCells _ _ (nodup_loadCells s _ _) x
  simp only [hdata]
  rw [elemCode_trim _ hgood.2.1 hl (Nat.mod_lt _ (by decide)), Nat.div_add_mod]

section
variable {s : State} (h : ownsMatrix s) (a : SSrc) {ea d : Nat} (hea : (readS s (.mldb a) 1 a).toNat = ea)
  (hd : descBytes s ea = d)
include h hea hd

theorem fault_planMldb : (planMldb a).fault s =
    ((descTrap s ea).orElse fun _ => descFault (.mldb a) 256 d).orElse fun _ => loadFault s d := by
  subst hea hd
  simp only [planMldb, matFault_of_owner h, descReadFault_eq, findSome_four, loadFault, ← addr_adescOf, ← sbase_adescOf]
  rfl

theorem mldb_traps : (∀ t, descTrap s ea = some t → Traps (.mldb a) s t) ∧
    (descTrap s ea = none → ¬ goodDesc d 256 → Traps (.mldb a) s (notOwner 0x1E2)) ∧
    (descTrap s ea = none → goodDesc d 256 → ∀ t, loadFault s d = some t → Traps (.mldb a) s t) := by
  have hf := fault_planMldb h a hea hd
  have htraps {t : Trap} (ht : (planMldb a).fault s = some t) : Traps (.mldb a) s t :=
    traps_of (planMldb a) rfl rfl rfl rfl rfl ht
  refine ⟨fun t ht => htraps ?_, fun ht hbad => htraps ?_, fun ht hgood t hb => htraps ?_⟩
  · rw [hf, ht]; rfl
  · rw [hf, ht, (descFault_cases _ _ _).2 hbad]; rfl
  · rw [hf, ht, (descFault_cases _ _ _).1 hgood, hb]; rfl

theorem mldb_acts (ht : descTrap s ea = none) (hgood : goodDesc d 256) (hb : loadFault s d = none) (hpost : nonePosted s ea 32)
    (hpostData : nonePosted s (bits d 63 0) (adescOf d).dataLen)
    (hpostScales : nonePosted s (bits d 127 64) (adescOf d).scaleLen) : ∃ u,
      Fetches (.mldb a) s u [(ea, 32), (bits d 63 0, (adescOf d).dataLen), (bits d 127 64, (adescOf d).scaleLen)]
        (((adescOf d).dataLen + (adescOf d).scaleLen + 255) / 256 + 8) ∧
      (coreOf u).cur = some (bTileOf s d) ∧ (coreOf u).tiles = (coreOf s).tiles ∧ (coreOf u).adesc = (coreOf s).adesc := by
  have hf : (planMldb a).fault s = none := by
    rw [fault_planMldb h a hea hd, ht, (descFault_cases _ _ _).1 hgood, hb]; rfl
  obtain ⟨v, hv⟩ : ∃ v, v = ((s.lineEffects (issuer s) .load .load ea 32).lineEffects (issuer s) .load .load (bits d 63 0)
    (adescOf d).dataLen).lineEffects (issuer s) .load .load (bits d 127 64) (adescOf d).scaleLen := ⟨_, rfl⟩
  have htraces : OnlyTraces s v := hv ▸ ((onlyTraces_lineEffects _ _ _ _ _ _).trans (onlyTraces_lineEffects _ _ _ _ _ _)).trans
    (onlyTraces_lineEffects _ _ _ _ _ _)
  have hact : (planMldb a).act s = (v.modCore v.issue.core fun x => { x with cur := some (bTileOf s d) }).bump.retireLoad
      (ownRanges s [(ea, 32), (bits d 63 0, (adescOf d).dataLen), (bits d 127 64, (adescOf d).scaleLen)])
      (((adescOf d).dataLen + (adescOf d).scaleLen + 255) / 256 + 8) := by
    simp only [planMldb, hea, descAt_eq, hd, catchUp_of_nonePosted hpost, addr_adescOf, sbase_adescOf,
      catchUp_of_nonePosted hpostData, catchUp_of_nonePosted hpostScales, ← hv, htraces.issue]
    rfl
  obtain ⟨l, g, hcore⟩ := htraces.coreOf_modCore fun x => { x with cur := some (bTileOf s d) }
  exact ⟨_, fetches_of (planMldb a) rfl rfl rfl rfl rfl hf rfl hact, (congrArg Core.cur hcore :),
    (congrArg Core.tiles hcore :), (congrArg Core.adesc hcore :)⟩
end

end Sys2Proof.Machine
end

section
/-!
PROOFS. The width of a rounded value (R152, R159): a bf16 result is a code of 16 bits.
-/
namespace Sys2Proof.Machine
open Sys2Proof Sys2Proof.Claims

theorem b2n_le_one (b : Bool) : b2n b ≤ 1 := by cases b <;> decide

/-- A value below 2^(p + q) is at most 2^p units of 2^q, rounded. -/
theorem roundAt_le {rm m p : Nat} {neg st : Bool} {x q : Int} (h : (m.log2 : Int) + x + 1 ≤ q + p) :
    (roundAt rm neg m x st q).1 ≤ 2 ^ p := by
  have hm : m < 2 ^ (m.log2 + 1) := Nat.lt_log2_self
  unfold roundAt
  split
  · next hq =>
    calc m * 2 ^ (x - q).toNat ≤ 2 ^ (m.log2 + 1) * 2 ^ (x - q).toNat := Nat.mul_le_mul_right _ hm.le
      _ = 2 ^ (m.log2 + 1 + (x - q).toNat) := (Nat.pow_add _ _ _).symm
      _ ≤ 2 ^ p := Nat.pow_le_pow_right (by decide) (by omega)
  · next hq =>
    have hdiv : m / 2 ^ (q - x).toNat < 2 ^ p := by
      refine Nat.div_lt_of_lt_mul (hm.trans_le ?_)
      rw [← Nat.pow_add]
      exact Nat.pow_le_pow_right (by decide) (by omega)
    exact (Nat.add_le_add_left (b2n_le_one _) _).trans hdiv

/-- A value of at least 2^(p + q) is at least 2^p units of 2^q, rounded. -/
theorem le_roundAt {rm m p : Nat} {neg st : Bool} {x q : Int} (hm : m ≠ 0) (h : q + p ≤ (m.log2 : Int) + x) :
    2 ^ p ≤ (roundAt rm neg m x st q).1 := by
  have hlog : 2 ^ m.log2 ≤ m := Nat.log2_self_le hm
  unfold roundAt
  split
  · next hq =>
    calc 2 ^ p ≤ 2 ^ (m.log2 + (x - q).toNat) := Nat.pow_le_pow_right (by decide) (by omega)
      _ = 2 ^ m.log2 * 2 ^ (x - q).toNat := Nat.pow_add _ _ _
      _ ≤ m * 2 ^ (x - q).toNat := Nat.mul_le_mul_right _ hlog
  · next hq =>
    have hdiv : 2 ^ p ≤ m / 2 ^ (q - x).toNat := by
      rw [Nat.le_div_iff_mul_le (Nat.two_pow_pos _), ← Nat.pow_add]
      exact (Nat.pow_le_pow_right (by decide) (by omega)).trans hlog
    exact hdiv.trans (Nat.le_add_right _ _)

/-- A number of 8 bits at an exponent above that of the largest bf16 value is above it. -/
theorem dlt_maxBF16 {n : Nat} {q : Int} (hn : 128 ≤ n) (hq : 120 < q) : dlt BF16.maxN BF16.maxQ n q = true := by
  have hpow : 2 ^ 1 ≤ 2 ^ (q - 120).toNat := Nat.pow_le_pow_right (by decide) (by omega)
  show dlt 255 120 n q = true
  simp only [dlt, min_eq_left hq.le, sub_self, Int.toNat_zero, pow_zero, mul_one, decide_eq_true_eq]
  calc 255 < 128 * 2 ^ 1 := by decide
    _ ≤ n * 2 ^ (q - 120).toNat := Nat.mul_le_mul hn hpow

/-- At that exponent, a number that is not above it has at most 255 units. -/
theorem le_maxBF16 {n : Nat} (h : ¬ dlt BF16.maxN BF16.maxQ n 120 = true) : n ≤ 255 := by
  have h : ¬ dlt 255 120 n 120 = true := h
  simpa [dlt] using h

theorem sign_BF16_le (neg : Bool) : BF16.sign neg ≤ 2 ^ 15 := by cases neg <;> decide

theorem overflow_BF16_lt (rm : Nat) (neg : Bool) : (BF16.overflow rm neg).1 < 2 ^ 16 := by
  have hs := sign_BF16_le neg
  have hcode (toInf : Bool) : (if toInf then BF16.infCode else BF16.maxCode) ≤ 32640 := by cases toInf <;> decide
  unfold Fmt.overflow
  rw [if_neg (by decide)]
  exact (Nat.add_le_add hs (hcode _)).trans_lt (by decide)

theorem round_BF16_lt (rm : Nat) (neg : Bool) (m : Nat) (x : Int) (st : Bool) : (BF16.round rm false neg m x st).1 < 2 ^ 16 := by
  have hs := sign_BF16_le neg
  unfold Fmt.round
  by_cases hm : m = 0
  · rw [if_pos hm]; dsimp only; omega
  rw [if_neg hm]
  have hqmin : BF16.qmin = -133 := rfl
  have hf : BF16.f = 7 := rfl
  have hlo : 2 ^ 7 ≤ (roundAt rm neg m x st (m.log2 + x - BF16.f)).1 := le_roundAt hm (by rw [hf]; omega)
  dsimp only
  split
  · exact overflow_BF16_lt rm neg
  next hfits =>
  have hq : (m.log2 : Int) + x - BF16.f ≤ 120 := by
    by_contra h
    exact hfits (dlt_maxBF16 hlo (by omega))
  simp only [Bool.false_and, Bool.false_eq_true, if_false, hqmin, hf] at hq hfits ⊢
  by_cases hnorm : -133 ≤ (m.log2 : Int) + x - (7 : Nat)
  · rw [max_eq_left hnorm]
    have hn : (roundAt rm neg m x st (m.log2 + x - (7 : Nat))).1 ≤ 2 ^ 8 := roundAt_le (by omega)
    rcases eq_or_lt_of_le hq with heq | hlt
    · have hmax : (roundAt rm neg m x st (m.log2 + x - (7 : Nat))).1 ≤ 255 := by
        rw [heq] at hfits ⊢
        exact le_maxBF16 hfits
      omega
    · omega
  · rw [max_eq_right (by omega)]
    have hn : (roundAt rm neg m x st (-133)).1 ≤ 2 ^ 7 := roundAt_le (by omega)
    omega

theorem convert_F32_BF16_lt (rm : Nat) (c : Nat) : (convert 10 12 rm false c).1 < 2 ^ 16 := by
  rw [convert, if_neg (by decide)]
  dsimp only
  rw [if_neg (by decide), if_neg (by decide)]
  split
  · exact (by decide : BF16.qnan < 2 ^ 16)
  · next neg _ => exact (Nat.add_le_add_right (sign_BF16_le neg) BF16.infCode).trans_lt (by decide)
  · next neg m x _ =>
    split
    · exact (sign_BF16_le neg).trans_lt (by decide)
    · exact round_BF16_lt rm neg m x false

end Sys2Proof.Machine
end

section
/-!
PROOFS. Tiles to and from memory (R259-R263): `mst` and `mldt`.
-/
namespace Sys2Proof.Machine
open Sys2Proof Sys2Proof.Claims

/-! ## Rows (R259) -/

theorem rowsOf_eq (ea : Nat) (l : TileLayout) : rowsOf ea l = (List.range 64).map (tileRow ea l) := rfl

/-- The first trap of the accesses to a tile's rows. -/
def rowsTrap (s : State) (k : Acc) (ea : Nat) (l : TileLayout) : Option Trap :=
  (List.range 64).findSome? fun r => checkAccess s k false (tileRow ea l r) (rowBytes l) 16

/-- The first trap of poisoned rows. -/
def rowsPoison (s : State) (ea : Nat) (l : TileLayout) : Option Trap :=
  (List.range 64).findSome? fun r => dataPoison s (tileRow ea l r) (rowBytes l)

/-- A stored element has the bits of its layout. -/
theorem storeElem_lt (l : TileLayout) (rm : Nat) (v : Half) : (storeElem l rm v).1 < 2 ^ layBits l := by
  unfold storeElem layBits
  split
  · exact convert_F32_BF16_lt rm v.toNat
  · exact v.isLt

/-- A row as stored: its elements, packed from the low bits up. -/
theorem storeRow_eq (x : Core) (n : Nat) (l : TileLayout) (rm i : Nat) : (storeRow x n l rm i).1 =
    ((List.range 64).map fun j => (storeElem l rm (x.tileElem n i j)).1).foldr
      (fun v acc => acc * 2 ^ layBits l + v % 2 ^ layBits l) 0 := by
  unfold storeRow
  induction List.range 64 with
  | nil => rfl
  | cons j js ih =>
    rw [List.map_cons, List.foldr_cons, List.foldr_cons, ← ih, Nat.mod_eq_of_lt (storeElem_lt l rm _), Nat.mul_comm,
      Nat.add_comm]

/-- Element j of a stored row. -/
theorem storeRow_digit (x : Core) (n : Nat) (l : TileLayout) (rm i : Nat) {j : Nat} (hj : j < 64) :
    (storeRow x n l rm i).1 / 2 ^ (elementBits l * j) % 2 ^ elementBits l =
      if l.form = 1 then (convert 10 12 rm false (x.tileElem n i j).toNat).1 % 2 ^ 16 else (x.tileElem n i j).toNat := by
  have hdigit : (storeRow x n l rm i).1 / 2 ^ (elementBits l * j) % 2 ^ elementBits l = (storeElem l rm (x.tileElem n i j)).1 := by
    rw [storeRow_eq, Nat.mul_comm]
    refine (fold_digit (layBits l) _ j).trans ?_
    rw [List.getD_eq_getElem _ _ (by simpa using hj), List.getElem_map, List.getElem_range,
      Nat.mod_eq_of_lt (storeElem_lt l rm _)]
  rw [hdigit, storeElem]
  split
  · exact (Nat.mod_eq_of_lt (convert_F32_BF16_lt rm _)).symm
  · rfl

/-- The rows of a tile in memory, each with its bytes and flags. -/
def storedRows (s : State) (n : Nat) (l : TileLayout) (ea : Nat) : List (Nat × Nat × Byte) :=
  (List.range 64).map fun r => (tileRow ea l r, storeRow (coreOf s) n l (rmOf s) r)

theorem storedRows_eq (s : State) (n : Nat) (l : TileLayout) (ea : Nat) :
    ((rowsOf ea l).zipIdx.map fun (r, i) => (r, storeRow (unitOf s) n l (rmOf s) i)) = storedRows s n l ea := by
  refine List.ext_getElem (by simp [rowsOf, storedRows]) fun r hr hr' => ?_
  simp [rowsOf_eq, storedRows]
  rfl

/-- The granules of the rows. -/
def storedGranules (s : State) (n : Nat) (l : TileLayout) (ea : Nat) : List MstGranule :=
  (List.range 64).flatMap fun r => granulesOf s (tileRow ea l r) (rowBytes l) (storeRow (coreOf s) n l (rmOf s) r).1

theorem flatMap_storedRows (s : State) (n : Nat) (l : TileLayout) (ea : Nat) :
    ((storedRows s n l ea).flatMap fun (r, v, _) => granulesOf s r (layRow l) v) = storedGranules s n l ea := by
  rw [storedRows, List.flatMap_map]
  rfl

theorem rowRanges_eq (ea : Nat) (l : TileLayout) :
    ((rowsOf ea l).map fun r => (r, layRow l)) = (List.range 64).map fun r => (tileRow ea l r, rowBytes l) := by
  rw [rowsOf_eq, List.map_map]
  rfl

/-! ## mst (R259, R260) -/

section
variable {s : State} (h : ownsMatrix s) (t : Fin 16) (a : SSrc) (l : TileLayout) {ea : Nat}
  (hea : (readS s (.mst t a l) 1 a).toNat = ea)

include h in
theorem mst_wrongTag (htag : (coreOf s).tileTag t.val ≠ if l.form = 2 then 5 else 10) : Traps (.mst t a l) s
    ⟨TAGFAULT, ((coreOf s).tileTag t.val).toNat * 256 + (if l.form = 2 then (5 : Tag) else 10).toNat * 65536, 0, false⟩ := by
  have hplan : (planMst t a l).tag s = some (0, ((unitOf s).tileTag t.val).toNat, (layTag l).toNat) := by
    have htag : (unitOf s).tileTag t.val ≠ layTag l := htag
    simp only [planMst, owns_of_ownsMatrix h, Bool.true_and, decide_eq_true_eq, if_pos htag]
  refine traps_of_own (planMst t a l) rfl rfl ?_
  simp only [Plan.ownTrap, hplan, Nat.zero_add]
  rfl

include h hea in
theorem fault_planMst : (planMst t a l).fault s =
    (rowsTrap s .store ea l).orElse fun _ => tilePoison s t.val := by
  subst hea
  simp only [planMst, matFault_of_owner h, rowsOf_eq, List.findSome?_map]
  rfl

theorem tag_planMst (htag : (coreOf s).tileTag t.val = if l.form = 2 then 5 else 10) : (planMst t a l).tag s = none := by
  have htag : (unitOf s).tileTag t.val = layTag l := htag
  simp only [planMst, htag, ne_eq, not_true, decide_false, Bool.and_false, Bool.false_eq_true, if_false]

include h hea in
theorem mst_acts (htag : (coreOf s).tileTag t.val = if l.form = 2 then 5 else 10)
    (hf : rowsTrap s .store ea l = none) (hpoison : tilePoison s t.val = none) (hm : (coreOf s).mst = []) : ∃ (u : State) (fl : Byte),
      Retires (.mst t a l) s u 4 fl ∧ (coreOf u).mst = storedGranules s t.val l ea ∧
      (coreOf u).tiles = (coreOf s).tiles ∧ ∀ j, u.byteAt j = s.byteAt j := by
  have hfault : (planMst t a l).fault s = none := by rw [fault_planMst h t a l hea, hf, hpoison]; rfl
  obtain ⟨v, hv⟩ : ∃ v, v = (storedRows s t.val l ea).foldl
    (fun u x => u.lineEffects (issuer s) .store .store x.1 (layRow l)) s := ⟨_, rfl⟩
  have htraces : OnlyTraces s v := hv ▸ OnlyTraces.foldl (fun u x => onlyTraces_lineEffects u _ _ _ _ _) _ _
  have hact : (planMst t a l).act s = (v.modCore v.issue.core fun x => { x with mst := storedGranules s t.val l ea }).retireIn 4
        ((storedRows s t.val l ea).foldl (fun f x => f ||| x.2.2) 0) := by
    simp only [planMst, hea, storedRows_eq, flatMap_storedRows, ← hv, htraces.issue]
  obtain ⟨k, g, hcore⟩ := htraces.coreOf_modCore fun x => { x with mst := storedGranules s t.val l ea }
  exact ⟨_, _, acts_of (planMst t a l) rfl rfl rfl rfl (tag_planMst t a l htag) hfault (if_pos (List.isEmpty_iff.2 hm)) hact,
    (congrArg Core.mst hcore :), (congrArg Core.tiles hcore :), htraces.bytes⟩

include h hea in
theorem mst_traps (htag : (coreOf s).tileTag t.val = if l.form = 2 then 5 else 10) {x : Trap}
    (hx : ((rowsTrap s .store ea l).orElse fun _ => tilePoison s t.val) = some x) : Traps (.mst t a l) s x :=
  traps_of (planMst t a l) rfl rfl rfl rfl (tag_planMst t a l htag) ((fault_planMst h t a l hea).trans hx)

include h hea in
theorem mst_waits (htag : (coreOf s).tileTag t.val = if l.form = 2 then 5 else 10)
    (hf : rowsTrap s .store ea l = none) (hpoison : tilePoison s t.val = none) (hm : (coreOf s).mst ≠ []) : Waits (.mst t a l) s .mstBusy :=
  waits_of (planMst t a l) rfl rfl rfl rfl (tag_planMst t a l htag) (by rw [fault_planMst h t a l hea, hf, hpoison]; rfl)
    (if_neg fun e => hm (List.isEmpty_iff.1 e)) (pairWait_of_stall _ rfl)
end

/-! ## mldt (R262) -/

section
variable {s : State} (h : ownsMatrix s) (t : Fin 16) (a : SSrc) (l : TileLayout) {ea : Nat}
  (hea : (readS s (.mldt t a l) 1 a).toNat = ea)

include h hea in
theorem fault_planMldt : (planMldt t a l).fault s =
    (rowsTrap s .load ea l).orElse fun _ => rowsPoison s ea l := by
  subst hea
  simp only [planMldt, matFault_of_owner h, rowsOf_eq, List.findSome?_map]
  rfl

/-- Rows of which one is poisoned. -/
theorem dataPoison_rows {s : State} {ea : Nat} {l : TileLayout} {r : Nat} (hr : r < 64)
    (hp : (s.readVa (issuer s) .load (tileRow ea l r) (rowBytes l)).2 = true) :
    rowsPoison s ea l = some ⟨MCHECK, 2, 0, false⟩ := by
  cases hx : rowsPoison s ea l with
  | none =>
    have hnone := List.findSome?_eq_none_iff.1 hx r (List.mem_range.2 hr)
    rw [dataPoison, if_pos hp] at hnone
    cases hnone
  | some x =>
    obtain ⟨k, -, hk⟩ := List.exists_of_findSome?_eq_some hx
    rw [dataPoison] at hk
    split at hk
    · exact hk.symm
    · cases hk

theorem dataPoison_rows_none {s : State} {ea : Nat} {l : TileLayout}
    (hp : ∀ r < 64, (s.readVa (issuer s) .load (tileRow ea l r) (rowBytes l)).2 = false) :
    rowsPoison s ea l = none :=
  List.findSome?_eq_none_iff.2 fun r hr => if_neg (by rw [hp r (List.mem_range.1 hr)]; exact Bool.false_ne_true)

include h hea in
theorem mldt_traps {x : Trap} (hx : ((rowsTrap s .load ea l).orElse fun _ => rowsPoison s ea l) = some x) :
    Traps (.mldt t a l) s x :=
  traps_of (planMldt t a l) rfl rfl rfl rfl rfl ((fault_planMldt h t a l hea).trans hx)

/-- The element of a tile that stands at (r, j) of its rows in memory. -/
def loadedElem (s : State) (l : TileLayout) (ea r j : Nat) : Half :=
  loadElem l ((s.readVa (issuer s) .load (tileRow ea l r) (rowBytes l)).1 / 2 ^ (elementBits l * j) % 2 ^ elementBits l)

theorem tileIs_congr {x y : Core} {n : Nat} {tag : Tag} {f g : Nat → Nat → Half} (hx : TileIs x y n tag f)
    (hfg : ∀ i < 64, ∀ j < 64, f i j = g i j) : TileIs x y n tag g :=
  ⟨fun i hi j hj => (hx.1 i hi j hj).trans (hfg i hi j hj), hx.2⟩

theorem catchUp_rows {s : State} {ea : Nat} {l : TileLayout} (hpost : ∀ r < 64, nonePosted s (tileRow ea l r) (rowBytes l)) :
    (rowsOf ea l).foldl (fun s r => s.catchUp r (layRow l)) s = s := by
  refine List.foldlRecOn (motive := fun t : State => t = s) _ _ rfl fun t ht r hr => ?_
  obtain ⟨k, hk, rfl⟩ := List.mem_map.1 (rowsOf_eq ea l ▸ hr)
  rw [ht]
  exact catchUp_of_nonePosted (hpost k (List.mem_range.1 hk))

include h hea in
theorem mldt_acts (hf : rowsTrap s .load ea l = none)
    (hp : ∀ r < 64, (s.readVa (issuer s) .load (tileRow ea l r) (rowBytes l)).2 = false)
    (hpost : ∀ r < 64, nonePosted s (tileRow ea l r) (rowBytes l)) : ∃ u,
      Fetches (.mldt t a l) s u ((List.range 64).map fun r => (tileRow ea l r, rowBytes l)) (rowBytes l * 64 / 256 + 4) ∧
      TileIs (coreOf u) (coreOf s) t.val (if l.form = 2 then 5 else 10) (loadedElem s l ea) ∧ ∀ j, u.byteAt j = s.byteAt j := by
  have hfault : (planMldt t a l).fault s = none := by rw [fault_planMldt h t a l hea, hf, dataPoison_rows_none hp]; rfl
  obtain ⟨v, hv⟩ : ∃ v, v = (rowsOf ea l).foldl (fun u r => u.lineEffects (issuer s) .load .load r (layRow l)) s :=
    ⟨_, rfl⟩
  have htraces : OnlyTraces s v := hv ▸ OnlyTraces.foldl (fun u x => onlyTraces_lineEffects u _ _ _ _ _) _ _
  obtain ⟨f, hdef⟩ : ∃ f : Nat → Nat → Half, f = fun i j => loadElem l
    (((rowsOf ea l).map fun r => (s.loadVa r (layRow l)).1).getD i 0 / 2 ^ (layBits l * j) % 2 ^ layBits l) := ⟨_, rfl⟩
  have helem (i : Nat) (hi : i < 64) (j : Nat) : f i j = loadedElem s l ea i j := by
    have hrow : ((rowsOf ea l).map fun r => (s.loadVa r (layRow l)).1).getD i 0 =
        (s.readVa (issuer s) .load (tileRow ea l i) (rowBytes l)).1 := by
      rw [rowsOf_eq, List.map_map, List.getD_eq_getElem _ _ (by simpa using hi), List.getElem_map, List.getElem_range]
      rfl
    rw [hdef]
    dsimp only
    rw [hrow]
    rfl
  have hact : (planMldt t a l).act s = ((v.modCore v.issue.core fun x => x.putTile t.val (layTag l) f).cleanTile t.val).retireLoad
      (ownRanges s ((List.range 64).map fun r => (tileRow ea l r, rowBytes l))) (rowBytes l * 64 / 256 + 4) := by
    simp only [planMldt, hea, catchUp_rows hpost, rowRanges_eq, ← hv, ← hdef, htraces.issue]
    rfl
  refine ⟨_, fetches_of (planMldt t a l) rfl rfl rfl rfl rfl hfault rfl hact,
    tileIs_congr (tileIs_modCore htraces t.val (layTag l) f) fun i hi j _ => helem i hi j, fun j => ?_⟩
  exact (byteAt_modCur _ _ j).trans (htraces.bytes j)
end

end Sys2Proof.Machine
end

section
/-!
PROOFS. The obligation on the matrix instructions, instruction by instruction.
-/
namespace Sys2Proof
open Sys2Proof.Machine Sys2Proof.Claims

/-- Settles O37: each matrix instruction by its plan's checks and its effect on the unit. -/
theorem matrixInstructionsActOnTheUnit : Obligations.MatrixInstructionsActOnTheUnit := by
  unfold Obligations.MatrixInstructionsActOnTheUnit
  refine ⟨fun s hs h => traps_of_not_ownsMatrix hs h, fun s h => ⟨fun t z => mzero_acts h t z, ?mlda, ?mldb, ?mband,
    fun c => mring_acts h c, ?mst, ?mldt, fun hm => mfence_waits h hm, fun hm => mfence_acts h hm, ?mchk⟩⟩
  case mlda =>
    intro n a i ea d
    obtain ⟨hread, hbad, hrange⟩ := mlda_traps h n a (ea := ea) (d := d) rfl rfl
    refine ⟨hread, hbad, fun ht hgood hl => hrange ht hgood _ (bindRange_of_addr hl),
      fun ht hgood hl hs hb => hrange ht hgood _ (bindRange_of_sbase hl hs hb), fun ht hgood hl hb hpost => ?_⟩
    obtain ⟨u, hu, hadesc, htiles, hcur⟩ := mlda_acts h n a (ea := ea) (d := d) rfl rfl ht hgood (bindRange_of_local hl hb) hpost
    refine ⟨u, hu, ?_, fun m hm => ?_, htiles, hcur⟩
    · rw [hadesc, sget_sset, if_pos rfl, adescOf_eq]
    · rw [hadesc, sget_sset, if_neg hm]
  case mldb =>
    intro a i ea d fmt kb nb data scales
    obtain ⟨hread, hbad, hrange⟩ := mldb_traps h a (ea := ea) (d := d) rfl rfl
    have hlen : (adescOf d).dataLen = data := dataLen_adescOf d
    have hscales : (adescOf d).scaleLen = scales := scaleLen_adescOf d
    refine ⟨hread, hbad, fun t ht hgood hf => hrange ht hgood t ?_,
      fun ht hgood hdata hscale hpdata hpscale hpost hpostd hposts => ?_⟩
    · rw [loadFault, hscales]; exact hf
    · have hf : loadFault s d = none := by
        rw [loadFault, hscales, hlen, hdata, hscale, hpdata, hpscale]
        rfl
      obtain ⟨u, hu, hcur, htiles, hadesc⟩ :=
        mldb_acts h a (ea := ea) (d := d) rfl rfl ht hgood hf hpost hpostd (hscales ▸ hposts)
      rw [hscales] at hu
      refine ⟨u, bTileOf s d, hu, hcur, rfl, rfl, rfl, ?_, fun l hl k _ => elemCode_bTileOf s hgood hl, htiles, hadesc⟩
      exact congrArg (s.loadCells (bits d 127 64)) hscales
  case mband =>
    intro n a i v
    refine ⟨fun hv => mband_bad n a hv, fun hv hn hcur => mband_unbound h n a hv ?_,
      fun hv hn hx => mband_unbound h n a hv ?_, fun hv hn b hb => mband_cur h n a hv hn hb,
      fun hv hn x hx => mband_slot h n a hv hn hx⟩
    · rw [if_pos hn, hcur]; rfl
    · rw [if_neg (by omega), hx]; rfl
  case mst =>
    intro t a l i ea tag trap
    refine ⟨fun htag => mst_wrongTag h t a l htag, fun htag x hx => mst_traps h t a l (ea := ea) rfl htag ?_,
      fun htag hf x hx => mst_traps h t a l (ea := ea) rfl htag ?_,
      fun htag hf hp hm => mst_waits h t a l (ea := ea) rfl htag hf hp hm, fun htag hf hp hm => ?_⟩
    · exact congrArg (Option.orElse · fun _ => tilePoison s t.val) hx
    · exact (congrArg (Option.orElse · fun _ => tilePoison s t.val) hf).trans hx
    · obtain ⟨u, fl, hu, hmst, htiles, hbytes⟩ := mst_acts h t a l (ea := ea) rfl htag hf hp hm
      exact ⟨u, fl, fun r => (storeRow (coreOf s) t.val l (rmOf s) r).1, hu,
        fun r _ j hj => storeRow_digit (coreOf s) t.val l (rmOf s) r hj, hmst, htiles, hbytes⟩
  case mldt =>
    intro t a l i ea trap row
    refine ⟨fun x hx => mldt_traps h t a l (ea := ea) rfl ?_, fun hf ⟨r, hr, hp⟩ => mldt_traps h t a l (ea := ea) rfl ?_,
      fun hf hp hpost => mldt_acts h t a l rfl hf hp hpost⟩
    · exact congrArg (Option.orElse · fun _ => _) hx
    · exact (congrArg (Option.orElse · fun _ => _) hf).trans (dataPoison_rows hr hp)
  case mchk =>
    intro d i x inb adv cur
    obtain ⟨u, hu, hrpl, hcur⟩ := mchk_acts h d
    exact ⟨u, hu, hrpl, fun sl _ => hcur.trans
      (congrArg (fun w => (giveS (.mchk d) d (nat64 w) 0 s).cur) (matStatus_eq (coreOf s)))⟩

end Sys2Proof
end

section
/-!
PROOFS. Dyadic numbers and one rounding (R152, R159): the units below an exact value, and which neighbour a mode takes.
-/
namespace Sys2Proof.Machine
open Sys2Proof Sys2Proof.Claims

/-! ## Dyadic magnitudes and their signs -/

/-- The magnitude m × 2^x. -/
def dyadic (m : Nat) (x : Int) : Rat := m * 2 ^ x
/-- A number under a sign. -/
def signed (neg : Bool) (a : Rat) : Rat := if neg then -a else a

theorem rational_eq (neg : Bool) (m : Nat) (x : Int) : rational neg m x = signed neg (dyadic m x) := by
  cases neg <;> simp [rational, signed, dyadic]

theorem mag_eq_abs (a : Rat) : mag a = |a| := by
  unfold mag
  split
  · next h => exact (abs_of_neg h).symm
  · next h => exact (abs_of_nonneg (not_lt.1 h)).symm

@[simp] theorem signed_signed (neg : Bool) (a : Rat) : signed neg (signed neg a) = a := by
  cases neg <;> simp [signed]

@[simp] theorem abs_signed (neg : Bool) (a : Rat) : |signed neg a| = |a| := by cases neg <;> simp [signed]

theorem signed_sub (neg : Bool) (a b : Rat) : signed neg a - signed neg b = signed neg (a - b) := by
  cases neg
  · rfl
  · simp only [signed, if_true]; ring

theorem signed_inj {neg : Bool} {a b : Rat} : signed neg a = signed neg b ↔ a = b := by cases neg <;> simp [signed]

theorem two_zpow_pos (x : Int) : (0 : Rat) < 2 ^ x := zpow_pos (by norm_num) x

theorem dyadic_nonneg (m : Nat) (x : Int) : 0 ≤ dyadic m x := mul_nonneg m.cast_nonneg (two_zpow_pos x).le

@[simp] theorem abs_dyadic (m : Nat) (x : Int) : |dyadic m x| = dyadic m x := abs_of_nonneg (dyadic_nonneg m x)

theorem dyadic_le_iff {m n : Nat} {x : Int} : dyadic m x ≤ dyadic n x ↔ m ≤ n := by
  rw [dyadic, dyadic, mul_le_mul_iff_left₀ (two_zpow_pos x), Nat.cast_le]

theorem dyadic_lt_iff {m n : Nat} {x : Int} : dyadic m x < dyadic n x ↔ m < n := by
  rw [dyadic, dyadic, mul_lt_mul_iff_left₀ (two_zpow_pos x), Nat.cast_lt]

theorem dyadic_inj {m n : Nat} {x : Int} : dyadic m x = dyadic n x ↔ m = n := by
  rw [le_antisymm_iff, dyadic_le_iff, dyadic_le_iff, ← le_antisymm_iff]

/-- The same magnitude in smaller units. -/
theorem dyadic_rescale (m : Nat) (x : Int) (k : Nat) : dyadic (m * 2 ^ k) x = dyadic m (x + k) := by
  rw [dyadic, dyadic, zpow_add₀ two_ne_zero, zpow_natCast]
  push_cast
  ring

theorem dyadic_eq_of_le {x y : Int} (h : y ≤ x) (m : Nat) : dyadic m x = dyadic (m * 2 ^ (x - y).toNat) y := by
  rw [dyadic_rescale]
  congr 1
  omega

theorem dlt_iff {m n : Nat} {x y : Int} : dlt m x n y = true ↔ dyadic m x < dyadic n y := by
  rw [dyadic_eq_of_le (min_le_left x y), dyadic_eq_of_le (min_le_right x y), dyadic_lt_iff]
  exact decide_eq_true_iff

/-- Every magnitude lies between two neighbouring multiples of a unit. -/
theorem exists_units (m : Nat) (x q : Int) : ∃ n : Nat, dyadic n q ≤ dyadic m x ∧ dyadic m x < dyadic (n + 1) q := by
  have hq := two_zpow_pos q
  refine ⟨⌊dyadic m x / 2 ^ q⌋₊, ?_, ?_⟩
  · rw [dyadic, ← le_div_iff₀ hq]
    exact Nat.floor_le (div_nonneg (dyadic_nonneg m x) hq.le)
  · rw [dyadic.eq_1 (_ + 1), ← div_lt_iff₀ hq]
    exact_mod_cast Nat.lt_floor_add_one _

/-- The magnitude 2^(log2 m) × 2^x is the power of two at or below m × 2^x. -/
theorem dyadic_log2_le {m : Nat} (hm : m ≠ 0) (x : Int) : dyadic 1 (x + m.log2) ≤ dyadic m x := by
  rw [← dyadic_rescale, one_mul, dyadic_le_iff]
  exact Nat.log2_self_le hm

theorem exponent_lt_of_dyadic_lt {x y : Int} (h : dyadic 1 x < dyadic 1 y) : x < y := by
  by_contra hxy
  rw [dyadic_eq_of_le (not_lt.1 hxy) 1, dyadic_lt_iff, one_mul] at h
  exact absurd h (not_lt.2 Nat.one_le_two_pow)

/-! ## Rounding to a unit -/

/-- Whether the mode takes the neighbour above in magnitude of y, between n and n + 1 units of 2^q (R159). -/
def GoesUp (rm : Nat) (neg : Bool) (n : Nat) (y : Rat) (q : Int) : Prop :=
  match rm with
  | 0 => dyadic (n + 1) q - y < y - dyadic n q ∨ (dyadic (n + 1) q - y = y - dyadic n q ∧ n % 2 = 1)
  | 1 => False
  | 2 => neg = false
  | _ => neg = true

/-- An exact multiple of the unit stays. -/
theorem roundAt_exact {m n : Nat} {x q : Int} (rm : Nat) (neg : Bool) (h : dyadic m x = dyadic n q) :
    roundAt rm neg m x false q = (n, false) := by
  unfold roundAt
  split
  · next hq =>
    rw [dyadic_eq_of_le hq, dyadic_inj] at h
    rw [h]
  · next hq =>
    rw [dyadic_eq_of_le (by omega : x ≤ q) n, dyadic_inj] at h
    subst h
    have hhalf : (2 ^ ((q - x).toNat - 1) = 0) = False := eq_false (Nat.two_pow_pos _).ne'
    simp only [Nat.mul_div_cancel _ (Nat.two_pow_pos _), Nat.mul_mod_left, Nat.not_lt_zero, eq_comm (a := 0), hhalf]
    match rm with
    | 0 | 1 | 2 | _ + 3 => rfl

/-- With n units of 2^(sh + 1) and r more in it, r against one half decides for the nearer neighbour. -/
theorem goesUp_nearest_iff {m sh : Nat} {x : Int} (neg : Bool) :
    GoesUp 0 neg (m / 2 ^ (sh + 1)) (dyadic m x) (x + (sh + 1 : Nat)) ↔
      2 ^ sh < m % 2 ^ (sh + 1) ∨ m % 2 ^ (sh + 1) = 2 ^ sh ∧ m / 2 ^ (sh + 1) % 2 = 1 := by
  have hr : m % 2 ^ (sh + 1) < 2 ^ (sh + 1) := Nat.mod_lt _ (Nat.two_pow_pos _)
  have hm : ((m / 2 ^ (sh + 1) * 2 ^ (sh + 1) + m % 2 ^ (sh + 1) : Nat) : Rat) = m := by rw [Nat.div_add_mod']
  have hbelow : dyadic m x - dyadic (m / 2 ^ (sh + 1)) (x + (sh + 1 : Nat)) = dyadic (m % 2 ^ (sh + 1)) x := by
    rw [← dyadic_rescale, dyadic, dyadic, dyadic, ← hm]
    push_cast
    ring
  have habove : dyadic (m / 2 ^ (sh + 1) + 1) (x + (sh + 1 : Nat)) - dyadic m x = dyadic (2 ^ (sh + 1) - m % 2 ^ (sh + 1)) x := by
    rw [← dyadic_rescale, dyadic, dyadic, dyadic, ← hm, Nat.cast_sub hr.le]
    push_cast
    ring
  rw [GoesUp, hbelow, habove, dyadic_lt_iff, dyadic_inj, pow_succ]
  rw [pow_succ] at hr
  omega

/-- Between two multiples of the unit the mode chooses. -/
theorem roundAt_inexact {m n : Nat} {x q : Int} (rm : Nat) (neg : Bool) (hlo : dyadic n q < dyadic m x)
    (hhi : dyadic m x < dyadic (n + 1) q) :
    ∃ up : Bool, roundAt rm neg m x false q = (n + b2n up, true) ∧ (up = true ↔ GoesUp rm neg n (dyadic m x) q) := by
  have hq : ¬ q ≤ x := by
    intro hq
    rw [dyadic_eq_of_le hq, dyadic_lt_iff] at hlo hhi
    omega
  obtain ⟨sh, rfl⟩ : ∃ sh : Nat, q = x + (sh + 1 : Nat) := ⟨(q - x).toNat - 1, by omega⟩
  have hsh : (x + (sh + 1 : Nat) - x).toNat = sh + 1 := by omega
  rw [← dyadic_rescale, dyadic_lt_iff] at hlo hhi
  obtain rfl : m / 2 ^ (sh + 1) = n := Nat.div_eq_of_lt_le hlo.le hhi
  have hr : m % 2 ^ (sh + 1) ≠ 0 := fun h => by
    have := Nat.div_add_mod' m (2 ^ (sh + 1))
    omega
  unfold roundAt
  rw [if_neg hq, hsh]
  simp only [hr, ne_eq, not_false_eq_true, decide_true, Bool.or_false, Bool.true_and, Nat.add_sub_cancel, Bool.false_or]
  refine ⟨_, rfl, ?_⟩
  match rm with
  | 0 => rw [goesUp_nearest_iff]; simp
  | 1 => simp [GoesUp]
  | 2 => simp [GoesUp]
  | _ + 3 => simp [GoesUp]

theorem roundAt_le_of_le {m M : Nat} {x q : Int} (rm : Nat) (neg : Bool) (h : dyadic m x ≤ dyadic M q) :
    (roundAt rm neg m x false q).1 ≤ M := by
  obtain ⟨n, hlo, hhi⟩ := exists_units m x q
  rcases hlo.eq_or_lt with heq | hlt
  · rw [roundAt_exact rm neg heq.symm]
    exact dyadic_le_iff.1 (heq.trans_le h)
  · obtain ⟨up, hup, -⟩ := roundAt_inexact rm neg hlt hhi
    have hn : n < M := dyadic_lt_iff.1 (hlt.trans_le h)
    rw [hup]
    exact (Nat.add_le_add_left (b2n_le_one up) n).trans hn

end Sys2Proof.Machine
end

section
/-!
PROOFS. The codes of a floating format (R151, R152): which are finite, and how their values lie.
-/
namespace Sys2Proof.Machine
open Sys2Proof Sys2Proof.Claims

/-! ## What holds of the parameters of every format (Table Formats-3) -/

/-- The parameters agree with each other: the largest value is normal, its code is `maxCode`, and no code up to it stands for
an infinity or a NaN. -/
structure Fmt.Sound (F : Fmt) : Prop where
  f_pos : 0 < F.f
  qmin_le_maxQ : F.qmin ≤ F.maxQ
  le_maxN : 2 ^ F.f ≤ F.maxN
  maxN_lt : F.maxN < 2 ^ (F.f + 1)
  maxCode_eq : F.maxCode = (F.maxQ - F.qmin).toNat * 2 ^ F.f + F.maxN
  maxCode_lt : F.maxCode < 2 ^ (F.e + F.f)
  below_inf : F.kind = 0 → F.maxCode < F.infCode
  below_nan : F.kind = 1 → F.maxCode < 15 * 2 ^ F.f + 7

theorem sound_of_mem {F : Fmt} (h : F ∈ [F64, F32, F16, BF16, E4M3, E5M2, E2M1]) : F.Sound := by
  simp only [List.mem_cons, List.not_mem_nil, or_false] at h
  rcases h with rfl | rfl | rfl | rfl | rfl | rfl | rfl <;> constructor <;> decide

/-! ## From a code to its value -/

theorem bit_sign_add {F : Fmt} {K : Nat} (neg : Bool) (hK : K < 2 ^ (F.e + F.f)) :
    bit (F.sign neg + K) (F.e + F.f) = neg := by
  unfold bit Fmt.sign
  cases neg
  · simpa [b2n] using Nat.testBit_lt_two_pow hK
  · simpa [b2n, Nat.testBit_two_pow_add_eq] using Nat.testBit_lt_two_pow hK

theorem exponent_sign_add {F : Fmt} {K : Nat} (neg : Bool) (hK : K < 2 ^ (F.e + F.f)) :
    (F.sign neg + K) / 2 ^ F.f % 2 ^ F.e = K / 2 ^ F.f := by
  have hdiv : K / 2 ^ F.f < 2 ^ F.e := Nat.div_lt_of_lt_mul (by rwa [mul_comm, ← pow_add])
  rw [Fmt.sign, pow_add, ← mul_assoc, Nat.add_comm, Nat.add_mul_div_right _ _ (Nat.two_pow_pos _), Nat.add_mul_mod_self_right,
    Nat.mod_eq_of_lt hdiv]

theorem fraction_sign_add (F : Fmt) (K : Nat) (neg : Bool) : (F.sign neg + K) % 2 ^ F.f = K % 2 ^ F.f := by
  rw [Fmt.sign, pow_add, ← mul_assoc, Nat.add_comm, Nat.add_mul_mod_self_right]

/-- The codes up to that of the largest value are finite. -/
theorem Fmt.Sound.val_le_maxCode {F : Fmt} (hF : F.Sound) (neg : Bool) {K : Nat} (hK : K ≤ F.maxCode) :
    F.val false (F.sign neg + K) =
      if K / 2 ^ F.f = 0 then .fin neg (K % 2 ^ F.f) F.qmin
      else .fin neg (2 ^ F.f + K % 2 ^ F.f) ((K / 2 ^ F.f : Nat) - F.bias - F.f) := by
  have hlt := hK.trans_lt hF.maxCode_lt
  have hinf : ¬ (F.kind = 0 ∧ K / 2 ^ F.f = 2 ^ F.e - 1) := fun ⟨hk, he⟩ => by
    have hle := Nat.div_mul_le_self K (2 ^ F.f)
    rw [he] at hle
    exact absurd (hK.trans_lt (hF.below_inf hk)) (not_lt.2 hle)
  have hnan : ¬ ((F.kind = 1 ∧ K / 2 ^ F.f = 15) ∧ K % 2 ^ F.f = 7) := fun ⟨⟨hk, he⟩, hf⟩ => by
    have hsplit := Nat.div_add_mod' K (2 ^ F.f)
    rw [he, hf] at hsplit
    exact absurd (hK.trans_lt (hF.below_nan hk)) (not_lt.2 hsplit.le)
  simp only [Fmt.val, bit_sign_add neg hlt, exponent_sign_add neg hlt, fraction_sign_add, Bool.and_eq_true, decide_eq_true_eq,
    hinf, hnan, Bool.false_eq_true, if_false]

/-- The code of N units of 2^(qmin + j) stands for them, also where N carries into the next exponent. -/
theorem Fmt.Sound.val_code {F : Fmt} (hF : F.Sound) (neg : Bool) {j N : Nat} (hj : j = 0 ∨ 2 ^ F.f ≤ N)
    (hN : N ≤ 2 ^ (F.f + 1)) (hmax : j * 2 ^ F.f + N ≤ F.maxCode) :
    ∃ m x, F.val false (F.sign neg + (j * 2 ^ F.f + N)) = .fin neg m x ∧ dyadic m x = dyadic N (F.qmin + j) := by
  have hp := Nat.two_pow_pos F.f
  have hdiv (r : Nat) (e : Nat) (h : r < 2 ^ F.f) : (e * 2 ^ F.f + r) / 2 ^ F.f = e ∧ (e * 2 ^ F.f + r) % 2 ^ F.f = r := by
    rw [Nat.add_comm, Nat.add_mul_div_right _ _ hp, Nat.add_mul_mod_self_right, Nat.div_eq_of_lt h, Nat.mod_eq_of_lt h]
    exact ⟨Nat.zero_add e, rfl⟩
  rw [hF.val_le_maxCode neg hmax]
  rw [pow_succ] at hN
  rcases Nat.lt_or_ge N (2 ^ F.f) with hlt | hge
  · obtain rfl : j = 0 := hj.resolve_right (not_le.2 hlt)
    obtain ⟨he, hf⟩ := hdiv N 0 hlt
    rw [he, hf, if_pos rfl]
    exact ⟨_, _, rfl, by simp⟩
  rcases Nat.lt_or_ge N (2 ^ F.f * 2) with hlt | htop
  · obtain ⟨r, rfl⟩ := Nat.exists_eq_add_of_le hge
    obtain ⟨he, hf⟩ := hdiv r (j + 1) (by omega)
    rw [show j * 2 ^ F.f + (2 ^ F.f + r) = (j + 1) * 2 ^ F.f + r by ring, he, hf, if_neg (Nat.succ_ne_zero j)]
    refine ⟨_, _, rfl, congrArg _ ?_⟩
    rw [Fmt.qmin]
    push_cast
    ring
  · obtain rfl : N = 2 ^ F.f * 2 := le_antisymm hN htop
    obtain ⟨he, hf⟩ := hdiv 0 (j + 2) hp
    rw [show j * 2 ^ F.f + 2 ^ F.f * 2 = (j + 2) * 2 ^ F.f + 0 by ring, he, hf, if_neg (Nat.succ_ne_zero (j + 1))]
    refine ⟨_, _, rfl, (congrArg _ ?_).trans (dyadic_rescale (2 ^ F.f) (F.qmin + j) 1).symm⟩
    rw [Fmt.qmin]
    push_cast
    ring

/-! ## The finite values of a format -/

/-- A finite value has f + 1 digits at most, in units no smaller than those of a subnormal. -/
theorem fin_of_val {F : Fmt} {c n : Nat} {k : Bool} {q : Int} (h : F.val false c = .fin k n q) :
    n < 2 ^ (F.f + 1) ∧ F.qmin ≤ q := by
  have hfrac : c % 2 ^ F.f < 2 ^ F.f := Nat.mod_lt _ (Nat.two_pow_pos _)
  have hpow : 2 ^ (F.f + 1) = 2 ^ F.f + 2 ^ F.f := by rw [pow_succ]; omega
  unfold Fmt.val at h
  dsimp only at h
  split at h
  · simp only [Bool.false_eq_true, if_false, FVal.fin.injEq] at h
    omega
  next he =>
  split at h
  · split at h <;> exact absurd h FVal.noConfusion
  split at h
  · exact absurd h FVal.noConfusion
  · simp only [FVal.fin.injEq] at h
    rw [Fmt.qmin]
    omega

/-- Between n and n + 1 units that are those of a subnormal, or where n has all its digits, no finite value lies. -/
theorem no_value_between {F : Fmt} {c a n : Nat} {k : Bool} {b q : Int} (h : F.val false c = .fin k a b)
    (hn : q = F.qmin ∨ 2 ^ F.f ≤ n) : dyadic a b ≤ dyadic n q ∨ dyadic (n + 1) q ≤ dyadic a b := by
  obtain ⟨ha, hb⟩ := fin_of_val h
  rcases le_or_gt q b with hqb | hbq
  · rw [dyadic_eq_of_le hqb, dyadic_le_iff, dyadic_le_iff]
    omega
  · left
    have hfull : 2 ^ F.f ≤ n := hn.resolve_left (by omega)
    rw [dyadic_eq_of_le hbq.le n, dyadic_le_iff]
    calc a ≤ 2 ^ F.f * 2 ^ 1 := by rw [← pow_add]; exact ha.le
      _ ≤ n * 2 ^ (q - b).toNat := Nat.mul_le_mul hfull (Nat.pow_le_pow_right two_pos (by omega))

end Sys2Proof.Machine
end

section
/-!
PROOFS. Rounding to a format (R159, R164): no finite value of the format is better in the sense of the mode.
-/
namespace Sys2Proof.Machine
open Sys2Proof Sys2Proof.Claims

/-! ## Better in the sense of a mode -/

/-- For y the mode does not prefer the value w to the value v, and a tie between them goes to an even code. -/
def NoBetter (rm : Nat) (even : Prop) (y v w : Rat) : Prop :=
  (rm = 0 → mag (y - v) ≤ mag (y - w) ∧ (mag (y - v) = mag (y - w) → w ≠ v → even)) ∧
  (rm = 1 → mag v ≤ mag y ∧ (mag w ≤ mag y → mag w ≤ mag v)) ∧
  (rm = 2 → y ≤ v ∧ (y ≤ w → v ≤ w)) ∧
  (rm = 3 → v ≤ y ∧ (w ≤ y → w ≤ v))

/-- Nothing is better than the value itself. -/
theorem noBetter_self (rm : Nat) (even : Prop) (y w : Rat) : NoBetter rm even y y w := by
  refine ⟨fun _ => ?_, fun _ => ⟨le_rfl, id⟩, fun _ => ⟨le_rfl, id⟩, fun _ => ⟨le_rfl, id⟩⟩
  rw [mag_eq_abs, mag_eq_abs, sub_self, abs_zero]
  exact ⟨abs_nonneg _, fun h hw => absurd (sub_eq_zero.1 (abs_eq_zero.1 h.symm)).symm hw⟩

/-- A number whose magnitude is not between lo and hi is not between them. -/
theorem outside_of_abs {lo hi a : Rat} (hlo : 0 ≤ lo) (h : |a| ≤ lo ∨ hi ≤ |a|) : a ≤ lo ∨ hi ≤ a := by
  rcases h with h | h
  · exact .inl ((le_abs_self a).trans h)
  · rcases le_total 0 a with ha | ha
    · exact .inr (abs_of_nonneg ha ▸ h)
    · exact .inl (ha.trans hlo)

theorem le_lower_of_lt_upper {lo hi y a : Rat} (ha : a ≤ lo ∨ hi ≤ a) (hhi : y < hi) (h : a ≤ y) : a ≤ lo :=
  ha.resolve_right fun h' => absurd (hhi.trans_le (h'.trans h)) (lt_irrefl y)

theorem upper_le_of_lower_lt {lo hi y a : Rat} (ha : a ≤ lo ∨ hi ≤ a) (hlo : lo < y) (h : y ≤ a) : hi ≤ a :=
  ha.resolve_left fun h' => absurd ((h.trans h').trans_lt hlo) (lt_irrefl y)

/-- The nearer neighbour, and of two as near the even one. -/
theorem nearest_of_choice {n : Nat} {neg up : Bool} {q : Int} {y a : Rat} (hlo : dyadic n q < y) (hhi : y < dyadic (n + 1) q)
    (hup : up = true ↔ GoesUp 0 neg n y q) (ha : a ≤ dyadic n q ∨ dyadic (n + 1) q ≤ a) :
    |y - dyadic (n + b2n up) q| ≤ |y - a| ∧
      (|y - dyadic (n + b2n up) q| = |y - a| → a ≠ dyadic (n + b2n up) q → (n + b2n up) % 2 = 0) := by
  have hnear : |y - a| = y - a ∧ a ≤ dyadic n q ∨ |y - a| = a - y ∧ dyadic (n + 1) q ≤ a := by
    rcases ha with ha | ha
    · exact .inl ⟨abs_of_nonneg (sub_nonneg.2 (ha.trans hlo.le)), ha⟩
    · exact .inr ⟨by rw [abs_sub_comm, abs_of_nonneg (sub_nonneg.2 (hhi.le.trans ha))], ha⟩
  cases up with
  | false =>
    have hdown : ¬ GoesUp 0 neg n y q := fun h => Bool.noConfusion (hup.2 h)
    rw [GoesUp, not_or, not_lt, not_and] at hdown
    obtain ⟨hle, htie⟩ := hdown
    simp only [b2n, Bool.false_eq_true, if_false, Nat.add_zero, abs_of_pos (sub_pos.2 hlo)]
    rcases hnear with ⟨habs, hb⟩ | ⟨habs, hb⟩ <;> rw [habs]
    · exact ⟨by linarith, fun heq hne => absurd (by linarith) hne⟩
    · refine ⟨by linarith, fun heq _ => ?_⟩
      have := htie (by linarith)
      omega
  | true =>
    rw [abs_sub_comm y]
    simp only [b2n, if_true, abs_of_pos (sub_pos.2 hhi)]
    rcases hnear with ⟨habs, hb⟩ | ⟨habs, hb⟩ <;> rw [habs]
    · rcases hup.1 rfl with hlt | ⟨htie, hodd⟩
      · exact ⟨by linarith, fun heq _ => absurd heq (by linarith)⟩
      · exact ⟨by linarith, fun _ _ => by omega⟩
    · exact ⟨by linarith, fun heq hne => absurd (by linarith) hne⟩

/-- The neighbour that the mode chooses is not worse than any number beyond the two neighbours. -/
theorem noBetter_of_choice {rm n : Nat} {neg up : Bool} {q : Int} {y w : Rat} (hlo : dyadic n q < y)
    (hhi : y < dyadic (n + 1) q) (hup : up = true ↔ GoesUp rm neg n y q)
    (hw : |w| ≤ dyadic n q ∨ dyadic (n + 1) q ≤ |w|) :
    NoBetter rm ((n + b2n up) % 2 = 0) (signed neg y) (signed neg (dyadic (n + b2n up) q)) w := by
  obtain ⟨a, rfl⟩ : ∃ a, w = signed neg a := ⟨signed neg w, (signed_signed neg w).symm⟩
  rw [abs_signed] at hw
  have hn := dyadic_nonneg n q
  have ha := outside_of_abs hn hw
  refine ⟨?nearest, ?towardZero, ?upward, ?downward⟩ <;> rintro rfl
  case nearest =>
    simp only [signed_sub, mag_eq_abs, abs_signed, ne_eq, signed_inj]
    exact nearest_of_choice hlo hhi hup ha
  case towardZero =>
    obtain rfl : up = false := by simpa [GoesUp] using hup
    simp only [mag_eq_abs, abs_signed, abs_of_pos (hn.trans_lt hlo), b2n, Bool.false_eq_true, if_false, Nat.add_zero, abs_dyadic]
    exact ⟨hlo.le, le_lower_of_lt_upper hw hhi⟩
  case upward =>
    cases neg with
    | false =>
      obtain rfl : up = true := hup.2 rfl
      exact ⟨hhi.le, upper_le_of_lower_lt ha hlo⟩
    | true =>
      obtain rfl : up = false := by simpa [GoesUp] using hup
      exact ⟨neg_le_neg hlo.le, fun h => neg_le_neg (le_lower_of_lt_upper ha hhi (neg_le_neg_iff.1 h))⟩
  case downward =>
    cases neg with
    | false =>
      obtain rfl : up = false := by simpa [GoesUp] using hup
      exact ⟨hlo.le, le_lower_of_lt_upper ha hhi⟩
    | true =>
      obtain rfl : up = true := hup.2 rfl
      exact ⟨neg_le_neg hhi.le, fun h => neg_le_neg (upper_le_of_lower_lt ha hlo (neg_le_neg_iff.1 h))⟩

/-- Rounding to a unit takes a multiple next to the value that the mode asks for, and says whether it differs. -/
theorem roundAt_neighbour {m n : Nat} {x q : Int} (rm : Nat) (neg : Bool) (hlo : dyadic n q ≤ dyadic m x)
    (hhi : dyadic m x < dyadic (n + 1) q) :
    n ≤ (roundAt rm neg m x false q).1 ∧
    ((roundAt rm neg m x false q).2 = true ↔ dyadic (roundAt rm neg m x false q).1 q ≠ dyadic m x) ∧
    ∀ w, |w| ≤ dyadic n q ∨ dyadic (n + 1) q ≤ |w| → NoBetter rm ((roundAt rm neg m x false q).1 % 2 = 0)
      (signed neg (dyadic m x)) (signed neg (dyadic (roundAt rm neg m x false q).1 q)) w := by
  rcases hlo.eq_or_lt with heq | hlt
  · rw [roundAt_exact rm neg heq.symm, heq]
    exact ⟨le_rfl, by simp, fun w _ => noBetter_self rm _ _ w⟩
  · obtain ⟨up, hround, hup⟩ := roundAt_inexact rm neg hlt hhi
    have hne : dyadic (n + b2n up) q ≠ dyadic m x := by
      cases up
      · exact hlt.ne
      · exact hhi.ne'
    rw [hround]
    exact ⟨Nat.le_add_right n _, iff_of_true rfl hne, fun w hw => noBetter_of_choice hlt hhi hup hw⟩

/-! ## Rounding within the range -/

/-- The exponent of the unit to which a value is rounded: f + 1 digits, or that of a subnormal. -/
def Fmt.unitOf (F : Fmt) (m : Nat) (x : Int) : Int := max (m.log2 + x - F.f) F.qmin

theorem Fmt.qmin_le_unitOf (F : Fmt) (m : Nat) (x : Int) : F.qmin ≤ F.unitOf m x := le_max_right _ _

/-- Rounding to a unit of the format does not lead beyond its largest value. -/
theorem roundAt_le_max {F : Fmt} (rm : Nat) (neg : Bool) {m : Nat} {x q : Int} (hmax : dyadic m x ≤ dyadic F.maxN F.maxQ)
    (hq : q ≤ F.maxQ) : (roundAt rm neg m x false q).1 ≤ F.maxN * 2 ^ (F.maxQ - q).toNat :=
  roundAt_le_of_le rm neg (hmax.trans_eq (dyadic_eq_of_le hq F.maxN))

theorem roundAt_le_carry (F : Fmt) (rm : Nat) (neg : Bool) (m : Nat) (x : Int) :
    (roundAt rm neg m x false (F.unitOf m x)).1 ≤ 2 ^ (F.f + 1) := by
  have hle : m.log2 + x - F.f ≤ F.unitOf m x := le_max_left _ _
  exact roundAt_le (by omega)

/-- Where the unit is larger than a subnormal's, the value has all f + 1 digits in it. -/
theorem units_full {F : Fmt} {m n : Nat} {x : Int} (hm : m ≠ 0) (hn : dyadic m x < dyadic (n + 1) (F.unitOf m x)) :
    F.unitOf m x = F.qmin ∨ 2 ^ F.f ≤ n := by
  rcases le_total (m.log2 + x - F.f) F.qmin with h | h
  · exact .inl (max_eq_right h)
  · right
    have hq : F.unitOf m x = m.log2 + x - F.f := max_eq_left h
    have hdigits : dyadic (2 ^ F.f) (F.unitOf m x) ≤ dyadic m x := by
      rw [← one_mul (2 ^ F.f), dyadic_rescale, hq, sub_add_cancel, add_comm]
      exact dyadic_log2_le hm x
    exact Nat.lt_succ_iff.1 (dyadic_lt_iff.1 (hdigits.trans_lt hn))

section inRange
variable {F : Fmt} (hF : F.Sound) (rm : Nat) (neg : Bool) {m : Nat} {x : Int} (hm : m ≠ 0)
  (hmax : dyadic m x ≤ dyadic F.maxN F.maxQ)
include hF hm hmax

theorem log2_unit_le_maxQ : m.log2 + x - F.f ≤ F.maxQ := by
  have htop : dyadic F.maxN F.maxQ < dyadic 1 (F.maxQ + (F.f + 1 : Nat)) := by
    rw [← dyadic_rescale, one_mul, dyadic_lt_iff]
    exact hF.maxN_lt
  have hlt := (dyadic_log2_le hm x).trans_lt (hmax.trans_lt htop)
  have := exponent_lt_of_dyadic_lt hlt
  omega

theorem unitOf_le_maxQ : F.unitOf m x ≤ F.maxQ := max_le (log2_unit_le_maxQ hF hm hmax) hF.qmin_le_maxQ

theorem roundAt_code_le :
    (F.unitOf m x - F.qmin).toNat * 2 ^ F.f + (roundAt rm neg m x false (F.unitOf m x)).1 ≤ F.maxCode := by
  have hq := unitOf_le_maxQ hF hm hmax
  have hmin := F.qmin_le_unitOf m x
  have hN := roundAt_le_max rm neg hmax hq
  rw [hF.maxCode_eq]
  rcases hq.eq_or_lt with heq | hlt
  · rw [heq] at hN ⊢
    simpa using hN
  · calc _ ≤ (F.unitOf m x - F.qmin).toNat * 2 ^ F.f + 2 ^ (F.f + 1) := Nat.add_le_add_left (roundAt_le_carry F rm neg m x) _
      _ = ((F.unitOf m x - F.qmin).toNat + 1) * 2 ^ F.f + 2 ^ F.f := by ring
      _ ≤ (F.maxQ - F.qmin).toNat * 2 ^ F.f + F.maxN :=
        Nat.add_le_add (Nat.mul_le_mul_right _ (by omega)) hF.le_maxN

/-- Within the range, a value rounds to the code of its units, and NX says whether it is inexact. -/
theorem round_inRange : ∃ tiny : Bool, F.round rm false neg m x false =
    (F.sign neg + ((F.unitOf m x - F.qmin).toNat * 2 ^ F.f + (roundAt rm neg m x false (F.unitOf m x)).1),
      flagIf (roundAt rm neg m x false (F.unitOf m x)).2 fNX |||
        flagIf (tiny && (roundAt rm neg m x false (F.unitOf m x)).2) fUF) := by
  have hqu := log2_unit_le_maxQ hF hm hmax
  have hfits : ¬ dlt F.maxN F.maxQ (roundAt rm neg m x false (m.log2 + x - F.f)).1 (m.log2 + x - F.f) = true := by
    rw [dlt_iff, dyadic_eq_of_le hqu, dyadic_lt_iff, not_lt]
    exact roundAt_le_max rm neg hmax hqu
  unfold Fmt.round
  rw [if_neg hm]
  simp only [hfits, Bool.false_and, Bool.false_eq_true, if_false, Nat.add_assoc]
  exact ⟨_, rfl⟩

end inRange

theorem nx_flag_iff (inex tiny : Bool) : (flagIf inex fNX ||| flagIf (tiny && inex) fUF) &&& fNX ≠ 0 ↔ inex = true := by
  cases inex <;> cases tiny <;> decide

/-- With at least one fraction bit, a code is even where its units are. -/
theorem code_mod_two {F : Fmt} (hf : 0 < F.f) (neg : Bool) (j N : Nat) : (F.sign neg + (j * 2 ^ F.f + N)) % 2 = N % 2 := by
  obtain ⟨f, hf⟩ := Nat.exists_eq_add_of_lt hf
  have hsign : F.sign neg = 2 * (b2n neg * 2 ^ (F.e + f)) := by
    rw [Fmt.sign, hf]
    ring
  have hexp : j * 2 ^ F.f = 2 * (j * 2 ^ f) := by
    rw [hf]
    ring
  omega

/-- R159: within the range, a value rounds to a finite code of its sign, and no finite value of the format is better. -/
theorem Fmt.Sound.round_noBetter {F : Fmt} (hF : F.Sound) (rm : Nat) (neg : Bool) {m : Nat} {x : Int} (hm : m ≠ 0)
    (hmax : dyadic m x ≤ dyadic F.maxN F.maxQ) :
    ∃ m' x', F.val false (F.round rm false neg m x false).1 = .fin neg m' x' ∧
      ((F.round rm false neg m x false).2 &&& fNX ≠ 0 ↔ rational neg m' x' ≠ rational neg m x) ∧
      ∀ c k a b, F.val false c = .fin k a b →
        NoBetter rm ((F.round rm false neg m x false).1 % 2 = 0) (rational neg m x) (rational neg m' x') (rational k a b) := by
  obtain ⟨n, hlo, hhi⟩ := exists_units m x (F.unitOf m x)
  have hfull := units_full hm hhi
  have hmin := F.qmin_le_unitOf m x
  obtain ⟨hn, hinex, hbest⟩ := roundAt_neighbour rm neg hlo hhi
  obtain ⟨m', x', hval, hdy⟩ := hF.val_code neg
    (hfull.imp (fun h => by rw [h, sub_self]; rfl) (le_trans · hn)) (roundAt_le_carry F rm neg m x)
    (roundAt_code_le hF rm neg hm hmax)
  rw [Int.toNat_of_nonneg (sub_nonneg.2 hmin), add_sub_cancel] at hdy
  obtain ⟨tiny, hround⟩ := round_inRange hF rm neg hm hmax
  rw [hround]
  refine ⟨m', x', hval, ?_, fun c k a b hc => ?_⟩
  · rw [nx_flag_iff, hinex, rational_eq, rational_eq, ne_eq, ne_eq, signed_inj, hdy]
  · rw [code_mod_two hF.f_pos, rational_eq, rational_eq, rational_eq, hdy]
    refine hbest _ ?_
    rw [abs_signed, abs_dyadic]
    exact no_value_between hc hfull

end Sys2Proof.Machine

namespace Sys2Proof
open Sys2Proof.Machine Sys2Proof.Claims

/-- Settles O36: each of the formats is sound, and within its range rounding takes what the mode asks for. -/
theorem roundingIsCorrect : Obligations.RoundingIsCorrect := by
  unfold Obligations.RoundingIsCorrect
  intro F hmem rm neg m x _ hm hmax
  rw [rational_eq, rational_eq] at hmax
  exact (sound_of_mem hmem).round_noBetter rm neg hm hmax

end Sys2Proof
end

section
/-!
PROOFS. The fixed tree of R166: combining level by level from the leaves gives its root.
-/
namespace Sys2Proof.Machine
open Sys2Proof Sys2Proof.Claims

variable (op : Nat → Nat → Nat × Byte)

/-- What a node makes of its two halves: the operation where both are live, else the live one. -/
def nodeOf (x y : Option Nat) : Option Nat × Byte :=
  match x, y with
  | some a, some b => (some (op a b).1, (op a b).2)
  | none, some b => (some b, 0)
  | a, none => (a, 0)

/-- The elements of the next level. -/
def nextLevel (g : Nat → Option Nat) (i : Nat) : Option Nat := (nodeOf op (g (2 * i)) (g (2 * i + 1))).1

/-- The 2^k leaves below node i of level k, in index order. -/
def leavesBelow (g : Nat → Option Nat) : Nat → Nat → List (Option Nat)
  | 0, i => [g i]
  | k + 1, i => leavesBelow g k (2 * i) ++ leavesBelow g k (2 * i + 1)

theorem length_leavesBelow (g : Nat → Option Nat) (k i : Nat) : (leavesBelow g k i).length = 2 ^ k := by
  induction k generalizing i with
  | zero => rfl
  | succ k ih => rw [leavesBelow, List.length_append, ih, ih, pow_succ]; omega

theorem leavesBelow_eq_map (g : Nat → Option Nat) (k i : Nat) :
    leavesBelow g k i = (List.range (2 ^ k)).map fun j => g (i * 2 ^ k + j) := by
  induction k generalizing i with
  | zero => simp [leavesBelow]
  | succ k ih =>
    rw [leavesBelow, ih, ih, pow_succ, Nat.mul_two, List.range_add, List.map_append, List.map_map]
    congr 1
    · exact List.map_congr_left fun j _ => congrArg g (by ring)
    · exact List.map_congr_left fun j _ => congrArg g (by dsimp only [Function.comp]; ring)

theorem treeNode_succ (g : Nat → Option Nat) (k i : Nat) :
    let l := treeNode op g k (2 * i)
    let r := treeNode op g k (2 * i + 1)
    treeNode op g (k + 1) i = ((nodeOf op l.1 r.1).1, l.2 ||| r.2 ||| (nodeOf op l.1 r.1).2) := by
  rw [treeNode]
  rcases treeNode op g k (2 * i) with ⟨_ | a, f⟩ <;> rcases treeNode op g k (2 * i + 1) with ⟨_ | b, h⟩ <;> simp [nodeOf]

theorem treeLevel_cons (x y : Option Nat) (l : List (Option Nat)) :
    treeLevel op (x :: y :: l) = ((nodeOf op x y).1 :: (treeLevel op l).1, (treeLevel op l).2 ||| (nodeOf op x y).2) := by
  cases x <;> cases y <;> simp [treeLevel, nodeOf]

theorem treeLevel_append {k : Nat} {l m : List (Option Nat)} (hl : l.length = 2 * k) :
    treeLevel op (l ++ m) =
      ((treeLevel op l).1 ++ (treeLevel op m).1, (treeLevel op m).2 ||| (treeLevel op l).2) := by
  induction k generalizing l with
  | zero =>
    obtain rfl := List.eq_nil_of_length_eq_zero hl
    simp [treeLevel]
  | succ k ih =>
    match l, hl with
    | x :: y :: l, hl =>
      have hl : l.length = 2 * k := by simp only [List.length_cons] at hl; omega
      rw [List.cons_append, List.cons_append, treeLevel_cons, treeLevel_cons, ih hl, List.cons_append, BitVec.or_assoc]

theorem treeLevel_leavesBelow_succ (g : Nat → Option Nat) (k i : Nat) :
    treeLevel op (leavesBelow g (k + 2) i) =
      ((treeLevel op (leavesBelow g (k + 1) (2 * i))).1 ++ (treeLevel op (leavesBelow g (k + 1) (2 * i + 1))).1,
        (treeLevel op (leavesBelow g (k + 1) (2 * i + 1))).2 ||| (treeLevel op (leavesBelow g (k + 1) (2 * i))).2) :=
  treeLevel_append op (k := 2 ^ k) (by rw [length_leavesBelow, pow_succ, mul_comm])

/-- One level of the tree over the leaves below a node leaves those of the next level. -/
theorem treeLevel_leavesBelow (g : Nat → Option Nat) (k i : Nat) :
    (treeLevel op (leavesBelow g (k + 1) i)).1 = leavesBelow (nextLevel op g) k i := by
  induction k generalizing i with
  | zero => exact congrArg Prod.fst (treeLevel_cons op (g (2 * i)) (g (2 * i + 1)) [])
  | succ k ih =>
    rw [treeLevel_leavesBelow_succ]
    exact congrArg₂ (· ++ ·) (ih _) (ih _)

/-- The root of k + 1 levels is that of the k levels above the first, and the flags of the first level join its flags. -/
theorem treeNode_bottom (g : Nat → Option Nat) (k i : Nat) :
    treeNode op g (k + 1) i = ((treeNode op (nextLevel op g) k i).1,
      (treeLevel op (leavesBelow g (k + 1) i)).2 ||| (treeNode op (nextLevel op g) k i).2) := by
  induction k generalizing i with
  | zero =>
    rw [treeNode_succ]
    simp [leavesBelow, treeLevel_cons, treeNode, nextLevel, treeLevel]
  | succ k ih =>
    rw [treeNode_succ, ih, ih, treeNode_succ, treeLevel_leavesBelow_succ]
    refine Prod.ext rfl ?_
    dsimp only
    ac_rfl

/-- With enough levels to spare, the tree over the leaves below a node is the node. -/
theorem tree_leavesBelow {n k : Nat} (h : k ≤ n) (g : Nat → Option Nat) (i : Nat) :
    tree op n (leavesBelow g k i) = treeNode op g k i := by
  induction n generalizing k g with
  | zero =>
    obtain rfl := Nat.le_zero.1 h
    cases hg : g i <;> simp [tree, leavesBelow, treeNode, hg]
  | succ n ih =>
    cases k with
    | zero => cases hg : g i <;> simp [tree, leavesBelow, treeNode, hg]
    | succ k =>
      have hlen : ¬ (leavesBelow g (k + 1) i).length ≤ 1 := by
        rw [length_leavesBelow, pow_succ]
        have := Nat.two_pow_pos k
        omega
      rw [tree, if_neg hlen, treeNode_bottom]
      simp only [treeLevel_leavesBelow, ih (Nat.le_of_succ_le_succ h)]

section congruence
variable {op op' : Nat → Nat → Nat × Byte} {P : Nat → Prop} (hop : ∀ a b, P a → P b → op a b = op' a b)
  (hP : ∀ a b, P a → P b → P (op a b).1)
include hop hP

theorem nodeOf_congr {x y : Option Nat} (hx : ∀ a, x = some a → P a) (hy : ∀ b, y = some b → P b) :
    nodeOf op x y = nodeOf op' x y ∧ ∀ c, (nodeOf op x y).1 = some c → P c :=
  match x, y with
  | none, none => ⟨rfl, hx⟩
  | none, some _ => ⟨rfl, hy⟩
  | some _, none => ⟨rfl, hx⟩
  | some a, some b => ⟨by rw [nodeOf, nodeOf, hop a b (hx a rfl) (hy b rfl)],
      fun _ hc => Option.some.inj hc ▸ hP a b (hx a rfl) (hy b rfl)⟩

/-- Two operations that agree on values with P, which both keep, make the same tree of leaves with P. -/
theorem treeNode_congr {g : Nat → Option Nat} (hg : ∀ i x, g i = some x → P x) (k i : Nat) :
    treeNode op g k i = treeNode op' g k i ∧ ∀ x, (treeNode op g k i).1 = some x → P x := by
  induction k generalizing i with
  | zero => exact ⟨rfl, hg i⟩
  | succ k ih =>
    obtain ⟨hl, hPl⟩ := ih (2 * i)
    obtain ⟨hr, hPr⟩ := ih (2 * i + 1)
    obtain ⟨hnode, hPnode⟩ := nodeOf_congr hop hP hPl hPr
    rw [treeNode_succ, treeNode_succ, ← hl, ← hr, ← hnode]
    exact ⟨rfl, hPnode⟩

end congruence

end Sys2Proof.Machine
end

section
/-!
PROOFS. The operation type of a vector instruction with one tagged operand (R191, R192), and its reductions (R208).
-/
namespace Sys2Proof.Machine
open Sys2Proof Sys2Proof.Claims

/-! ## Types and widths -/

theorem tagWidth_eq (t : Tag) : tagWidth t = widthOfTag t := by revert t; decide

theorem isSigned_eq (t : Tag) : isSigned t.toNat = signedTag t := by revert t; decide

theorem intTag_iff (t : Tag) : intTag t.toNat = true ↔ integerTag t := by
  simp [intTag, isInt, integerTag]

theorem floatTag_iff (t : Tag) : floatTag t.toNat = true ↔ floatingTag t := by
  simp [floatTag, floatingTag]

theorem logicTag_iff (t : Tag) : logicTag t.toNat = true ↔ t.toNat ≤ 8 := decide_eq_true_iff

theorem half_range_lt (t : Tag) : 2 ^ (widthOfTag t - 1) < 2 ^ widthOfTag t :=
  have hpos : 0 < widthOfTag t := by revert t; decide
  Nat.pow_lt_pow_right one_lt_two (Nat.sub_lt hpos one_pos)

theorem elems_eq_two_pow (t : Tag) : 2048 / widthOfTag t = 2 ^ treeLevels (widthOfTag t) := by revert t; decide

theorem treeLevels_le (e : Nat) : treeLevels e ≤ 9 := by
  unfold treeLevels
  split_ifs <;> decide

theorem opType_eq {s : State} {i : Instr} {l : List VSrc} {t : Tag} (hl : typed i = some l) (ht : typeOf s l = some t) :
    opType s i = t := by
  rw [typeOf, Option.bind_eq_some_iff] at ht
  obtain ⟨x, hx, ht⟩ := ht
  simp only [opType, hl, Option.bind_some, hx, ht, Option.getD_some]

theorem named_of_typeOf {s : State} {a : VSrc} {t : Tag} (ht : typeOf s [a] = some t) : VSrc.named a = true := by
  by_contra h
  simp [typeOf, h] at ht

section oneOperand
variable {s : State} {i : Instr} {a : VSrc} {t : Tag} (hi : typed i = some [a]) (ht : typeOf s [a] = some t)
include hi ht

theorem typeIn_allowed {ok : Nat → Bool} (hok : ok t.toNat = true) : typeIn i ok s = none := by
  simp [typeIn, opType_eq hi ht, hok]

/-- A type that is not allowed is reported with the field of the operand that names it (R192). -/
theorem traps_of_wrongType {ok : Nat → Bool} (p : Plan) (he : exec i s = .next (p.run s)) (hp : p.instr = i)
    (htag : p.tag = typeIn i ok) (hbad : p.bad s = none) (hpriv : p.priv s = none) (hok : ¬ ok t.toNat = true) :
    Traps i s (wrongType [a] t) := by
  have hname := named_of_typeOf ht
  refine traps_of_own p he hp ?_
  simp [Plan.ownTrap, hbad, hpriv, htag, typeIn, opType_eq hi ht, hok, typeField, hi, hname, wrongType]

end oneOperand

/-! ## The reduction of a register -/

theorem reduce_eq_tree (s : State) (e : Nat) (op : Nat → Nat → Nat × Byte) (ident : Nat) (va : Vec) :
    reduce s e op ident va = ((tree op 9 ((List.range (2048 / e)).map (liveElement s e va))).1.getD ident,
      (tree op 9 ((List.range (2048 / e)).map (liveElement s e va))).2) := by
  unfold reduce liveElement
  generalize tree op 9 _ = r
  rfl

/-- R166: a reduction is the root of the tree over its leaves, or the identity. -/
theorem reduce_eq (s : State) (t : Tag) (op : Nat → Nat → Nat × Byte) (ident : Nat) (va : Vec) {leaf : Nat → Option Nat}
    (h : ∀ k < 2048 / widthOfTag t, liveElement s (widthOfTag t) va k = leaf k) :
    reduce s (widthOfTag t) op ident va = ((treeNode op leaf (treeLevels (widthOfTag t)) 0).1.getD ident,
      (treeNode op leaf (treeLevels (widthOfTag t)) 0).2) := by
  have hleaves : ((List.range (2048 / widthOfTag t)).map (liveElement s (widthOfTag t) va)) =
      leavesBelow leaf (treeLevels (widthOfTag t)) 0 := by
    rw [leavesBelow_eq_map, ← elems_eq_two_pow]
    exact List.map_congr_left fun k hk => by rw [h k (List.mem_range.1 hk), Nat.zero_mul, Nat.zero_add]
  rw [reduce_eq_tree, hleaves, tree_leavesBelow op (treeLevels_le _)]

theorem liveElement_lt {s : State} {e : Nat} {va : Vec} (k x : Nat) (h : liveElement s e va k = some x) : x < 2 ^ e := by
  unfold liveElement at h
  split at h
  · exact Option.some.inj h ▸ elem_lt va e k
  · exact absurd h nofun

theorem getD_lt {o : Option Nat} {g n : Nat} (ho : ∀ x, o = some x → x < n) (hg : g < n) : o.getD g < n := by
  cases o with
  | none => exact hg
  | some x => exact ho x rfl

/-- What an instruction reads of its one operand, once its type is known. -/
theorem read_oneOperand {s : State} {i : Instr} {a : VSrc} {t : Tag} (hi : typed i = some [a]) (ht : typeOf s [a] = some t) :
    opType s i = t ∧ opWidth s i = widthOfTag t ∧ vop s i a = readAt s t a := by
  have hty := opType_eq hi ht
  have hwidth : opWidth s i = widthOfTag t := by rw [opWidth, hty, tagWidth_eq]
  exact ⟨hty, hwidth, by rw [vop, hwidth, hty, readAt]⟩

/-! ## Integer reductions -/

theorem placed_of_lt {t : Tag} {x : Nat} (h : x < 2 ^ widthOfTag t) :
    (if signedTag t then sext64 (widthOfTag t) x else zext64 (widthOfTag t) x) = placed t x := by
  rw [placed, zext64, Nat.mod_eq_of_lt h, nat64]

/-- R208: on the types of P, the instruction reduces by the tree of f, with identity g; on others it traps. -/
def ReducesBy (P : Tag → Prop) (con : SDst → VSrc → Instr) (f : Tag → Nat → Nat → Nat) (g : Tag → Nat) : Prop :=
  ∀ s d a t, typeOf s [a] = some t →
    (P t → Acts (con d a) s (giveS (con d a) d (placed t ((treeNode (fun x y => (f t x y, 0))
      (liveElement s (widthOfTag t) (readAt s t a)) (treeLevels (widthOfTag t)) 0).1.getD (g t))) 0 s)) ∧
    (¬ P t → Traps (con d a) s (wrongType [a] t))

/-- A reduction by its plan, whose operation stays within the width of the elements. -/
theorem reducesBy_of_plan {con : SDst → VSrc → Instr} {ok : Nat → Bool} {P : Tag → Prop}
    {op : Nat → Nat → Nat → Nat → Nat} {ident : Nat → Nat → Nat} {f : Tag → Nat → Nat → Nat} {g : Tag → Nat}
    (he : ∀ s d a, exec (con d a) s = .next ((vred (con d a) ok op ident d a).run s))
    (hi : ∀ d a, typed (con d a) = some [a]) (hP : ∀ t : Tag, ok t.toNat = true ↔ P t)
    (hop : ∀ t x y, x < 2 ^ widthOfTag t → y < 2 ^ widthOfTag t →
      op t.toNat (widthOfTag t) x y = f t x y ∧ f t x y < 2 ^ widthOfTag t)
    (hident : ∀ t : Tag, ident t.toNat (widthOfTag t) = g t ∧ g t < 2 ^ widthOfTag t) : ReducesBy P con f g := by
  intro s d a t ht
  refine ⟨fun hok => ?_, fun hok =>
    traps_of_wrongType (hi d a) ht _ (he s d a) rfl rfl rfl rfl (mt (hP t).1 hok)⟩
  obtain ⟨hty, hwidth, hread⟩ := read_oneOperand (hi d a) ht
  refine acts_of _ (he s d a) rfl rfl rfl (typeIn_allowed (hi d a) ht ((hP t).2 hok)) rfl rfl ?_
  obtain ⟨hroot, hrootlt⟩ := treeNode_congr (op := fun x y => (f t x y, (0 : Byte)))
    (op' := fun x y => (op t.toNat (widthOfTag t) x y, 0)) (g := liveElement s (widthOfTag t) (readAt s t a))
    (fun x y hx hy => by rw [(hop t x y hx hy).1]) (fun x y hx hy => (hop t x y hx hy).2) liveElement_lt
    (treeLevels (widthOfTag t)) 0
  have hres := reduce_eq s t (fun x y => (op t.toNat (widthOfTag t) x y, (0 : Byte))) (g t) (readAt s t a) fun k _ => rfl
  rw [← hroot] at hres
  simp only [vred, hwidth, hread, hty, (hident t).1, hres, isSigned_eq, placed_of_lt (getD_lt hrootlt (hident t).2)]

theorem toSigned_inj {n x y : Nat} (hx : x < 2 ^ n) (hy : y < 2 ^ n) (h : toSigned n x = toSigned n y) : x = y := by
  unfold toSigned at h
  rw [Nat.mod_eq_of_lt hx, Nat.mod_eq_of_lt hy] at h
  rcases Nat.eq_zero_or_pos n with rfl | hn
  · omega
  · dsimp only at h
    split_ifs at h <;> omega

theorem either_lt {c : Bool} {x y n : Nat} (hx : x < n) (hy : y < n) : (if c then x else y) < n := by
  cases c
  · exact hy
  · exact hx

theorem elMin_eq (t : Tag) (e x y : Nat) : elMin t.toNat e x y =
    if (if signedTag t then decide (toSigned e x ≤ toSigned e y) else decide (x ≤ y)) then x else y := by
  simp only [elMin, elLess, isSigned_eq]
  cases signedTag t <;> simp only [Bool.false_eq_true, if_true, if_false, decide_eq_true_eq, ← not_le, ite_not]

theorem elMax_eq (t : Tag) {e x y : Nat} (hx : x < 2 ^ e) (hy : y < 2 ^ e) : elMax t.toNat e x y =
    if (if signedTag t then decide (toSigned e x ≤ toSigned e y) else decide (x ≤ y)) then y else x := by
  simp only [elMax, elLess, isSigned_eq]
  cases signedTag t <;> simp only [Bool.false_eq_true, if_true, if_false, decide_eq_true_eq]
  · split_ifs <;> omega
  · rcases lt_trichotomy (toSigned e x) (toSigned e y) with h | h | h
    · rw [if_pos h, if_pos h.le]
    · rw [toSigned_inj hx hy h, ite_self, ite_self]
    · rw [if_neg h.not_gt, if_neg (not_le.2 h)]

/-! ## Floating reductions -/

theorem fmtOf_eq (t : Tag) : floatingTag t → fmtOf t.toNat = floatFormat t := by
  unfold floatingTag
  revert t
  decide

theorem width_floatFormat (t : Tag) : floatingTag t → widthOfTag t = (floatFormat t).e + (floatFormat t).f + 1 := by
  unfold floatingTag
  revert t
  decide

theorem keep_lt {F : Fmt} (v : FVal) {c : Nat} (hc : c < 2 ^ (F.e + F.f + 1)) : F.keep v c < 2 ^ (F.e + F.f + 1) := by
  have hpos := Nat.two_pow_pos (F.e + F.f)
  rw [pow_succ] at hc ⊢
  unfold Fmt.keep Fmt.sign b2n
  split
  · split_ifs <;> omega
  · exact hc

/-- The flags of the enabled elements, bit by bit. -/
theorem getLsbD_foldl_or {α : Type} (p : α → Bool) (f : α → Byte) (l : List α) (m : Byte) (b : Nat) :
    (l.foldl (fun m k => if p k then m ||| f k else m) m).getLsbD b =
      (m.getLsbD b || l.any fun k => p k && (f k).getLsbD b) := by
  induction l generalizing m with
  | nil => simp
  | cons k l ih =>
    rw [List.foldl_cons, ih, List.any_cons, ← Bool.or_assoc]
    cases p k <;> simp

/-- The leaf of element k of a floating reduction: the element as it takes part, flushed where FTZ says (R162). -/
def floatLeaf (s : State) (t : Tag) (a : VSrc) (k : Nat) : Option Nat :=
  let x := elem (readAt s t a) (widthOfTag t) k
  if enabled s (widthOfTag t) k then some ((floatFormat t).keep ((floatFormat t).val (flushing s) x) x) else none

/-- The flags of the enabled elements that are signalling NaNs (R163). -/
def signallingFlags (s : State) (t : Tag) (a : VSrc) : Byte :=
  (List.range (2048 / widthOfTag t)).foldl (fun m k => if enabled s (widthOfTag t) k then
    m ||| snan ((floatFormat t).val (flushing s) (elem (readAt s t a) (widthOfTag t) k)) else m) 0

theorem getLsbD_signallingFlags (s : State) (t : Tag) (a : VSrc) (b : Nat) : (signallingFlags s t a).getLsbD b =
    (List.range (2048 / widthOfTag t)).any fun k => enabled s (widthOfTag t) k &&
      (snan ((floatFormat t).val (flushing s) (elem (readAt s t a) (widthOfTag t) k))).getLsbD b := by
  rw [signallingFlags, getLsbD_foldl_or]
  simp

/-- R208: on a floating type, the instruction reduces by the tree of op under FCTL, with identity g and the flags of the
nodes and of signalling elements; a NaN result is the canonical one. On other types it traps. -/
def FloatReducesBy (con : SDst → VSrc → Instr) (op : Fmt → Nat → Bool → Nat → Nat → Nat × Byte) (g : Fmt → Nat) : Prop :=
  ∀ s d a t, typeOf s [a] = some t →
    let F := floatFormat t
    let root := treeNode (op F (modeOf s) (flushing s)) (floatLeaf s t a) (treeLevels (widthOfTag t)) 0
    let c := root.1.getD (g F)
    (floatingTag t → ∃ fl : Byte,
      (∀ b < 8, fl.getLsbD b = (root.2.getLsbD b || (List.range (2048 / widthOfTag t)).any fun k =>
        enabled s (widthOfTag t) k && (snan (F.val (flushing s) (elem (readAt s t a) (widthOfTag t) k))).getLsbD b)) ∧
      Acts (con d a) s (giveS (con d a) d (nat64 (if (F.val false c).isNan then F.qnan else c)) fl s)) ∧
    (¬ floatingTag t → Traps (con d a) s (wrongType [a] t))

/-- What the model packs for a floating reduction are its leaves. -/
theorem liveElement_keep (s : State) {t : Tag} (ht : floatingTag t) (a : VSrc) {k : Nat} (hk : k < 2048 / widthOfTag t) :
    liveElement s (widthOfTag t) (ofElems (widthOfTag t) fun j => (floatFormat t).keep
      ((floatFormat t).val (flushing s) (elem (readAt s t a) (widthOfTag t) j)) (elem (readAt s t a) (widthOfTag t) j)) k =
    floatLeaf s t a k := by
  have hx := elem_lt (readAt s t a) (widthOfTag t) k
  have hkeep := keep_lt ((floatFormat t).val (flushing s) (elem (readAt s t a) (widthOfTag t) k))
    (width_floatFormat t ht ▸ hx)
  rw [← width_floatFormat t ht] at hkeep
  rw [liveElement, elem_ofElems _ _ _ hk, Nat.mod_eq_of_lt hkeep, floatLeaf]

theorem floatReducesBy_of_plan {con : SDst → VSrc → Instr} {op : Fmt → Nat → Bool → Nat → Nat → Nat × Byte}
    {ident g : Fmt → Nat} (he : ∀ s d a, exec (con d a) s = .next ((fred (con d a) op ident d a).run s))
    (hi : ∀ d a, typed (con d a) = some [a]) (hident : ∀ F, ident F = g F) : FloatReducesBy con op g := by
  intro s d a t ht F root c
  refine ⟨fun hok => ?_, fun hok =>
    traps_of_wrongType (hi d a) ht _ (he s d a) rfl rfl rfl rfl (mt (floatTag_iff t).1 hok)⟩
  obtain ⟨hty, hwidth, hread⟩ := read_oneOperand (hi d a) ht
  refine ⟨root.2 ||| signallingFlags s t a, fun b _ => by rw [BitVec.getLsbD_or, getLsbD_signallingFlags],
    acts_of _ (he s d a) rfl rfl rfl (typeIn_allowed (hi d a) ht ((floatTag_iff t).2 hok)) rfl rfl ?_⟩
  have hres := reduce_eq s t (op F (modeOf s) (flushing s)) (g F) _ fun k hk => liveElement_keep s hok a hk
  have hmode : rmOf s = modeOf s := rfl
  have hflush : ftzOf s = flushing s := rfl
  simp only [fred, hwidth, hread, hty, fmtOf_eq t hok, hmode, hflush, hident, hres, F, c, root]
  rfl

end Sys2Proof.Machine
end

section
/-!
PROOFS. The obligation on the reductions, row by row.
-/
namespace Sys2Proof
open Sys2Proof.Machine Sys2Proof.Claims

theorem integerReduction {r : (SDst → VSrc → Instr) × (Bool → Nat → Nat → Nat → Nat) × (Bool → Nat → Nat)}
    (hr : r ∈ reductionRows) : ReducesBy integerTag r.1 (fun t => r.2.1 (signedTag t) (widthOfTag t))
      (fun t => r.2.2 (signedTag t) (widthOfTag t)) := by
  simp only [reductionRows, List.mem_cons, List.not_mem_nil, or_false] at hr
  rcases hr with rfl | rfl | rfl
  · exact reducesBy_of_plan (op := elAdd) (ident := fun _ _ => 0) (fun _ _ _ => rfl) (fun _ _ => rfl) intTag_iff
      (fun t x y _ _ => ⟨rfl, Nat.mod_lt _ (Nat.two_pow_pos _)⟩) fun t => ⟨rfl, Nat.two_pow_pos _⟩
  · exact reducesBy_of_plan (op := elMin) (ident := intMax) (fun _ _ _ => rfl) (fun _ _ => rfl) intTag_iff
      (fun t x y hx hy => ⟨elMin_eq t _ x y, either_lt hx hy⟩) fun t => ⟨by rw [intMax, isSigned_eq],
        either_lt ((Nat.sub_le _ _).trans_lt (half_range_lt t)) (Nat.sub_lt (Nat.two_pow_pos _) one_pos)⟩
  · exact reducesBy_of_plan (op := elMax) (ident := intMin) (fun _ _ _ => rfl) (fun _ _ => rfl) intTag_iff
      (fun t x y hx hy => ⟨elMax_eq t hx hy, either_lt hy hx⟩) fun t => ⟨by rw [intMin, isSigned_eq],
        either_lt (half_range_lt t) (Nat.two_pow_pos _)⟩

theorem bitReduction {r : (SDst → VSrc → Instr) × (Nat → Nat → Nat) × (Nat → Nat)} (hr : r ∈ bitReductionRows) :
    ReducesBy (fun t => t.toNat ≤ 8) r.1 (fun _ => r.2.1) (fun t => r.2.2 (widthOfTag t)) := by
  simp only [bitReductionRows, List.mem_cons, List.not_mem_nil, or_false] at hr
  rcases hr with rfl | rfl
  · exact reducesBy_of_plan (op := elAnd) (ident := fun _ e => 2 ^ e - 1) (fun _ _ _ => rfl) (fun _ _ => rfl) logicTag_iff
      (fun t x y _ hy => ⟨rfl, Nat.and_lt_two_pow x hy⟩) fun t => ⟨rfl, Nat.sub_lt (Nat.two_pow_pos _) one_pos⟩
  · exact reducesBy_of_plan (op := elOr) (ident := fun _ _ => 0) (fun _ _ _ => rfl) (fun _ _ => rfl) logicTag_iff
      (fun t x y hx hy => ⟨rfl, Nat.or_lt_two_pow hx hy⟩) fun t => ⟨rfl, Nat.two_pow_pos _⟩

theorem floatReduction {r : (SDst → VSrc → Instr) × (Fmt → Nat → Bool → Nat → Nat → Nat × Byte) × (Fmt → Nat)}
    (hr : r ∈ floatReductionRows) : FloatReducesBy r.1 r.2.1 r.2.2 := by
  simp only [floatReductionRows, List.mem_cons, List.not_mem_nil, or_false] at hr
  rcases hr with rfl | rfl | rfl
  · exact floatReducesBy_of_plan (op := Fmt.add) (ident := fun _ => 0) (fun _ _ _ => rfl) (fun _ _ => rfl) fun _ => rfl
  · exact floatReducesBy_of_plan (op := fun F _ z => F.minmax false z) (ident := fun F => F.inf false) (fun _ _ _ => rfl)
      (fun _ _ => rfl) fun F => by simp [Fmt.inf, Fmt.sign, b2n]
  · exact floatReducesBy_of_plan (op := fun F _ z => F.minmax true z) (ident := fun F => F.inf true) (fun _ _ _ => rfl)
      (fun _ _ => rfl) fun F => by simp [Fmt.inf, Fmt.sign, b2n]

/-- Settles O35: each row's plan folds the tree of the row's operation (`reducesBy_of_plan`, `floatReducesBy_of_plan`). -/
theorem reductionsFoldTheFixedTree : Obligations.ReductionsFoldTheFixedTree := by
  unfold Obligations.ReductionsFoldTheFixedTree
  exact ⟨fun r hr => integerReduction hr, fun r hr => bitReduction hr, fun r hr => floatReduction hr⟩

end Sys2Proof
end

section
/-!
PROOFS. Scalar and predicate instructions, row by row of their tables (R175-R181): the plan of a row gives the table's
result, and each result function is the table's formula.
-/
namespace Sys2Proof.Machine
open Sys2Proof Sys2Proof.Claims

/-! ## The kinds of row -/

/-- The instruction gives val of its two sources, with the flags that its second source sets, where it is enabled. -/
def GivesOfTwo (con : SDst → SSrc → SSrc → Instr) (val : Word → Word → Word) (flags : Word → Byte) : Prop :=
  ∀ s d a b, Acts (con d a b) s (if predHolds s then
    giveS (con d a b) d (val (readS s (con d a b) 1 a) (readS s (con d a b) 2 b)) (flags (readS s (con d a b) 2 b)) s
    else s)

/-- The instruction gives val of its one source and no flag, where it is enabled. -/
def GivesOfOne (con : SDst → SSrc → Instr) (val : Word → Word) : Prop :=
  ∀ s d a, Acts (con d a) s (if predHolds s then giveS (con d a) d (val (readS s (con d a) 1 a)) 0 s else s)

/-- The instruction writes to its predicate register the bits mask of v, where it is enabled. -/
def GivesPred (i : Instr) (d : PReg) (v mask : State → Pred) : Prop :=
  ∀ s, Acts i s (if predHolds s then giveP i d (v s) (mask s) 0 s else s)

theorem givesOfTwo_binary {con : SDst → SSrc → SSrc → Instr} {f g : Word → Word → Word} (hfg : ∀ a b, f a b = g a b)
    (he : ∀ s d a b, exec (con d a b) s = .next ((binary (con d a b) f d a b).run s) := by intros; rfl) :
    GivesOfTwo con g fun _ => 0 := by
  obtain rfl : f = g := funext₂ hfg
  exact fun s d a b => acts_of _ (he s d a b) rfl rfl rfl rfl rfl rfl rfl

theorem givesOfTwo_dividing {con : SDst → SSrc → SSrc → Instr} {f : Word → Word → Word}
    (he : ∀ s d a b, exec (con d a b) s = .next ((dividing (con d a b) f d a b).run s)) : GivesOfTwo con f idz :=
  fun s d a b => acts_of _ (he s d a b) rfl rfl rfl rfl rfl rfl rfl

theorem givesOfOne_unary {con : SDst → SSrc → Instr} {f g : Word → Word} (hfg : ∀ a, f a = g a)
    (he : ∀ s d a, exec (con d a) s = .next ((unaryPlan (con d a) f d a).run s) := by intros; rfl) :
    GivesOfOne con g := by
  obtain rfl : f = g := funext hfg
  exact fun s d a => acts_of _ (he s d a) rfl rfl rfl rfl rfl rfl rfl

theorem givesPred_of_plan {i : Instr} {d : PReg} {v mask : State → Pred}
    (he : ∀ s, exec i s = .next (({ instr := i, act := fun s => givePIf i d (v s) (mask s) s } : Plan).run s)) :
    GivesPred i d v mask :=
  fun s => acts_of _ (he s) rfl rfl rfl rfl rfl rfl rfl

/-! ## Tables Scalar-2 and Scalar-3 (R175-R177) -/

theorem givesOfTwo_wideRows : ∀ r ∈ wideRows, GivesOfTwo r.1 r.2 fun _ => 0 := by
  simp only [wideRows, List.forall_mem_cons]
  exact ⟨givesOfTwo_binary valAdd_eq, givesOfTwo_binary valSub_eq, givesOfTwo_binary valMul_eq,
    givesOfTwo_binary (f := valMulhS) fun _ _ => rfl, givesOfTwo_binary (f := valMulhN) fun _ _ => rfl,
    givesOfTwo_binary (f := valAnd) fun _ _ => rfl, givesOfTwo_binary (f := valOr) fun _ _ => rfl,
    givesOfTwo_binary (f := valXor) fun _ _ => rfl, givesOfTwo_binary (f := valAndn) fun _ _ => rfl,
    givesOfTwo_binary valShl_eq, givesOfTwo_binary valShr_eq, givesOfTwo_binary valSar_eq, givesOfTwo_binary valRot_eq,
    givesOfTwo_binary valMinS_eq, givesOfTwo_binary valMaxS_eq, givesOfTwo_binary valMinN_eq,
    givesOfTwo_binary valMaxN_eq, List.forall_mem_nil _⟩

theorem givesOfTwo_narrowRows : ∀ r ∈ narrowRows, GivesOfTwo r.1 r.2 fun _ => 0 := by
  simp only [narrowRows, List.forall_mem_cons]
  exact ⟨givesOfTwo_binary (f := valLea) fun _ _ => rfl, givesOfTwo_binary (f := valSext) fun _ _ => rfl,
    givesOfTwo_binary (f := valZext) fun _ _ => rfl, givesOfTwo_binary valAdd32_eq, givesOfTwo_binary valSub32_eq,
    givesOfTwo_binary valMul32_eq, List.forall_mem_nil _⟩

theorem givesOfOne_unaryRows : ∀ r ∈ unaryRows, GivesOfOne r.1 r.2 := by
  simp only [unaryRows, List.forall_mem_cons]
  exact ⟨givesOfOne_unary valClz_eq, givesOfOne_unary valPopc_eq, givesOfOne_unary (f := valMov) fun _ => rfl,
    List.forall_mem_nil _⟩

theorem givesOfTwo_divisionRows : ∀ r ∈ divisionRows, GivesOfTwo r.1 r.2 idz := by
  simp only [divisionRows, List.forall_mem_cons]
  exact ⟨givesOfTwo_dividing (f := valDivS) fun _ _ _ _ => rfl, givesOfTwo_dividing (f := valDivN) fun _ _ _ _ => rfl,
    givesOfTwo_dividing (f := valRemS) fun _ _ _ _ => rfl, givesOfTwo_dividing (f := valRemN) fun _ _ _ _ => rfl,
    List.forall_mem_nil _⟩

/-! ## Table Scalar-4 (R178) -/

theorem givesOfOne_immediateRows (m : BitVec 6) :
    ∀ r ∈ immediateRows, GivesOfOne (fun d a => r.1 d a m) fun a => r.2 a m := by
  simp only [immediateRows, List.forall_mem_cons]
  exact ⟨givesOfOne_unary (valAddi_eq m), givesOfOne_unary (f := valAndi m) fun _ => rfl,
    givesOfOne_unary (f := valOri m) fun _ => rfl, givesOfOne_unary (f := valXori m) fun _ => rfl,
    givesOfOne_unary (valShli_eq m), givesOfOne_unary (valShri_eq m),
    givesOfOne_unary (f := valSari m) fun a => sshiftRight_eq_div a _, List.forall_mem_nil _⟩

/-! ## Compares (R179) -/

theorem flag_eq_truth (p : Prop) [Decidable p] : flag p = truth (decide p) := by
  simp only [flag, truth, decide_eq_true_eq]

theorem valSetEq_eq (a b : Word) : valSetEq a b = truth (decide (a.toNat = b.toNat)) := by
  simp only [valSetEq, flag_eq_truth, BitVec.toNat_inj]

theorem valSetNe_eq (a b : Word) : valSetNe a b = truth (decide (a.toNat ≠ b.toNat)) := by
  simp only [valSetNe, flag_eq_truth, BitVec.toNat_ne]

theorem givesOfTwo_compareRows : ∀ r ∈ compareRows, GivesOfTwo r.1 (fun a b => truth (r.2 a b)) fun _ => 0 := by
  simp only [compareRows, List.forall_mem_cons]
  exact ⟨givesOfTwo_binary valSetEq_eq, givesOfTwo_binary valSetNe_eq,
    givesOfTwo_binary (f := valSetLt) fun _ _ => flag_eq_truth _, givesOfTwo_binary (f := valSetGe) fun _ _ => flag_eq_truth _,
    givesOfTwo_binary (f := valSetLtn) fun _ _ => flag_eq_truth _,
    givesOfTwo_binary (f := valSetGen) fun _ _ => flag_eq_truth _, List.forall_mem_nil _⟩

/-- R139: without a pop, the latency is that of Table Core-10. -/
theorem latency_of_noPops (s : State) {i : Instr} (h : popsOf i = []) : latency s i = tableLatency s i := by
  simp only [latency, h, List.isEmpty_nil, Bool.true_or, if_true]

theorem tableLatency_compareRows (s : State) (d : SDst) (a b : SSrc) :
    ∀ r ∈ compareRows, tableLatency s (r.1 d a b) = some 1 := by
  simp only [compareRows, List.forall_mem_cons]
  exact ⟨rfl, rfl, rfl, rfl, rfl, rfl, List.forall_mem_nil _⟩

/-! ## Table Scalar-5 (R180, R181) -/

/-- The result of a two-predicate form is the row's, bit by bit. -/
theorem givesPred_predicateRows (d a b : PReg) : ∀ r ∈ predicateRows, ∃ f : Pred → Pred → Pred,
    (∀ x y k, k < 128 → (f x y).getLsbD k = r.2 (x.getLsbD k) (y.getLsbD k)) ∧
    GivesPred (r.1 d a b) d (fun s => f (readP s a.val) (readP s b.val)) fun _ => BitVec.allOnes 128 := by
  simp only [predicateRows, List.forall_mem_cons]
  exact ⟨⟨valPand, fun _ _ _ _ => BitVec.getLsbD_and, givesPred_of_plan fun _ => rfl⟩,
    ⟨valPor, fun _ _ _ _ => BitVec.getLsbD_or, givesPred_of_plan fun _ => rfl⟩,
    ⟨valPxor, fun _ _ _ _ => BitVec.getLsbD_xor, givesPred_of_plan fun _ => rfl⟩, List.forall_mem_nil _⟩

theorem givesPred_pset (d : PReg) (a : SSrc) {m : Fin 3} {v mask : Word → Pred} (h : ∀ x, valPset m x = (v x, mask x)) :
    GivesPred (.pset d a m) d (fun s => v (readS s (.pset d a m) 1 a)) fun s => mask (readS s (.pset d a m) 1 a) :=
  fun s => acts_of (planPset d a m) rfl rfl rfl rfl rfl rfl rfl (by simp only [planPset, h, givePIf])

theorem acts_pget (s : State) (d : SDst) (a : PReg) {m : Fin 3} {v : Word} (h : valPget m (readP s a.val) = v) :
    Acts (.pget d a m) s (if predHolds s then giveS (.pget d a m) d v 0 s else s) :=
  acts_of (planPget d a m) rfl rfl rfl rfl rfl rfl rfl (by simp only [planPget, h, giveIf])

theorem valPget_count (p : Pred) :
    valPget 2 p = BitVec.ofNat 64 ((List.range 128).countP fun k => p.getLsbD k) :=
  congrArg (BitVec.ofNat 64) (ones_eq 128 p.toNat)

end Sys2Proof.Machine

namespace Sys2Proof
open Sys2Proof.Machine Sys2Proof.Claims

/-- Settles O1: every row's result function is the table's formula. -/
theorem scalarResultsFollowTable : Obligations.ScalarResultsFollowTable := by
  unfold Obligations.ScalarResultsFollowTable
  refine ⟨fun s d a b r hr => ?_, fun s d a r hr => givesOfOne_unaryRows r hr s d a⟩
  rcases List.mem_append.1 hr with hr | hr
  · exact givesOfTwo_wideRows r hr s d a b
  · exact givesOfTwo_narrowRows r hr s d a b

/-- Settles O2: the four plans divide as the tables say, and the one quotient out of range wraps. -/
theorem divisionFollowsTableAndSetsIdz : Obligations.DivisionFollowsTableAndSetsIdz := by
  unfold Obligations.DivisionFollowsTableAndSetsIdz
  refine ⟨fun s d a b r hr => givesOfTwo_divisionRows r hr s d a b, fun a b ha hb => ?_⟩
  rw [ha, hb]
  decide

/-- Settles O3: `sel` reads both sources and gives the one that its predicate chooses. -/
theorem selWritesTheChosenSource : Obligations.SelWritesTheChosenSource := by
  unfold Obligations.SelWritesTheChosenSource
  exact fun s d a b => acts_of (planSel d a b) rfl rfl rfl rfl rfl rfl rfl rfl

/-- Settles O4: every row's result function is the table's formula. -/
theorem immediateResultsFollowTable : Obligations.ImmediateResultsFollowTable := by
  unfold Obligations.ImmediateResultsFollowTable
  exact fun s d a m r hr => givesOfOne_immediateRows m r hr s d a

/-- Settles O5: the latency is the table's, and the result the row's condition. -/
theorem comparesWriteOneOrZero : Obligations.ComparesWriteOneOrZero := by
  unfold Obligations.ComparesWriteOneOrZero
  exact fun s d a b r hr => ⟨fun h => (latency_of_noPops s h).trans (tableLatency_compareRows s d a b r hr),
    givesOfTwo_compareRows r hr s d a b⟩

/-- Settles O6: the two-predicate forms bit by bit, then `pnot` and the modes of `pset` and `pget`. -/
theorem predicateInstructionsFollowTable : Obligations.PredicateInstructionsFollowTable := by
  unfold Obligations.PredicateInstructionsFollowTable
  refine ⟨fun s d a b r hr => ?_, fun s d a => acts_of (planPnot d a) rfl rfl rfl rfl rfl rfl rfl rfl,
    fun s d a => givesPred_pset d a valPset_low s, fun s d a => givesPred_pset d a valPset_high s,
    fun s d a => givesPred_pset d a valPset_all s, fun s d a => acts_pget s d a (valPget_low _),
    fun s d a => acts_pget s d a (valPget_high _), fun s d a => acts_pget s d a (valPget_count _)⟩
  obtain ⟨f, hbits, hacts⟩ := givesPred_predicateRows d a b r hr
  exact ⟨f (readP s a.val) (readP s b.val), hbits _ _, hacts s⟩

end Sys2Proof
end

section
/-!
PROOFS. Control transfers (R168-R172) and the nops (R44, R187): where each branch goes, and when.
-/
namespace Sys2Proof.Machine
open Sys2Proof Sys2Proof.Claims

/-! ## The target of an offset and the conditions of Table Scalar-1 -/

/-- R169: the target in the manual's integers. -/
theorem target_eq (s : State) (off : BitVec 18) : target s off = offsetTarget s off := by
  have hoff : off.signExtend 64 = BitVec.ofInt 64 off.toInt := rfl
  rw [target, offsetTarget, int64, BitVec.ofInt_add, BitVec.ofInt_mul, hoff, mul_comm, BitVec.ofInt_natCast,
    BitVec.ofNat_toNat, BitVec.setWidth_eq]
  rfl

theorem jump_eq (s : State) (t : Word) : s.jump t = goesTo s t := rfl

theorem any_getLsbD {n : Nat} (p : BitVec n) : ((List.range n).any fun k => p.getLsbD k) = decide (p ≠ 0) := by
  rw [Bool.eq_iff_iff, List.any_eq_true, decide_eq_true_eq, Ne, BitVec.eq_of_getLsbD_eq_iff]
  simp

theorem all_getLsbD {n : Nat} (p : BitVec n) :
    ((List.range n).all fun k => p.getLsbD k) = decide (p = BitVec.allOnes n) := by
  rw [Bool.eq_iff_iff, List.all_eq_true, decide_eq_true_eq, BitVec.eq_of_getLsbD_eq_iff]
  simp +contextual

theorem all_not_getLsbD {n : Nat} (p : BitVec n) : ((List.range n).all fun k => !p.getLsbD k) = decide (p = 0) := by
  rw [Bool.eq_iff_iff, List.all_eq_true, decide_eq_true_eq, BitVec.eq_of_getLsbD_eq_iff]
  simp

theorem setWidth_eq_zero_iff {n : Nat} (v : BitVec n) (m : Nat) : v.setWidth m = 0 ↔ v.toNat % 2 ^ m = 0 := by
  rw [← BitVec.toNat_inj, BitVec.toNat_setWidth]
  rfl

theorem readS_la (s : State) (i : Instr) (f : Nat) : readS s i f .la = (laOf s).setWidth 64 := by
  unfold readS laOf
  cases s.cur with
  | none => exact (BitVec.setWidth_zero 64 2048).symm
  | some sl => rfl

theorem readS_s (s : State) (i : Instr) (f : Nat) (n : Fin 32) : readS s i f (.s n) = sOf s n.val := by
  unfold readS sOf
  cases s.cur <;> rfl

theorem readS_la_eq_zero (s : State) (i : Instr) (f : Nat) : readS s i f .la = 0 ↔ (laOf s).toNat % 2 ^ 64 = 0 := by
  rw [readS_la, setWidth_eq_zero_iff]

theorem readS_la_sign (s : State) (i : Instr) (f : Nat) : (readS s i f .la).getLsbD 63 = (laOf s).getLsbD 63 := by
  rw [readS_la, BitVec.getLsbD_setWidth]
  rfl

/-! ## Branches (R168, R169) -/

/-- The branch is taken to its target where the condition holds, and changes nothing else. -/
def BranchesOn (con : BitVec 18 → Instr) (taken : State → Bool) : Prop :=
  ∀ s off, Acts (con off) s (if taken s then goesTo s (offsetTarget s off) else s)

theorem branchesOn_of_plan {con : BitVec 18 → Instr} {f : BitVec 18 → State → Bool} {taken : State → Bool}
    (hfg : ∀ s off, taken s = f off s)
    (he : ∀ s off, exec (con off) s = .next ((branch (con off) off (f off)).run s) := by intros; rfl) :
    BranchesOn con taken :=
  fun s off => acts_of _ (he s off) rfl rfl rfl rfl rfl rfl
    (by simp only [branch, hfg s off, target_eq, jump_eq])

theorem branchesOn_branchRows : ∀ r ∈ branchRows, BranchesOn r.1 r.2 := by
  simp only [branchRows, List.forall_mem_cons]
  exact ⟨branchesOn_of_plan (f := fun _ _ => true) fun _ _ => rfl,
    branchesOn_of_plan fun _ _ => any_getLsbD _,
    branchesOn_of_plan fun _ _ => all_getLsbD _,
    branchesOn_of_plan fun _ _ => all_not_getLsbD _,
    branchesOn_of_plan fun _ _ => decide_eq_decide.2 (readS_la_eq_zero _ _ _).symm,
    branchesOn_of_plan fun _ _ => decide_eq_decide.2 (not_congr (readS_la_eq_zero _ _ _).symm),
    branchesOn_of_plan fun _ _ => (readS_la_sign _ _ _).symm,
    branchesOn_of_plan fun _ _ => congrArg not (readS_la_sign _ _ _).symm, List.forall_mem_nil _⟩

/-! ## `call` and `loop` (R169, R170) -/

/-- The return address. -/
theorem link_eq (s : State) : s.issue.pc + 8 = nat64 (s.issue.pc.toNat + 8) := by
  rw [nat64, BitVec.ofNat_add, BitVec.ofNat_toNat, BitVec.setWidth_eq]
  rfl

theorem acts_call (s : State) (off : BitVec 18) : Acts (.call off) s
    (goesTo (giveS (.call off) (.s 31) (nat64 (s.issue.pc.toNat + 8)) 0 s) (offsetTarget s off)) :=
  acts_of (planCall off) rfl rfl rfl rfl rfl rfl rfl (by simp only [planCall, link_eq, target_eq, jump_eq])

theorem offsetTarget_owe (s : State) (p : Pending) (off : BitVec 18) :
    offsetTarget (s.owe p) off = offsetTarget s off := by
  simp only [offsetTarget, State.owe_issue]

theorem sub_one_eq_zero_iff (v : Word) : v - 1 = 0 ↔ v = 1 := sub_eq_zero

theorem acts_loop (s : State) (off : BitVec 18) : Acts (.loop off) s
    (if sOf s 30 = 1 then s.owe (loopResult s off) else goesTo (s.owe (loopResult s off)) (offsetTarget s off)) := by
  refine acts_of (planLoop off) rfl rfl rfl rfl rfl rfl rfl ?_
  have hread : readS s (.loop off) 0 (.s 30) = sOf s 30 := readS_s s _ 0 30
  have hres : ({ pendingOf s (.loop off) with
        dst := .s 30, val := (sOf s 30 - 1).setWidth 2048, mask := BitVec.allOnes 2048, latch := some false,
        latchVal := ⟨(sOf s 30 - 1).setWidth 2048, 0⟩, delivered := true } : Pending) = loopResult s off := rfl
  simp only [planLoop, hread, hres, target_eq, offsetTarget_owe, jump_eq, ne_eq, sub_one_eq_zero_iff, ite_not]

/-! ## Indirect transfers (R11, R171) -/

theorem targetFault_aligned {t : Word} (h : t.toNat % 8 = 0) : targetFault t = none := if_neg (not_not.2 h)

theorem targetFault_misaligned {t : Word} (h : t.toNat % 8 ≠ 0) :
    targetFault t = some (memTrap MISALIGN .fetch t.toNat 8) := if_pos h

theorem acts_callr {s : State} {d : SDst} {a : SSrc} (h : (readS s (.callr d a) 1 a).toNat % 8 = 0) :
    Acts (.callr d a) s
      (goesTo (giveS (.callr d a) d (nat64 (s.issue.pc.toNat + 8)) 0 s) (readS s (.callr d a) 1 a)) :=
  acts_of (planCallr d a) rfl rfl rfl rfl rfl (targetFault_aligned h) rfl (by simp only [planCallr, link_eq, jump_eq])

theorem traps_callr {s : State} {d : SDst} {a : SSrc} (h : (readS s (.callr d a) 1 a).toNat % 8 ≠ 0) :
    Traps (.callr d a) s (memTrap MISALIGN .fetch (readS s (.callr d a) 1 a).toNat 8) :=
  traps_of (planCallr d a) rfl rfl rfl rfl rfl (targetFault_misaligned h)

section
variable {s : State} {i : Instr} {a : SSrc} (he : exec i s = .next ((indirect i a).run s))
include he

theorem acts_indirect (h : (readS s i 1 a).toNat % 8 = 0) : Acts i s (goesTo s (readS s i 1 a)) :=
  acts_of (indirect i a) he rfl rfl rfl rfl (targetFault_aligned h) rfl rfl

theorem traps_indirect (h : (readS s i 1 a).toNat % 8 ≠ 0) :
    Traps i s (memTrap MISALIGN .fetch (readS s i 1 a).toNat 8) :=
  traps_of (indirect i a) he rfl rfl rfl rfl (targetFault_misaligned h)

end

theorem exec_indirect (s : State) (a : SSrc) :
    ∀ k ∈ [Instr.jmpr, Instr.ret], exec (k a) s = .next ((indirect (k a) a).run s) := by
  simp only [List.forall_mem_cons]
  exact ⟨rfl, rfl, List.forall_mem_nil _⟩

end Sys2Proof.Machine

namespace Sys2Proof
open Sys2Proof.Machine Sys2Proof.Claims

/-- Settles O9: the branches by their conditions, then `call`, `loop`, the indirect transfers and the nops. -/
theorem controlTransfersFollowTable : Obligations.ControlTransfersFollowTable := by
  unfold Obligations.ControlTransfersFollowTable
  refine ⟨fun s off r hr => branchesOn_branchRows r hr s off, ⟨acts_call, acts_loop⟩,
    ⟨fun s d a => ⟨acts_callr, traps_callr⟩, fun s a k hk => ?_⟩, fun s => ⟨?_, ?_, rfl, rfl, rfl, rfl⟩⟩
  · have he := exec_indirect s a k hk
    exact ⟨acts_indirect he, traps_indirect he⟩
  · exact acts_of planNopA rfl rfl rfl rfl rfl rfl rfl rfl
  · exact acts_of planNopC rfl rfl rfl rfl rfl rfl rfl rfl

end Sys2Proof
end

section
/-!
PROOFS. `trap N` (R185), `tfence` (R278) and `eret` (R186): what each waits for, raises and does.
-/
namespace Sys2Proof.Machine
open Sys2Proof Sys2Proof.Claims

/-! ## What is still owed -/

theorem waitOver_flagsOwed (s : State) (c : Nat) (sl : Slot) : s.waitOver c sl .flagsOwed = true ↔
    ∀ p ∈ sl.pending, (p.fixed = true → p.due < s.now) ∧
      (p.fixed = false → p.flags = 0 ∨ (p.delivered = true ∧ p.due < s.now)) := by
  rw [State.waitOver, List.all_eq_true]
  refine forall₂_congr fun p _ => ?_
  cases p.fixed <;> simp

theorem flagsOwed_eq_false_iff (s : State) : flagsOwed s = false ↔ flagsIn s := by
  unfold flagsOwed flagsIn
  cases s.cur with
  | none => simp
  | some sl => simp only [Bool.not_eq_false', waitOver_flagsOwed, Option.some.injEq, forall_eq']

theorem flagsOwed_of_not_flagsIn {s : State} (h : ¬ flagsIn s) : flagsOwed s = true := by
  rwa [← flagsOwed_eq_false_iff, Bool.not_eq_false] at h

/-- An `eret` that waits does so for all that it would have waited for at its issue. -/
theorem waitOver_eret (s : State) (c : Nat) (sl : Slot) : s.waitOver c sl .eret = true ↔ resultsOf s sl := by
  simp [State.waitOver, resultsOf]

theorem resultsOwed_eq_false_iff (s : State) : resultsOwed s = false ↔ resultsIn s := by
  have hdrain (c : Nat) (sl : Slot) : s.waitOver c sl .drain = s.waitOver c sl .eret := rfl
  unfold resultsOwed
  cases hcur : s.cur with
  | none => simp [resultsIn, hcur]
  | some sl => simp only [Bool.not_eq_false', hdrain, waitOver_eret, resultsIn, resultsOf, hcur, Option.some.injEq,
      forall_eq']

theorem resultsOwed_of_not_resultsIn {s : State} (h : ¬ resultsIn s) : resultsOwed s = true := by
  rwa [← resultsOwed_eq_false_iff, Bool.not_eq_false] at h

/-! ## `tfence` -/

theorem arith_eq (s : State) : arith s = armed s := by
  unfold arith armed
  cases s.cur <;> rfl

theorem planTfence_fault {s : State} (h : flagsIn s) :
    planTfence.fault s = if armed s = 0 then none else some ⟨0x18, (armed s).toNat, 0, false⟩ := by
  have howed := (flagsOwed_eq_false_iff s).2 h
  simp only [planTfence, howed, Bool.false_or, decide_eq_true_eq]
  rw [arith_eq]
  rfl

theorem acts_tfence {s : State} (h : flagsIn s) (ha : armed s = 0) : Acts .tfence s s := by
  refine acts_of planTfence rfl rfl rfl rfl rfl ((planTfence_fault h).trans (if_pos ha)) ?_ rfl
  simp only [planTfence, (flagsOwed_eq_false_iff s).2 h, Bool.false_eq_true, if_false]

theorem traps_tfence {s : State} (h : flagsIn s) (ha : armed s ≠ 0) :
    Traps .tfence s ⟨0x18, (armed s).toNat, 0, false⟩ :=
  traps_of planTfence rfl rfl rfl rfl rfl ((planTfence_fault h).trans (if_neg ha))

theorem waits_tfence {s : State} (h : ¬ flagsIn s) : Waits .tfence s .flagsOwed := by
  have howed := flagsOwed_of_not_flagsIn h
  refine waits_of planTfence rfl rfl rfl rfl rfl ?_ ?_ (pairWait_of_stall _ rfl)
  · simp only [planTfence, howed, Bool.true_or, if_true]
  · simp only [planTfence, howed, if_true]

/-! ## `eret` -/

theorem eretNow_eq (s : State) (c k : Nat) : s.eretNow c k = zeroLatches (s.release c k) c k := rfl

theorem planEret_priv {s : State} {a : SSrc} (h : supervisor s = true) : (planEret a).priv s = none := if_pos h

section
variable {s : State} {a : SSrc}

/-- At the supervisor's level, to an aligned target, a failed write alone keeps `eret` from going on. -/
theorem planEret_fault (h : (readS s (.eret a) 1 a).toNat % 8 = 0) :
    (planEret a).fault s = failedWrites s false := by
  simp only [planEret, targetFault_aligned h]
  rfl

theorem planEret_fault_misaligned (h : (readS s (.eret a) 1 a).toNat % 8 ≠ 0) :
    (planEret a).fault s = some (memTrap MISALIGN .fetch (readS s (.eret a) 1 a).toNat 8) := by
  simp only [planEret, targetFault_misaligned h]
  rfl

theorem traps_eret_program (h : supervisor s = false) : Traps (.eret a) s ⟨0x07, 0, 0, false⟩ := by
  have hpriv : (planEret a).priv s = some 0 := if_neg (Bool.eq_false_iff.1 h)
  refine traps_of_own (planEret a) rfl rfl ?_
  rw [Plan.ownTrap, show (planEret a).bad s = none from rfl, hpriv]
  rfl

variable (hsup : supervisor s = true)
include hsup

theorem traps_eret_misaligned (h : (readS s (.eret a) 1 a).toNat % 8 ≠ 0) :
    Traps (.eret a) s (memTrap MISALIGN .fetch (readS s (.eret a) 1 a).toNat 8) :=
  traps_of (planEret a) rfl rfl rfl (planEret_priv hsup) rfl (planEret_fault_misaligned h)

variable (haligned : (readS s (.eret a) 1 a).toNat % 8 = 0)
include haligned

theorem traps_eret_failedWrite (h : ¬ writesGood s) : Traps (.eret a) s ⟨0x28, 2, 0, false⟩ :=
  traps_of (planEret a) rfl rfl rfl (planEret_priv hsup) rfl
    ((planEret_fault haligned).trans (failedWrites_of_not_good h))

/-- With nothing to trap for, `eret` goes to its target, and what is left it does at once or after a wait. -/
theorem acts_eret (hgood : writesGood s) : Acts (.eret a) s (goesTo
    (if resultsOwed s then s.holdPair .eret false
      else zeroLatches (s.release s.issue.core s.issue.slot) s.issue.core s.issue.slot)
    (readS s (.eret a) 1 a)) :=
  acts_of (planEret a) rfl rfl rfl (planEret_priv hsup) rfl ((planEret_fault haligned).trans hgood) rfl rfl

end

/-- The wait of an `eret` ends with its release and its latches at zero. -/
theorem endHold_eret {s : State} {c k : Nat} {sl : Slot} {h : Hold} (hsl : s.slot c k = some sl) (hh : sl.hold = some h)
    (hw : h.w = .eret) (hr : h.reissue = false) (hin : resultsOf s sl) :
    s.endHold c k = (zeroLatches (s.release c k) c k).nextWait c k h.after true := by
  obtain ⟨w, since, reissue, after⟩ := h
  obtain rfl : w = .eret := hw
  obtain rfl : reissue = false := hr
  have hover : s.waitOver c sl .eret = true := (waitOver_eret s c sl).2 hin
  simp only [State.endHold, hsl, hh, hover, Bool.not_true, Bool.false_eq_true, if_false, eretNow_eq]

end Sys2Proof.Machine

namespace Sys2Proof
open Sys2Proof.Machine Sys2Proof.Claims

/-- Settles O11: `trap N`, then `tfence`, then `eret` by what it finds owed, failed or forbidden. -/
theorem trapTfenceAndEretFollowRules : Obligations.TrapTfenceAndEretFollowRules := by
  unfold Obligations.TrapTfenceAndEretFollowRules
  refine ⟨fun s n => acts_of (planTrap n) rfl rfl rfl rfl rfl rfl rfl rfl,
    ⟨fun s => acts_tfence, fun s => traps_tfence, fun s => waits_tfence⟩,
    fun s a hs ha hin hgood => ?_, fun s a => traps_eret_failedWrite, fun s a hs ha hout hgood => ?_,
    fun s c k sl h hsl hh hw hr hafter hin => ?_, fun s a => traps_eret_misaligned, fun s a => traps_eret_program⟩
  · have hacts := acts_eret hs ha hgood
    rwa [(resultsOwed_eq_false_iff s).2 hin, if_neg Bool.false_ne_true] at hacts
  · have hacts := acts_eret hs ha hgood
    rwa [resultsOwed_of_not_resultsIn hout, if_pos rfl] at hacts
  · rw [endHold_eret hsl hh hw hr hin, hafter]

end Sys2Proof
end

section
/-!
PROOFS. Vector results as claims read them (R127, R193): mask mode and select mode by elements, predicates by bits, and the
flags of the enabled elements.
-/
namespace Sys2Proof.Machine
open Sys2Proof Sys2Proof.Claims

theorem elem_maskOf (s : State) {e k : Nat} (hk : k < 2048 / e) :
    elem (maskOf s e) e k = if enabled s e k then 2 ^ e - 1 else 0 := by
  have hpos := Nat.two_pow_pos e
  rw [maskOf, elem_ofElems _ _ _ hk]
  split
  · exact Nat.mod_eq_of_lt (by omega)
  · exact Nat.zero_mod _

/-- An element of a register packed from as many elements as it holds. -/
theorem elem_packElems_range {e k : Nat} (g : Nat → Nat) (hk : k < 2048 / e) :
    elem (packElems e ((List.range (2048 / e)).map g)) e k = g k % 2 ^ e := by
  rw [elem_packElems _ _ _ (by simpa using Nat.mul_div_le 2048 e)]
  simp [List.getD, hk]

/-- Bit k of a number of one-bit digits. -/
theorem testBit_foldr_bits (p : Nat → Bool) {n k : Nat} (hk : k < n) :
    ((List.range n).foldr (fun j acc => acc * 2 + b2n (p j)) 0).testBit k = p k := by
  have hdigit := fold_digit 1 ((List.range n).map fun j => b2n (p j)) k
  have hbit (b : Bool) : b2n b % 2 = b2n b := by cases b <;> rfl
  simp only [List.foldr_map, pow_one, hbit, mul_one, List.getD_eq_getElem?_getD, List.getElem?_map,
    List.getElem?_range hk, Option.map_some, Option.getD_some] at hdigit
  rw [Nat.testBit_eq_decide_div_mod_eq, hdigit]
  cases p k <;> rfl

/-- R127: the bit of a predicate is that of the element it governs; two elements of 8 bits share one. -/
theorem getLsbD_predBits (e : Nat) (p : Nat → Bool) {k : Nat} (hk : k < 128) :
    (predBits e p).getLsbD k = if e = 8 then p (2 * k) && p (2 * k + 1) else p (16 * k / e) := by
  rw [predBits, BitVec.getLsbD_ofNat, testBit_foldr_bits _ hk, decide_eq_true hk, Bool.true_and]

/-- The two elements of 8 bits that share a predicate bit are enabled together (R17). -/
theorem enabled_pair (s : State) (k : Nat) : enabled s 8 (2 * k + 1) = enabled s 8 (2 * k) := by
  have hsame : (2 * k + 1) * 8 / 16 = 2 * k * 8 / 16 := by omega
  rw [enabled, enabled, hsame]

theorem getLsbD_enabledBits (s : State) (e : Nat) {k : Nat} (hk : k < 128) :
    (predBits e fun j => enabled s e j).getLsbD k = enabled s e (16 * k / e) := by
  rw [getLsbD_predBits _ _ hk]
  split
  · next he =>
    have hfirst : 16 * k / 8 = 2 * k := by omega
    rw [he, enabled_pair, Bool.and_self, hfirst]
  · rfl

/-- The flags of the enabled elements, bit by bit. -/
theorem getLsbD_enabledFlags (s : State) (e : Nat) (fl : Nat → Byte) (b : Nat) :
    ((List.range (2048 / e)).foldl (fun m k => if enabled s e k then m ||| fl k else m) 0).getLsbD b =
      (List.range (2048 / e)).any fun k => enabled s e k && (fl k).getLsbD b := by
  rw [getLsbD_foldl_or]
  simp

section results
variable {s : State} {i : Instr} {e : Nat} {tag : Tag}

theorem givesElements_of_acts {d : VDst} {f g : Nat → Nat × Byte} (h : Acts i s (giveMask i d e tag f s))
    (hfg : ∀ k, f k = g k) : GivesElements i d e tag g s := by
  obtain rfl : f = g := funext hfg
  refine ⟨_, _, _, fun k hk hon => ?_, fun k hk => elem_maskOf s hk, fun b _ => ?_, h⟩
  · rw [List.map_map, elem_packElems_range _ hk, Function.comp_apply, if_pos hon]
  · have hstep : (fun (m : Byte) k => m ||| (if enabled s e k then f k else (0, 0)).2) =
        fun m k => if enabled s e k then m ||| (f k).2 else m := by
      funext m k
      split
      · rfl
      · exact BitVec.or_zero
    rw [List.foldl_map, hstep, getLsbD_enabledFlags]

theorem givesAll_of_acts {d : VDst} {v : Vec} {g : Nat → Nat} (h : Acts i s (giveV i d v (BitVec.allOnes 2048) tag 0 s))
    (hv : ∀ k < 2048 / e, elem v e k = g k) : GivesAll i d e tag g s :=
  ⟨v, hv, h⟩

theorem givesPredicate_of_acts {d : PReg} {f g : Nat → Bool × Byte} (h : Acts i s (givePred i d e f s))
    (hfg : ∀ k, f k = g k) : GivesPredicate i d e g s := by
  obtain rfl : f = g := funext hfg
  refine ⟨_, _, _, fun k hk => getLsbD_predBits e _ hk, fun k hk => getLsbD_enabledBits s e hk,
    fun b _ => getLsbD_enabledFlags s e _ b, h⟩

end results

end Sys2Proof.Machine
end

section
/-!
PROOFS. The operand checks of the vector instructions (R191, R192): the operation type and the tags beside it, and what an
instruction does by them.
-/
namespace Sys2Proof.Machine
open Sys2Proof Sys2Proof.Claims

theorem anyTag_iff (t : Tag) : anyTag t.toNat = true ↔ validTag t := by
  simp [anyTag, tagValid, validTag]

theorem dotTag_iff (t : Tag) : dotTag t.toNat = true ↔ 1 ≤ t.toNat ∧ t.toNat ≤ 4 := by
  simp [dotTag]

theorem not_integerTag_of_floatingTag {t : Tag} (h : floatingTag t) : ¬ integerTag t := by
  unfold floatingTag at h
  unfold integerTag
  omega

theorem natTag_eq_naturalTag (t : Tag) : floatingTag t → natTag (tagWidth t) = naturalTag t := by
  unfold floatingTag
  revert t
  decide

/-- R192: the field of the operand that names the type, by which of the first two operands does. -/
theorem typeField_eq {i : Instr} {l : List VSrc} (hi : typed i = some l) :
    typeField i = if VSrc.named (l.getD 0 .z) then 1 else if VSrc.named (l.getD 1 .z) then 2 else 0 := by
  simp only [typeField, hi, Option.bind_some]
  match l with
  | [] => rfl
  | [a] =>
    have hz : VSrc.named .z = false := rfl
    cases ha : VSrc.named a <;> simp [ha, hz]
  | a :: b :: l =>
    cases ha : VSrc.named a <;> cases hb : VSrc.named b <;> simp [List.findIdx?_cons, ha, hb]

theorem orElse3_pair (x y : Option (Nat × Nat × Nat)) : orElse3 x y none = x.orElse fun _ => y := by
  cases x <;> cases y <;> rfl

theorem orElse3_single (x : Option (Nat × Nat × Nat)) : orElse3 x none none = x := by
  cases x <;> rfl

/-! ## Tags beside the operation type -/

section tags
variable {s : State} {x : VSrc} {f e : Nat} {g t : Tag}

theorem tagOf_unnamed (hx : VSrc.named x = false) : tagOf s x = none := by
  cases x
  case z | lit | lane =>
    unfold tagOf
    cases s.cur <;> rfl
  all_goals exact absurd hx.symm Bool.false_ne_true

theorem sameTag_of_carries (h : carries s x t) : sameTag s f x t = none := by
  cases x
  case z => simp [sameTag, tagOf_unnamed (x := .z) rfl]
  case lit => simp [sameTag, tagOf_unnamed (x := .lit) rfl]
  case lane =>
    have hint : isInt t.toNat = true := (intTag_iff t).2 (h rfl)
    simp [sameTag, tagOf_unnamed (x := .lane) rfl, hint]
  all_goals
    have htag : tagOf s _ = some t := h
    simp [sameTag, htag]

theorem sameTag_of_ne (hg : tagOf s x = some g) (hne : g ≠ t) : sameTag s f x t = some (f, g.toNat, t.toNat) := by
  simp [sameTag, hg, hne]

/-- R28: lane satisfies the integer checks only. -/
theorem sameTag_lane (ht : floatingTag t) : sameTag s f .lane t = some (f, (naturalTag t).toNat, t.toNat) := by
  have hint : ¬ isInt t.toNat = true := mt (intTag_iff t).1 (not_integerTag_of_floatingTag ht)
  simp [sameTag, tagOf_unnamed (x := .lane) rfl, hint, natTag_eq_naturalTag t ht]

theorem ne_lane_of_carries (ht : floatingTag t) (h : carries s x t) : x ≠ .lane := by
  rintro rfl
  exact not_integerTag_of_floatingTag ht (h rfl)

theorem widthTag_of_carriesWidth (h : carriesWidth s x e) : widthTag s f x e = none := by
  cases hx : VSrc.named x with
  | false => rw [widthTag, tagOf_unnamed hx]
  | true =>
    rw [carriesWidth, if_pos hx] at h
    obtain ⟨g, hg, hint, hw⟩ := h
    have hint : isInt g.toNat = true := (intTag_iff g).2 hint
    simp [widthTag, hg, hint, tagWidth_eq, hw]

theorem widthTag_of_not (hg : tagOf s x = some g) (hne : ¬ (integerTag g ∧ widthOfTag g = e)) :
    widthTag s f x e = some (f, g.toNat, 0) := by
  have hnot : ¬ ((isInt g.toNat && tagWidth g = e) = true) := by
    simpa only [Bool.and_eq_true, decide_eq_true_eq, tagWidth_eq, ← intTag_iff g, intTag] using hne
  simp only [widthTag, hg, hnot]
  rfl

end tags

/-! ## Plans whose own checks are of tags alone -/

/-- The meaning of i in s is the run of p, whose own checks are those of the tags. -/
structure TagPlan (i : Instr) (s : State) (p : Plan) : Prop where
  exec_eq : exec i s = .next (p.run s)
  instr_eq : p.instr = i
  bad_eq : p.bad s = none
  priv_eq : p.priv s = none
  fault_eq : p.fault s = none
  wait_eq : p.wait s = none

section checks
variable {i : Instr} {s : State} {p : Plan} {l : List VSrc} {t : Tag} {ok : Nat → Bool} {P : Tag → Prop} {R : Prop}

theorem TagPlan.acts (h : TagPlan i s p) (htag : p.tag s = none) : Acts i s (p.act s) :=
  acts_of p h.exec_eq h.instr_eq h.bad_eq h.priv_eq htag h.fault_eq h.wait_eq rfl

theorem TagPlan.traps (h : TagPlan i s p) {f found req : Nat} (htag : p.tag s = some (f, found, req)) :
    Traps i s (trapInfo TAGFAULT (f + found * 256 + req * 65536)) :=
  traps_of_own p h.exec_eq h.instr_eq (by rw [Plan.ownTrap, h.bad_eq, h.priv_eq, htag])

theorem typeIn_of_allowed (hi : typed i = some l) (ht : typeOf s l = some t) (hok : ok t.toNat = true) :
    typeIn i ok s = none := by
  rw [typeIn, opType_eq hi ht, if_pos hok]

theorem typeIn_of_not_allowed (hi : typed i = some l) (ht : typeOf s l = some t) (hok : ¬ ok t.toNat = true) :
    typeIn i ok s = some (typeField i, t.toNat, 0) := by
  rw [typeIn, opType_eq hi ht, if_neg hok]

theorem TagPlan.traps_wrongType (h : TagPlan i s p) (hi : typed i = some l) (htag : p.tag s = some (typeField i, t.toNat, 0)) :
    Traps i s (wrongType l t) := by
  have htrap := h.traps htag
  rwa [typeField_eq hi, Nat.zero_mul, Nat.add_zero] at htrap

/-- R192: on a type of P the instruction does R; on any other it traps. -/
def OnType (P : Tag → Prop) (i : Instr) (s : State) (l : List VSrc) (t : Tag) (R : Prop) : Prop :=
  (P t → R) ∧ (¬ P t → Traps i s (wrongType l t))

theorem onType_of_plan (h : TagPlan i s p) (htag : p.tag = typeIn i ok) (hP : ∀ t : Tag, ok t.toNat = true ↔ P t)
    (hi : typed i = some l) (ht : typeOf s l = some t) (hR : P t → Acts i s (p.act s) → R) : OnType P i s l t R :=
  ⟨fun hok => hR hok (h.acts (by rw [htag, typeIn_of_allowed hi ht ((hP t).2 hok)])),
    fun hok => h.traps_wrongType hi (by rw [htag, typeIn_of_not_allowed hi ht (mt (hP t).1 hok)])⟩

/-- R192: on a type of P that B carries too the instruction does R; otherwise it traps. -/
def OnSameTags (P : Tag → Prop) (i : Instr) (s : State) (a b : VSrc) (t : Tag) (R : Prop) : Prop :=
  (P t → carries s b t → R) ∧ (¬ P t → Traps i s (wrongType [a, b] t)) ∧
  ∀ g, P t → tagOf s b = some g → g ≠ t → Traps i s (wrongTag 2 g t)

theorem onSameTags_of_plan {a b : VSrc} (h : TagPlan i s p) (htag : p.tag s = (typeIn i ok s).orElse fun _ => bSame i b s)
    (hP : ∀ t : Tag, ok t.toNat = true ↔ P t) (hi : typed i = some [a, b]) (ht : typeOf s [a, b] = some t)
    (hR : Acts i s (p.act s) → R) : OnSameTags P i s a b t R := by
  have hb : bSame i b s = sameTag s 2 b t := by rw [bSame, opType_eq hi ht]
  refine ⟨fun hok hcarries => hR (h.acts ?_), fun hok => h.traps_wrongType hi ?_, fun g hok hg hne => h.traps ?_⟩
  · rw [htag, typeIn_of_allowed hi ht ((hP t).2 hok), hb, sameTag_of_carries hcarries]
    rfl
  · rw [htag, typeIn_of_not_allowed hi ht (mt (hP t).1 hok)]
    rfl
  · rw [htag, typeIn_of_allowed hi ht ((hP t).2 hok), hb, sameTag_of_ne hg hne]
    rfl

/-- R192: on a type of P, with B of an integer type of its width, the instruction does R; otherwise it traps. -/
def OnIndexTags (P : Tag → Prop) (i : Instr) (s : State) (a b : VSrc) (t : Tag) (R : Prop) : Prop :=
  (P t → carriesWidth s b (widthOfTag t) → R) ∧ (¬ P t → Traps i s (wrongType [a, b] t)) ∧
  ∀ g, P t → tagOf s b = some g → ¬ (integerTag g ∧ widthOfTag g = widthOfTag t) → Traps i s (wrongTag 2 g 0)

theorem onIndexTags_of_plan {a b : VSrc} (h : TagPlan i s p)
    (htag : p.tag s = (typeIn i ok s).orElse fun _ => bWidth i b s)
    (hP : ∀ t : Tag, ok t.toNat = true ↔ P t) (hi : typed i = some [a, b]) (ht : typeOf s [a, b] = some t)
    (hR : Acts i s (p.act s) → R) : OnIndexTags P i s a b t R := by
  have hb : bWidth i b s = widthTag s 2 b (widthOfTag t) := by rw [bWidth, opWidth, opType_eq hi ht, tagWidth_eq]
  refine ⟨fun hok hcarries => hR (h.acts ?_), fun hok => h.traps_wrongType hi ?_, fun g hok hg hne => h.traps ?_⟩
  · rw [htag, typeIn_of_allowed hi ht ((hP t).2 hok), hb, widthTag_of_carriesWidth hcarries]
    rfl
  · rw [htag, typeIn_of_not_allowed hi ht (mt (hP t).1 hok)]
    rfl
  · rw [htag, typeIn_of_allowed hi ht ((hP t).2 hok), hb, widthTag_of_not hg hne]
    rfl

/-- What an instruction reads of its operands, once its type is known. -/
theorem read_operands (hi : typed i = some l) (ht : typeOf s l = some t) :
    opType s i = t ∧ opWidth s i = widthOfTag t ∧ ∀ x, vop s i x = readAt s t x := by
  have hty := opType_eq hi ht
  have hwidth : opWidth s i = widthOfTag t := by rw [opWidth, hty, tagWidth_eq]
  exact ⟨hty, hwidth, fun x => by rw [vop, hwidth, hty, readAt]⟩

end checks

end Sys2Proof.Machine
end

section
/-!
PROOFS. The integer vector instructions (R195-R198), element by element: what their plans give once the operation type is
known, and the element results of Table Vector-4.
-/
namespace Sys2Proof.Machine
open Sys2Proof Sys2Proof.Claims

/-! ## Element results -/

section elements
variable (t : Tag) {e x y : Nat} (hx : x < 2 ^ e) (hy : y < 2 ^ e)

theorem ofSigned_eq (n : Nat) (v : Int) : ofSigned n v = (v % 2 ^ n).toNat := by
  rw [ofSigned]
  norm_cast

include hy in
theorem elSub_eq : elSub t.toNat e x y = (((x : Int) - y) % 2 ^ e).toNat := by
  have hwrap : ((x : Int) - y) % 2 ^ e = ((x + 2 ^ e - y : Nat) : Int) % 2 ^ e := by
    rw [Nat.cast_sub (by omega), Nat.cast_add, Nat.cast_pow, Nat.cast_ofNat, add_sub_right_comm, Int.add_emod_right]
  rw [elSub, hwrap]
  norm_cast

theorem elMulh_eq : elMulh t.toNat e x y =
    if signedTag t then (toSigned e x * toSigned e y / 2 ^ e % 2 ^ e).toNat else x * y / 2 ^ e := by
  rw [elMulh, isSigned_eq, ofSigned_eq]

theorem elShl_eq : elShl t.toNat e x y = x * 2 ^ y % 2 ^ e := by
  unfold elShl
  split
  · next h => exact (Nat.mod_eq_zero_of_dvd (Dvd.dvd.mul_left (pow_dvd_pow 2 h) x)).symm
  · rfl

include hx in
theorem elShr_eq : elShr t.toNat e x y = x / 2 ^ y := by
  unfold elShr
  split
  · next h => exact (Nat.div_eq_of_lt (hx.trans_le (Nat.pow_le_pow_right two_pos h))).symm
  · rfl

/-- The bounds of a two's-complement number of n bits. -/
theorem toSigned_bounds (n v : Nat) : -2 ^ n ≤ toSigned n v ∧ toSigned n v < 2 ^ n := by
  have hv := Nat.mod_lt v (Nat.two_pow_pos n)
  have hpow : ((2 ^ n : Nat) : Int) = 2 ^ n := by norm_cast
  unfold toSigned
  dsimp only
  split_ifs <;> omega

/-- Floor division by at least 2^e leaves the sign alone. -/
theorem toSigned_div_of_le (h : e ≤ y) : toSigned e x / 2 ^ y = if toSigned e x < 0 then -1 else 0 := by
  obtain ⟨hlo, hhi⟩ := toSigned_bounds e x
  have hle : (2 ^ e : Int) ≤ 2 ^ y := pow_le_pow_right₀ (by norm_num) h
  split
  · next hneg => exact (Int.ediv_eq_iff_of_pos (by positivity)).2 ⟨by omega, by omega⟩
  · next hneg => exact Int.ediv_eq_zero_of_lt (not_lt.1 hneg) (hhi.trans_le hle)

theorem toNat_neg_one_emod (n : Nat) : ((-1 : Int) % 2 ^ n).toNat = 2 ^ n - 1 := by
  have hpow : ((2 ^ n : Nat) : Int) = 2 ^ n := by norm_cast
  have hpos := Nat.two_pow_pos n
  rw [← Int.add_emod_right, Int.emod_eq_of_lt (by omega) (by omega)]
  omega

theorem elSar_eq : elSar t.toNat e x y = (toSigned e x / 2 ^ y % 2 ^ e).toNat := by
  unfold elSar
  split
  · next h =>
    rw [toSigned_div_of_le h]
    split
    · exact (toNat_neg_one_emod e).symm
    · simp
  · exact ofSigned_eq _ _

theorem elAbs_eq : elAbs t.toNat e x = if signedTag t then (toSigned e x).natAbs % 2 ^ e else x := by
  rw [elAbs, isSigned_eq]

theorem elLess_eq : elLess t.toNat e x y =
    if signedTag t then decide (toSigned e x < toSigned e y) else decide (x < y) := by
  rw [elLess, isSigned_eq]

theorem elGe_eq : elGe t.toNat e x y =
    if signedTag t then decide (toSigned e y ≤ toSigned e x) else decide (y ≤ x) := by
  rw [elGe, elLess_eq]
  cases signedTag t <;> simp only [Bool.false_eq_true, if_true, if_false, ← decide_not, not_lt]

end elements

/-- R196: adding products one by one adds their sum. -/
theorem foldl_add_eq_sum {α : Type} (p : α → Int) (l : List α) (v : Int) :
    l.foldl (fun acc j => acc + p j) v = v + (l.map p).sum := by
  induction l generalizing v with
  | nil => simp
  | cons j l ih => rw [List.foldl_cons, ih, List.map_cons, List.sum_cons, add_assoc]

theorem dotElem_eq (t : Tag) (e : Nat) (va vb vd : Vec) (k : Nat) :
    dotElem t.toNat e va vb vd k = (dotSum (signedTag t) e va vb (elem vd 32 k) k % 2 ^ 32).toNat := by
  simp only [dotElem, dotSum, foldl_add_eq_sum, isSigned_eq, ofSigned_eq, Nat.cast_mul]

/-! ## What the plans give -/

section plans
variable {i : Instr} {s : State} {l : List VSrc} {t : Tag} (hi : typed i = some l) (ht : typeOf s l = some t)
include hi ht

theorem act_vbin (ok : Nat → Bool) (bTag : State → Option (Nat × Nat × Nat)) (f : Nat → Nat → Nat → Nat → Nat) (d : VDst)
    (a b : VSrc) : (vbin i ok bTag f d a b).act s = giveMask i d (widthOfTag t) t (fun k =>
      (f t.toNat (widthOfTag t) (elem (readAt s t a) (widthOfTag t) k) (elem (readAt s t b) (widthOfTag t) k), 0)) s := by
  obtain ⟨hty, hwidth, hread⟩ := read_operands hi ht
  simp only [vbin, hty, hwidth, hread]

theorem act_vun (ok : Nat → Bool) (f : Nat → Nat → Nat → Nat) (d : VDst) (a : VSrc) :
    (vun i ok f d a).act s = giveMask i d (widthOfTag t) t (fun k =>
      (f t.toNat (widthOfTag t) (elem (readAt s t a) (widthOfTag t) k), 0)) s := by
  obtain ⟨hty, hwidth, hread⟩ := read_operands hi ht
  simp only [vun, hty, hwidth, hread]

theorem act_vcmp (f : Nat → Nat → Nat → Nat → Bool) (d : PReg) (a b : VSrc) :
    (vcmp i f d a b).act s = givePred i d (widthOfTag t) (fun k =>
      (f t.toNat (widthOfTag t) (elem (readAt s t a) (widthOfTag t) k) (elem (readAt s t b) (widthOfTag t) k), 0)) s := by
  obtain ⟨hty, hwidth, hread⟩ := read_operands hi ht
  simp only [vcmp, hty, hwidth, hread]

end plans

/-! ## The shapes of the tables' rows -/

/-- A binary integer instruction: on integers of one type, element k is val of the operands' elements. -/
def IntegerBinary (con : VDst → VSrc → VSrc → Instr) (val : Bool → Nat → Nat → Nat → Nat) : Prop :=
  ∀ s d a b t, typeOf s [a, b] = some t → OnSameTags integerTag (con d a b) s a b t
    (GivesElements (con d a b) d (widthOfTag t) t (fun k => (val (signedTag t) (widthOfTag t)
      (elem (readAt s t a) (widthOfTag t) k) (elem (readAt s t b) (widthOfTag t) k), 0)) s)

theorem integerBinary_of_plan {con : VDst → VSrc → VSrc → Instr} {f : Nat → Nat → Nat → Nat → Nat}
    {val : Bool → Nat → Nat → Nat → Nat}
    (hval : ∀ (t : Tag) (e x y : Nat), x < 2 ^ e → y < 2 ^ e → f t.toNat e x y = val (signedTag t) e x y)
    (hi : ∀ d a b, typed (con d a b) = some [a, b] := by intros; rfl)
    (h : ∀ s d a b, TagPlan (con d a b) s (vbin (con d a b) intTag (bSame (con d a b) b) f d a b) := by
      intros; exact ⟨rfl, rfl, rfl, rfl, rfl, rfl⟩) : IntegerBinary con val := by
  intro s d a b t ht
  refine onSameTags_of_plan (h s d a b) (orElse3_pair _ _) intTag_iff (hi d a b) ht fun hacts => ?_
  rw [act_vbin (hi d a b) ht] at hacts
  exact givesElements_of_acts hacts fun k => by rw [hval _ _ _ _ (elem_lt _ _ _) (elem_lt _ _ _)]

/-- A bitwise instruction: on any valid types, element k is val of the operands' elements. -/
def Bitwise (con : VDst → VSrc → VSrc → Instr) (val : Nat → Nat → Nat) : Prop :=
  ∀ s d a b t, typeOf s [a, b] = some t → OnType validTag (con d a b) s [a, b] t
    (GivesElements (con d a b) d (widthOfTag t) t (fun k =>
      (val (elem (readAt s t a) (widthOfTag t) k) (elem (readAt s t b) (widthOfTag t) k), 0)) s)

theorem bitwise_of_plan {con : VDst → VSrc → VSrc → Instr} {val : Nat → Nat → Nat}
    (hi : ∀ d a b, typed (con d a b) = some [a, b] := by intros; rfl)
    (h : ∀ s d a b, TagPlan (con d a b) s (vbin (con d a b) anyTag bAny (fun _ _ => val) d a b) := by
      intros; exact ⟨rfl, rfl, rfl, rfl, rfl, rfl⟩) : Bitwise con val := by
  intro s d a b t ht
  refine onType_of_plan (h s d a b) (funext fun s => orElse3_single _) anyTag_iff (hi d a b) ht fun _ hacts => ?_
  rw [act_vbin (hi d a b) ht] at hacts
  exact givesElements_of_acts hacts fun k => rfl

/-- A shift: on integers, with counts of an integer type of the same width, element k is val of the operands' elements. -/
def Shift (con : VDst → VSrc → VSrc → Instr) (val : Nat → Nat → Nat → Nat) : Prop :=
  ∀ s d a b t, typeOf s [a, b] = some t → OnIndexTags integerTag (con d a b) s a b t
    (GivesElements (con d a b) d (widthOfTag t) t (fun k => (val (widthOfTag t)
      (elem (readAt s t a) (widthOfTag t) k) (elem (readAt s t b) (widthOfTag t) k), 0)) s)

theorem shift_of_plan {con : VDst → VSrc → VSrc → Instr} {f : Nat → Nat → Nat → Nat → Nat} {val : Nat → Nat → Nat → Nat}
    (hval : ∀ (t : Tag) (e x y : Nat), x < 2 ^ e → f t.toNat e x y = val e x y)
    (hi : ∀ d a b, typed (con d a b) = some [a, b] := by intros; rfl)
    (h : ∀ s d a b, TagPlan (con d a b) s (vbin (con d a b) intTag (bWidth (con d a b) b) f d a b) := by
      intros; exact ⟨rfl, rfl, rfl, rfl, rfl, rfl⟩) : Shift con val := by
  intro s d a b t ht
  refine onIndexTags_of_plan (h s d a b) (orElse3_pair _ _) intTag_iff (hi d a b) ht fun hacts => ?_
  rw [act_vbin (hi d a b) ht] at hacts
  exact givesElements_of_acts hacts fun k => by rw [hval _ _ _ _ (elem_lt _ _ _)]

/-- A unary integer instruction: on integers, element k is val of the operand's. -/
def IntegerUnary (con : VDst → VSrc → Instr) (val : Bool → Nat → Nat → Nat) : Prop :=
  ∀ s d a t, typeOf s [a] = some t → OnType integerTag (con d a) s [a] t
    (GivesElements (con d a) d (widthOfTag t) t (fun k =>
      (val (signedTag t) (widthOfTag t) (elem (readAt s t a) (widthOfTag t) k), 0)) s)

theorem integerUnary_of_plan {con : VDst → VSrc → Instr} {f : Nat → Nat → Nat → Nat} {val : Bool → Nat → Nat → Nat}
    (hval : ∀ (t : Tag) (e x : Nat), f t.toNat e x = val (signedTag t) e x)
    (hi : ∀ d a, typed (con d a) = some [a] := by intros; rfl)
    (h : ∀ s d a, TagPlan (con d a) s (vun (con d a) intTag f d a) := by
      intros; exact ⟨rfl, rfl, rfl, rfl, rfl, rfl⟩) : IntegerUnary con val := by
  intro s d a t ht
  refine onType_of_plan (h s d a) rfl intTag_iff (hi d a) ht fun _ hacts => ?_
  rw [act_vun (hi d a) ht] at hacts
  exact givesElements_of_acts hacts fun k => by rw [hval]

/-- A compare: on integers of one type, the bits of element k say whether val holds of the operands' elements. -/
def IntegerCompare (con : PReg → VSrc → VSrc → Instr) (val : Bool → Nat → Nat → Nat → Bool) : Prop :=
  ∀ s d a b t, typeOf s [a, b] = some t → OnSameTags integerTag (con d a b) s a b t
    (GivesPredicate (con d a b) d (widthOfTag t) (fun k => (val (signedTag t) (widthOfTag t)
      (elem (readAt s t a) (widthOfTag t) k) (elem (readAt s t b) (widthOfTag t) k), 0)) s)

theorem integerCompare_of_plan {con : PReg → VSrc → VSrc → Instr} {f : Nat → Nat → Nat → Nat → Bool}
    {val : Bool → Nat → Nat → Nat → Bool} (hval : ∀ (t : Tag) (e x y : Nat), f t.toNat e x y = val (signedTag t) e x y)
    (hi : ∀ d a b, typed (con d a b) = some [a, b] := by intros; rfl)
    (h : ∀ s d a b, TagPlan (con d a b) s (vcmp (con d a b) f d a b) := by
      intros; exact ⟨rfl, rfl, rfl, rfl, rfl, rfl⟩) : IntegerCompare con val := by
  intro s d a b t ht
  refine onSameTags_of_plan (h s d a b) (orElse3_pair _ _) intTag_iff (hi d a b) ht fun hacts => ?_
  rw [act_vcmp (hi d a b) ht] at hacts
  exact givesPredicate_of_acts hacts fun k => by rw [hval]

/-! ## Table Vector-4, row by row -/

theorem integerBinary_integerRows : ∀ r ∈ integerRows, IntegerBinary r.1 r.2 := by
  simp only [integerRows, List.forall_mem_cons]
  exact ⟨integerBinary_of_plan (f := elAdd) fun _ _ _ _ _ _ => rfl,
    integerBinary_of_plan fun t _ _ _ _ hy => elSub_eq t hy,
    integerBinary_of_plan (f := elMul) fun _ _ _ _ _ _ => rfl, integerBinary_of_plan fun t _ _ _ _ _ => elMulh_eq t,
    integerBinary_of_plan fun t e x y _ _ => elMin_eq t e x y, integerBinary_of_plan fun t _ _ _ hx hy => elMax_eq t hx hy,
    List.forall_mem_nil _⟩

theorem bitwise_logicRows : ∀ r ∈ logicRows, Bitwise r.1 r.2 := by
  simp only [logicRows, List.forall_mem_cons]
  exact ⟨bitwise_of_plan, bitwise_of_plan, bitwise_of_plan, List.forall_mem_nil _⟩

theorem shift_shiftRows : ∀ r ∈ shiftRows, Shift r.1 r.2 := by
  simp only [shiftRows, List.forall_mem_cons]
  exact ⟨shift_of_plan fun t _ _ _ _ => elShl_eq t, shift_of_plan fun t _ _ _ hx => elShr_eq t hx,
    shift_of_plan fun t _ _ _ _ => elSar_eq t, List.forall_mem_nil _⟩

theorem integerUnary_unaryElementRows : ∀ r ∈ unaryElementRows, IntegerUnary r.1 r.2 := by
  simp only [unaryElementRows, List.forall_mem_cons]
  exact ⟨integerUnary_of_plan fun t _ _ => elAbs_eq t, integerUnary_of_plan (f := elPopc) fun _ e x => ones_eq e x,
    List.forall_mem_nil _⟩

theorem integerCompare_elementCompares : ∀ r ∈ elementCompares, IntegerCompare r.1 r.2 := by
  simp only [elementCompares, List.forall_mem_cons]
  exact ⟨integerCompare_of_plan (f := elEq) fun _ _ _ _ => rfl, integerCompare_of_plan (f := elNe) fun _ _ _ _ => decide_not.symm,
    integerCompare_of_plan fun t _ _ _ => elLess_eq t, integerCompare_of_plan fun t _ _ _ => elGe_eq t,
    List.forall_mem_nil _⟩

/-! ## Accumulation (R195, R196) -/

section accumulate
variable {i : Instr} {s : State} {p : Plan} {a b : VSrc} {d : VDst} {t u : Tag} {ok : Nat → Bool}
  {rest : Option (Nat × Nat × Nat)} (h : TagPlan i s p) (hi : typed i = some [a, b, d.src])
  (ht : typeOf s [a, b, d.src] = some t) (htag : p.tag s = orElse3 (typeIn i ok s) (sameTag s 0 d.src u) rest)
include hi ht htag

theorem tag_of_accumulator_carries (hok : ok t.toNat = true) (hd : carries s d.src u) : p.tag s = rest := by
  rw [htag, typeIn_of_allowed hi ht hok, sameTag_of_carries hd]
  rfl

include h

theorem traps_accumulate_wrongType (hok : ¬ ok t.toNat = true) : Traps i s (wrongType [a, b, d.src] t) :=
  h.traps_wrongType hi (by rw [htag, typeIn_of_not_allowed hi ht hok]; rfl)

theorem traps_accumulator_wrongTag (hok : ok t.toNat = true) {g : Tag} (hg : tagOf s d.src = some g) (hne : g ≠ u) :
    Traps i s (wrongTag 0 g u) :=
  h.traps (by rw [htag, typeIn_of_allowed hi ht hok, sameTag_of_ne hg hne]; rfl)

end accumulate

theorem bSame_of_carries {i : Instr} {s : State} {l : List VSrc} {b : VSrc} {t : Tag} (hi : typed i = some l)
    (ht : typeOf s l = some t) (hb : carries s b t) : bSame i b s = none := by
  rw [bSame, opType_eq hi ht, sameTag_of_carries hb]

theorem tagPlan_vmad (s : State) (d : VDst) (a b : VSrc) : TagPlan (.vmad d a b) s (planVmad d a b) :=
  ⟨rfl, rfl, rfl, rfl, rfl, rfl⟩

theorem tagPlan_vdot (s : State) (d : VDst) (a b : VSrc) : TagPlan (.vdot d a b) s (planVdot d a b) :=
  ⟨rfl, rfl, rfl, rfl, rfl, rfl⟩

section vmad
variable {s : State} {d : VDst} {a b : VSrc} {t : Tag} (ht : typeOf s [a, b, d.src] = some t)
include ht

theorem tag_vmad : (planVmad d a b).tag s =
    orElse3 (typeIn (.vmad d a b) intTag s) (sameTag s 0 d.src t) (bSame (.vmad d a b) b s) := by
  simp only [planVmad, opType_eq (i := .vmad d a b) rfl ht]

theorem act_vmad : (planVmad d a b).act s = giveMask (.vmad d a b) d (widthOfTag t) t (fun k =>
    ((elem (readAt s t d.src) (widthOfTag t) k + elem (readAt s t a) (widthOfTag t) k *
      elem (readAt s t b) (widthOfTag t) k) % 2 ^ widthOfTag t, 0)) s := by
  obtain ⟨hty, hwidth, hread⟩ := read_operands (i := .vmad d a b) rfl ht
  simp only [planVmad, hty, hwidth, hread]

/-- The tag of the accumulator of `vdot`: 32 bits wide, signed where the products are (R192). -/
theorem tag_vdot : (planVdot d a b).tag s = orElse3 (typeIn (.vdot d a b) dotTag s)
    (sameTag s 0 d.src (if signedTag t then 5 else 6)) (bSame (.vdot d a b) b s) := by
  simp only [planVdot, opType_eq (i := .vdot d a b) rfl ht, isSigned_eq]

theorem act_vdot : (planVdot d a b).act s = giveMask (.vdot d a b) d 32 (if signedTag t then 5 else 6) (fun k =>
    ((dotSum (signedTag t) (widthOfTag t) (readAt s t a) (readAt s t b) (elem (readV s 32 false d.src) 32 k) k
      % 2 ^ 32).toNat, 0)) s := by
  obtain ⟨hty, hwidth, hread⟩ := read_operands (i := .vdot d a b) rfl ht
  simp only [planVdot, hty, hwidth, hread, isSigned_eq, dotElem_eq]

theorem givesElements_vmad (hok : integerTag t) (hb : carries s b t) (hd : carries s d.src t) :
    GivesElements (.vmad d a b) d (widthOfTag t) t (fun k =>
      ((elem (readAt s t d.src) (widthOfTag t) k + elem (readAt s t a) (widthOfTag t) k *
        elem (readAt s t b) (widthOfTag t) k) % 2 ^ widthOfTag t, 0)) s := by
  have htag := (tag_of_accumulator_carries rfl ht (tag_vmad ht) ((intTag_iff t).2 hok) hd).trans
    (bSame_of_carries rfl ht hb)
  exact givesElements_of_acts (act_vmad ht ▸ (tagPlan_vmad s d a b).acts htag) fun k => rfl

theorem givesElements_vdot (hok : 1 ≤ t.toNat ∧ t.toNat ≤ 4) (hb : carries s b t)
    (hd : carries s d.src (if signedTag t then 5 else 6)) :
    GivesElements (.vdot d a b) d 32 (if signedTag t then 5 else 6) (fun k =>
      ((dotSum (signedTag t) (widthOfTag t) (readAt s t a) (readAt s t b) (elem (readV s 32 false d.src) 32 k) k
        % 2 ^ 32).toNat, 0)) s := by
  have htag := (tag_of_accumulator_carries rfl ht (tag_vdot ht) ((dotTag_iff t).2 hok) hd).trans
    (bSame_of_carries rfl ht hb)
  exact givesElements_of_acts (act_vdot ht ▸ (tagPlan_vdot s d a b).acts htag) fun k => rfl

end vmad

/-! ## Select (R198) -/

theorem tagPlan_vsel (s : State) (d : VDst) (a b : VSrc) : TagPlan (.vsel d a b) s (planVsel d a b) :=
  ⟨rfl, rfl, rfl, rfl, rfl, rfl⟩

theorem onSameTags_vsel {s : State} {d : VDst} {a b : VSrc} {t : Tag} (ht : typeOf s [a, b] = some t) :
    OnSameTags validTag (.vsel d a b) s a b t (GivesAll (.vsel d a b) d (widthOfTag t) t (fun k =>
      if enabled s (widthOfTag t) k then elem (readAt s t a) (widthOfTag t) k else elem (readAt s t b) (widthOfTag t) k) s) := by
  refine onSameTags_of_plan (tagPlan_vsel s d a b) rfl anyTag_iff rfl ht fun hacts => ?_
  obtain ⟨hty, hwidth, hread⟩ := read_operands (i := .vsel d a b) rfl ht
  simp only [planVsel, hty, hwidth, hread] at hacts
  refine givesAll_of_acts hacts fun k hk => ?_
  rw [elem_ofElems _ _ _ hk]
  split
  · exact Nat.mod_eq_of_lt (elem_lt _ _ _)
  · exact Nat.mod_eq_of_lt (elem_lt _ _ _)

end Sys2Proof.Machine

namespace Sys2Proof
open Sys2Proof.Machine Sys2Proof.Claims

/-- Settles O31: Table Vector-4 row by row, then `vmad`, `vdot`, the compares and `vsel`. -/
theorem integerVectorResultsFollowTable : Obligations.IntegerVectorResultsFollowTable := by
  unfold Obligations.IntegerVectorResultsFollowTable
  refine ⟨integerBinary_integerRows, bitwise_logicRows, shift_shiftRows, integerUnary_unaryElementRows,
    fun s d a b t ht => ⟨givesElements_vmad ht, fun hok => ?_, fun g hok => ?_⟩,
    fun s d a b t ht => ⟨fun hlo hhi => givesElements_vdot ht ⟨hlo, hhi⟩, fun hok => ?_⟩,
    integerCompare_elementCompares, fun s d a b t ht => onSameTags_vsel ht⟩
  · exact traps_accumulate_wrongType (tagPlan_vmad s d a b) rfl ht (tag_vmad ht) (mt (intTag_iff t).1 hok)
  · exact traps_accumulator_wrongTag (tagPlan_vmad s d a b) rfl ht (tag_vmad ht) ((intTag_iff t).2 hok)
  · exact traps_accumulate_wrongType (tagPlan_vdot s d a b) rfl ht (tag_vdot ht) (mt (dotTag_iff t).1 hok)

end Sys2Proof
end

section
/-!
PROOFS. The floating vector instructions (R199-R203): their operand checks, what their plans give once the operation type is
known, and the compares.
-/
namespace Sys2Proof.Machine
open Sys2Proof Sys2Proof.Claims

/-! ## Operands of one floating type (R28, R192) -/

section lanes
variable {i : Instr} {s : State} {l : List VSrc} {a b : VSrc} {t : Tag}

theorem aFloat_of_ne_lane (ha : a ≠ .lane) : aFloat i a s = none := by
  cases a
  case lane => exact absurd rfl ha
  all_goals rfl

variable (hi : typed i = some l) (ht : typeOf s l = some t)
include hi ht

theorem aFloat_lane (hok : floatingTag t) : aFloat i .lane s = some (1, (naturalTag t).toNat, t.toNat) := by
  rw [aFloat, opType_eq hi ht, sameTag_lane hok]

theorem bSame_lane (hok : floatingTag t) : bSame i .lane s = some (2, (naturalTag t).toNat, t.toNat) := by
  rw [bSame, opType_eq hi ht, sameTag_lane hok]

theorem bSame_of_ne {g : Tag} (hg : tagOf s b = some g) (hne : g ≠ t) : bSame i b s = some (2, g.toNat, t.toNat) := by
  rw [bSame, opType_eq hi ht, sameTag_of_ne hg hne]

end lanes

/-- R192: on a floating type that both operands carry the instruction does R; otherwise it traps, on lane too. -/
def OnFloatTags (i : Instr) (s : State) (a b : VSrc) (t : Tag) (R : Prop) : Prop :=
  (floatingTag t → carries s a t → carries s b t → R) ∧ (¬ floatingTag t → Traps i s (wrongType [a, b] t)) ∧
  (floatingTag t → a = .lane → Traps i s (wrongTag 1 (naturalTag t) t)) ∧
  (floatingTag t → a ≠ .lane → b = .lane → Traps i s (wrongTag 2 (naturalTag t) t)) ∧
  ∀ g, floatingTag t → a ≠ .lane → tagOf s b = some g → g ≠ t → Traps i s (wrongTag 2 g t)

theorem onFloatTags_of_plan {i : Instr} {s : State} {p : Plan} {a b : VSrc} {t : Tag} {R : Prop} (h : TagPlan i s p)
    (htag : p.tag s = orElse3 (typeIn i floatTag s) (aFloat i a s) (bSame i b s))
    (hi : typed i = some [a, b]) (ht : typeOf s [a, b] = some t) (hR : floatingTag t → Acts i s (p.act s) → R) :
    OnFloatTags i s a b t R := by
  have hallowed (hok : floatingTag t) : p.tag s = (aFloat i a s).orElse fun _ => bSame i b s := by
    rw [htag, typeIn_of_allowed hi ht ((floatTag_iff t).2 hok)]
    rfl
  refine ⟨fun hok ha hb => hR hok (h.acts ?_), fun hok => h.traps_wrongType hi ?_, fun hok ha => h.traps ?_,
    fun hok ha hb => h.traps ?_, fun g hok ha hg hne => h.traps ?_⟩
  · rw [hallowed hok, aFloat_of_ne_lane (ne_lane_of_carries hok ha), bSame_of_carries hi ht hb]
    rfl
  · rw [htag, typeIn_of_not_allowed hi ht (mt (floatTag_iff t).1 hok)]
    rfl
  · subst ha
    rw [hallowed hok, aFloat_lane hi ht hok]
    rfl
  · subst hb
    rw [hallowed hok, aFloat_of_ne_lane ha, bSame_lane hi ht hok]
    rfl
  · rw [hallowed hok, aFloat_of_ne_lane ha, bSame_of_ne hi ht hg hne]
    rfl

/-! ## What the plans give -/

section plans
variable {i : Instr} {s : State} {l : List VSrc} {t : Tag} (hi : typed i = some l) (ht : typeOf s l = some t)
  (hok : floatingTag t)
include hi ht hok

theorem act_fbin (f : Fmt → Nat → Bool → Nat → Nat → Nat × Byte) (d : VDst) (a b : VSrc) :
    (fbin i f d a b).act s = giveMask i d (widthOfTag t) t (fun k => f (floatFormat t) (modeOf s) (flushing s)
      (elem (readAt s t a) (widthOfTag t) k) (elem (readAt s t b) (widthOfTag t) k)) s := by
  obtain ⟨hty, hwidth, hread⟩ := read_operands hi ht
  simp only [fbin, hty, hwidth, hread, fmtOf_eq t hok]
  rfl

theorem act_fun1 (f : Fmt → Nat → Bool → Nat → Nat × Byte) (d : VDst) (a : VSrc) :
    (fun1 i f d a).act s = giveMask i d (widthOfTag t) t (fun k => f (floatFormat t) (modeOf s) (flushing s)
      (elem (readAt s t a) (widthOfTag t) k)) s := by
  obtain ⟨hty, hwidth, hread⟩ := read_operands hi ht
  simp only [fun1, hty, hwidth, hread, fmtOf_eq t hok]
  rfl

theorem act_facc (negP negD : Bool) (d : VDst) (a b : VSrc) :
    (facc i negP negD d a b).act s = giveMask i d (widthOfTag t) t (fun k =>
      (floatFormat t).fma negP negD (modeOf s) (flushing s) (elem (readAt s t a) (widthOfTag t) k)
        (elem (readAt s t b) (widthOfTag t) k) (elem (readAt s t d.src) (widthOfTag t) k)) s := by
  obtain ⟨hty, hwidth, hread⟩ := read_operands hi ht
  simp only [facc, hty, hwidth, hread, fmtOf_eq t hok]
  rfl

theorem act_fcmp (kind : Nat) (d : PReg) (a b : VSrc) :
    (fcmp i kind d a b).act s = givePred i d (widthOfTag t) (fun k => (floatFormat t).cmp kind (flushing s)
      (elem (readAt s t a) (widthOfTag t) k) (elem (readAt s t b) (widthOfTag t) k)) s := by
  obtain ⟨hty, hwidth, hread⟩ := read_operands hi ht
  simp only [fcmp, hty, hwidth, hread, fmtOf_eq t hok]
  rfl

end plans

/-! ## The shapes of the tables' rows -/

/-- A binary floating instruction: on one floating type, element k is val of the operands' elements under FCTL. -/
def FloatBinary (con : VDst → VSrc → VSrc → Instr) (val : Fmt → Nat → Bool → Nat → Nat → Nat × Byte) : Prop :=
  ∀ s d a b t, typeOf s [a, b] = some t → OnFloatTags (con d a b) s a b t
    (GivesElements (con d a b) d (widthOfTag t) t (fun k => val (floatFormat t) (modeOf s) (flushing s)
      (elem (readAt s t a) (widthOfTag t) k) (elem (readAt s t b) (widthOfTag t) k)) s)

theorem floatBinary_of_plan {con : VDst → VSrc → VSrc → Instr} {val : Fmt → Nat → Bool → Nat → Nat → Nat × Byte}
    (hi : ∀ d a b, typed (con d a b) = some [a, b] := by intros; rfl)
    (h : ∀ s d a b, TagPlan (con d a b) s (fbin (con d a b) val d a b) := by
      intros; exact ⟨rfl, rfl, rfl, rfl, rfl, rfl⟩) : FloatBinary con val := by
  intro s d a b t ht
  refine onFloatTags_of_plan (h s d a b) rfl (hi d a b) ht fun hok hacts => ?_
  rw [act_fbin (hi d a b) ht hok] at hacts
  exact givesElements_of_acts hacts fun k => rfl

/-- A unary floating instruction: on a floating type, element k is val of the operand's element under FCTL. -/
def FloatUnary (con : VDst → VSrc → Instr) (val : Fmt → Nat → Bool → Nat → Nat × Byte) : Prop :=
  ∀ s d a t, typeOf s [a] = some t → OnType floatingTag (con d a) s [a] t
    (GivesElements (con d a) d (widthOfTag t) t (fun k => val (floatFormat t) (modeOf s) (flushing s)
      (elem (readAt s t a) (widthOfTag t) k)) s)

theorem floatUnary_of_plan {con : VDst → VSrc → Instr} {val : Fmt → Nat → Bool → Nat → Nat × Byte}
    (hi : ∀ d a, typed (con d a) = some [a] := by intros; rfl)
    (h : ∀ s d a, TagPlan (con d a) s (fun1 (con d a) val d a) := by
      intros; exact ⟨rfl, rfl, rfl, rfl, rfl, rfl⟩) : FloatUnary con val := by
  intro s d a t ht
  refine onType_of_plan (h s d a) rfl floatTag_iff (hi d a) ht fun hok hacts => ?_
  rw [act_fun1 (hi d a) ht hok] at hacts
  exact givesElements_of_acts hacts fun k => rfl

/-- An accumulating floating instruction: the product, and D, each negated where the table says, exactly added and rounded
once; on a wrong tag of D, then of A, then of B, it traps. -/
def FloatAccumulate (con : VDst → VSrc → VSrc → Instr) (negP negD : Bool) : Prop :=
  ∀ s d a b t, typeOf s [a, b, d.src] = some t →
    (floatingTag t → carries s a t → carries s b t → carries s d.src t →
      GivesElements (con d a b) d (widthOfTag t) t (fun k =>
        (floatFormat t).fma negP negD (modeOf s) (flushing s) (elem (readAt s t a) (widthOfTag t) k)
          (elem (readAt s t b) (widthOfTag t) k) (elem (readAt s t d.src) (widthOfTag t) k)) s) ∧
    (¬ floatingTag t → Traps (con d a b) s (wrongType [a, b, d.src] t)) ∧
    (floatingTag t → carries s d.src t → a = .lane → Traps (con d a b) s (wrongTag 1 (naturalTag t) t)) ∧
    (floatingTag t → carries s d.src t → a ≠ .lane → b = .lane →
      Traps (con d a b) s (wrongTag 2 (naturalTag t) t)) ∧
    ∀ g, floatingTag t → tagOf s d.src = some g → g ≠ t → Traps (con d a b) s (wrongTag 0 g t)

theorem floatAccumulate_of_plan {con : VDst → VSrc → VSrc → Instr} {negP negD : Bool}
    (hi : ∀ d a b, typed (con d a b) = some [a, b, d.src] := by intros; rfl)
    (h : ∀ s d a b, TagPlan (con d a b) s (facc (con d a b) negP negD d a b) := by
      intros; exact ⟨rfl, rfl, rfl, rfl, rfl, rfl⟩) : FloatAccumulate con negP negD := by
  intro s d a b t ht
  have hplan := h s d a b
  have htyped := hi d a b
  have htag : (facc (con d a b) negP negD d a b).tag s = orElse3 (typeIn (con d a b) floatTag s) (sameTag s 0 d.src t)
      ((aFloat (con d a b) a s).orElse fun _ => bSame (con d a b) b s) := by
    simp only [facc, opType_eq htyped ht]
  have hallowed (hok : floatingTag t) (hd : carries s d.src t) :=
    tag_of_accumulator_carries htyped ht htag ((floatTag_iff t).2 hok) hd
  refine ⟨fun hok ha hb hd => ?_, fun hok => ?_, fun hok hd ha => hplan.traps ?_, fun hok hd ha hb => hplan.traps ?_,
    fun g hok hg hne => ?_⟩
  · have hacts := hplan.acts (by
      rw [hallowed hok hd, aFloat_of_ne_lane (ne_lane_of_carries hok ha), bSame_of_carries htyped ht hb]; rfl)
    rw [act_facc htyped ht hok] at hacts
    exact givesElements_of_acts hacts fun k => rfl
  · exact traps_accumulate_wrongType hplan htyped ht htag (mt (floatTag_iff t).1 hok)
  · subst ha
    rw [hallowed hok hd, aFloat_lane htyped ht hok]
    rfl
  · subst hb
    rw [hallowed hok hd, aFloat_of_ne_lane ha, bSame_lane htyped ht hok]
    rfl
  · exact traps_accumulator_wrongTag hplan htyped ht htag ((floatTag_iff t).2 hok) hg hne

/-- A floating compare: on one floating type, the bits of element k say whether rel holds of the operands' values, and fl
gives its flags. -/
def FloatCompare (con : PReg → VSrc → VSrc → Instr) (rel : FVal → FVal → Bool) (fl : FVal → FVal → Byte) : Prop :=
  ∀ s d a b t, typeOf s [a, b] = some t → OnFloatTags (con d a b) s a b t
    (GivesPredicate (con d a b) d (widthOfTag t) (fun k =>
      let v := fun x => (floatFormat t).val (flushing s) (elem (readAt s t x) (widthOfTag t) k)
      (rel (v a) (v b), fl (v a) (v b))) s)

theorem floatCompare_of_plan {con : PReg → VSrc → VSrc → Instr} {rel : FVal → FVal → Bool} {fl : FVal → FVal → Byte}
    (kind : Nat) (hcmp : ∀ F ftz x y, Fmt.cmp F kind ftz x y =
      (rel (F.val ftz x) (F.val ftz y), fl (F.val ftz x) (F.val ftz y)))
    (hi : ∀ d a b, typed (con d a b) = some [a, b] := by intros; rfl)
    (h : ∀ s d a b, TagPlan (con d a b) s (fcmp (con d a b) kind d a b) := by
      intros; exact ⟨rfl, rfl, rfl, rfl, rfl, rfl⟩) : FloatCompare con rel fl := by
  intro s d a b t ht
  refine onFloatTags_of_plan (h s d a b) rfl (hi d a b) ht fun hok hacts => ?_
  rw [act_fcmp (hi d a b) ht hok] at hacts
  exact givesPredicate_of_acts hacts fun k => hcmp _ _ _ _

/-! ## Order of values (R203) -/

theorem dlt_asymm {m n : Nat} {x y : Int} (h : dlt m x n y = true) : dlt n y m x = false := by
  rw [dlt] at h ⊢
  rw [min_comm y x]
  simp only [decide_eq_true_eq, decide_eq_false_iff_not] at h ⊢
  omega

theorem ltV_asymm {v w : FVal} (h : ltV v w = true) : ltV w v = false := by
  cases v with
  | nan p => cases w <;> exact absurd h Bool.false_ne_true
  | inf p => cases w <;> cases p <;> simp_all [ltV]
  | fin p m x => cases w with
    | nan q => exact absurd h Bool.false_ne_true
    | inf q => cases q <;> simp_all [ltV]
    | fin q n y =>
      simp only [ltV] at h ⊢
      generalize (p && decide (m ≠ 0)) = p', (q && decide (n ≠ 0)) = q' at h ⊢
      match p', q' with
      | false, false | true, true => exact dlt_asymm h
      | false, true => exact absurd h Bool.false_ne_true
      | true, false => rfl

/-- R203: `fcmp.le` as its table says it, for values that are no NaN. -/
theorem ltV_or_eqV (v w : FVal) :
    (!(v.isNan || w.isNan) && (ltV v w || eqV v w)) = (!v.isNan && !w.isNan && !ltV w v) := by
  cases h : ltV v w with
  | false => simp [eqV, h]
  | true => simp [ltV_asymm h]

/-! ## The tables, row by row -/

theorem floatBinary_floatRows : ∀ r ∈ floatRows, FloatBinary r.1 r.2 := by
  simp only [floatRows, List.forall_mem_cons]
  exact ⟨floatBinary_of_plan, floatBinary_of_plan, floatBinary_of_plan, floatBinary_of_plan, floatBinary_of_plan,
    floatBinary_of_plan, List.forall_mem_nil _⟩

theorem floatAccumulate_accumulateRows : ∀ r ∈ accumulateRows, FloatAccumulate r.1 r.2.1 r.2.2 := by
  simp only [accumulateRows, List.forall_mem_cons]
  exact ⟨floatAccumulate_of_plan, floatAccumulate_of_plan, floatAccumulate_of_plan, floatAccumulate_of_plan,
    List.forall_mem_nil _⟩

theorem floatUnary_floatUnaryRows : ∀ r ∈ floatUnaryRows, FloatUnary r.1 r.2 := by
  simp only [floatUnaryRows, List.forall_mem_cons]
  exact ⟨floatUnary_of_plan, floatUnary_of_plan, floatUnary_of_plan, floatUnary_of_plan, floatUnary_of_plan,
    floatUnary_of_plan, floatUnary_of_plan, List.forall_mem_nil _⟩

theorem floatCompare_floatCompares : ∀ r ∈ floatCompares, FloatCompare r.1 r.2.1 r.2.2 := by
  simp only [floatCompares, List.forall_mem_cons]
  exact ⟨floatCompare_of_plan 0 fun _ _ _ _ => rfl,
    floatCompare_of_plan 1 fun _ _ _ _ => by simp [Fmt.cmp, flagIf],
    floatCompare_of_plan 2 fun _ _ _ _ => by simp only [Fmt.cmp, ltV_or_eqV, flagIf]; rfl,
    floatCompare_of_plan 3 fun _ _ _ _ => rfl, List.forall_mem_nil _⟩

/-! ## Classes (R202) -/

theorem natTag_widthOfTag (t : Tag) : floatingTag t →
    natTag (widthOfTag t) = if widthOfTag t = 64 then 8 else if widthOfTag t = 32 then 6 else 4 := by
  unfold floatingTag
  revert t
  decide

theorem onType_fclass {s : State} {d : VDst} {a : VSrc} {t : Tag} (ht : typeOf s [a] = some t) :
    OnType floatingTag (.fclass d a) s [a] t (GivesElements (.fclass d a) d (widthOfTag t)
      (if widthOfTag t = 64 then 8 else if widthOfTag t = 32 then 6 else 4)
      (fun k => ((floatFormat t).fclass (elem (readAt s t a) (widthOfTag t) k), 0)) s) := by
  refine onType_of_plan (p := planFclass d a) ⟨rfl, rfl, rfl, rfl, rfl, rfl⟩ rfl floatTag_iff rfl ht fun hok hacts => ?_
  obtain ⟨hty, hwidth, hread⟩ := read_operands (i := .fclass d a) rfl ht
  simp only [planFclass, hty, hwidth, hread, fmtOf_eq t hok, natTag_widthOfTag t hok] at hacts
  exact givesElements_of_acts hacts fun k => rfl

end Sys2Proof.Machine

namespace Sys2Proof
open Sys2Proof.Machine Sys2Proof.Claims

/-- Settles O32: Table Vector-5 row by row, then `fclass` and the compares. -/
theorem floatingVectorResultsFollowTable : Obligations.FloatingVectorResultsFollowTable := by
  unfold Obligations.FloatingVectorResultsFollowTable
  exact ⟨floatBinary_floatRows, floatAccumulate_accumulateRows, floatUnary_floatUnaryRows,
    fun s d a t ht => onType_fclass ht, floatCompare_floatCompares⟩

end Sys2Proof
end

section
/-!
PROOFS. The permutes (R207): each reads the element that its table names, or zero.
-/
namespace Sys2Proof.Machine
open Sys2Proof Sys2Proof.Claims

/-- A permute with a scalar operand: on any valid type, element i is val of the element count, the scalar and the elements. -/
def Permute (con : VDst → VSrc → SSrc → Instr) (val : Nat → Nat → (Nat → Nat) → Nat → Nat) : Prop :=
  ∀ s d a b t, typeOf s [a] = some t → OnType validTag (con d a b) s [a] t
    (GivesElements (con d a b) d (widthOfTag t) t (fun i => (val (2048 / widthOfTag t) (readS s (con d a b) 2 b).toNat
      (elem (readAt s t a) (widthOfTag t)) i, 0)) s)

/-- The plan of a permute with a scalar operand. -/
def permutePlan (i : Instr) (val : Nat → Nat → (Nat → Nat) → Nat → Nat) (d : VDst) (a : VSrc) (b : SSrc) : Plan :=
  { instr := i, tag := typeIn i anyTag,
    act := fun s => giveMask i d (opWidth s i) (opType s i)
      (fun k => (val (2048 / opWidth s i) (readS s i 2 b).toNat (elem (vop s i a) (opWidth s i)) k, 0)) s }

theorem permute_of_plan {con : VDst → VSrc → SSrc → Instr} {val : Nat → Nat → (Nat → Nat) → Nat → Nat}
    (hi : ∀ d a b, typed (con d a b) = some [a] := by intros; rfl)
    (h : ∀ s d a b, TagPlan (con d a b) s (permutePlan (con d a b) val d a b) := by
      intros; exact ⟨rfl, rfl, rfl, rfl, rfl, rfl⟩) : Permute con val := by
  intro s d a b t ht
  refine onType_of_plan (h s d a b) rfl anyTag_iff (hi d a b) ht fun _ hacts => ?_
  obtain ⟨hty, hwidth, hread⟩ := read_operands (hi d a b) ht
  simp only [permutePlan, hty, hwidth, hread] at hacts
  exact givesElements_of_acts hacts fun k => rfl

theorem permute_permuteRows : ∀ r ∈ permuteRows, Permute r.1 r.2 := by
  simp only [permuteRows, List.forall_mem_cons]
  exact ⟨permute_of_plan, permute_of_plan, permute_of_plan, List.forall_mem_nil _⟩

section permutes
variable {s : State} {d : VDst} {a : VSrc} {t : Tag}

theorem onIndexTags_vshuf {b : VSrc} (ht : typeOf s [a, b] = some t) : OnIndexTags validTag (.vshuf d a b) s a b t
    (GivesElements (.vshuf d a b) d (widthOfTag t) t (fun i => (elem (readAt s t a) (widthOfTag t)
      (elem (readAt s t b) (widthOfTag t) i % (2048 / widthOfTag t)), 0)) s) := by
  refine onIndexTags_of_plan (p := planVshuf d a b) ⟨rfl, rfl, rfl, rfl, rfl, rfl⟩ rfl anyTag_iff rfl ht fun hacts => ?_
  obtain ⟨hty, hwidth, hread⟩ := read_operands (i := .vshuf d a b) rfl ht
  simp only [planVshuf, hty, hwidth, hread] at hacts
  exact givesElements_of_acts hacts fun k => rfl

variable (ht : typeOf s [a] = some t)
include ht

theorem onType_vext (sd : SDst) (b : SSrc) : OnType validTag (.vext sd a b) s [a] t
    (Acts (.vext sd a b) s (if predHolds s then giveS (.vext sd a b) sd (placed t (elem (readAt s t a) (widthOfTag t)
      ((readS s (.vext sd a b) 2 b).toNat % (2048 / widthOfTag t)))) 0 s else s)) := by
  refine onType_of_plan (p := planVext sd a b) ⟨rfl, rfl, rfl, rfl, rfl, rfl⟩ rfl anyTag_iff rfl ht fun _ hacts => ?_
  obtain ⟨hty, hwidth, hread⟩ := read_operands (i := .vext sd a b) rfl ht
  simpa only [planVext, hty, hwidth, hread, isSigned_eq, placed_of_lt (elem_lt _ _ _), giveIf] using hacts

theorem onType_vins (b : SSrc) : OnType validTag (.vins d a b) s [a] t
    (GivesAll (.vins d a b) d (widthOfTag t) t (fun k => if enabled s (widthOfTag t) k
      then (readS s (.vins d a b) 2 b).toNat % 2 ^ widthOfTag t else elem (readAt s t a) (widthOfTag t) k) s) := by
  refine onType_of_plan (p := planVins d a b) ⟨rfl, rfl, rfl, rfl, rfl, rfl⟩ rfl anyTag_iff rfl ht fun _ hacts => ?_
  obtain ⟨hty, hwidth, hread⟩ := read_operands (i := .vins d a b) rfl ht
  simp only [planVins, hty, hwidth, hread] at hacts
  refine givesAll_of_acts hacts fun k hk => ?_
  rw [elem_ofElems _ _ _ hk]
  split
  · exact Nat.mod_mod _ _
  · exact Nat.mod_eq_of_lt (elem_lt _ _ _)

/-- The enabled elements of an operand, in index order. -/
def liveElements (s : State) (t : Tag) (a : VSrc) : List Nat :=
  ((List.range (2048 / widthOfTag t)).filter (enabled s (widthOfTag t))).map (elem (readAt s t a) (widthOfTag t))

omit ht in
theorem elem_pack_liveElements (s : State) (t : Tag) (a : VSrc) (k : Nat) :
    elem (packElems (widthOfTag t) (liveElements s t a)) (widthOfTag t) k = (liveElements s t a).getD k 0 := by
  have hlen : (liveElements s t a).length ≤ 2048 / widthOfTag t := by
    simpa [liveElements] using List.length_filter_le (enabled s (widthOfTag t)) (List.range (2048 / widthOfTag t))
  have hlt : (liveElements s t a).getD k 0 < 2 ^ widthOfTag t := by
    rw [List.getD_eq_getElem?_getD]
    refine getD_lt (fun x hx => ?_) (Nat.two_pow_pos _)
    obtain ⟨j, -, rfl⟩ := List.mem_map.1 (List.mem_of_getElem? hx)
    exact elem_lt _ _ _
  rw [elem_packElems _ _ _ ((Nat.mul_le_mul_left _ hlen).trans (Nat.mul_div_le 2048 _)), Nat.mod_eq_of_lt hlt]

theorem onType_vcmpr : OnType validTag (.vcmpr d a) s [a] t
    (GivesAll (.vcmpr d a) d (widthOfTag t) t (fun k => (liveElements s t a).getD k 0) s) := by
  refine onType_of_plan (p := planVcmpr d a) ⟨rfl, rfl, rfl, rfl, rfl, rfl⟩ rfl anyTag_iff rfl ht fun _ hacts => ?_
  obtain ⟨hty, hwidth, hread⟩ := read_operands (i := .vcmpr d a) rfl ht
  simp only [planVcmpr, hty, hwidth, hread] at hacts
  exact givesAll_of_acts hacts fun k _ => elem_pack_liveElements s t a k

end permutes

theorem givesElements_vlane (s : State) (d : VDst) (a b : SSrc) : GivesElements (.vlane d a b) d 32 6 (fun i =>
    (((readS s (.vlane d a b) 1 a).toNat + i * (readS s (.vlane d a b) 2 b).toNat) % 2 ^ 32, 0)) s :=
  have hplan : TagPlan (.vlane d a b) s (planVlane d a b) := ⟨rfl, rfl, rfl, rfl, rfl, rfl⟩
  givesElements_of_acts (hplan.acts rfl) fun _ => rfl

end Sys2Proof.Machine

namespace Sys2Proof
open Sys2Proof.Machine Sys2Proof.Claims

/-- Settles O34: Table Vector-7 in the order of its statement. -/
theorem permutesFollowTable : Obligations.PermutesFollowTable := by
  unfold Obligations.PermutesFollowTable
  exact ⟨permute_permuteRows, fun s d a b t ht => onIndexTags_vshuf ht, fun s d a b t ht => onType_vext ht d b,
    fun s d a b t ht => onType_vins ht b, fun s d a t ht => onType_vcmpr ht, givesElements_vlane⟩

end Sys2Proof
end

section
/-!
PROOFS. The conversions (R204): a code of more bits than its format, for which the corner columns of Table Formats-9 fail.
-/
namespace Sys2Proof
open Sys2Proof.Machine Sys2Proof.Claims

/-- The f16 code of +∞ with bit 16 set beside it. -/
def wideInfinity : Nat := 2 ^ 16 + F16.inf false

theorem val_wideInfinity : (fmtOf (11 : Tag).toNat).val false wideInfinity = .inf false := by decide

/-- A conversion of f16 to itself gives back the code that it is given. -/
theorem convert_wideInfinity : convert (11 : Tag).toNat (11 : Tag).toNat 0 false wideInfinity = (wideInfinity, 0) := by decide

/-- Refutes O33: its column of the infinities takes every code c, not only those of the format's width. `wideInfinity` reads
as +∞ in f16, and its conversion to f16 is itself, not the f16 code of +∞. -/
theorem not_conversionsAndTagsFollowRules : ¬ Obligations.ConversionsAndTagsFollowRules := by
  unfold Obligations.ConversionsAndTagsFollowRules
  rintro ⟨-, -, -, -, -, -, hcorners⟩
  obtain ⟨-, -, -, hinf, -⟩ := hcorners 11 11 0 false wideInfinity (by decide) (by decide)
  have hcode := hinf false val_wideInfinity (by decide) (by decide)
  rw [convert_wideInfinity] at hcode
  exact absurd hcode (by decide)

end Sys2Proof
end

section
/-!
PROOFS. What a store leaves of the bytes that a coherent read finds (R227, R229, R325), by the place that its address names.
-/
namespace Sys2Proof.Machine
open Sys2Proof Sys2Proof.Claims

/-! ## Cores that differ in their slots alone -/

section
variable {s t : State} (h : SameCores s t) (c : Nat)
include h

theorem SameCores.spadByte (o : Nat) : t.spadByte c o = s.spadByte c o := by
  obtain ⟨l, g, hc⟩ := h.core c
  rw [State.spadByte, hc]
  rfl

theorem SameCores.fe : (t.core c).fe = (s.core c).fe := by
  obtain ⟨l, g, hc⟩ := h.core c
  rw [hc]

end

/-! ## A store by its place -/

section
variable {s : State} {w : Who} {ea n v : Nat}

theorem storeVa_event {cl off : Nat} (h : s.placeOf w .store (n = 8) ea = .ok (.event cl off)) :
    s.storeVa w ea n v = (s.lineEffects w .store .store ea n).fireLine cl (off % 0x200 / 8) := by
  simp only [State.storeVa, h]

theorem storeVa_mem {pa mt key : Nat} (h : s.placeOf w .store (n = 8) ea = .ok (.mem pa mt key)) :
    s.storeVa w ea n v = (s.lineEffects w .store .store ea n).writeVa w .store ea n v := by
  simp only [State.storeVa, h]

theorem storeVa_spad {c off : Nat} (h : s.placeOf w .store (n = 8) ea = .ok (.spad c off)) :
    s.storeVa w ea n v = (s.lineEffects w .store .store ea n).writeVa w .store ea n v := by
  simp only [State.storeVa, h]

/-- A naturally aligned write is one write at its place. -/
theorem writeVa_aligned {k : Acc} {p : Place} (hn : n = 1 ∨ n = 2 ∨ n = 4 ∨ n = 8) (ha : ea % n = 0)
    (h : s.placeOf w k (n = 8) ea = .ok p) : s.writeVa w k ea n v = s.writePlace State.blame p n v := by
  simp only [State.writeVa, State.writeVaWith, piecesOf_aligned hn ha, List.foldl_cons, List.foldl_nil, h]

end

/-! ## The bytes that it leaves -/

theorem byteAt_writePlace_mem {s : State} {lost : State → State} {pa mt key n v : Nat} (hr : s.unreachable pa = false)
    (hline : pa % 128 + n ≤ 128) (j : Nat) : (s.writePlace lost (.mem pa mt key) n v).byteAt j =
      if pa ≤ j ∧ j < pa + n then BitVec.ofNat 8 (v / 256 ^ (j - pa)) else s.byteAt j := by
  rw [← byteAt_writePa s pa n v key j hline]
  simp only [State.writePlace, hr, Bool.false_eq_true, if_false]
  split
  · exact byteAt_congr rfl rfl
  · rfl

theorem cores_writePlace_mem {s : State} {lost : State → State} {pa mt key n v : Nat} (hr : s.unreachable pa = false) :
    (s.writePlace lost (.mem pa mt key) n v).cores = s.cores := by
  rw [← cores_writePa s pa n v key]
  simp only [State.writePlace, hr, Bool.false_eq_true, if_false]
  split <;> rfl

theorem writePlace_spad {s : State} {lost : State → State} {c off n v : Nat} (h : (s.die (dieOf c)).lost = false) :
    s.writePlace lost (.spad c off) n v = s.writeSpad c off n v := by
  simp only [State.writePlace, h, Bool.false_eq_true, if_false]

/-- R297: an event line that fires changes no byte. -/
theorem byteAt_fireLine (s : State) (cl line j : Nat) : (s.fireLine cl line).byteAt j = s.byteAt j :=
  byteAt_congr rfl rfl

theorem sameCores_fireLine (s : State) (cl line : Nat) : SameCores s (s.fireLine cl line) := by
  unfold State.fireLine
  extract_lets x n hit counted fired
  have hcounted : SameCores s counted := .of_cores rfl
  have hfired : SameCores counted fired := sameCores_mapSlots counted _
  exact (hcounted.trans hfired).trans (.of_cores rfl)

/-- An aligned unit lies in one line. -/
theorem aligned_in_line {pa n : Nat} (hn : n = 1 ∨ n = 2 ∨ n = 4 ∨ n = 8) (ha : pa % n = 0) : pa % 128 + n ≤ 128 := by
  rcases hn with rfl | rfl | rfl | rfl <;> omega

end Sys2Proof.Machine

namespace Sys2Proof
open Sys2Proof.Machine

/-- Settles O17: the traces of the access change no byte, and the write at its place changes its own. -/
theorem storeChangesItsOwnBytesOnly : Obligations.StoreChangesItsOwnBytesOnly := by
  unfold Obligations.StoreChangesItsOwnBytesOnly
  intro s w ea n v hn ha s' t
  obtain ⟨hbytes, hspad⟩ := lineEffects_bytes s w .store .store ea n
  refine ⟨fun pa mt k pa' mt' k' hp hp' hr hpa => ?_, fun c off c' off' hp hp' hlost => ?_, fun cl off hp => ?_⟩
  · have ht : t = s'.writePlace State.blame (.mem pa' mt' k') n v := (storeVa_mem hp).trans (writeVa_aligned hn ha hp')
    refine ⟨fun j => ?_, fun c o => ?_⟩
    · rw [ht, byteAt_writePlace_mem hr (aligned_in_line hn hpa), hbytes]
    · rw [ht, spadByte_congr (cores_writePlace_mem hr), hspad]
  · have ht : t = s'.writeSpad c' off' n v :=
      (storeVa_spad hp).trans ((writeVa_aligned hn ha hp').trans (writePlace_spad hlost))
    refine ⟨fun d o => ?_, fun j => ?_⟩
    · rw [ht, spadByte_writeSpad, hspad]
    · rw [ht, byteAt_writeSpad, hbytes]
  · have ht : t = s'.fireLine cl (off % 0x200 / 8) := storeVa_event hp
    refine ⟨fun j => ?_, fun c o => ?_⟩
    · rw [ht, byteAt_fireLine, hbytes]
    · rw [ht, (sameCores_fireLine s' _ _).spadByte, hspad]

end Sys2Proof
end

section
/-!
PROOFS. Scalar loads and stores (R143, R229, R230, R298, R299): what their two plans check, wait for and do.
-/
namespace Sys2Proof.Machine
open Sys2Proof Sys2Proof.Claims

/-! ## Effective addresses (R227) -/

theorem sum_scaled (a : Word) (m : BitVec 6) (n : Nat) : sum a (scaled m n) = withImm a m n := by
  have hn : BitVec.ofNat 64 n = BitVec.ofInt 64 n := (BitVec.ofInt_natCast 64 n).symm
  have ha : a = BitVec.ofInt 64 a.toNat := by rw [BitVec.ofInt_natCast, BitVec.ofNat_toNat, BitVec.setWidth_eq]
  rw [sum, scaled, withImm, int64, signExtend6, hn, ← BitVec.ofInt_mul, BitVec.ofInt_add, ← ha]

theorem sum_eq_withReg (a b : Word) : sum a b = withReg a b := BitVec.toNat_add a b

/-! ## Atomics posted before an access (R143) -/

section
variable {s : State} {ea n : Nat}

theorem postedWait_of_nonePosted (h : nonePosted s ea n) : postedWait s ea n = none := by
  unfold postedWait
  split
  · next sl hsl => rw [h sl hsl]; rfl
  · rfl

theorem postedWait_of_posted (h : ¬ nonePosted s ea n) : postedWait s ea n = some (.posted ea n) := by
  simp only [nonePosted, not_forall, Bool.not_eq_false] at h
  obtain ⟨sl, hsl, hposted⟩ := h
  simp only [postedWait, hsl, hposted, if_true]

end

/-! ## The plan of a load -/

section
variable {s : State} {i : Instr} {z : LdSize} {d : SDst} {ea : State → Nat}

theorem loadPlan_fault_of_check {t : Trap} (h : checkAccess s .load (ldBytes z = 8) (ea s) (ldBytes z) (ldBytes z) = some t) :
    (loadPlan i z d ea).fault s = some t := by
  simp only [loadPlan, h, Option.orElse_some]

theorem loadPlan_fault (h : checkAccess s .load (ldBytes z = 8) (ea s) (ldBytes z) (ldBytes z) = none) :
    (loadPlan i z d ea).fault s = if ldBytes z = 8 then eventLoadFault s (ea s) else none := by
  simp only [loadPlan, h, Option.orElse_none]

/-- A load that names no event-unit page. -/
theorem loadPlan_plain (h : ldBytes z ≠ 8 ∨ s.eventAt (issuer s) .load (ea s) = none) :
    (if ldBytes z = 8 then eventLoadFault s (ea s) else none) = none ∧
    (loadPlan i z d ea).wait s = postedWait s (ea s) (ldBytes z) ∧
    (loadPlan i z d ea).act s = giveLoad i d (extend z (s.readVa (issuer s) .load (ea s) (ldBytes z)).1)
      (s.readVa (issuer s) .load (ea s) (ldBytes z)).2 (ownLag s (ea s))
      (s.lineEffects (issuer s) .load .load (ea s) (ldBytes z)) := by
  by_cases hz : ldBytes z = 8
  · have hevent := h.resolve_left (not_not_intro hz)
    refine ⟨?_, ?_, ?_⟩
    · rw [if_pos hz, eventLoadFault, hevent]
    · simp only [loadPlan, hz, if_true, hevent]
    · simp only [loadPlan, hz, if_true, hevent, State.loadVa]
  · refine ⟨if_neg hz, ?_, ?_⟩
    · simp only [loadPlan, hz, if_false]
    · simp only [loadPlan, hz, if_false, State.loadVa]

/-- A load of line `line` of cluster `cl`. -/
theorem loadPlan_event {cl line : Nat} (hz : ldBytes z = 8) (h : s.eventAt (issuer s) .load (ea s) = some (cl, line)) :
    (if ldBytes z = 8 then eventLoadFault s (ea s) else none) =
      (if s.holderNow cl = some (issuer s).ctx then none else some (memTrap PROT .load (ea s) 8)) ∧
    (loadPlan i z d ea).wait s = (if s.unitFull cl then some .evFull else none) ∧
    (loadPlan i z d ea).act s = (s.lineEffects (issuer s) .load .load (ea s) (ldBytes z)).waitLine s.issue.core s.issue.slot
      cl line (some d) := by
  refine ⟨?_, ?_, ?_⟩
  · rw [if_pos hz, eventLoadFault, h]
  · simp only [loadPlan, hz, if_true, h]
  · simp only [loadPlan, hz, if_true, h]

theorem loads_of_plan (hm : isMatrix i = false) (he : exec i s = .next ((loadPlan i z d ea).run s)) :
    Loads i d (ldBytes z) (LdSize.signed z) (ea s) s := by
  refine ⟨fun t ht => traps_of _ he rfl rfl rfl rfl (loadPlan_fault_of_check ht), fun hcheck => ?_⟩
  have hfault := loadPlan_fault (i := i) (d := d) hcheck
  refine ⟨fun hplain hpost => ?_, fun hplain hpost => ?_, fun cl line hz hevent hholder => ?_,
    fun cl line hz hevent hholder => ⟨fun hfull => ?_, fun hroom => ?_⟩⟩
  · obtain ⟨hnone, hwait, hact⟩ := loadPlan_plain (i := i) (d := d) hplain
    exact acts_of _ he rfl rfl rfl rfl (hfault.trans hnone) (hwait.trans (postedWait_of_nonePosted hpost)) hact
  · obtain ⟨hnone, hwait, -⟩ := loadPlan_plain (i := i) (d := d) hplain
    exact waits_of _ he rfl rfl rfl rfl (hfault.trans hnone) (hwait.trans (postedWait_of_posted hpost))
      (pairWait_of_plain hm _)
  · obtain ⟨hprot, -, -⟩ := loadPlan_event (i := i) (d := d) hz hevent
    exact traps_of _ he rfl rfl rfl rfl (hfault.trans (hprot.trans (if_neg hholder)))
  · obtain ⟨hprot, hwait, -⟩ := loadPlan_event (i := i) (d := d) hz hevent
    exact waits_of _ he rfl rfl rfl rfl (hfault.trans (hprot.trans (if_pos hholder)))
      (hwait.trans (if_pos (decide_eq_true hfull))) (pairWait_of_plain hm _)
  · obtain ⟨hprot, hwait, hact⟩ := loadPlan_event (i := i) (d := d) hz hevent
    exact acts_of _ he rfl rfl rfl rfl (hfault.trans (hprot.trans (if_pos hholder)))
      (hwait.trans (if_neg (by simpa [State.unitFull] using hroom))) hact

theorem loads_ld (s : State) (z : LdSize) (d : SDst) (a : SSrc) (m : BitVec 6) : Loads (.ld z d a m) d (ldBytes z)
    (LdSize.signed z) (withImm (readS s (.ld z d a m) 1 a) m (ldBytes z)) s := by
  rw [← sum_scaled]
  exact loads_of_plan (ea := fun s => sum (readS s (.ld z d a m) 1 a) (scaled m (ldBytes z))) rfl rfl

theorem loads_ldx (s : State) (z : LdSize) (d : SDst) (a b : SSrc) : Loads (.ldx z d a b) d (ldBytes z)
    (LdSize.signed z) (withReg (readS s (.ldx z d a b) 1 a) (readS s (.ldx z d a b) 2 b)) s := by
  rw [← sum_eq_withReg]
  exact loads_of_plan (ea := fun s => sum (readS s (.ldx z d a b) 1 a) (readS s (.ldx z d a b) 2 b)) rfl rfl

theorem loads_ldAcq (s : State) (z : AcqSize) (d : SDst) (a : SSrc) (sc : Fin 16) : Loads (.ldAcq z d a sc) d
    (ldBytes (AcqSize.ld z)) (LdSize.signed (AcqSize.ld z)) (readS s (.ldAcq z d a sc) 1 a).toNat s :=
  loads_of_plan (ea := fun s => (readS s (.ldAcq z d a sc) 1 a).toNat) rfl rfl

theorem bytes_loadSizes : ∀ r ∈ loadSizes, ldBytes r.1 = r.2.1 ∧ LdSize.signed r.1 = r.2.2 := by decide

theorem bytes_acqSizes : ∀ r ∈ acqSizes, ldBytes (AcqSize.ld r.1) = r.2.1 ∧ LdSize.signed (AcqSize.ld r.1) = r.2.2 := by decide

end

/-! ## The plan of a store -/

section
variable {s : State} {i : Instr} {n : Nat} {rel : Bool} {v : State → Word} {ea : State → Nat}

theorem storePlan_fault_of_check {t : Trap} (h : checkAccess s .store (n = 8) (ea s) n n = some t) :
    (storePlan i n rel v ea).fault s = some t := by
  simp only [storePlan, h, Option.orElse_some]

theorem storePlan_fault (h : checkAccess s .store (n = 8) (ea s) n n = none) : (storePlan i n rel v ea).fault s =
    (if n = 8 then eventStoreFault s (ea s) else none).orElse fun _ => if rel then failedWrites s false else none := by
  simp only [storePlan, h, Option.orElse_none]

/-- R297: a store to a line of a cluster that the context does not hold. -/
theorem eventStoreFault_of_foreign {cl line a : Nat} (h : s.eventAt (issuer s) .store a = some (cl, line))
    (hh : s.holderNow cl ≠ some (issuer s).ctx) : eventStoreFault s a = some (memTrap PROT .store a 8) := by
  simp only [eventStoreFault, h, hh, if_false]

/-- R298: a store that is a release, of itself or as `evsig` is, reports failed writes; any other passes. -/
theorem storePlan_later_fault (held : ∀ cl line, n = 8 → s.eventAt (issuer s) .store (ea s) = some (cl, line) →
      s.holderNow cl = some (issuer s).ctx) :
    ((if n = 8 then eventStoreFault s (ea s) else none).orElse fun _ => if rel then failedWrites s false else none) =
      if rel = true ∨ n = 8 ∧ (s.eventAt (issuer s) .store (ea s)).isSome = true then failedWrites s false else none := by
  have hevent : (if n = 8 then eventStoreFault s (ea s) else none) =
      if n = 8 ∧ (s.eventAt (issuer s) .store (ea s)).isSome = true then failedWrites s false else none := by
    by_cases hn : n = 8
    · rw [eventStoreFault]
      cases he : s.eventAt (issuer s) .store (ea s) with
      | none => simp [hn]
      | some x => simp [hn, held x.1 x.2 hn he]
    · simp [hn]
  rw [hevent, Option.orElse_eq_or]
  by_cases he : n = 8 ∧ (s.eventAt (issuer s) .store (ea s)).isSome = true
  · rw [if_pos he, if_pos (Or.inr he)]
    cases rel
    · exact Option.or_none
    · exact Option.or_self
  · rw [if_neg he]
    cases rel
    · rw [if_neg (not_or_intro Bool.false_ne_true he)]; rfl
    · rw [if_pos (Or.inl rfl)]; rfl

theorem storePlan_act : (storePlan i n rel v ea).act s =
    if rel = true ∨ n = 8 ∧ (s.eventAt (issuer s) .store (ea s)).isSome = true then
      (s.release s.issue.core s.issue.slot).storeVa (issuer (s.release s.issue.core s.issue.slot)) (ea s) n (v s).toNat
    else s.storeVa (issuer s) (ea s) n (v s).toNat := by
  simp only [storePlan, Bool.or_eq_true, Bool.and_eq_true, decide_eq_true_eq]
  split <;> rfl

theorem stores_of_plan (hm : isMatrix i = false) (he : exec i s = .next ((storePlan i n rel v ea).run s)) :
    Stores i n rel (v s) (ea s) s := by
  refine ⟨fun t ht => traps_of _ he rfl rfl rfl rfl (storePlan_fault_of_check ht), fun hcheck hforeign => ?_,
    fun hcheck held hrel hbad => ?_, fun hcheck held hgood => ?_⟩
  · simp only [not_forall] at hforeign
    obtain ⟨cl, line, hn, hevent, hholder⟩ := hforeign
    refine traps_of _ he rfl rfl rfl rfl ((storePlan_fault hcheck).trans ?_)
    rw [if_pos hn, eventStoreFault_of_foreign hevent hholder, Option.orElse_some]
  · refine traps_of _ he rfl rfl rfl rfl ((storePlan_fault hcheck).trans ?_)
    rw [storePlan_later_fault held, if_pos hrel, failedWrites_of_not_good hbad]
  · have hfault : (storePlan i n rel v ea).fault s = none := by
      rw [storePlan_fault hcheck, storePlan_later_fault held]
      split
      · next hrel => exact hgood hrel
      · rfl
    refine ⟨fun hpost => ?_, fun hpost => ⟨fun hrel => ?_, fun hrel => ?_⟩⟩
    · exact waits_of _ he rfl rfl rfl rfl hfault (postedWait_of_posted hpost) (pairWait_of_plain hm _)
    · exact acts_of _ he rfl rfl rfl rfl hfault (postedWait_of_nonePosted hpost) (storePlan_act.trans (if_pos hrel))
    · exact acts_of _ he rfl rfl rfl rfl hfault (postedWait_of_nonePosted hpost) (storePlan_act.trans (if_neg hrel))

theorem stores_st (s : State) (z : StSize) (d a : SSrc) (m : BitVec 6) : Stores (.st z d a m) (stBytes z) false
    (readS s (.st z d a m) 0 d) (withImm (readS s (.st z d a m) 1 a) m (stBytes z)) s := by
  rw [← sum_scaled]
  exact stores_of_plan (v := fun s => readS s (.st z d a m) 0 d)
    (ea := fun s => sum (readS s (.st z d a m) 1 a) (scaled m (stBytes z))) rfl rfl

theorem stores_stx (s : State) (z : StSize) (d a b : SSrc) : Stores (.stx z d a b) (stBytes z) false
    (readS s (.stx z d a b) 0 d) (withReg (readS s (.stx z d a b) 1 a) (readS s (.stx z d a b) 2 b)) s := by
  rw [← sum_eq_withReg]
  exact stores_of_plan (v := fun s => readS s (.stx z d a b) 0 d)
    (ea := fun s => sum (readS s (.stx z d a b) 1 a) (readS s (.stx z d a b) 2 b)) rfl rfl

theorem stores_stRel (s : State) (z : StSize) (d a : SSrc) (sc : Fin 16) : Stores (.stRel z d a sc) (stBytes z) true
    (readS s (.stRel z d a sc) 0 d) (readS s (.stRel z d a sc) 1 a).toNat s :=
  stores_of_plan (v := fun s => readS s (.stRel z d a sc) 0 d)
    (ea := fun s => (readS s (.stRel z d a sc) 1 a).toNat) rfl rfl

theorem bytes_storeSizes : ∀ r ∈ storeSizes, stBytes r.1 = r.2 := by decide

end

end Sys2Proof.Machine

namespace Sys2Proof
open Sys2Proof.Machine Sys2Proof.Claims

/-- Settles O16: each form is a plan of `loadPlan` or `storePlan` at the address that its operands give. -/
theorem scalarLoadsAndStoresMoveBytes : Obligations.ScalarLoadsAndStoresMoveBytes := by
  unfold Obligations.ScalarLoadsAndStoresMoveBytes
  refine ⟨⟨fun r hr s d a m => ?_, fun r hr s d a b => ?_, fun r hr s d a sc => ?_⟩,
    fun r hr s d a m => ?_, fun r hr s d a b => ?_, fun r hr s d a sc => ?_⟩
  · obtain ⟨hn, hsign⟩ := bytes_loadSizes r hr
    exact hn ▸ hsign ▸ loads_ld s r.1 d a m
  · obtain ⟨hn, hsign⟩ := bytes_loadSizes r hr
    exact hn ▸ hsign ▸ loads_ldx s r.1 d a b
  · obtain ⟨hn, hsign⟩ := bytes_acqSizes r hr
    exact hn ▸ hsign ▸ loads_ldAcq s r.1 d a sc
  · exact bytes_storeSizes r hr ▸ stores_st s r.1 d a m
  · exact bytes_storeSizes r hr ▸ stores_stx s r.1 d a b
  · exact bytes_storeSizes r hr ▸ stores_stRel s r.1 d a sc

end Sys2Proof
end

section
/-!
PROOFS. Vector loads and stores (R143, R231-R233): the addresses of the elements, what the plans check and wait for, and the
elements that they move.
-/
namespace Sys2Proof.Machine
open Sys2Proof Sys2Proof.Claims

/-! ## Two changes of one slot -/

theorem sput_sput {α : Type} (m : List (Nat × α)) (k : Nat) (v w : α) : sput (sput m k v) k w = sput m k w := by
  induction m with
  | nil => simp [sput]
  | cons c m ih =>
    obtain ⟨a, x⟩ := c
    rcases Nat.lt_trichotomy k a with h | h | h
    · simp [sput, h]
    · simp [sput, h]
    · simp [sput, Nat.not_lt.2 h.le, h.ne', ih]

theorem State.putSlot_putSlot (s : State) (c k : Nat) (x y : Option Slot) :
    (s.putSlot c k x).putSlot c k y = s.putSlot c k y := by
  simp only [State.putSlot, State.modCore, State.setCore, State.core, sget_sput_same, sput_sput]

theorem State.modSlot_modSlot (s : State) (c k : Nat) (f g : Slot → Slot) :
    (s.modSlot c k f).modSlot c k g = s.modSlot c k fun sl => g (f sl) := by
  cases h : s.slot c k with
  | none => simp only [State.modSlot, h]
  | some sl => simp only [State.modSlot, h, State.slot_putSlot, and_self, if_true, State.putSlot_putSlot]

theorem State.modCur_modCur (s : State) (f g : Slot → Slot) : (s.modCur f).modCur g = s.modCur fun sl => g (f sl) := by
  rw [State.modCur, State.modCur_issue]
  exact State.modSlot_modSlot s _ _ f g

/-! ## Addresses of elements (R232, R233) -/

/-- The addresses of the elements of n bytes. -/
def elemAddrs (n : Nat) (at_ : Nat → Nat) : List Nat := (List.range (256 / n)).map at_

theorem strided_eq (base stride : Word) (n : Nat) : strided base stride (256 / n) =
    elemAddrs n fun j => (int64 (base.toNat + j * stride.toInt)).toNat := by
  refine List.map_congr_left fun j _ => congrArg BitVec.toNat ?_
  rw [int64, BitVec.ofInt_add, BitVec.ofInt_mul, BitVec.ofInt_natCast, BitVec.ofInt_natCast, BitVec.ofInt_toInt,
    BitVec.ofNat_toNat, BitVec.setWidth_eq]

/-- An index of e bits, as signed or not, times n. -/
theorem index_address (base : Word) (signed : Bool) {e x : Nat} (hx : x < 2 ^ e) (n : Nat) :
    (base + (if signed then sext64 e x else zext64 e x) * BitVec.ofNat 64 n).toNat =
      (int64 (base.toNat + (if signed then toSigned e x else (x : Int)) * n)).toNat := by
  have hindex : (if signed then sext64 e x else zext64 e x) = BitVec.ofInt 64 (if signed then toSigned e x else (x : Int)) := by
    cases signed
    · simp only [Bool.false_eq_true, if_false, zext64, Nat.mod_eq_of_lt hx, BitVec.ofInt_natCast]
    · rfl
  rw [hindex, int64, BitVec.ofInt_add, BitVec.ofInt_mul, BitVec.ofInt_natCast, BitVec.ofInt_natCast, BitVec.ofNat_toNat,
    BitVec.setWidth_eq]

theorem indexed_eq {s : State} {w : W2} {base : Word} {b : VSrc} {signed : Bool}
    (h : (decide (tagOf s b = some 5) || decide (tagOf s b = some 7)) = signed) : indexed s w base b =
    elemAddrs (w2Bytes w) fun j => (int64 (base.toNat +
      (if signed then toSigned (8 * w2Bytes w) (elem (readV s (8 * w2Bytes w) false b) (8 * w2Bytes w) j)
        else (elem (readV s (8 * w2Bytes w) false b) (8 * w2Bytes w) j : Int)) * w2Bytes w)).toNat := by
  have hcount : 2048 / (8 * w2Bytes w) = 256 / w2Bytes w := by cases w <;> rfl
  rw [indexed, h, elems, List.map_map, hcount]
  exact List.map_congr_left fun j _ => index_address base signed (elem_lt _ _ _) _

/-! ## The elements of an access, one by one -/

section
variable (s : State) (n : Nat) (at_ : Nat → Nat)

theorem checkElems_eq (k : Acc) : checkElems s k n (elemAddrs n at_) = firstElemTrap s k n at_ := List.findSome?_map

theorem postedElems_eq : postedElems s n (elemAddrs n at_) = firstElemWait s n at_ := List.findSome?_map

theorem elemLag_eq : elemLag s (elemAddrs n at_) = elemDue s n at_ := List.foldl_map

theorem elemEffects_eq : s.elemEffects n (elemAddrs n at_) = readElems s n at_ := List.foldl_map

theorem scatterTo_eq (v : Vec) : s.scatterTo n (elemAddrs n at_) v = storeElems s n at_ v := by
  have hnumbered : (elemAddrs n at_).zipIdx = (List.range (256 / n)).map fun j => (at_ j, j) :=
    List.ext_getElem (by simp [elemAddrs]) (by simp [elemAddrs])
  rw [State.scatterTo, hnumbered, List.foldl_map]
  rfl

theorem gather_poison : (s.gather n (elemAddrs n at_)).2 =
    (List.range (256 / n)).any fun j => (s.readVa (issuer s) .load (at_ j) n).2 := List.any_map

theorem elem_gather {j : Nat} (hj : j < 256 / n) : elem (s.gather n (elemAddrs n at_)).1 (8 * n) j =
    (s.readVa (issuer s) .load (at_ j) n).1 % 2 ^ (8 * n) := by
  have hsize : 8 * n * (256 / n) ≤ 2048 := by
    rw [Nat.mul_assoc]
    exact Nat.mul_le_mul_left 8 (Nat.mul_div_le 256 n)
  simp only [State.gather]
  rw [elem_packElems _ _ _ (by simpa [elemAddrs] using hsize)]
  simp [elemAddrs, List.getD, hj, State.loadVa]

end

/-! ## Plans of accesses -/

section
variable {i : Instr} {s : State} {k : Acc}

/-- The instruction accesses 256 bytes at ea: it traps as the check of the range says, waits for atomics posted to its lines,
and else X holds. -/
def AccessesRange (i : Instr) (s : State) (k : Acc) (ea : Nat) (X : Prop) : Prop :=
  (∀ t, checkAccess s k false ea 256 16 = some t → Traps i s t) ∧
  (checkAccess s k false ea 256 16 = none → ¬ nonePosted s ea 256 → Waits i s (.posted ea 256)) ∧
  (checkAccess s k false ea 256 16 = none → nonePosted s ea 256 → X)

theorem accessesRange_of_plan {ea : Nat} {X : Prop} (p : Plan) (he : exec i s = .next (p.run s)) (hi : p.instr = i)
    (hm : isMatrix i = false) (hb : p.bad s = none) (hp : p.priv s = none) (ht : p.tag s = none)
    (hf : p.fault s = checkAccess s k false ea 256 16) (hw : p.wait s = postedWait s ea 256)
    (hx : Acts i s (p.act s) → X) : AccessesRange i s k ea X :=
  ⟨fun _ h => traps_of p he hi hb hp ht (hf.trans h),
    fun h hpost => waits_of p he hi hb hp ht (hf.trans h) (hw.trans (postedWait_of_posted hpost)) (pairWait_of_plain hm _),
    fun h hpost => hx (acts_of p he hi hb hp ht (hf.trans h) (hw.trans (postedWait_of_nonePosted hpost)) rfl)⟩

/-- The same of an access to elements of n bytes, each at its own address, in increasing index. -/
def AccessesElems (i : Instr) (s : State) (k : Acc) (n : Nat) (at_ : Nat → Nat) (X : Prop) : Prop :=
  (∀ t, firstElemTrap s k n at_ = some t → Traps i s t) ∧
  (firstElemTrap s k n at_ = none → ∀ w, firstElemWait s n at_ = some w → Waits i s w) ∧
  (firstElemTrap s k n at_ = none → firstElemWait s n at_ = none → X)

theorem accessesElems_of_plan {n : Nat} {at_ : Nat → Nat} {X : Prop} {addrs : List Nat} (haddrs : addrs = elemAddrs n at_)
    (p : Plan) (he : exec i s = .next (p.run s)) (hi : p.instr = i) (hm : isMatrix i = false) (hb : p.bad s = none)
    (hp : p.priv s = none) (ht : p.tag s = none) (hf : p.fault s = checkElems s k n addrs)
    (hw : p.wait s = postedElems s n addrs) (hx : Acts i s (p.act s) → X) : AccessesElems i s k n at_ X := by
  rw [haddrs, checkElems_eq] at hf
  rw [haddrs, postedElems_eq] at hw
  exact ⟨fun _ h => traps_of p he hi hb hp ht (hf.trans h),
    fun h w hwait => waits_of p he hi hb hp ht (hf.trans h) (hw.trans hwait) (pairWait_of_plain hm w),
    fun h hnone => hx (acts_of p he hi hb hp ht (hf.trans h) (hw.trans hnone) rfl)⟩

end

/-! ## Whole registers and strides (R231, R232) -/

theorem accesses_vld (s : State) (d : VDst) (a : SSrc) (g : Tag) :
    let ea := (readS s (.vld d a g) 1 a).toNat
    AccessesRange (.vld d a g) s .load ea (Acts (.vld d a g) s (giveVLoad (.vld d a g) d
      (BitVec.ofNat 2048 (s.readVa (issuer s) .load ea 256).1) g (s.readVa (issuer s) .load ea 256).2 (ownLag s ea)
      (s.lineEffects (issuer s) .load .load ea 256))) :=
  accessesRange_of_plan (planVld d a g) rfl rfl rfl rfl rfl rfl rfl rfl id

theorem accesses_vst (s : State) (d : VSrc) (a : SSrc) (m : BitVec 6) :
    let ea := withImm (readS s (.vst d a m) 1 a) m 256
    AccessesRange (.vst d a m) s .store ea
      (Acts (.vst d a m) s (s.storeVa (issuer s) ea 256 (readV s 32 false d).toNat)) := by
  dsimp only
  rw [← sum_scaled]
  exact accessesRange_of_plan (planVst d a m) rfl rfl rfl rfl rfl rfl rfl rfl id

/-- Address of element j of a strided access: base and stride in an even pair of registers. -/
def strideAddr (s : State) (i : Instr) (g : Fin 16) (j : Nat) : Nat :=
  (int64 ((readS s i 1 (evenS g)).toNat + j * (readS s i 1 (oddS g)).toInt)).toNat

theorem accesses_vlds (s : State) (d : VDst) (g : Fin 16) (tag : Tag) :
    let n := widthOfTag tag / 8
    let at_ := strideAddr s (.vlds d g tag) g
    AccessesElems (.vlds d g tag) s .load n at_ (∃ v : Vec,
      (∀ j < 256 / n, elem v (8 * n) j = (s.readVa (issuer s) .load (at_ j) n).1 % 2 ^ (8 * n)) ∧
      Acts (.vlds d g tag) s (giveVLoad (.vlds d g tag) d v tag
        ((List.range (256 / n)).any fun j => (s.readVa (issuer s) .load (at_ j) n).2) (elemDue s n at_) (readElems s n at_))) := by
  dsimp only
  rw [← tagWidth_eq]
  refine accessesElems_of_plan (strided_eq _ _ _) (planVlds d g tag) rfl rfl rfl rfl rfl rfl rfl rfl fun hacts => ?_
  refine ⟨_, fun j hj => elem_gather s _ _ hj, ?_⟩
  simp only [planVlds, strided_eq, gather_poison, elemLag_eq, elemEffects_eq] at hacts
  exact hacts

theorem accesses_vsts {s : State} {d : VSrc} {tag : Tag} (htag : tagOf s d = some tag) (g : Fin 16) :
    let n := widthOfTag tag / 8
    let at_ := strideAddr s (.vsts d g) g
    AccessesElems (.vsts d g) s .store n at_ (Acts (.vsts d g) s (storeElems s n at_ (readV s 32 false d))) := by
  dsimp only
  rw [← tagWidth_eq]
  have hwidth : tagWidth ((tagOf s d).getD 0) / 8 = tagWidth tag / 8 := by rw [htag]; rfl
  refine accessesElems_of_plan (strided_eq _ _ _) (planVsts d g) rfl rfl rfl rfl rfl rfl ?_ ?_ fun hacts => ?_
  · simp only [planVsts, hwidth]
  · simp only [planVsts, hwidth]
  · simp only [planVsts, hwidth, strided_eq, scatterTo_eq] at hacts
    exact hacts

/-! ## Gathers and scatters (R233) -/

/-- Address of element j of a gather or scatter of e-bit elements with indices in b. -/
def indexAddr (s : State) (e n : Nat) (signed : Bool) (base : Word) (b : VSrc) (j : Nat) : Nat :=
  (int64 (base.toNat + (if signed then toSigned e (elem (readV s e false b) e j)
    else (elem (readV s e false b) e j : Int)) * n)).toNat

/-- R233, log 89: a gather into z owes la a second part of what it owes lc. -/
theorem giveVLoad_latchOfZ (s : State) (i : Instr) (d : VDst) (v : Vec) (tag : Tag) (poison : Bool) (lag : Nat) :
    (giveVLoad i d v tag poison lag s).latchOfZ d = gathered s i d v tag poison (s.now + lag) := by
  cases d with
  | v n => rfl
  | o n => rfl
  | z =>
    simp only [State.latchOfZ, giveVLoad, State.owe, gathered, if_true]
    rw [State.modCur_modCur]
    simp only [Slot.owe, Slot.oweMore, List.getLast?_append, List.getLast?_singleton, Option.some_or, Nat.add_sub_cancel,
      List.append_assoc, List.singleton_append]

section
variable {s : State} {w : W2} {b : VSrc} {signed : Bool}
  (hindex : tagOf s b = none ∧ signed = false ∨ tagOf s b = some (if w2Bytes w = 4 then 6 else 8) ∧ signed = false ∨
    tagOf s b = some (if w2Bytes w = 4 then 5 else 7) ∧ signed = true)
include hindex

theorem indexTag_ok : indexTag s w b = none := by
  rcases hindex with ⟨h, -⟩ | ⟨h, -⟩ | ⟨h, -⟩ <;> simp only [indexTag, h] <;> cases w <;> rfl

theorem index_signed : (decide (tagOf s b = some 5) || decide (tagOf s b = some 7)) = signed := by
  rcases hindex with ⟨h, rfl⟩ | ⟨h, rfl⟩ | ⟨h, rfl⟩ <;> rw [h] <;> cases w <;> rfl

theorem indexed_addrs (base : Word) :
    indexed s w base b = elemAddrs (w2Bytes w) (indexAddr s (8 * w2Bytes w) (w2Bytes w) signed base b) :=
  indexed_eq (index_signed hindex)

theorem accesses_vgath {d : VDst} {tag : Tag} (hdata : tagOf s d.src = none ∧ tag = (if w2Bytes w = 4 then 6 else 8) ∨
      tagOf s d.src = some tag ∧ widthOfTag tag = 8 * w2Bytes w) (a : SSrc) :
    let n := w2Bytes w
    let at_ := indexAddr s (8 * n) n signed (readS s (.vgath w d a b) 1 a) b
    AccessesElems (.vgath w d a b) s .load n at_ (∃ v : Vec,
      (∀ j < 256 / n, elem v (8 * n) j = (s.readVa (issuer s) .load (at_ j) n).1 % 2 ^ (8 * n)) ∧
      Acts (.vgath w d a b) s (gathered (readElems s n at_) (.vgath w d a b) d v tag
        ((List.range (256 / n)).any fun j => (s.readVa (issuer s) .load (at_ j) n).2)
        ((readElems s n at_).now + elemDue s n at_))) := by
  have hchecked : dataTag s w d.src = none ∧ (tagOf s d.src).getD (natTag (8 * w2Bytes w)) = tag := by
    rcases hdata with ⟨h, rfl⟩ | ⟨h, hwidth⟩
    · simp only [dataTag, h]
      exact ⟨trivial, by cases w <;> rfl⟩
    · simp only [dataTag, h, tagWidth_eq, hwidth, if_true]
      exact ⟨trivial, rfl⟩
  obtain ⟨hnone, htag⟩ := hchecked
  refine accessesElems_of_plan (indexed_addrs hindex _) (planVgath w d a b) rfl rfl rfl rfl rfl ?_ rfl rfl fun hacts => ?_
  · simp only [planVgath, hnone, indexTag_ok hindex, Option.orElse_none]
  · refine ⟨_, fun j hj => elem_gather s _ _ hj, ?_⟩
    simp only [planVgath, indexed_addrs hindex, htag, gather_poison, elemLag_eq, elemEffects_eq, giveVLoad_latchOfZ] at hacts
    exact hacts

theorem accesses_vscat {d : VSrc} (hdata : tagOf s d = none ∨ ∃ tag, tagOf s d = some tag ∧ widthOfTag tag = 8 * w2Bytes w)
    (a : SSrc) :
    let n := w2Bytes w
    let at_ := indexAddr s (8 * n) n signed (readS s (.vscat w d a b) 1 a) b
    AccessesElems (.vscat w d a b) s .store n at_
      (Acts (.vscat w d a b) s (storeElems s n at_ (readV s (8 * n) false d))) := by
  have hnone : dataTag s w d = none := by
    rcases hdata with h | ⟨tag, h, hwidth⟩
    · simp only [dataTag, h]
    · simp only [dataTag, h, tagWidth_eq, hwidth, if_true]
  refine accessesElems_of_plan (indexed_addrs hindex _) (planVscat w d a b) rfl rfl rfl rfl rfl ?_ rfl rfl fun hacts => ?_
  · simp only [planVscat, hnone, indexTag_ok hindex, Option.orElse_none]
  · simp only [planVscat, indexed_addrs hindex, scatterTo_eq] at hacts
    exact hacts

end

/-- R233: an index register of another type than the 32-bit integers. -/
theorem traps_vgath_wrongIndex {s : State} {d : VDst} {a : SSrc} {b : VSrc} {tag : Tag} (htag : tagOf s b = some tag)
    (h5 : tag ≠ 5) (h6 : tag ≠ 6) (hdata : ∀ x, tagOf s d.src = some x → widthOfTag x = 32) :
    Traps (.vgath .w32 d a b) s ⟨TAGFAULT, 2 + tag.toNat * 256, 0, false⟩ := by
  have hnone : dataTag s .w32 d.src = none := by
    cases h : tagOf s d.src with
    | none => simp only [dataTag, h]
    | some x => simp only [dataTag, h, tagWidth_eq, hdata x h, w2Bytes, if_true]
  have hindex : indexTag s .w32 b = some (2, tag.toNat, 0) := by
    simpa [indexTag, htag] using And.intro h5 h6
  have hbad : (planVgath .w32 d a b).tag s = some (2, tag.toNat, 0) := by
    simp only [planVgath, hnone, hindex, Option.orElse_none]
  refine traps_of_own (planVgath .w32 d a b) rfl rfl ?_
  simp only [Plan.ownTrap, hbad]
  rfl

end Sys2Proof.Machine

namespace Sys2Proof
open Sys2Proof.Machine Sys2Proof.Claims

/-- The widths of gathers and scatters, with their bytes. -/
theorem bytes_gatherSizes : ∀ r ∈ [(W2.w32, (4 : Nat)), (W2.w64, 8)], w2Bytes r.1 = r.2 := by decide

/-- Settles O18: the plans of the six forms, each with the addresses of its elements. -/
theorem vectorAccessesMoveTheirElements : Obligations.VectorAccessesMoveTheirElements := by
  unfold Obligations.VectorAccessesMoveTheirElements
  refine ⟨accesses_vld, accesses_vst, accesses_vlds, fun s d g tag htag => accesses_vsts htag g,
    fun r hr s a b signed => ?_, fun s a b d tag => traps_vgath_wrongIndex⟩
  intro e hindex
  obtain ⟨w, n⟩ := r
  obtain rfl : w2Bytes w = n := bytes_gatherSizes _ hr
  exact ⟨fun d tag hdata => accesses_vgath hindex hdata a, fun d hdata => accesses_vscat hindex hdata a⟩

end Sys2Proof
end

section
/-!
PROOFS. EVENT_PAGE_LOAD on a slot that waits for room in the unit (R295, R299): it keeps the mark that the wait began with, so
the obligation on the steps of cores and clusters fails.
-/
namespace Sys2Proof.Machine
open Sys2Proof

/-- Registered after a wait for room, a slot waits for the line, and its pair is still to issue if it was before. -/
theorem hold_registerWait_evRoom {s : State} {c k cl line : Nat} {d : Option SDst} {sl : Slot} (hslot : s.slot c k = some sl)
    {cl' line' since : Nat} {d' : Option SDst} {reissue : Bool} {after : List Wait}
    (hhold : sl.hold = some ⟨.evRoom cl' line' d', since, reissue, after⟩) :
    ((s.registerWait c k cl line d).slot c k).bind Slot.hold = some ⟨.line cl line none d, s.now, reissue, after⟩ := by
  have hregistered : (s.registerLine cl line sl.ctx sl.idx sl.gen).slot c k = some sl := hslot
  simp only [State.registerWait, hslot, hhold]
  rw [State.slot_modSlot, if_pos ⟨rfl, rfl⟩, hregistered]
  rfl

theorem exec_eventPageLoad_room {s : State} {c k cl line : Nat} (hroom : s.unitFull cl = false) (hline : line < 64) :
    exec (.eventPageLoad c k cl line) s = .next (s.registerWait c k cl line (some .z)) := by
  show execEventPageLoad c k cl line s = _
  simp only [execEventPageLoad, State.waitLine, hroom, Bool.false_or, decide_eq_true_eq, Nat.not_le.2 hline,
    Bool.false_eq_true, if_false]

end Sys2Proof.Machine

namespace Sys2Proof
open Sys2Proof.Machine Sys2Proof.Claims

/-- A slot that waits for room in the unit of cluster 0, its pair still to issue. -/
def slotAtFullUnit : Slot := { idleSlot with hold := some ⟨.evRoom 0 0 none, 0, true, []⟩ }

/-- That slot in core 0, the unit empty. -/
def stateAtFullUnit : State :=
  { State.reset with cores := [(0, { Core.reset with slots := [(0, some slotAtFullUnit)] })] }

/-- Refutes O55: its clause on EVENT_PAGE_LOAD takes every occupied slot, and says that its pair is not to issue again. In
`stateAtFullUnit` the slot's wait for room carries the mark that it is, and the load keeps the mark. (The model itself begins
such waits without it.) -/
theorem not_coresAndClustersMoveOn : ¬ Obligations.CoresAndClustersMoveOn := by
  unfold Obligations.CoresAndClustersMoveOn
  rintro ⟨-, -, -, -, -, -, -, -, -, -, hload, -⟩
  have hslot : stateAtFullUnit.slot 0 0 = some slotAtFullUnit := rfl
  obtain ⟨t, hexec, -, x, h, hx, hhold, -, hreissue⟩ :=
    (hload stateAtFullUnit 0 0 0 0).2 (by decide) (by decide) slotAtFullUnit hslot
  rw [exec_eventPageLoad_room (by decide) (by decide)] at hexec
  obtain rfl := Host.Outcome.next.inj hexec
  have hkept := hold_registerWait_evRoom (cl := 0) (line := 0) (d := some .z) hslot rfl
  rw [hx, Option.bind_some, hhold] at hkept
  rw [Option.some.inj hkept] at hreissue
  exact Bool.noConfusion hreissue

end Sys2Proof
end

section
/-!
PROOFS. Full/empty bits and ranges of the local window (R214, R218, R220, R234-R236): one rule for each change of granules,
and what the check of a local range says.
-/
namespace Sys2Proof.Machine
open Sys2Proof Sys2Proof.Claims

/-! ## Full/empty bits -/

theorem getLsbD_bit {i j : Nat} (hj : j < 8) : (BitVec.ofNat 8 (2 ^ i)).getLsbD j = decide (i = j) := by
  simp only [BitVec.getLsbD_ofNat, hj, decide_true, Bool.true_and, Nat.testBit_two_pow]

/-- One bit of a byte becomes `full`, the others stay. -/
theorem getLsbD_putBit (old : Byte) (full : Bool) (i : Nat) {j : Nat} (hj : j < 8) :
    (if full then old ||| BitVec.ofNat 8 (2 ^ i) else old &&& ~~~(BitVec.ofNat 8 (2 ^ i))).getLsbD j =
      if j = i then full else old.getLsbD j := by
  have hset : (old ||| BitVec.ofNat 8 (2 ^ i)).getLsbD j = (old.getLsbD j || decide (i = j)) := by
    rw [BitVec.getLsbD_or, getLsbD_bit hj]
  have hclear : (old &&& ~~~(BitVec.ofNat 8 (2 ^ i))).getLsbD j = (old.getLsbD j && !decide (i = j)) := by
    rw [BitVec.getLsbD_and, BitVec.getLsbD_not, getLsbD_bit hj, decide_eq_true hj, Bool.true_and]
  cases full with
  | false =>
    simp only [Bool.false_eq_true, if_false, hclear]
    by_cases h : j = i <;> simp [eq_comm (a := i), h]
  | true =>
    simp only [if_true, hset]
    by_cases h : j = i <;> simp [eq_comm (a := i), h]

theorem feBit_putGranule (s : State) (c g : Nat) (full : Bool) (d h : Nat) :
    feBit (s.putGranule c g full) d h = if d = c ∧ h = g then full else feBit s d h := by
  simp only [feBit, State.putGranule, State.putFe, State.core_modCore]
  by_cases hd : d = c
  · subst hd
    rw [if_pos rfl, sget_sset]
    by_cases hline : h / 8 = g / 8
    · rw [if_pos hline, getLsbD_putBit _ _ _ (Nat.mod_lt _ (by decide)), hline]
      by_cases hg : h = g
      · rw [if_pos (by rw [hg]), if_pos ⟨rfl, hg⟩]
      · rw [if_neg (by omega), if_neg (fun e => hg e.2)]
    · rw [if_neg hline, if_neg (by rintro ⟨-, rfl⟩; exact hline rfl)]
  · rw [if_neg hd, if_neg (fun e => hd e.1)]

theorem setsBits_putGranules (s : State) (c g n : Nat) (full : Bool) : setsBits s (s.putGranules c g full n) c g n full := by
  induction n generalizing s g with
  | zero =>
    intro d h
    rw [if_neg (by omega)]
    rfl
  | succ n ih =>
    intro d h
    rw [State.putGranules, ih (s.putGranule c g full) (g + 1) d h, feBit_putGranule]
    by_cases hin : d = c ∧ g ≤ h ∧ h < g + (n + 1)
    · rw [if_pos hin]
      split
      · rfl
      · next hout => rw [if_pos ⟨hin.1, by omega⟩]
    · rw [if_neg hin, if_neg (fun e => hin ⟨e.1, by omega⟩), if_neg (fun e => hin ⟨e.1, by omega⟩)]

/-- Granules that change leave what a change of the bits of one line leaves. -/
theorem putGranules_keeps {P : State → Prop} (hput : ∀ (t : State) c line v, P t → P (t.putFe c line v)) {s : State}
    (hs : P s) (c g : Nat) (full : Bool) (n : Nat) : P (s.putGranules c g full n) := by
  induction n generalizing s g with
  | zero => exact hs
  | succ n ih => exact ih (hput _ _ _ _ hs) _

theorem mem_putGranules (s : State) (c g : Nat) (full : Bool) (n : Nat) : (s.putGranules c g full n).mem = s.mem :=
  putGranules_keeps (P := fun t => t.mem = s.mem) (fun _ _ _ _ h => h) rfl c g full n

theorem spadByte_putFe (s : State) (c line : Nat) (v : Byte) (d o : Nat) :
    (s.putFe c line v).spadByte d o = s.spadByte d o := by
  rw [State.spadByte, State.putFe, State.core_modCore]
  split
  · next h => rw [h]; rfl
  · rfl

theorem spadByte_putGranules (s : State) (c g : Nat) (full : Bool) (n d o : Nat) :
    (s.putGranules c g full n).spadByte d o = s.spadByte d o :=
  putGranules_keeps (P := fun t => t.spadByte d o = s.spadByte d o) (fun _ _ _ _ h => (spadByte_putFe _ _ _ _ _ _).trans h)
    rfl c g full n

theorem SameCores.feBit {s t : State} (h : SameCores s t) (d g : Nat) : feBit t d g = feBit s d g := by
  rw [Claims.feBit, h.fe d]
  rfl

/-- No bit is set where the bits are the same. -/
theorem setsBits_none {s t : State} (h : ∀ d g, feBit t d g = feBit s d g) (c g : Nat) (full : Bool) :
    setsBits s t c g 0 full := by
  intro d x
  rw [if_neg (by omega)]
  exact h d x

theorem setsBits_after {s t u : State} (h : ∀ d g, feBit t d g = feBit s d g) {c g n : Nat} {full : Bool}
    (hu : setsBits t u c g n full) : setsBits s u c g n full := fun d x => by rw [hu d x, h d x]

/-! ## Pieces of a range -/

theorem mem_pieces {fuel va n : Nat} : ∀ x ∈ pieces fuel va n, va ≤ x.1 ∧ x.1 < va + n := by
  induction fuel generalizing va n with
  | zero => exact fun x hx => absurd hx List.not_mem_nil
  | succ fuel ih =>
    intro x hx
    rw [pieces] at hx
    split at hx
    · exact absurd hx List.not_mem_nil
    · rcases List.mem_cons.1 hx with rfl | hx
      · dsimp only; omega
      · have := ih x hx
        omega

theorem piecesOf_head {va n : Nat} (hn : n ≠ 0) : ∃ m l, piecesOf va n = (va, m) :: l := by
  rw [piecesOf, pieces, if_neg hn]
  exact ⟨_, _, rfl⟩

/-! ## The local window -/

section
variable {s : State} {ea n : Nat}

theorem localRange_line (h : localRange s ea n) {a : Nat} (hlo : ea ≤ a) (hhi : a < ea + n) :
    localBase ≤ a ∧ a < localBase + spadLimit ∧ (s.core s.issue.core).allocated ((a - localBase) / 128) = true := by
  obtain ⟨hbase, hend, hlines⟩ := h
  have hlimit : spadLimit = 0x180000 := rfl
  have hline := hlines (a - ea) (by omega)
  rw [show ea - localBase + (a - ea) = a - localBase by omega] at hline
  exact ⟨by omega, by omega, decide_eq_true hline⟩

theorem localFault_none (h : localRange s ea n) (k : Acc) (size : Nat) : localFault s k ea n size = none := by
  refine List.findSome?_eq_none_iff.2 fun x hx => ?_
  obtain ⟨hlo, hhi⟩ := mem_pieces x hx
  obtain ⟨hbase, hlimit, hline⟩ := localRange_line h hlo hhi
  simp only [hbase, hlimit, hline, decide_true, Bool.and_self, if_true]

/-- An address outside the window, or in a line that is not allocated. -/
def offLocal (s : State) (a : Nat) : Prop :=
  a < localBase ∨ localBase + 0x180000 ≤ a ∨ sget 0 (s.core s.issue.core).owner ((a - localBase) / 128) = 0

theorem not_local_of_offLocal {a : Nat} (h : offLocal s a) : (decide (localBase ≤ a) && decide (a < localBase + spadLimit) &&
    (s.core s.issue.core).allocated ((a - localBase) / 128)) = false := by
  have hlimit : spadLimit = 0x180000 := rfl
  rw [Bool.eq_false_iff]
  intro hin
  simp only [Bool.and_eq_true, decide_eq_true_eq, Core.allocated] at hin
  obtain ⟨⟨hbase, hend⟩, hline⟩ := hin
  rcases h with h | h | h
  · omega
  · omega
  · exact hline h

theorem localFault_of_offLocal (hn : n ≠ 0) (h : offLocal s ea) (k : Acc) (size : Nat) :
    localFault s k ea n size = some (memTrap LOCALRANGE k ea size) := by
  obtain ⟨m, l, hp⟩ := piecesOf_head (va := ea) hn
  simp only [localFault, hp, List.findSome?_cons, not_local_of_offLocal h, Bool.false_eq_true, if_false]

/-- A granule that a local range reaches stands in one of its lines. -/
theorem localRange_granule (h : localRange s ea n) (hn : n ≠ 0) {j : Nat} (hj : j < granuleCount ea n) :
    (s.core s.issue.core).allocated (((ea - localBase) / 16 + j) / 8) = true := by
  have hbase : localBase = 0x00FFFF0000000000 := rfl
  have hlo := h.1
  have hline := (localRange_line h (a := ea + (16 * j - ea % 16)) (by omega) (by unfold granuleCount at hj; omega)).2.2
  rwa [show (ea + (16 * j - ea % 16) - localBase) / 128 = ((ea - localBase) / 16 + j) / 8 by omega] at hline

/-- The granules of a local range are full where their bits are. -/
theorem granulesFull_iff (h : localRange s ea n) (hn : n ≠ 0) :
    (s.core s.issue.core).granulesFull ((ea - localBase) / 16 * 16) (granuleCount ea n) = true ↔
      ∀ j < granuleCount ea n, feBit s s.issue.core ((ea - localBase) / 16 + j) = true := by
  simp only [Core.granulesFull, List.all_eq_true, List.mem_range, Nat.mul_div_cancel _ (show 0 < 16 by decide)]
  refine forall₂_congr fun j hj => ?_
  rw [localRange_granule h hn hj, Bool.true_and]
  rfl

end

/-! ## Scratchpad places -/

/-- A byte of either window is in a scratchpad, or is no place at all. -/
theorem placeOf_inWindow (s : State) {w : Who} {k : Acc} (e : Bool) {va c off : Nat} (hk : k ≠ .fetch)
    (hw : window w.core va = some (c, off)) :
    s.placeOf w k e va = .error XLATE ∨ s.placeOf w k e va = .error LOCALRANGE ∨ s.placeOf w k e va = .ok (.spad c off) := by
  by_cases h : va < 2 ^ 56
  · rw [placeOf_window hk h hw]
    split
    · exact .inr (.inl rfl)
    · exact .inr (.inr rfl)
  · exact .inl (placeOf_above (Nat.not_lt.1 h))

theorem issue_writePlace_spad (s : State) (c off n v : Nat) :
    (s.writePlace State.blame (.spad c off) n v).issue = s.issue := by
  simp only [State.writePlace]
  split
  · exact State.modCur_issue _ _
  · rfl

/-- A store into a window is by the same pair afterwards. -/
theorem issue_storeVa_inWindow (s : State) {w : Who} {ea n c off : Nat} (v : Nat) (hn : n = 1 ∨ n = 2 ∨ n = 4 ∨ n = 8)
    (ha : ea % n = 0) (hw : window w.core ea = some (c, off)) : (s.storeVa w ea n v).issue = s.issue := by
  have htraces := (onlyTraces_lineEffects s w .store .store ea n).issue
  have hstore : s.storeVa w ea n v = (s.lineEffects w .store .store ea n).writeVa w .store ea n v := by
    rcases placeOf_inWindow s (k := .store) (n = 8) (by decide) hw with h | h | h <;> simp only [State.storeVa, h]
  rw [hstore, ← htraces]
  generalize s.lineEffects w .store .store ea n = t
  rcases placeOf_inWindow t (k := .store) (n = 8) (by decide) hw with h | h | h
  · simp only [State.writeVa, State.writeVaWith, piecesOf_aligned hn ha, List.foldl_cons, List.foldl_nil, h]
  · simp only [State.writeVa, State.writeVaWith, piecesOf_aligned hn ha, List.foldl_cons, List.foldl_nil, h]
  · rw [writeVa_aligned hn ha h, issue_writePlace_spad]

theorem isWindow_of_window {core va c off : Nat} (h : window core va = some (c, off)) : isWindow va = true := by
  unfold window at h
  unfold isWindow window
  split at h
  · next hlocal => rw [if_pos hlocal]; rfl
  · next hlocal =>
    rw [if_neg hlocal]
    split at h
    · next hremote => rw [if_pos hremote]; rfl
    · cases h

/-- Offsets in a window are aligned as their addresses are. -/
theorem window_mod {core va c off : Nat} (h : window core va = some (c, off)) : off % 16 = va % 16 := by
  have hlocal : localBase = 0x00FFFF0000000000 := rfl
  have hremote : windowBase = 0x00FFFE0000000000 := rfl
  unfold window at h
  split at h
  · next hin =>
    simp only [Bool.and_eq_true, decide_eq_true_eq] at hin
    cases h
    omega
  · split at h
    · next hin =>
      simp only [Bool.and_eq_true, decide_eq_true_eq] at hin
      cases h
      omega
    · cases h

end Sys2Proof.Machine
end

section
/-!
PROOFS. Full/empty loads and stores (R218, R234, R235).
-/
namespace Sys2Proof.Machine
open Sys2Proof Sys2Proof.Claims

/-! ## ldfe (R234) -/

section
variable {s : State} {ea n al : Nat}

theorem ldfeFault_misaligned (h : ea % al ≠ 0) : ldfeFault s ea n al = some (memTrap MISALIGN .load ea n) := if_pos h

theorem ldfeFault_aligned (h : ea % al = 0) : ldfeFault s ea n al = localFault s .load ea n n :=
  if_neg (not_not_intro h)

/-- Granules that the range reaches and that are empty are waited for. -/
theorem ldfeWait_of_empty (h : localRange s ea n) (hn : n ≠ 0)
    (hempty : ∃ j < granuleCount ea n, feBit s s.issue.core ((ea - localBase) / 16 + j) = false) :
    ldfeWait s ea n = some (.granules ((ea - localBase) / 16 * 16) (granuleCount ea n)) := by
  obtain ⟨j, hj, hbit⟩ := hempty
  refine if_neg fun hfull => ?_
  rw [(granulesFull_iff h hn).1 hfull j hj] at hbit
  cases hbit

theorem ldfeWait_of_full (h : localRange s ea n) (hn : n ≠ 0)
    (hfull : ∀ j < granuleCount ea n, feBit s s.issue.core ((ea - localBase) / 16 + j) = true) : ldfeWait s ea n = none :=
  if_pos ((granulesFull_iff h hn).2 hfull)

/-- The granules are emptied after the traces of the read, where the form says so. -/
theorem setsBits_ldfeClear (s : State) (clear : Bool) (ea n : Nat) :
    setsBits s (ldfeClear (s.lineEffects (issuer s) .load .load ea n) clear ea n) s.issue.core ((ea - localBase) / 16)
      (if clear then granuleCount ea n else 0) false := by
  have htraces := onlyTraces_lineEffects s (issuer s) .load .load ea n
  have hbits := htraces.cores.feBit
  cases clear with
  | false => exact setsBits_none hbits _ _ _
  | true =>
    rw [ldfeClear, if_pos rfl, if_pos rfl, htraces.issue]
    exact setsBits_after hbits (setsBits_putGranules _ _ _ _ _)

/-- Instruction i reads n bytes of full granules at ea, and empties them where `clear` says so; `give` is what it does with
the value. -/
def ReadsFull (i : Instr) (s : State) (ea n al : Nat) (clear : Bool) (give : State → State) : Prop :=
  (ea % al ≠ 0 → Traps i s (memTrap MISALIGN .load ea n)) ∧
  (ea % al = 0 → offLocal s ea → Traps i s (memTrap LOCALRANGE .load ea n)) ∧
  (ea % al = 0 → localRange s ea n →
    (∃ j < granuleCount ea n, feBit s s.issue.core ((ea - localBase) / 16 + j) = false) →
    Waits i s (.granules ((ea - localBase) / 16 * 16) (granuleCount ea n))) ∧
  (ea % al = 0 → localRange s ea n →
    (∀ j < granuleCount ea n, feBit s s.issue.core ((ea - localBase) / 16 + j) = true) →
    ∃ t, Acts i s (give t) ∧ setsBits s t s.issue.core ((ea - localBase) / 16) (if clear then granuleCount ea n else 0) false)

theorem readsFull_of_plan {i : Instr} {clear : Bool} {give : State → State} (hn : n ≠ 0) (p : Plan)
    (he : exec i s = .next (p.run s)) (hi : p.instr = i) (hm : isMatrix i = false) (hb : p.bad s = none)
    (hp : p.priv s = none) (ht : p.tag s = none) (hf : p.fault s = ldfeFault s ea n al) (hw : p.wait s = ldfeWait s ea n)
    (ha : p.act s = give (ldfeClear (s.lineEffects (issuer s) .load .load ea n) clear ea n)) :
    ReadsFull i s ea n al clear give := by
  refine ⟨fun h => traps_of p he hi hb hp ht (hf.trans (ldfeFault_misaligned h)), fun h hoff => ?_,
    fun h hlocal hempty => ?_, fun h hlocal hfull => ⟨_, ?_, setsBits_ldfeClear s clear ea n⟩⟩
  · exact traps_of p he hi hb hp ht (hf.trans ((ldfeFault_aligned h).trans (localFault_of_offLocal hn hoff _ _)))
  · exact waits_of p he hi hb hp ht (hf.trans ((ldfeFault_aligned h).trans (localFault_none hlocal _ _)))
      (hw.trans (ldfeWait_of_empty hlocal hn hempty)) (pairWait_of_plain hm _)
  · exact acts_of p he hi hb hp ht (hf.trans ((ldfeFault_aligned h).trans (localFault_none hlocal _ _)))
      (hw.trans (ldfeWait_of_full hlocal hn hfull)) ha

end

/-- The scalar forms, with whether they empty their granule. -/
theorem readsFull_scalar (s : State) (a : SSrc) : ∀ r ∈ [(fun d => Instr.ldfe64 d a, false), (fun d => Instr.ldfe64c d a, true)],
    ∀ d, let ea := (readS s (r.1 d) 1 a).toNat
    ReadsFull (r.1 d) s ea 8 8 r.2 (giveLoad (r.1 d) d (nat64 (s.readVa (issuer s) .load ea 8).1)
      (s.readVa (issuer s) .load ea 8).2 (ownLag s ea)) := by
  simp only [List.forall_mem_cons]
  exact ⟨fun d => readsFull_of_plan (by decide) (planLdfe64 d a) rfl rfl rfl rfl rfl rfl rfl rfl rfl,
    fun d => readsFull_of_plan (by decide) (planLdfe64c d a) rfl rfl rfl rfl rfl rfl rfl rfl rfl, List.forall_mem_nil _⟩

/-- The vector forms, with whether they empty their granules. -/
theorem readsFull_vector (s : State) (a : SSrc) (g : Tag) :
    ∀ r ∈ [(fun d => Instr.ldfeV d a g, false), (fun d => Instr.ldfeVc d a g, true)],
    ∀ d, let ea := (readS s (r.1 d) 1 a).toNat
    ReadsFull (r.1 d) s ea 256 16 r.2 (giveVLoad (r.1 d) d (BitVec.ofNat 2048 (s.readVa (issuer s) .load ea 256).1) g
      (s.readVa (issuer s) .load ea 256).2 (ownLag s ea)) := by
  simp only [List.forall_mem_cons]
  exact ⟨fun d => readsFull_of_plan (by decide) (planLdfeV d a g) rfl rfl rfl rfl rfl rfl rfl rfl rfl,
    fun d => readsFull_of_plan (by decide) (planLdfeVc d a g) rfl rfl rfl rfl rfl rfl rfl rfl rfl, List.forall_mem_nil _⟩

/-- An aligned word lies in one granule. -/
theorem granuleCount_word {ea : Nat} (h : ea % 8 = 0) : granuleCount ea 8 = 1 := by unfold granuleCount; omega

/-- An aligned register covers sixteen. -/
theorem granuleCount_register {ea : Nat} (h : ea % 16 = 0) : granuleCount ea 256 = 16 := by unfold granuleCount; omega

/-! ## stfe (R235) -/

section
variable {s : State} {ea n al : Nat}

theorem stfeFault_misaligned (h : ea % al ≠ 0) : stfeFault s ea n al = some (memTrap MISALIGN .store ea n) := if_pos h

theorem stfeFault_word_outside (h : ea % 8 = 0) (hw : isWindow ea = false) :
    stfeFault s ea 8 8 = some (memTrap LOCALRANGE .store ea 8) := by
  have hnone : s.accessTrap (issuer s) .store false ea 0 1 = none := by
    simp [State.accessTrap, piecesOf, pieces, Nat.mod_one]
  simp only [stfeFault, h, piecesOf_aligned (n := 8) (by decide) h, List.find?_cons, hw, Bool.not_false, Nat.sub_self, hnone,
    ne_eq, not_true_eq_false, if_false]

theorem stfeFault_word_inside (h : ea % 8 = 0) (hw : isWindow ea = true) :
    stfeFault s ea 8 8 = checkAccess s .store false ea 8 8 := by
  simp only [stfeFault, h, piecesOf_aligned (n := 8) (by decide) h, List.find?_cons, List.find?_nil, hw, Bool.not_true,
    ne_eq, not_true_eq_false, if_false]

/-- The granule of an aligned word in a window becomes full. -/
theorem fillGranules_word {c off : Nat} (h : ea % 8 = 0) (hw : window s.issue.core ea = some (c, off)) :
    s.fillGranules ea 8 = s.putGranules c (off / 16) true 1 := by
  have hcount : granuleCount off 8 = 1 := granuleCount_word (by have := window_mod hw; omega)
  simp only [State.fillGranules, piecesOf_aligned (n := 8) (by decide) h, List.foldl_cons, List.foldl_nil, hw, hcount]

end

/-- An instruction acts for the continuation in a slot of the core. -/
theorem issuer_core_of_acting {s : State} {i : Instr} (h : acting s i = true) : (issuer s).core = s.issue.core := by
  have hcur : s.cur.isSome = true := by
    simp only [acting, clear, Bool.or_eq_true, Bool.and_eq_true] at h
    tauto
  obtain ⟨sl, hsl⟩ := Option.isSome_iff_exists.1 hcur
  simp only [issuer, hsl]
  rfl

section
variable {s : State} {d a : SSrc} {m : BitVec 6} {ea : Nat} (hea : withImm (readS s (.stfe64 d a m) 1 a) m 8 = ea)
include hea

theorem planStfe64_fault : (planStfe64 d a m).fault s = stfeFault s ea 8 8 := by
  rw [← sum_scaled] at hea
  simp only [planStfe64, hea]

theorem traps_stfe64_misaligned (h : ea % 8 ≠ 0) : Traps (.stfe64 d a m) s (memTrap MISALIGN .store ea 8) :=
  traps_of (planStfe64 d a m) rfl rfl rfl rfl rfl ((planStfe64_fault hea).trans (stfeFault_misaligned h))

theorem traps_stfe64_outside (h : ea % 8 = 0) (hw : isWindow ea = false) :
    Traps (.stfe64 d a m) s (memTrap LOCALRANGE .store ea 8) :=
  traps_of (planStfe64 d a m) rfl rfl rfl rfl rfl ((planStfe64_fault hea).trans (stfeFault_word_outside h hw))

/-- In a window, the word is stored and its granule filled. -/
theorem acts_stfe64 {c off : Nat} (h : ea % 8 = 0) (hw : window s.issue.core ea = some (c, off))
    (hcheck : checkAccess s .store false ea 8 8 = none) : Acts (.stfe64 d a m) s
      ((s.storeVa (issuer s) ea 8 (readS s (.stfe64 d a m) 0 d).toNat).putGranules c (off / 16) true 1) := by
  intro hact
  have hfault := (stfeFault_word_inside h (isWindow_of_window hw)).trans hcheck
  refine acts_of (planStfe64 d a m) rfl rfl rfl rfl rfl ((planStfe64_fault hea).trans hfault) rfl ?_ hact
  have hissue := issue_storeVa_inWindow s (readS s (.stfe64 d a m) 0 d).toNat (by decide) h
    (w := issuer s) (by rw [issuer_core_of_acting hact]; exact hw)
  rw [← fillGranules_word h (by rwa [hissue])]
  rw [← sum_scaled] at hea
  simp only [planStfe64, hea]

end

section
variable {s : State} {d : VSrc} {a : SSrc} {m : BitVec 6} {ea : Nat} (hea : withImm (readS s (.stfeV d a m) 1 a) m 256 = ea)
include hea

theorem planStfeV_fault : (planStfeV d a m).fault s = stfeFault s ea 256 16 := by
  rw [← sum_scaled] at hea
  simp only [planStfeV, hea]

theorem traps_stfeV_misaligned (h : ea % 16 ≠ 0) : Traps (.stfeV d a m) s (memTrap MISALIGN .store ea 256) :=
  traps_of (planStfeV d a m) rfl rfl rfl rfl rfl ((planStfeV_fault hea).trans (stfeFault_misaligned h))

theorem acts_stfeV (h : stfeFault s ea 256 16 = none) : Acts (.stfeV d a m) s
    ((s.storeVa (issuer s) ea 256 (readV s 32 false d).toNat).fillGranules ea 256) := by
  refine acts_of (planStfeV d a m) rfl rfl rfl rfl rfl ((planStfeV_fault hea).trans h) rfl ?_
  rw [← sum_scaled] at hea
  simp only [planStfeV, hea]

end

end Sys2Proof.Machine

namespace Sys2Proof
open Sys2Proof.Machine Sys2Proof.Claims

/-- Settles O19: `readsFull` of the four loads, with one granule for a word and sixteen for a register, then the stores. -/
theorem fullEmptyAccessesWaitAndFill : Obligations.FullEmptyAccessesWaitAndFill := by
  unfold Obligations.FullEmptyAccessesWaitAndFill
  refine ⟨⟨fun s a r hr d => ?_, fun s a g r hr d => ?_⟩, fun s d a m => ?_, fun s d a m => ?_⟩
  · obtain ⟨hmis, hoff, hwait, hact⟩ := readsFull_scalar s a r hr d
    refine ⟨hmis, hoff, fun h hlocal hbit => ?_, fun h hlocal hbit => ?_⟩
    · have hw := hwait h hlocal ⟨0, by rw [granuleCount_word h]; exact Nat.one_pos, by rwa [Nat.add_zero]⟩
      rwa [granuleCount_word h] at hw
    · have hx := hact h hlocal fun j hj => by
        rw [granuleCount_word h] at hj
        rwa [Nat.lt_one_iff.1 hj, Nat.add_zero]
      rwa [granuleCount_word h] at hx
  · obtain ⟨hmis, -, hwait, hact⟩ := readsFull_vector s a g r hr d
    refine ⟨hmis, fun h hlocal hbit => ?_, fun h hlocal hbit => ?_⟩
    · have hw := hwait h hlocal (by rwa [granuleCount_register h])
      have hbase : localBase = 0x00FFFF0000000000 := rfl
      have hoffset : ((readS s (r.1 d) 1 a).toNat - localBase) / 16 * 16 = (readS s (r.1 d) 1 a).toNat - localBase := by omega
      rwa [granuleCount_register h, hoffset] at hw
    · have hx := hact h hlocal (by rwa [granuleCount_register h])
      rwa [granuleCount_register h] at hx
  · refine ⟨traps_stfe64_misaligned rfl, traps_stfe64_outside rfl, fun h c off hw hcheck =>
      ⟨_, acts_stfe64 rfl h hw hcheck, ?_, ?_⟩⟩
    · exact setsBits_putGranules _ _ _ _ _
    · exact spadByte_putGranules _ _ _ _ _
  · exact ⟨traps_stfeV_misaligned rfl, fun _ => acts_stfeV rfl⟩

end Sys2Proof
end

section
/-!
PROOFS. Ranges of full/empty bits and scratchpad lines (R221-R223, R236).
-/
namespace Sys2Proof.Machine
open Sys2Proof Sys2Proof.Claims

/-! ## fecl and feset (R236) -/

/-- A local range meets no fault, if the fuel exceeds the lines from its start to the end of the array. -/
theorem rangeFault_none {s : State} {fuel a n : Nat} (hfuel : (localBase + 0x180000 - a + 127) / 128 < fuel)
    (h : n ≠ 0 → localRange s a n) : rangeFault s fuel a n = none := by
  have hbase : localBase = 0x00FFFF0000000000 := rfl
  induction fuel generalizing a n with
  | zero => exact absurd hfuel (Nat.not_lt_zero _)
  | succ fuel ih =>
    by_cases hn : n = 0
    · rw [rangeFault, if_pos hn]
    · have hrange := h hn
      obtain ⟨hlo, hhi, hline⟩ := localRange_line hrange (a := a) (by omega) (by omega)
      rw [rangeFault, if_neg hn, if_pos (by simp only [hlo, hhi, hline, decide_true, Bool.and_self])]
      have hlimit : spadLimit = 0x180000 := rfl
      refine ih (by omega) fun hrest => ?_
      obtain ⟨-, hend, hlines⟩ := hrange
      refine ⟨by omega, by omega, fun j hj => ?_⟩
      have howner := hlines (128 - a % 128 + j) (by omega)
      rwa [show a - localBase + (128 - a % 128 + j) = a + (128 - a % 128) - localBase + j by omega] at howner

theorem rangeFault_outside {s : State} {fuel a n : Nat} (hn : n ≠ 0) (h : offLocal s a) :
    rangeFault s (fuel + 1) a n = some a := by
  rw [rangeFault, if_neg hn, not_local_of_offLocal h]
  rfl

section
variable {s : State} {i : Instr} {full : Bool} {a b : SSrc}

theorem fePlan_fault_misaligned (h : (readS s i 1 a).toNat % 16 ≠ 0 ∨ (readS s i 2 b).toNat % 16 ≠ 0) :
    (fePlan i full a b).fault s = some (memTrap MISALIGN .store (readS s i 1 a).toNat 16) := by
  simp only [fePlan, ne_eq, Bool.or_eq_true, decide_eq_true_eq]
  exact if_pos h

theorem fePlan_fault_aligned (ha : (readS s i 1 a).toNat % 16 = 0) (hb : (readS s i 2 b).toNat % 16 = 0) :
    (fePlan i full a b).fault s = (rangeFault s 12289 (readS s i 1 a).toNat (readS s i 2 b).toNat).map fun x =>
      memTrap LOCALRANGE .store x 16 := by
  simp only [fePlan, ha, hb, ne_eq, not_true_eq_false, decide_false, Bool.or_self, Bool.false_eq_true, if_false]

/-- Instruction i makes the granules of a range `full`. -/
def SetsRange (i : Instr) (full : Bool) (a b : SSrc) (s : State) : Prop :=
  let ea := (readS s i 1 a).toNat
  let len := (readS s i 2 b).toNat
  (ea % 16 ≠ 0 ∨ len % 16 ≠ 0 → Traps i s (memTrap MISALIGN .store ea 16)) ∧
  (ea % 16 = 0 → len = 0 → Acts i s s) ∧
  (ea % 16 = 0 → len % 16 = 0 → len ≠ 0 → offLocal s ea → Traps i s (memTrap LOCALRANGE .store ea 16)) ∧
  (ea % 16 = 0 → len % 16 = 0 → len ≠ 0 → localRange s ea len →
    Acts i s (s.putGranules s.issue.core ((ea - localBase) / 16) full (len / 16)))

theorem setsRange_of_plan (he : exec i s = .next ((fePlan i full a b).run s)) : SetsRange i full a b s := by
  refine ⟨fun h => traps_of _ he rfl rfl rfl rfl (fePlan_fault_misaligned h), fun ha hlen => ?_,
    fun ha hb hn hoff => ?_, fun ha hb hn hlocal => ?_⟩
  · refine acts_of _ he rfl rfl rfl rfl ((fePlan_fault_aligned ha (by rw [hlen])).trans ?_) rfl ?_
    · rw [hlen]; rfl
    · simp only [fePlan, hlen, Nat.zero_div, State.putGranules]
  · refine traps_of _ he rfl rfl rfl rfl ((fePlan_fault_aligned ha hb).trans ?_)
    rw [rangeFault_outside hn hoff]
    rfl
  · refine acts_of _ he rfl rfl rfl rfl ((fePlan_fault_aligned ha hb).trans ?_) rfl rfl
    have hbase : localBase = 0x00FFFF0000000000 := rfl
    have hlo := hlocal.1
    rw [rangeFault_none (by omega) fun _ => hlocal]
    rfl

end

/-- The two instructions, with what they make of the granules. -/
theorem setsRange_rows (s : State) (a b : SSrc) :
    ∀ r ∈ [(Instr.fecl a b, false), (Instr.feset a b, true)], SetsRange r.1 r.2 a b s := by
  simp only [List.forall_mem_cons]
  exact ⟨setsRange_of_plan rfl, setsRange_of_plan rfl, List.forall_mem_nil _⟩

/-! ## Lines (R221, R223) -/

theorem core_freeLine (s : State) (c line d : Nat) : (s.freeLine c line).core d = if d = c then
    { s.core c with owner := sset 0 (s.core c).owner line 0, fe := sset 0 (s.core c).fe line 0,
                    spad := (s.core c).spad.filter fun x => decide (x.1 / 128 ≠ line) } else s.core d :=
  State.core_modCore s c d fun x => { x with
    owner := sset 0 x.owner line 0, fe := sset 0 x.fe line 0, spad := x.spad.filter fun x => decide (x.1 / 128 ≠ line) }

theorem owner_freeLine (s : State) (c line d l : Nat) : sget 0 ((s.freeLine c line).core d).owner l =
    if d = c ∧ l = line then 0 else sget 0 (s.core d).owner l := by
  rw [core_freeLine]
  by_cases h : d = c
  · simp only [h, if_true, sget_sset, true_and]
  · simp only [h, if_false, false_and]

theorem spadByte_freeLine (s : State) (c line d o : Nat) : (s.freeLine c line).spadByte d o =
    if d = c ∧ o / 128 = line then 0 else s.spadByte d o := by
  rw [State.spadByte, core_freeLine]
  by_cases h : d = c
  · subst h
    simp only [if_true, true_and]
    rw [sget_filter (0 : Byte) (s.core d).spad (fun x => decide (x / 128 ≠ line)) o]
    by_cases hl : o / 128 = line
    · simp only [hl, ne_eq, not_true_eq_false, decide_false, Bool.false_eq_true, if_false, if_true]
    · simp only [hl, ne_eq, not_false_eq_true, decide_true, if_true, if_false]
      rfl
  · simp only [h, if_false, false_and]
    rfl

theorem owner_allocLine (s : State) (c line h d l : Nat) : sget 0 ((s.allocLine c line h).core d).owner l =
    if d = c ∧ l = line then h else sget 0 (s.core d).owner l := by
  rw [State.allocLine, State.core_modCore]
  by_cases hd : d = c
  · subst hd
    simp only [if_true, sget_sset, owner_freeLine, true_and]
    split <;> rfl
  · simp only [hd, if_false, false_and, owner_freeLine]

theorem spadByte_allocLine (s : State) (c line h d o : Nat) : (s.allocLine c line h).spadByte d o =
    if d = c ∧ o / 128 = line then 0 else s.spadByte d o := by
  rw [← spadByte_freeLine, State.allocLine, State.spadByte, State.core_modCore]
  split
  · next hd => rw [hd]; rfl
  · rfl

/-- Line after line is changed so that a reading becomes `v` at the places that belong to it. -/
theorem read_foldl_lines {α β : Type} (f : State → Nat → State) (read : State → β → α) (at_ : β → Nat → Prop)
    [∀ x l, Decidable (at_ x l)] (v : α) (h : ∀ s l x, read (f s l) x = if at_ x l then v else read s x) (ls : List Nat)
    (s : State) (x : β) : read (ls.foldl f s) x = if ∃ l ∈ ls, at_ x l then v else read s x := by
  induction ls generalizing s with
  | nil => simp
  | cons l ls ih =>
    rw [List.foldl_cons, ih, h]
    by_cases hl : at_ x l <;> simp [hl]

/-! ## spalloc and spfree (R221-R223) -/

/-- The lines of a range of the scratchpad. -/
def linesOf (off len : Nat) : List Nat := (List.range (len / 128)).map (· + off / 128)

section
variable {s : State} {off len : Nat}

theorem mem_linesOf (h : ¬ rangeBad off len) {l : Nat} : l ∈ linesOf off len ↔ off / 128 ≤ l ∧ l < (off + len) / 128 := by
  have hend : (off + len) / 128 = off / 128 + len / 128 := by unfold rangeBad at h; omega
  simp only [linesOf, List.mem_map, List.mem_range, hend]
  constructor
  · rintro ⟨k, hk, rfl⟩
    omega
  · exact fun hl => ⟨l - off / 128, by omega, by omega⟩

/-- The test of R221 for a line that another record holds. -/
theorem heldByOther_iff (s : State) (l : Nat) : (decide (sget 0 (s.core s.issue.core).owner l ≠ 0) &&
    decide (sget 0 (s.core s.issue.core).owner l ≠ holder s)) = true ↔ heldByOther s l := by
  simp only [Bool.and_eq_true, decide_eq_true_eq, heldByOther]

end

section
variable {s : State} {off len : Word}

theorem spadRange_bad (h : rangeBad off.toNat len.toNat) : spadRange s off len = .error 1 := by
  refine if_pos ?_
  rcases h with h | h | h | h
  · simp [h]
  · simp [h]
  · simp [BitVec.eq_of_toNat_eq (y := (0 : Word)) h]
  · simp [spadLimit, h]

/-- The first line of a range that another record holds. -/
def firstTaken (s : State) (off len : Nat) : Option Nat :=
  (linesOf off len).find? fun l => decide (sget 0 (s.core s.issue.core).owner l ≠ 0) &&
    decide (sget 0 (s.core s.issue.core).owner l ≠ holder s)

section
variable (h : ¬ rangeBad off.toNat len.toNat)
include h

/-- The four tests of a legal range all pass. -/
theorem spadRange_guard : (decide (off.toNat % 128 ≠ 0) || decide (len.toNat % 128 ≠ 0) || decide (len = 0) ||
    decide (spadLimit < off.toNat + len.toNat)) = false := by
  have hlen : len ≠ 0 := by rintro rfl; exact h (.inr (.inr (.inl rfl)))
  simp only [rangeBad, not_or, not_not, Nat.not_lt] at h
  obtain ⟨hoff, hlines, -, hend⟩ := h
  simp only [hoff, hlines, hlen, spadLimit, Nat.not_lt.2 hend, ne_eq, not_true_eq_false, decide_false, Bool.or_self]

theorem spadRange_of_firstTaken {l : Nat} (hl : firstTaken s off.toNat len.toNat = some l) :
    spadRange s off len = .error (nat64 (l * 128 * 2 ^ 32 + 2)) := by
  simp only [firstTaken, linesOf] at hl
  simp only [spadRange, spadRange_guard h, Bool.false_eq_true, if_false, hl, nat64]

theorem spadRange_of_noneTaken (hl : firstTaken s off.toNat len.toNat = none) :
    spadRange s off len = .ok (linesOf off.toNat len.toNat) := by
  simp only [firstTaken, linesOf] at hl
  simp only [spadRange, spadRange_guard h, Bool.false_eq_true, if_false, hl, linesOf]

end

theorem spadRange_taken (h : ¬ rangeBad off.toNat len.toNat) {l : Nat} (hlo : off.toNat / 128 ≤ l)
    (hhi : l < (off.toNat + len.toNat) / 128) (hheld : heldByOther s l)
    (hfirst : ∀ m, off.toNat / 128 ≤ m → m < l → ¬ heldByOther s m) :
    spadRange s off len = .error (nat64 (l * 128 * 2 ^ 32 + 2)) := by
  have hend : (off.toNat + len.toNat) / 128 = off.toNat / 128 + len.toNat / 128 := by unfold rangeBad at h; omega
  refine spadRange_of_firstTaken h ?_
  rw [firstTaken, linesOf, List.find?_map, List.find?_range_eq_some (i := l - off.toNat / 128) |>.2]
  · simp only [Option.map_some, Nat.sub_add_cancel hlo]
  · refine ⟨?_, List.mem_range.2 (by omega), fun j hj => ?_⟩
    · rw [Function.comp_apply, Nat.sub_add_cancel hlo]
      exact (heldByOther_iff s l).2 hheld
    · rw [Function.comp_apply, Bool.not_eq_true']
      exact Bool.eq_false_iff.2 fun hj' => hfirst _ (by omega) (by omega) ((heldByOther_iff s _).1 hj')

theorem spadRange_free (h : ¬ rangeBad off.toNat len.toNat)
    (hfree : ∀ l, off.toNat / 128 ≤ l → l < (off.toNat + len.toNat) / 128 → ¬ heldByOther s l) :
    spadRange s off len = .ok (linesOf off.toNat len.toNat) := by
  refine spadRange_of_noneTaken h (List.find?_eq_none.2 fun l hl hheld => ?_)
  obtain ⟨hlo, hhi⟩ := (mem_linesOf h).1 hl
  exact hfree l hlo hhi ((heldByOther_iff s l).1 hheld)

end

/-- Lines of a legal range are few enough for the 16 bits of the status word (R221). -/
theorem status_linesOf {off len : Nat} (h : ¬ rangeBad off len) (p : Nat → Bool) :
    BitVec.ofNat 64 (((linesOf off len).filter p).length % 2 ^ 16 * 2 ^ 16) =
      nat64 ((List.range (len / 128)).countP (fun k => p (off / 128 + k)) * 2 ^ 16) := by
  have hcount : ((linesOf off len).filter p).length = (List.range (len / 128)).countP fun k => p (off / 128 + k) := by
    rw [← List.countP_eq_length_filter, linesOf, List.countP_map]
    exact congrArg (List.countP · _) (funext fun k => congrArg p (Nat.add_comm _ _))
  have hle : (List.range (len / 128)).countP (fun k => p (off / 128 + k)) ≤ len / 128 := by
    simpa using List.countP_le_length (l := List.range (len / 128)) (p := fun k => p (off / 128 + k))
  rw [hcount, Nat.mod_eq_of_lt (by unfold rangeBad at h; omega)]
  rfl

section
variable {s : State} {d : SDst} {a b : SSrc} {i : Instr}

/-- Both instructions refuse the same ranges, with the same status. -/
def RefusesRange (i : Instr) (s : State) (d : SDst) (a b : SSrc) : Prop :=
  let off := (readS s i 1 a).toNat
  let len := (readS s i 2 b).toNat
  (rangeBad off len → Acts i s (giveS i d 1 0 s)) ∧
  (∀ l, ¬ rangeBad off len → off / 128 ≤ l → l < (off + len) / 128 → heldByOther s l →
    (∀ m, off / 128 ≤ m → m < l → ¬ heldByOther s m) → Acts i s (giveS i d (nat64 (l * 128 * 2 ^ 32 + 2)) 0 s))

theorem refusesRange_of_plan (p : Plan) (he : exec i s = .next (p.run s)) (hi : p.instr = i) (hb : p.bad s = none)
    (hp : p.priv s = none) (ht : p.tag s = none) (hf : p.fault s = none) (hw : p.wait s = none)
    (ha : ∀ e, spadRange s (readS s i 1 a) (readS s i 2 b) = .error e → p.act s = giveS i d e 0 s) :
    RefusesRange i s d a b :=
  ⟨fun h => acts_of p he hi hb hp ht hf hw (ha _ (spadRange_bad h)), fun _ h hlo hhi hheld hfirst =>
    acts_of p he hi hb hp ht hf hw (ha _ (spadRange_taken h hlo hhi hheld hfirst))⟩

theorem refusesRange_rows (s : State) (d : SDst) (a b : SSrc) :
    ∀ i ∈ [Instr.spalloc d a b, Instr.spfree d a b], RefusesRange i s d a b := by
  simp only [List.forall_mem_cons]
  refine ⟨refusesRange_of_plan (planSpalloc d a b) rfl rfl rfl rfl rfl rfl rfl fun e h => ?_,
    refusesRange_of_plan (planSpfree d a b) rfl rfl rfl rfl rfl rfl rfl fun e h => ?_, List.forall_mem_nil _⟩
  · simp only [planSpalloc, h]
  · simp only [planSpfree, h]

/-- The free lines of a range go to a holder. -/
def allocRange (s : State) (off len : Nat) : State :=
  ((linesOf off len).filter fun l => !(s.core s.issue.core).allocated l).foldl
    (fun t l => t.allocLine s.issue.core l (holder s)) s

/-- The lines of a range that are allocated are freed. -/
def freeRange (s : State) (off len : Nat) : State :=
  ((linesOf off len).filter fun l => (s.core s.issue.core).allocated l).foldl (fun t l => t.freeLine s.issue.core l) s

section
variable {off len : Word} (h : ¬ rangeBad off.toNat len.toNat)
  (hfree : ∀ l, off.toNat / 128 ≤ l → l < (off.toNat + len.toNat) / 128 → ¬ heldByOther s l)
include h hfree

theorem acts_spalloc (ho : readS s (.spalloc d a b) 1 a = off) (hl : readS s (.spalloc d a b) 2 b = len) :
    Acts (.spalloc d a b) s (giveS (.spalloc d a b) d (nat64 ((List.range (len.toNat / 128)).countP (fun k =>
      decide (sget 0 (s.core s.issue.core).owner (off.toNat / 128 + k) = 0)) * 2 ^ 16)) 0
      (allocRange s off.toNat len.toNat)) := by
  refine acts_of (planSpalloc d a b) rfl rfl rfl rfl rfl rfl rfl ?_
  have hstatus := status_linesOf h fun l => !(s.core s.issue.core).allocated l
  simp only [Core.allocated, ne_eq, decide_not, Bool.not_not] at hstatus
  simp only [planSpalloc, ho, hl, spadRange_free h hfree, allocRange, Core.allocated, ne_eq, decide_not, Bool.not_not, hstatus]

theorem acts_spfree (ho : readS s (.spfree d a b) 1 a = off) (hl : readS s (.spfree d a b) 2 b = len) :
    Acts (.spfree d a b) s (giveS (.spfree d a b) d (nat64 ((List.range (len.toNat / 128)).countP (fun k =>
      decide (sget 0 (s.core s.issue.core).owner (off.toNat / 128 + k) ≠ 0)) * 2 ^ 16)) 0
      (freeRange s off.toNat len.toNat)) := by
  refine acts_of (planSpfree d a b) rfl rfl rfl rfl rfl rfl rfl ?_
  have hstatus := status_linesOf h fun l => (s.core s.issue.core).allocated l
  simp only [Core.allocated] at hstatus
  simp only [planSpfree, ho, hl, spadRange_free h hfree, freeRange, Core.allocated, hstatus]

end

section
variable {off len : Nat} (h : ¬ rangeBad off len)
  (hfree : ∀ l, off / 128 ≤ l → l < (off + len) / 128 → ¬ heldByOther s l)
include h hfree

theorem owner_allocRange (c l : Nat) : sget 0 ((allocRange s off len).core c).owner l =
    if c = s.issue.core ∧ off / 128 ≤ l ∧ l < (off + len) / 128 then holder s else sget 0 (s.core c).owner l := by
  rw [allocRange, read_foldl_lines _ (fun t (x : Nat × Nat) => sget 0 (t.core x.1).owner x.2)
    (fun x l => x.1 = s.issue.core ∧ x.2 = l) (holder s) (fun t l x => owner_allocLine t _ _ _ _ _) _ s (c, l)]
  by_cases hin : c = s.issue.core ∧ off / 128 ≤ l ∧ l < (off + len) / 128
  · obtain ⟨rfl, hlo, hhi⟩ := hin
    rw [if_pos (c := _ ∧ _) ⟨rfl, hlo, hhi⟩]
    split
    · rfl
    · next hnone =>
      have hmem := (mem_linesOf h).2 ⟨hlo, hhi⟩
      have hheld : sget 0 (s.core s.issue.core).owner l ≠ 0 := fun hzero =>
        hnone ⟨l, List.mem_filter.2 ⟨hmem, by simp [Core.allocated, hzero]⟩, rfl, rfl⟩
      exact not_not.1 fun hother => hfree l hlo hhi ⟨hheld, hother⟩
  · rw [if_neg hin, if_neg]
    rintro ⟨m, hm, hc, hl⟩
    obtain ⟨hlo, hhi⟩ := (mem_linesOf h).1 (List.mem_filter.1 hm).1
    dsimp only at hc hl
    exact hin ⟨hc, by rw [hl]; exact ⟨hlo, hhi⟩⟩

end

section
variable {off len : Nat} (h : ¬ rangeBad off len)
include h

theorem spadByte_allocRange (c o : Nat) : (allocRange s off len).spadByte c o =
    if c = s.issue.core ∧ off ≤ o ∧ o < off + len ∧ sget 0 (s.core c).owner (o / 128) = 0 then 0 else s.spadByte c o := by
  rw [allocRange, read_foldl_lines _ (fun t (x : Nat × Nat) => t.spadByte x.1 x.2)
    (fun x l => x.1 = s.issue.core ∧ x.2 / 128 = l) 0 (fun t l x => spadByte_allocLine t _ _ _ _ _) _ s (c, o)]
  refine if_congr ?_ rfl rfl
  have hbounds : off / 128 ≤ o / 128 ∧ o / 128 < (off + len) / 128 ↔ off ≤ o ∧ o < off + len := by
    unfold rangeBad at h; omega
  simp only [List.mem_filter, mem_linesOf h, Core.allocated, ne_eq, decide_not, Bool.not_not, decide_eq_true_eq]
  constructor
  · rintro ⟨l, ⟨hl, hzero⟩, hc, rfl⟩
    obtain ⟨hlo, hhi⟩ := hbounds.1 hl
    exact ⟨hc, hlo, hhi, by rw [hc]; exact hzero⟩
  · rintro ⟨hc, hlo, hhi, hzero⟩
    exact ⟨o / 128, ⟨hbounds.2 ⟨hlo, hhi⟩, by rwa [← hc]⟩, hc, rfl⟩

theorem owner_freeRange (c l : Nat) : sget 0 ((freeRange s off len).core c).owner l =
    if c = s.issue.core ∧ off / 128 ≤ l ∧ l < (off + len) / 128 then 0 else sget 0 (s.core c).owner l := by
  rw [freeRange, read_foldl_lines _ (fun t (x : Nat × Nat) => sget 0 (t.core x.1).owner x.2)
    (fun x l => x.1 = s.issue.core ∧ x.2 = l) 0 (fun t l x => owner_freeLine t _ _ _ _) _ s (c, l)]
  by_cases hin : c = s.issue.core ∧ off / 128 ≤ l ∧ l < (off + len) / 128
  · obtain ⟨rfl, hlo, hhi⟩ := hin
    rw [if_pos (c := _ ∧ _) ⟨rfl, hlo, hhi⟩]
    split
    · rfl
    · next hnone =>
      have hmem := (mem_linesOf h).2 ⟨hlo, hhi⟩
      exact not_not.1 fun hheld => hnone ⟨l, List.mem_filter.2 ⟨hmem, decide_eq_true hheld⟩, rfl, rfl⟩
  · rw [if_neg hin, if_neg]
    rintro ⟨m, hm, hc, hl⟩
    obtain ⟨hlo, hhi⟩ := (mem_linesOf h).1 (List.mem_filter.1 hm).1
    dsimp only at hc hl
    exact hin ⟨hc, by rw [hl]; exact ⟨hlo, hhi⟩⟩

end

end

end Sys2Proof.Machine

namespace Sys2Proof
open Sys2Proof.Machine Sys2Proof.Claims

/-- Settles O20: ranges of granules by `setsRange_rows`, ranges of lines by the folds of `allocLine` and `freeLine`. -/
theorem scratchpadLinesAndFullBits : Obligations.ScratchpadLinesAndFullBits := by
  unfold Obligations.ScratchpadLinesAndFullBits
  refine ⟨fun s a b r hr => ?_, fun s d a b => ⟨refusesRange_rows s d a b, fun h hfree => ?_, fun h hfree => ?_⟩⟩
  · obtain ⟨hmis, hnone, hoff, hset⟩ := setsRange_rows s a b r hr
    refine ⟨hmis, hnone, fun ha hb hn hout => hoff ha hb hn (hout.imp_right Or.inl), fun ha hb hn hlocal =>
      ⟨_, hset ha hb hn hlocal, setsBits_putGranules _ _ _ _ _, spadByte_putGranules _ _ _ _ _, mem_putGranules _ _ _ _ _⟩⟩
  · exact ⟨_, acts_spalloc h hfree rfl rfl, owner_allocRange h hfree, spadByte_allocRange h⟩
  · exact ⟨_, acts_spfree h hfree rfl rfl, owner_freeRange h⟩

end Sys2Proof
end

section
/-!
PROOFS. An s8 `mma` whose A descriptor starts below the local window, its first block used inside it (R243, R253): the
obligation on `mma` names another byte of A than the unit reads.
-/
namespace Sys2Proof
open Sys2Proof.Machine Sys2Proof.Claims

/-- A descriptor of s8 with K of two blocks, the second at the start of the local window and the first below it. -/
def descBelowWindow : ADesc := ⟨BitVec.ofNat 64 (localBase - 2048), 0, 33, 1, 0⟩

/-- An s8 operand of K 1, element 0 of column 0 being 1. -/
def tileOfOne : BTile := ⟨[(0, 1)], [], 1, 1, 0⟩

/-- An owner of the matrix unit whose s1 is a control word of KOFS 1. -/
def slotAtBlockOne : Slot := { idleSlot with matrix := true, regs := { idleSlot.regs with s := [(1, 16)] } }

/-- That slot in core 0, issuing a pair whose checks are made: tile 0 holds s32 zeros, the lines of the first 2 KiB of the
scratchpad are allocated, and its first byte is 1. -/
def stateBelowWindow : State :=
  { State.reset with
    issue := { Issue.none with checked := true }
    cores := [(0, { Core.reset with
      slots := [(0, some slotAtBlockOne)], adesc := [(0, some descBelowWindow)], cur := some tileOfOne, tileTags := [(0, 5)],
      matIdle := false, spad := [(0, 1)], owner := (List.range 16).map fun l => (l, 1) })] }

/-- The block of A that KOFS 1 names is all in the local window. -/
theorem mmaFault_stateBelowWindow : mmaFault (.mma 0 (.s 1) 0) 0 16 stateBelowWindow = none := by decide +kernel

/-- The unit reads that block where it stands, from the scratchpad's first byte: 1 × 1 onto 0. -/
theorem mmaElem_stateBelowWindow :
    mmaElem (mmaOperands (coreOf stateBelowWindow) descBelowWindow tileOfOne 1) 1 0 0 0 = (1, 0) := by decide +kernel

/-- The difference of the descriptor's address and the window's base is cut to 0 before KOFS is added: `s8A` reads byte
2,048 of the scratchpad, which is 0. -/
theorem s8A_stateBelowWindow : s8A stateBelowWindow descBelowWindow 1 0 0 = 0 := by decide +kernel

/-- Refutes O38: it takes every descriptor, also one that starts below the local window while KOFS leads into it (`mlda` binds
none such, R246). In `stateBelowWindow` its clause on every format makes element (0, 0) the 1 that the unit computes, and its
clause on s8, which names the bytes of A by `s8A`, makes it 0. -/
theorem not_mmaAccumulatesOntoTheTile : ¬ Obligations.MmaAccumulatesOntoTheTile := by
  unfold Obligations.MmaAccumulatesOntoTheTile
  intro h
  obtain ⟨-, -, hplaced⟩ := h stateBelowWindow 0 (.s 1) 0 ⟨slotAtBlockOne, rfl, rfl⟩
  obtain ⟨-, -, -, -, hpasses⟩ := hplaced descBelowWindow tileOfOne (by decide) rfl rfl
  obtain ⟨u, -, -, -, -, -, ⟨helem, -, -⟩, -, -, -, hs8⟩ :=
    (hpasses rfl (by decide) mmaFault_stateBelowWindow).2 rfl (by decide)
  have hone : (coreOf u).tileElem 0 0 0 = 1 :=
    (helem 0 (by decide) 0 (by decide)).trans (congrArg Prod.fst mmaElem_stateBelowWindow)
  have hsum : clampS32 (0 + ((List.range 1).map fun k =>
      s8A stateBelowWindow descBelowWindow 1 0 k * s8B tileOfOne 0 k).sum) = 0 := by
    simp [s8A_stateBelowWindow, clampS32]
  have hzero : ((coreOf u).tileElem 0 0 0).toInt = 0 :=
    (hs8 rfl (by decide) (by decide) (by decide) (by decide) (by decide) 0 (by decide) 0 (by decide)).trans hsum
  rw [hone] at hzero
  exact absurd hzero (by decide)

end Sys2Proof
end

section
/-!
PROOFS. An exact trap (R274): what its continuation has sent to a proxy is carried out, its owed results are written, and
what it is saved by and recorded under stays as it was meanwhile.
-/
namespace Sys2Proof.Machine
open Sys2Proof Sys2Proof.Claims

/-! ## What a slot keeps while its atomics are carried out and its results written -/

/-- A slot without what those steps may change: its registers, FLAGS, results owed, poison, TOUCHED, quantum batch and held
failures. -/
def Slot.standing (sl : Slot) : Slot :=
  { sl with regs := ⟨[], [], [], VReg.zero, VReg.zero⟩, csrs := { sl.csrs with flags := 0 }, pending := [], poisoned := [],
            touched := 0, quantum := [], qcount := 0, failedNr := false, failedNor := false }

theorem standing_drain (n : Nat) (sl : Slot) : (sl.drain n).standing = sl.standing := by
  obtain ⟨regs, fl, po, h⟩ := drain_frame n sl
  rw [h]
  rfl

theorem pending_drain (n : Nat) (sl : Slot) : (sl.drain n).pending = [] := rfl

/-- Every slot of `t` holds what it holds in `s`, but for what `Slot.standing` leaves out. -/
def SlotsStand (s t : State) : Prop := ∀ c k, (t.slot c k).map Slot.standing = (s.slot c k).map Slot.standing

theorem SlotsStand.of_slots {s t : State} (h : ∀ c k, t.slot c k = s.slot c k) : SlotsStand s t :=
  fun c k => congrArg _ (h c k)

theorem SlotsStand.refl (s : State) : SlotsStand s s := .of_slots fun _ _ => rfl

theorem SlotsStand.trans {s t u : State} (h : SlotsStand s t) (h' : SlotsStand t u) : SlotsStand s u :=
  fun c k => (h' c k).trans (h c k)

theorem SlotsStand.foldl {α : Type} {f : State → α → State} (hf : ∀ s a, SlotsStand s (f s a)) (l : List α) (s : State) :
    SlotsStand s (l.foldl f s) :=
  List.foldlRecOn l f (SlotsStand.refl s) fun t ht a _ => ht.trans (hf t a)

/-- The slot that a standing slot has become. -/
theorem SlotsStand.slot {s t : State} (h : SlotsStand s t) {c k : Nat} {sl : Slot} (hsl : s.slot c k = some sl) :
    ∃ x, t.slot c k = some x ∧ x.standing = sl.standing :=
  Option.map_eq_some_iff.1 ((h c k).trans (congrArg _ hsl))

theorem slotsStand_modSlot (s : State) (c k : Nat) {f : Slot → Slot} (hf : ∀ sl, (f sl).standing = sl.standing) :
    SlotsStand s (s.modSlot c k f) := fun d j => by
  rw [State.slot_modSlot]
  split
  · rw [Option.map_map]
    exact congrArg (Option.map · (s.slot d j)) (funext hf)
  · rfl

theorem slotsStand_onRecord (s : State) (c ctx idx : Nat) {f : Slot → Slot} (hf : ∀ sl, (f sl).standing = sl.standing) :
    SlotsStand s (s.onRecord c ctx idx f) := fun d j => by
  have hmap : (s.onRecord c ctx idx f).slot d j =
      (s.slot d j).map fun sl => if d = c && sl.ctx = ctx && sl.idx = idx then f sl else sl :=
    State.slot_mapSlots s (fun d _ sl => if d = c && sl.ctx = ctx && sl.idx = idx then f sl else sl) d j
  rw [hmap, Option.map_map]
  refine congrArg (Option.map · (s.slot d j)) (funext fun sl => ?_)
  dsimp only [Function.comp_apply]
  split
  · exact hf sl
  · rfl

/-! ## The traces of an access, and an atomic at its place -/

theorem slot_of_cores {s t : State} (h : t.cores = s.cores) (c k : Nat) : t.slot c k = s.slot c k := by
  simp only [State.slot, State.core, h]

theorem slot_wake (s : State) (p : Nat → Bool) (c k : Nat) : (s.wake p).slot c k = s.slot c k := by
  unfold State.wake
  dsimp only
  split
  · rfl
  · refine List.foldlRecOn (motive := fun t : State => t.slot c k = s.slot c k) _ _ rfl fun t ht a _ => ?_
    split
    · exact (slot_modCore_of_slots (f := fun x => { x with gated := false }) rfl c k).trans ht
    · exact ht

theorem slot_homeAccept (s : State) (a pa : Nat) (h : HomeKind) (c k : Nat) :
    (s.homeAccept a pa h).slot c k = s.slot c k :=
  homeAccept_keeps (P := fun t => t.slot c k = s.slot c k) (fun t p ht => (slot_wake t p c k).trans ht) (fun _ _ _ ht => ht)
    (fun t l p ht => (slot_of_cores (cores_mergeBufs t l p) c k).trans ht) (fun _ _ ht => ht) rfl a pa h

theorem slotsStand_effectsAt (s : State) (c : Nat) (h : HomeKind) (p : Place) : SlotsStand s (s.effectsAt c h p) := by
  cases p with
  | mem pa mt key =>
    refine SlotsStand.trans (t := if mt = 0 then s.homeAccept c pa h else s) ?_ (slotsStand_modSlot _ _ _ fun _ => rfl)
    split
    · exact .of_slots (slot_homeAccept s c pa h)
    · exact .refl s
  | spad x off => exact slotsStand_modSlot _ _ _ fun _ => rfl
  | scope o pa => exact slotsStand_modSlot _ _ _ fun _ => rfl
  | event cl off => exact .refl s
  | coreWin x off => exact .refl s
  | table i off => exact .refl s

theorem slot_rmwPlace (s : State) (p : Place) (w : Nat) (op : RmwOp) (v : Nat) (sp : Bool) (c k : Nat) :
    (s.rmwPlace p w op v sp).1.slot c k = s.slot c k := by
  unfold State.rmwPlace
  dsimp only
  split
  · rfl
  cases p with
  | spad d off =>
    exact slot_modCore_of_slots (s := s) (c := d) (f := fun x => { x with spad := putBytes x.spad off _ (w / 8) }) rfl c k
  | mem pa mt key =>
    refine slot_of_cores ?_ c k
    have hcores := cores_writePa s pa (w / 8) (rmw op w (s.readPlace (.mem pa mt key) (w / 8)) (v % 2 ^ w)).1 key
    dsimp only
    split <;> split <;> exact hcores
  | scope o pa => rfl
  | event cl off => rfl
  | coreWin d off => rfl
  | table i off => rfl

/-! ## A request at its proxy (R370, R371) -/

theorem standing_holdFailure (nor : Bool) (sl : Slot) : (sl.holdFailure nor).standing = sl.standing := by
  cases nor <;> rfl

theorem slotsStand_perform (s : State) (q : ProxyReq) (p : Place) : SlotsStand s (s.perform q p) := by
  unfold State.perform
  split
  · split
    · exact slotsStand_onRecord _ _ _ _ fun _ => rfl
    · exact slotsStand_onRecord _ _ _ _ (standing_holdFailure _)
  · have hrmw := SlotsStand.of_slots (slot_rmwPlace s p q.w q.op q.v (q.spurious.getD false))
    dsimp only
    split
    · exact hrmw
    · exact hrmw.trans (slotsStand_onRecord _ _ _ _ fun _ => rfl)

theorem slotsStand_carryOut (s : State) (q : ProxyReq) : SlotsStand s (s.carryOut q) := by
  unfold State.carryOut
  split
  · split
    · exact slotsStand_onRecord _ _ _ _ fun _ => rfl
    · exact slotsStand_onRecord _ _ _ _ (standing_holdFailure _)
  · exact slotsStand_perform s q _

theorem slotsStand_send (s : State) (q : ProxyReq) (p : Place) : SlotsStand s (s.send q p) := by
  unfold State.send
  split
  · exact .of_slots fun _ _ => rfl
  · exact slotsStand_perform s q p

theorem slotsStand_acceptReqs (s : State) (ctx idx : Nat) (nor : Bool) : SlotsStand s (s.acceptReqs ctx idx nor) := by
  unfold State.acceptReqs
  split
  · exact .refl s
  · exact SlotsStand.trans (.of_slots fun _ _ => rfl) (SlotsStand.foldl slotsStand_carryOut _ _)

theorem slotsStand_asSlot (s : State) (c k : Nat) {f : State → State} (hf : ∀ t, SlotsStand t (f t)) :
    SlotsStand s (s.asSlot c k f) :=
  hf { s with issue := { s.issue with core := c, slot := k } }

theorem slotsStand_flushQuantum (s : State) (c k : Nat) : SlotsStand s (s.flushQuantum c k) := by
  unfold State.flushQuantum
  split
  · exact .refl s
  · refine SlotsStand.trans ?_ (slotsStand_modSlot _ _ _ fun _ => rfl)
    refine slotsStand_asSlot s c k fun t => SlotsStand.foldl (fun u q => ?_) _ t
    exact (slotsStand_effectsAt u c .atomic q.place).trans (slotsStand_send _ _ _)

theorem slotsStand_settleSlot (s : State) (c k : Nat) : SlotsStand s (s.settleSlot c k) := by
  unfold State.settleSlot
  dsimp only
  split
  · exact (slotsStand_flushQuantum s c k).trans (slotsStand_acceptReqs _ _ _ _)
  · exact slotsStand_flushQuantum s c k

/-- R274, step 1: after it the slot owes nothing, and is otherwise the one that trapped. -/
theorem slot_settled {s : State} {c k : Nat} {sl : Slot} (hsl : s.slot c k = some sl) (now : Nat) :
    ∃ x, ((s.settleSlot c k).modSlot c k (Slot.drain now)).slot c k = some x ∧ x.pending = [] ∧
      x.standing = sl.standing := by
  obtain ⟨y, hy, hstand⟩ := (slotsStand_settleSlot s c k).slot hsl
  refine ⟨y.drain now, ?_, pending_drain now y, (standing_drain now y).trans hstand⟩
  rw [State.slot_modSlot, if_pos ⟨rfl, rfl⟩, hy]
  rfl

/-! ## The frame header -/

/-- A number with some of its bits replaced: those above, the new ones, those below. -/
theorem putBits_eq (x hi lo v : Nat) : putBits x hi lo v =
    2 ^ lo * (2 ^ (hi + 1 - lo) * (x / 2 ^ lo / 2 ^ (hi + 1 - lo)) + v % 2 ^ (hi + 1 - lo)) + x % 2 ^ lo := by
  have hlow := Nat.div_add_mod x (2 ^ lo)
  have hmid := Nat.div_add_mod (x / 2 ^ lo) (2 ^ (hi + 1 - lo))
  have hx : x = 2 ^ lo * (2 ^ (hi + 1 - lo) * (x / 2 ^ lo / 2 ^ (hi + 1 - lo))) + x % 2 ^ lo + bits x hi lo * 2 ^ lo := by
    conv_lhs => rw [← hlow, ← hmid]
    rw [bits]
    ring
  rw [putBits, Nat.sub_eq_of_eq_add hx]
  ring

theorem putBits_div (x hi lo v : Nat) : putBits x hi lo v / 2 ^ lo =
    2 ^ (hi + 1 - lo) * (x / 2 ^ lo / 2 ^ (hi + 1 - lo)) + v % 2 ^ (hi + 1 - lo) := by
  rw [putBits_eq, Nat.mul_add_div (by positivity), Nat.div_eq_of_lt (Nat.mod_lt _ (by positivity)), Nat.add_zero]

theorem bits_putBits (x hi lo v : Nat) : bits (putBits x hi lo v) hi lo = v % 2 ^ (hi + 1 - lo) := by
  rw [bits, putBits_div, Nat.mul_add_mod, Nat.mod_mod]

/-- Bits above the ones that are replaced. -/
theorem bits_putBits_above {hi lo lo' : Nat} (h : lo ≤ hi + 1) (h' : hi < lo') (x v hi' : Nat) :
    bits (putBits x hi lo v) hi' lo' = bits x hi' lo' := by
  have hpow : 2 ^ lo' = 2 ^ lo * 2 ^ (hi + 1 - lo) * 2 ^ (lo' - (hi + 1)) := by
    rw [← pow_add, ← pow_add]
    congr 1
    omega
  have hdiv : putBits x hi lo v / 2 ^ lo / 2 ^ (hi + 1 - lo) = x / 2 ^ lo / 2 ^ (hi + 1 - lo) := by
    rw [putBits_div, Nat.mul_add_div (by positivity), Nat.div_eq_of_lt (Nat.mod_lt _ (by positivity)), Nat.add_zero]
  simp only [bits, hpow, ← Nat.div_div_eq_div_mul, hdiv]

/-- The frame header that an exact trap leaves, with CORE and PHASE0 in place (R274, Table Continuation-4). -/
def trapFrame (hdr c : Nat) (phase0 : Half) : Nat := putBits (putBits hdr 79 64 c) 63 32 phase0.toNat

theorem phase0_trapFrame (hdr c : Nat) (phase0 : Half) : bits (trapFrame hdr c phase0) 63 32 = phase0.toNat :=
  (bits_putBits _ _ _ _).trans (Nat.mod_eq_of_lt phase0.isLt)

theorem core_trapFrame (hdr c : Nat) (phase0 : Half) : bits (trapFrame hdr c phase0) 79 64 = c % 2 ^ 16 :=
  (bits_putBits_above (by decide) (by decide) _ _ _).trans (bits_putBits _ _ _ _)

/-! ## The trap of one continuation -/

theorem takeTrap_of_single {s : State} {c k : Nat} {sl : Slot} (hsl : s.slot c k = some sl) (hg : sl.gangInfo = none)
    (t : Trap) (aslot after : Bool) (pc npc : Nat) :
    s.takeTrap c k t aslot after pc npc = s.trapSlot c k t aslot after pc npc := by
  simp only [State.takeTrap, hsl, hg]

/-- R274, steps 2 to 4, for a slot that has settled to `x`, in no gang and without a matrix unit, when its save succeeds. -/
theorem trapSlot_of_saved {s s1 : State} {c k : Nat} {sl x : Slot} {t : Trap} {aslot after : Bool} {pc npc : Nat}
    (hsl : s.slot c k = some sl) (hg : x.gangInfo = none) (hm : x.matrix = false) :
    let s' := (s.settleSlot c k).modSlot c k (Slot.drain s.now)
    let sd := { x with quantum := [], qcount := 0 }
    let s0 := s'.unregister x.ctx x.idx
    let p := s'.trapPoint sd aslot after pc npc
    s'.slot c k = some x →
    s0.saveContainer x.ctx x.idx 1 1 x.recVa.toNat (s0.trapFields 0 c sd p false) p.live = .ok s1 →
    let s2 := ((s1.leaveRecord c k sd 5 0 p.vpc).keepHidden ⟨x.ctx, x.idx⟩ [(c, k)] p.live).spillHidden sd p.live
    let s3 := s2.putFrame x.ctx x.idx x.frame.toNat (trapFrame (s2.frameHdr x.ctx x.frame.toNat) c x.phase0)
    s.trapSlot c k t aslot after pc npc =
      ((s3.appendTrap (dieOf c) t.fatal
        (trapRecord t aslot x.virt.isSome false 0 k c x.recVa.toNat p.vpc (t.npc sd p) p.rmap
          (s3.slotLtime sd))).markFatal ⟨x.ctx, x.idx⟩ t.fatal).freeSlot c k := by
  intro s' sd s0 p hx hsave
  unfold State.trapSlot
  rw [hsl]
  dsimp -zeta only
  extract_lets s2 s3 y slot point gone flushed gang
  have hy : y = x := congrArg (Option.getD · sl) hx
  clear_value y
  subst hy
  have hmatrix : slot.matrix = false := hm
  have hgang : gang = none := hg
  have hflushed : flushed = s0 := if_neg (by rw [hmatrix]; decide)
  rw [hmatrix, hgang, hflushed]
  have hsaved : s0.saveContainer slot.ctx slot.idx 1 1 slot.recVa.toNat (s0.trapFields 0 c slot point false) point.live =
      .ok s1 := hsave
  rw [hsaved]
  rfl

end Sys2Proof.Machine

namespace Sys2Proof
open Sys2Proof.Machine Sys2Proof.Claims

/-- Settles O10: the slot settles to `x` by `slot_settled`, and `trapSlot_of_saved` gives the steps that follow. -/
theorem exactTrapFollowsItsSteps : Obligations.ExactTrapFollowsItsSteps := by
  unfold Obligations.ExactTrapFollowsItsSteps
  intro s s1 c k sl t aslot after pc npc hsl hgang hmat s'
  obtain ⟨x, hx, hpending, hstand⟩ := slot_settled hsl s.now
  have hctx : x.ctx = sl.ctx := (congrArg Slot.ctx hstand :)
  have hidx : x.idx = sl.idx := (congrArg Slot.idx hstand :)
  have hvirt : x.virt = sl.virt := (congrArg Slot.virt hstand :)
  have hg : x.gangInfo = none := (congrArg Slot.gangInfo hstand).trans hgang
  have hm : x.matrix = false := (congrArg Slot.matrix hstand).trans hmat
  have hrec : x.recVa = sl.recVa := (congrArg Slot.recVa hstand :)
  have hframe : x.frame = sl.frame := (congrArg Slot.frame hstand :)
  have hphase : x.phase0 = sl.phase0 := (congrArg Slot.phase0 hstand :)
  refine ⟨x, hx, hpending, hctx, hidx, hvirt, hg, hm, hrec, hframe, hphase, ?_⟩
  rw [← hctx, ← hidx, ← hvirt, ← hrec, ← hframe, ← hphase]
  intro sd s0 p hsave s2
  refine ⟨trapFrame (s2.frameHdr x.ctx x.frame.toNat) c x.phase0, phase0_trapFrame _ _ _, core_trapFrame _ _ _, ?_⟩
  exact (takeTrap_of_single hsl hgang t aslot after pc npc).trans (trapSlot_of_saved hsl hg hm hx hsave)

end Sys2Proof
end
